-- ==== Sys2Proof/Word.lean ====
section
/-!
DEFINITION. The words of the Zhevhar and the index types of its units. A multi-byte field of a command word,
descriptor or register is little-endian (R5); bit 0 is the least significant bit (R4).
-/
namespace Sys2Proof

abbrev Byte := BitVec 8
abbrev Word32 := BitVec 32
abbrev Word64 := BitVec 64
abbrev Word128 := BitVec 128
/-- Bits 127:8 of a command word: the word without its opcode, which the command's own name gives (R6, R52). -/
abbrev W120 := BitVec 120
/-- One Minyx command entry of 64 B (R314). -/
abbrev Entry := BitVec 512

/-- A physical spindle `68 t + s` (R351, Table 15.12). -/
abbrev Spd := Fin 272
abbrev TileId := Fin 4
/-- A channel: 0 to 255 HBM, 256 to 383 deep tier (Table 17.6). -/
abbrev Chan := Fin 384
abbrev CtxId := Fin 16
/-- A ring: 0 administration, `1 + c` the ring of context `c` (Table 17.1). -/
abbrev RingId := Fin 17
/-- A PCIe function: 0 the physical function, 1 to 16 the virtual functions (R308). -/
abbrev FnId := Fin 17
abbrev PortId := Fin 8

end Sys2Proof
end

