-- ==== Sys2Proof/Syntax.lean ====
section
/-!
DEFINITION. The commands of the module: one constructor for each row of the manual's table of operations and
events, and the plain data their operands carry.
-/
namespace Sys2Proof

/-- The five engines of a spindle (Table 3.1). -/
inductive Engine where
  | matrix | vector | load | store | gouge
deriving DecidableEq, Repr

/-- Who makes a register, cell or debug access (Table 1.7). -/
inductive Initiator where
  | headstock | jtag
  /-- the host through BAR0 of PCIe function `fn` -/
  | host (fn : FnId)
  | engine | kerf
deriving DecidableEq, Repr

/-- Who waits on a cell: a sequencer, a stream lane, or the hub for a CELL_NOTIFY vector (R275, R312). -/
inductive Waiter where
  | spindle (p : Spd)
  | lane (c : CtxId) (l : Fin 4)
  | notify (fn : FnId) (vec : Fin 64)
deriving DecidableEq, Repr

/-- A received Ethernet frame that carries a Kerf packet: the port and path it came on, the hop limit and the
IP and UDP facts of R282, and the bytes of the packet from its header to its CRC. -/
structure Frame where
  port : PortId
  hopLimit : BitVec 8
  flow : BitVec 20
  /-- Next Header is UDP and no extension header is present -/
  udp : Bool
  /-- the IPv6 source: the sender's device address plus its port -/
  src : Word128
  /-- the IPv6 destination -/
  dst : Word128
  srcPort : BitVec 16
  dstPort : BitVec 16
  bytes : List Byte
deriving DecidableEq, Repr

/-- One blank's activity on a spindle within 4 µs (Table 18.3, R336). -/
structure Work where
  spd : Spd
  /-- which start of the spindle: its blank -/
  serial : Nat
  /-- the activity belongs to a stolen N tile: the victim, and its blank -/
  stolen : Option (Spd × Nat)
  /-- part of the interval's island cycles in which the spindle was busy with the blank -/
  busy : Rat
  /-- `x_3` to `x_12`, each a rational quantity of Table 18.3 before the factor V² -/
  x : List Rat
deriving DecidableEq, Repr

/-- Activity of 4 µs, as the estimator counts it (Table 18.3). -/
structure Activity where
  /-- mean spindle rail voltage over the interval, in volts -/
  volts : Rat
  work : List Work
  /-- `x_3` to `x_12` of what has no context, such as scrub and refresh (R336) -/
  device : List Rat
deriving DecidableEq, Repr

/-- Busy cycles of one spindle with one blank in a 100 µs interval, and the slots it retired (R332, R333). -/
structure BusyShare where
  spd : Spd
  /-- which start of the spindle: its blank -/
  serial : Nat
  cycles : Nat
  retired : Nat
deriving DecidableEq, Repr

/-- What a channel controller finds in a line as it serves a request or a scrub read (R237): physical facts. -/
inductive LineFinding where
  | clean | correctable | uncorrectable
  /-- deep tier: the link ECC corrected; a repeat succeeded; the third attempt failed -/
  | linkCorrected | linkRetried | linkFailed
deriving DecidableEq, Repr

/-- The SRAM array in which an uncorrectable word is found (Table 20.1). -/
inductive SramArray where
  | scratchpad | bowl | handleTable | instructionBuffer | engineQueues | sequencerState | localFlags | stagingBuffer
  | dieCache | cellStore | tileRouter | tileWcBuffer
  | rackEntries | streamCache | headstockMemory | hubOther
deriving DecidableEq, Repr

/-- Class 0x0D's info (Table 20.7), with the links told apart. -/
inductive TileFaultCause where
  | sram | tileLink | hubLink
deriving DecidableEq, Repr

/-- Class 0x0E's info (Table 20.7). -/
inductive HubLossCause where
  | watchdog | hubSram | thermtrip | islandHandshake
deriving DecidableEq, Repr

/-- What the world decides at a boot: channels that fail training, spares found failing, and the PCIe link (R247, R308, R404). -/
structure BootInputs where
  failTraining : List Chan
  failSpares : List Spd
  /-- PCIe link as trained: lanes and GT/s (R308) -/
  width : Nat
  speed : Nat
deriving DecidableEq, Repr

/-- JTAG instructions (R397): the four of IEEE 1149.1 named there, and the accesses that the others make. -/
inductive JtagInstr where
  | bypass | idcode | samplePreload | extest
  | read (addr : Word64) (size : Nat)
  | write (addr : Word64) (size : Nat) (val : Word64)
deriving DecidableEq, Repr

/-- The commands. `w` is bits 127:8 of a word the sequencer of physical spindle `p` issues; `r` and `e` are a ring and
the Minyx entry the headstock starts; `f` is a received frame. -/
inductive Instr where
  /-- R51: A blank moves into the current chuck slot and the sequencer sets its program counter, s1, the other scalar registers and the local flags. -/
  | blankStart (p : Spd)
  /-- R51: A 128 B code line returns into the instruction buffer; a fault on a confirmed word, or a confirmed word outside the code range, ends the blank. -/
  | codeFetch (p : Spd) (line : BitVec 48)
  /-- R52: A word with a reserved opcode is refused with INVALID_FIELD and the blank ends. -/
  | reservedOpcode (p : Spd) (w : Word128)
  /-- R52: A NOP sequencer word issues and has no effect. -/
  | nop (p : Spd) (w : W120)
  /-- R402: ADD writes the wrapping 64-bit sum of sa and sb to sd. -/
  | add (p : Spd) (w : W120)
  /-- R402: SUB writes the wrapping 64-bit difference of sa and sb to sd. -/
  | sub (p : Spd) (w : W120)
  /-- R402: AND writes the bitwise AND of sa and sb to sd. -/
  | and (p : Spd) (w : W120)
  /-- R402: OR writes the bitwise OR of sa and sb to sd. -/
  | or (p : Spd) (w : W120)
  /-- R402: XOR writes the bitwise XOR of sa and sb to sd. -/
  | xor (p : Spd) (w : W120)
  /-- R402: SHL shifts sa left by sb mod 64 into sd. -/
  | shl (p : Spd) (w : W120)
  /-- R402: SHR shifts sa right by sb mod 64, filling with zeros, into sd. -/
  | shr (p : Spd) (w : W120)
  /-- R402: SRA shifts sa right by sb mod 64, filling with bit 63, into sd. -/
  | sra (p : Spd) (w : W120)
  /-- R402: MUL writes the low 64 bits of sa times sb to sd. -/
  | mul (p : Spd) (w : W120)
  /-- R402: MIN writes the signed minimum of sa and sb to sd. -/
  | min (p : Spd) (w : W120)
  /-- R402: MAX writes the signed maximum of sa and sb to sd. -/
  | max (p : Spd) (w : W120)
  /-- R402: SLT writes 1 to sd if sa is less than sb as signed integers, and 0 otherwise. -/
  | slt (p : Spd) (w : W120)
  /-- R401: LI loads the 64-bit immediate into sd. -/
  | li (p : Spd) (w : W120)
  /-- R401: SLD issues an 8 B scratchpad read into sd. -/
  | sld (p : Spd) (w : W120)
  /-- R401: The scratchpad data of an SLD returns 6 to 14 cycles after issue and is written to sd. -/
  | sldResult (p : Spd)
  /-- R401: SST writes sa as 8 B to scratchpad once confirmed. -/
  | sst (p : Spd) (w : W120)
  /-- R59: BR issues and the sequencer fetches along the hinted direction without waiting for the condition. -/
  | br (p : Spd) (w : W120)
  /-- R61: A BR's condition is evaluated, confirming it or finding it mispredicted. -/
  | brResolve (p : Spd) (k : Nat)
  /-- R66: An engine abandons a begun squashed command at its next stage boundary, returning its load credit and wait-flag consumption. -/
  | engineAbandon (p : Spd) (e : Engine) (cycles : Nat) (bytes : Nat)
  /-- R401: JMP branches unconditionally by a signed word offset. -/
  | jmp (p : Spd) (w : W120)
  /-- R401: LOOP decrements sd and branches by its offset if the result is non-zero. -/
  | loop (p : Spd) (w : W120)
  /-- R60: FENCE holds the sequencer until earlier commands of the named engines complete, and at memory scope until their writes are accepted. -/
  | fence (p : Spd) (w : W120)
  /-- R60: The conditions a FENCE waits for are met, with write outcomes known, and the sequencer resumes. -/
  | fenceComplete (p : Spd)
  /-- R57: FLAG performs a sequencer set or wait on a local flag. -/
  | flag (p : Spd) (w : W120)
  /-- R68: A confirmed RETIRE word issues and the sequencer issues nothing further. -/
  | retire (p : Spd) (w : W120)
  /-- R68: The blank retires once every command it issued has completed, no BR is unconfirmed and every flag set is applied. -/
  | blankRetire (p : Spd)
  /-- R55: An engine begins the command at its queue head once its wait flag, load credit and confirmation permit. -/
  | engineCmdBegin (p : Spd) (e : Engine)
  /-- R55: A command completes once every write it made is readable by later commands of the spindle. -/
  | engineCmdComplete (p : Spd) (e : Engine)
  /-- R70: A write of halt_req = 1 requests the sequencer to stop issue at the next word boundary. -/
  | haltReq (who : Initiator) (p : Spd)
  /-- R70: Older words complete and the sequencer halts, setting halted and stopping its wait polling. -/
  | sequencerHalt (p : Spd)
  /-- R70: A write of halt_req = 0 resumes issue, reissuing any stopped SWAIT. -/
  | haltResume (who : Initiator) (p : Spd)
  /-- R70: A write of debug_en enables or disables the spindle's debug window and SPD_SREG_n. -/
  | debugEn (who : Initiator) (p : Spd) (on : Bool)
  /-- R373: A write of spindle_reset = 1 starts a spindle reset. -/
  | spdSpindleReset (who : Initiator) (p : Spd)
  /-- R400: A write to a register with no behaviour of its own updates its RW and W1C fields under the access rules. -/
  | registerWrite (who : Initiator) (addr : Word64) (size : Nat) (val : Word64)
  /-- R76: A debug-window access reads or writes scratchpad or bowl of a spindle in debug mode. -/
  | debugAccess (who : Initiator) (addr : Word64) (size : Nat) (wr : Option Word64)
  /-- R83: MTILE validates a tile descriptor and runs it in the fixed N tile, K chunk, row order. -/
  | mtile (p : Spd) (w : W120)
  /-- R73: A weight tile finishes loading and the arrays switch to it once the last row of the current tile has entered. -/
  | weightTileLoad (p : Spd)
  /-- R84: The last column sum of an N tile enters and its bowl set drains through epilogue, top-k and conversion. -/
  | bowlDrain (p : Spd)
  /-- R91: The matrix engine consumes ready_flag and runs one level-0 visit of a nest extension, then sets free_flag. -/
  | nestVisit (p : Spd)
  /-- R38: VADD adds sources a and b element-wise. -/
  | vadd (p : Spd) (w : W120)
  /-- R38: VSUB subtracts source b from a element-wise. -/
  | vsub (p : Spd) (w : W120)
  /-- R38: VMUL multiplies sources a and b element-wise. -/
  | vmul (p : Spd) (w : W120)
  /-- R38: VFMA computes a times b plus c with one rounding. -/
  | vfma (p : Spd) (w : W120)
  /-- R38: VDIV divides a by b element-wise. -/
  | vdiv (p : Spd) (w : W120)
  /-- R38: VSQRT computes the square root of a element-wise. -/
  | vsqrt (p : Spd) (w : W120)
  /-- R38: VEXP2 computes 2 to the power a element-wise. -/
  | vexp2 (p : Spd) (w : W120)
  /-- R38: VLOG2 computes log2 of a element-wise. -/
  | vlog2 (p : Spd) (w : W120)
  /-- R38: VMIN computes the IEEE minimum of a and b. -/
  | vmin (p : Spd) (w : W120)
  /-- R38: VMAX computes the IEEE maximum of a and b. -/
  | vmax (p : Spd) (w : W120)
  /-- R41: VCVT converts source elements under the conversion control field. -/
  | vcvt (p : Spd) (w : W120)
  /-- R39: VROWSUM writes the fixed-tree FP32 sum of each row. -/
  | vrowsum (p : Spd) (w : W120)
  /-- R39: VROWMAX writes the maximum of each row. -/
  | vrowmax (p : Spd) (w : W120)
  /-- R39: VROWMIN writes the minimum of each row. -/
  | vrowmin (p : Spd) (w : W120)
  /-- R39: VROWARGMAX writes each row's maximum and its lowest position. -/
  | vrowargmax (p : Spd) (w : W120)
  /-- R97: A gathering-buffer entry idle for 16 cycles is written to its bank. -/
  | gatheringBufferFlush (p : Spd) (e : Engine) (sector : Nat)
  /-- R104: LD copies strided rows from device memory into scratchpad, optionally widening INT4. -/
  | ld (p : Spd) (w : W120)
  /-- R105: LDT walks a nest extension, loading level-1 tiles into the die cache and each visit's operands into scratchpad. -/
  | ldt (p : Spd) (w : W120)
  /-- R101: HALLOC makes a handle entry live with its pages, owners and prefetch attribute. -/
  | halloc (p : Spd) (w : W120)
  /-- R102: HFREE on the load engine sets a live handle owned by it to freeing. -/
  | hfreeLoad (p : Spd) (w : W120)
  /-- R102: HFREE on the store engine sets a live handle owned by it to freeing. -/
  | hfreeStore (p : Spd) (w : W120)
  /-- R102: A freeing handle becomes free once every earlier command naming its range has completed. -/
  | handleFreed (p : Spd) (h : Fin 64)
  /-- R228: KLOAD validates a segment header and restores a kept-activation segment into scratchpad. -/
  | kload (p : Spd) (w : W120)
  /-- R296: KGET reads bytes from a remote reference into local memory. -/
  | kget (p : Spd) (w : W120)
  /-- R106: ST converts scratchpad rows and writes them to device memory or the host window. -/
  | st (p : Spd) (w : W120)
  /-- R112: DCMAINT cleans, invalidates or discards reuse-partition lines of a range in the tile's die cache. -/
  | dcmaint (p : Spd) (w : W120)
  /-- R225: KSAVE encodes rows into a kept-activation segment, writing the header last. -/
  | ksave (p : Spd) (w : W120)
  /-- R253: RPUSH validates descriptors, reserves rack entries and writes an 8 B result. -/
  | rpush (p : Spd) (w : W120)
  /-- R296: KPUT writes local bytes to a remote reference, staging its last signalling packet. -/
  | kput (p : Spd) (w : W120)
  /-- R300: KCHAIN stages the arming of a chain reduction. -/
  | kchain (p : Spd) (w : W120)
  /-- R109: A missed line returns from memory and is allocated in the reuse or burl partition per its policy. -/
  | dieCacheFill (t : TileId)
  /-- R113: The repartition ends and busy clears. -/
  | dcRepartitionDone (t : TileId)
  /-- R122: GGATHER sizes indices, fetches unique rows and expands them into scratchpad with mask and counts. -/
  | ggather (p : Spd) (w : W120)
  /-- R115: The sizer completes the sort of a batch and stage two begins on it. -/
  | sizerBatchSorted (p : Spd)
  /-- R116: A row request returns and its data is expanded, or the command ends on a fault. -/
  | rowRequestReturn (p : Spd) (k : Nat)
  /-- R129: GSCATTER combines duplicate contributions and stages memory-side operations or settled records. -/
  | gscatter (p : Spd) (w : W120)
  /-- R135: GSETTLE applies combine-area records to home rows in rank and position order. -/
  | gsettle (p : Spd) (w : W120)
  /-- R128: GBURL waits for the unselected replica set's reader count to reach zero. -/
  | gburl (p : Spd) (w : W120)
  /-- R128: With the set drained, GBURL invalidates, copies home rows into it and stages the burl_sel write. -/
  | gburlRefresh (p : Spd)
  /-- R141: GHFREE frees a handle on behalf of the gouge engine. -/
  | ghfree (p : Spd) (w : W120)
  /-- R137: GEXDISP sorts choices, keeps up to cap tokens per expert and writes rows, counts and route records. -/
  | gexdisp (p : Spd) (w : W120)
  /-- R138: GEXRET sends expert output rows to each source rank's return buffer. -/
  | gexret (p : Spd) (w : W120)
  /-- R139: GEXCOMB forms each token's gated FP32 chain over its kept choices and writes the converted row. -/
  | gexcomb (p : Spd) (w : W120)
  /-- R147: GSAMPLE draws the neighbourhood tree into frontiers and path records. -/
  | gsample (p : Spd) (w : W120)
  /-- R154: GSBACK sums child gradient rows into parent rows along path records. -/
  | gsback (p : Spd) (w : W120)
  /-- R162: VSTAGE stages one flip per unique row of a versioned table. -/
  | vstage (p : Spd) (w : W120)
  /-- R162: After the slot write is accepted, the row tag is stored with the new epoch and sel. -/
  | rowTagStore (k : Nat)
  /-- R163: VADVANCE checks the target epoch, hold_lost and pins, then waits for the reader count. -/
  | vadvance (p : Spd) (w : W120)
  /-- R163: With readers drained, the table epoch is stored, descriptor lines invalidated and the hold list walked. -/
  | vadvancePublish (p : Spd)
  /-- R165: VPIN with op 0000 pins the table's current epoch in a pin slot and writes it. -/
  | vpin (p : Spd) (w : W120)
  /-- R165: VPIN with op 0001 releases a pin slot. -/
  | vpinRelease (p : Spd) (w : W120)
  /-- R166: VREAD gathers rows of a versioned table at a pinned epoch. -/
  | vread (p : Spd) (w : W120)
  /-- R167: VEPOCH writes GGE_EPOCH_OBS and optionally clears it. -/
  | vepoch (p : Spd) (w : W120)
  /-- R174: RTILE runs an MXFP4 roughing product whose N tiles become held bowl sets. -/
  | rtile (p : Spd) (w : W120)
  /-- R178: FTILE runs a tile descriptor over marked positions only. -/
  | ftile (p : Spd) (w : W120)
  /-- R182: An idle thief takes the highest unbegun N tile of the qualifying victim's stealable FTILE. -/
  | stealTake (p : Spd)
  /-- R185: HINIT opens a hash-accumulator session in a free session slot. -/
  | hinit (p : Spd) (w : W120)
  /-- R188: HMERGE folds shavings records by key and sets merged. -/
  | hmerge (p : Spd) (w : W120)
  /-- R189: HDRAIN writes resident entries and merged records converted to the output and closes the session. -/
  | hdrain (p : Spd) (w : W120)
  /-- R176: VMKTILE consumes a held set and marks 64-row groups with a value at least the threshold. -/
  | vmktile (p : Spd) (w : W120)
  /-- R176: VMKTILEA consumes a held set and marks groups with an absolute value at least the threshold. -/
  | vmktilea (p : Spd) (w : W120)
  /-- R176: VMKROW consumes a held set and marks rows with a value at least the threshold. -/
  | vmkrow (p : Spd) (w : W120)
  /-- R176: VMKROWA consumes a held set and marks rows with an absolute value at least the threshold. -/
  | vmkrowa (p : Spd) (w : W120)
  /-- R176: VMKTOPK consumes a held set and offers its values to top-k lists. -/
  | vmktopk (p : Spd) (w : W120)
  /-- R176: VMKLIST marks tile bits for each non-empty top-k entry. -/
  | vmklist (p : Spd) (w : W120)
  /-- R176: VMKOR ORs two mark bitmaps bytewise. -/
  | vmkor (p : Spd) (w : W120)
  /-- R176: VMKCLR zeroes a mark bitmap. -/
  | vmkclr (p : Spd) (w : W120)
  /-- R197: VRAND writes Grain words for consecutive word indices. -/
  | vrand (p : Spd) (w : W120)
  /-- R197: VUNIF writes uniform FP32 values formed from Grain words. -/
  | vunif (p : Spd) (w : W120)
  /-- R200: VSMAX folds a shard's scaled maximum, top-k list or best full-row key into the sampling state. -/
  | vsmax (p : Spd) (w : W120)
  /-- R201: VSSUM folds a shard's exponential sum into the sampling state. -/
  | vssum (p : Spd) (w : W120)
  /-- R202: VSFIN chooses the candidate set, draws the token and writes log-probabilities. -/
  | vsfin (p : Spd) (w : W120)
  /-- R203: VSSCORE computes log-probabilities for a given token without drawing. -/
  | vsscore (p : Spd) (w : W120)
  /-- R211: STREAM_OPEN validates a FREE entry, allocates pages and enters PAUSED or ACTIVE. -/
  | streamOpen (r : RingId) (e : Entry)
  /-- R211: STREAM_FORK opens a stream sharing a parent's leading blocks. -/
  | streamFork (r : RingId) (e : Entry)
  /-- R210: STREAM_PAUSE enters PAUSED at once or after the stream's pending step. -/
  | streamPause (r : RingId) (e : Entry)
  /-- R210: STREAM_RESUME takes a PAUSED stream to ACTIVE. -/
  | streamResume (r : RingId) (e : Entry)
  /-- R210: STREAM_CLOSE frees the stream's pages and enters FREE, or CLOSING while in a step. -/
  | streamClose (r : RingId) (e : Entry)
  /-- R210: STREAM_QUERY returns the stream entry as cached. -/
  | streamQuery (r : RingId) (e : Entry)
  /-- R216: STEP_ARM arms a step chain on a lane of the context. -/
  | stepArm (r : RingId) (e : Entry)
  /-- R217: The lane reads a step descriptor, prepares each row and signals ready_cell. -/
  | stepPrepare (c : CtxId) (lane : Fin 4)
  /-- R218: After results_cell is satisfied, the lane commits each row, writes token records and signals done_cell. -/
  | stepCommit (c : CtxId) (lane : Fin 4)
  /-- R242: A write enters the tile's write-combining buffer, merging or allocating an entry. -/
  | wcWrite (p : Spd) (e : Engine) (addr : Word64) (back : Bool) (data : List Byte)
  /-- R243: An entry reaching 2 µs of age is flushed. -/
  | wcAgeFlush (t : TileId) (k : Nat)
  /-- R241: A late POISONED_TARGET outcome ends the running blank that wrote the entry or writes a DEFERRED_WRITE record. -/
  | writeOutcome (k : Nat)
  /-- R244: A request enters a channel controller's queue and is accepted. -/
  | channelRequestAccept (ch : Chan)
  /-- R244: A channel controller serves a queued request, correcting or poisoning lines as found. -/
  | channelServe (ch : Chan) (found : LineFinding)
  /-- R245: The patrol scrub reads the next line of a channel. -/
  | scrubLine (ch : Chan) (found : LineFinding)
  /-- R246: A channel whose link fails to retrain or respond within 50 µs enters the failed state. -/
  | channelFailed (ch : Chan)
  /-- R403: After a cold reset the controller zeroes the next line in the background. -/
  | channelInitZero (ch : Chan)
  /-- R256: Once per hub cycle per tile, the dispatcher picks a blank for a spindle with an empty prefetched slot. -/
  | dispatchDecision (t : TileId)
  /-- R258: A dispatched blank enters the prefetched slot and its first code lines and warm ranges are read. -/
  | chuckArrival (p : Spd)
  /-- R259: After every released effect is accepted, the hub signals done_cell and frees the rack entry. -/
  | doneCellSignal (k : Nat)
  /-- R272: SSIG stages a signal to a local or peer cell. -/
  | ssig (p : Spd) (w : W120)
  /-- R268: SWAIT begins a wait on a local cell with threshold, consume and watch options. -/
  | swait (p : Spd) (w : W120)
  /-- R270: SREAD reads a local cell's count into rd. -/
  | sread (p : Spd) (w : W120)
  /-- R267: A signal arrives at its cell's bank and adds its amount, saturating and recording the signaller. -/
  | cellSignalApply (t : TileId)
  /-- R268: A poll operation at the bank tests the threshold and conditionally subtracts it. -/
  | cellPoll (x : Waiter)
  /-- R276: A wait reaching timeout_ms issues a final poll and completes with TIMEOUT unless satisfied. -/
  | waitTimeout (x : Waiter)
  /-- R279: SYNC_DUMP freezes cell stores and pollers and copies cells and waiters. -/
  | syncDump (r : RingId) (e : Entry)
  /-- R279: The cell copy finishes and stores apply held operations in arrival order. -/
  | syncDumpResume
  /-- R269: An 8 B headstock or JTAG write sets a cell's count and clears sat. -/
  | headstockCellSet (who : Initiator) (addr : Word64) (size : Nat) (val : Word64)
  /-- R311: A host write to the read-and-set view sets a cell's count and clears sat. -/
  | hostCellSet (fn : FnId) (off : Nat) (size : Nat) (val : Word64)
  /-- R311: A host write to the signal view signals the cell after prior BAR2 writes are accepted. -/
  | hostCellSignal (fn : FnId) (off : Nat) (size : Nat) (val : Word64)
  /-- R286: A received WRITE packet is checked, deduplicated and written at the channel controllers. -/
  | kerfWrite (f : Frame)
  /-- R283: A received READ_REQ reads local memory and returns READ_RESP, or answers a path probe. -/
  | kerfReadReq (f : Frame)
  /-- R283: A received READ_RESP writes its data to the requester's local destination. -/
  | kerfReadResp (f : Frame)
  /-- R283: A received ATOMIC applies a memory-side operation on the receiver. -/
  | kerfAtomic (f : Frame)
  /-- R295: A received SIGNAL is applied once its group's npre packets are accepted, or discarded. -/
  | kerfSignal (f : Frame)
  /-- R301: A received forward slice has local parts added and is forwarded or written as result. -/
  | chainForward (f : Frame)
  /-- R301: A received result slice is written to result_addr and passed back along the chain. -/
  | chainResult (f : Frame)
  /-- R302: A received BREAK completes the chain with CHAIN_BROKEN and is passed on away from the origin. -/
  | chainBreak (f : Frame)
  /-- R302: No slice arriving within timeout_ms after arming breaks the chain at that position. -/
  | chainTimeout (k : Nat)
  /-- R303: A received SWEEP takes the tagged counter snapshot and forwards the sweep. -/
  | sweep (f : Frame)
  /-- R303: A position receiving nothing by timeout_ms snapshots marked partial and forwards a partial SWEEP. -/
  | sweepTimeout (k : Nat)
  /-- R286: A received ACK retires acknowledged packets and may bring a path back up. -/
  | kerfAck (f : Frame)
  /-- R289: A received NACK completes or reschedules the refused packet's transfer by its reason. -/
  | kerfNack (f : Frame)
  /-- R291: A received HEARTBEAT updates hops, latency, throttle and op_index of the peer entry. -/
  | heartbeat (f : Frame)
  /-- R294: A received CONNECT compares configuration digests and answers with CONNECT_RESP. -/
  | connect (f : Frame)
  /-- R294: A received CONNECT_RESP sets the peer entry up or refused. -/
  | connectResp (f : Frame)
  /-- R283: A Kerf packet of an unused type is dropped and counted. -/
  | kerfUnknownType (f : Frame)
  /-- R286: An ACK is sent 2 µs after the first newly acknowledged packet. -/
  | ackTimer (conn : Nat)
  /-- R288: An unacknowledged packet's attempt timer expires and it is retransmitted on the next live path. -/
  | retransmitTimeout (conn : Nat) (seq : Word32)
  /-- R289: A packet refused RETRY_LATER is resent after 256 µs, or its transfer completes with DOMAIN_OFF. -/
  | retryLaterResend (conn : Nat) (seq : Word32)
  /-- R289: A packet refused NOT_ARMED is resent after 8 µs, or its transfer completes with TIMEOUT. -/
  | notArmedResend (conn : Nat) (seq : Word32) (expired : Bool)
  /-- R291: Every 100 µs a HEARTBEAT is sent to each peer of each joined context. -/
  | heartbeatSend
  /-- R290: Every 1 ms a probe is sent on each down path whose port is up. -/
  | pathProbe
  /-- R290: An Ethernet port goes down and its paths' outstanding packets move to other paths. -/
  | portDown (port : PortId) (lane : Bool)
  /-- R290: An Ethernet port comes up and its paths become eligible for probing. -/
  | portUp (port : PortId)
  /-- R291: No packet from a peer for 1 ms declares it lost. -/
  | peerSilenceTimeout (conn : Nat)
  /-- R294: A connect refused for reasons 5 to 7 is retried every 1 ms until timeout_ms. -/
  | connectRetry (conn : Nat) (expired : Bool)
  /-- R304: The follow limit lifts 1 ms after no peer of the job is throttled. -/
  | followLift
  /-- R299: A servo update disciplines device time and updates offset_ns, offset_warn and time_flag. -/
  | ptpServoUpdate (offset : Int) (locked : Bool)
  /-- R298: Firmware moves PTP to another port when the selected port goes down. -/
  | ptpPortFailover (port : PortId)
  /-- R385: A rising 1PPS_IN edge is timestamped and serves PTP and snapshots. -/
  | ppsEdge
  /-- R313: A write of MBX_CMD_PROD announces new commands, or sets err_index and stops the ring. -/
  | doorbell (fn : FnId) (page : RingId) (val : Word32)
  /-- R313: Setting enable zeroes the ring indices, sets phase 1 and clears stopped. -/
  | ringEnable (fn : FnId) (page : RingId)
  /-- R313: Clearing enable stops taking commands and suppresses completions of taken ones. -/
  | ringDisable (fn : FnId) (page : RingId)
  /-- R317: The headstock takes a command entry with room reserved and matches it against the tag history. -/
  | commandFetch (r : RingId) (e : Entry) (ok : Bool)
  /-- R320: A command with an opcode not in the catalogue completes with UNKNOWN_COMMAND. -/
  | unknownCommand (r : RingId) (e : Entry)
  /-- R322: IDENTIFY writes the identity block. -/
  | identify (r : RingId) (e : Entry)
  /-- R207: DEV_CONFIG places the stream table. -/
  | devConfig (r : RingId) (e : Entry)
  /-- R310: BAR2_MAP sets a function's BAR2 base and limit. -/
  | bar2Map (r : RingId) (e : Entry)
  /-- R282: NET_CONFIG writes the Kerf port, DSCP, PFC, PTP source and device address settings. -/
  | netConfig (r : RingId) (e : Entry)
  /-- R247: MEM_ADMIN op 0 writes HUB_MEM_CFG. -/
  | memAdminCfg (r : RingId) (e : Entry)
  /-- R247: MEM_ADMIN op 1 clears a channel's configuration-store record for the next reset. -/
  | memAdminClear (r : RingId) (e : Entry)
  /-- R384: MEM_ADMIN op 2 writes HUB_DEEP_ARB. -/
  | memAdminDeepArb (r : RingId) (e : Entry)
  /-- R113: TILE_CONFIG writes TILE_DC_PART and TILE_STEAL and completes when busy reads 0. -/
  | tileConfig (r : RingId) (e : Entry)
  /-- R321: CTX_CREATE takes a FREE context to LIVE with its mode, seed and flags. -/
  | ctxCreate (r : RingId) (e : Entry)
  /-- R374: CTX_TEARDOWN makes the context TEARING and starts its teardown. -/
  | ctxTeardown (r : RingId) (e : Entry)
  /-- R374: After in-flight transactions complete, pins, handles, windows, streams, pool and cells are released and the context becomes FREE. -/
  | teardownFinish (c : CtxId)
  /-- R98: CTX_WINDOW sets a context's scratchpad windows on a range of logical spindles. -/
  | ctxWindow (r : RingId) (e : Entry)
  /-- R212: CTX_POOL configures a context's page pool and fills its free ring. -/
  | ctxPool (r : RingId) (e : Entry)
  /-- R266: CTX_CELLS sets a context's cell partition and SYN_CTX_n. -/
  | ctxCells (r : RingId) (e : Entry)
  /-- R261: CTX_SCHED writes HUB_SCHED_CTX_n. -/
  | ctxSched (r : RingId) (e : Entry)
  /-- R261: SPD_PRIMARY writes HUB_SCHED_SPD_l of a range of logical spindles. -/
  | spdPrimary (r : RingId) (e : Entry)
  /-- R362: TRACE_CONFIG writes HUB_TRACE_CFG and copies the fault-log shadow into a newly valid log. -/
  | traceConfig (r : RingId) (e : Entry)
  /-- R373: SPINDLE_RESET starts a spindle reset of a logical spindle. -/
  | spindleReset (r : RingId) (e : Entry)
  /-- R373: The spindle reset completes, freeing handles and clearing flags and SPD_CTL. -/
  | spindleResetDone (p : Spd)
  /-- R376: HEADSTOCK_RESTART restarts the headstock firmware while hardware keeps running. -/
  | headstockRestart (r : RingId) (e : Entry)
  /-- R376: The restart ends, ready returns and taken commands complete with NOT_READY. -/
  | headstockRestartDone
  /-- R157: TABLE_REGISTER registers a versioned or burl table's table_id. -/
  | tableRegister (r : RingId) (e : Entry)
  /-- R320: TABLE_RELEASE releases a table_id whose reader counts and pins are zero. -/
  | tableRelease (r : RingId) (e : Entry)
  /-- R254: BLANK_PUSH pushes up to 64 blank descriptors from device memory onto the racks. -/
  | blankPush (r : RingId) (e : Entry)
  /-- R293: JOB_JOIN writes the context's Kerf registers, sets job_en and sends CONNECT to each peer. -/
  | jobJoin (r : RingId) (e : Entry)
  /-- R320: JOB_LEAVE clears job_en and closes the context's connections. -/
  | jobLeave (r : RingId) (e : Entry)
  /-- R285: PEER_READMIT reopens a lost peer entry's connection with a new incarnation. -/
  | peerReadmit (r : RingId) (e : Entry)
  /-- R293: JOB_SET changes follow_en, accept_epoch and ack_mode of a joined context. -/
  | jobSet (r : RingId) (e : Entry)
  /-- R303: SWEEP_ARM arms a counter sweep along a chain descriptor, starting it at position 0 when start is set. -/
  | sweepArm (r : RingId) (e : Entry)
  /-- R345: COUNTER_SNAPSHOT triggers a snapshot and completes with the image's seq. -/
  | counterSnapshot (r : RingId) (e : Entry)
  /-- R312: CELL_NOTIFY arms an MSI-X vector on a cell with a threshold. -/
  | cellNotify (r : RingId) (e : Entry)
  /-- R312: A hub poll finds the armed cell at threshold, raises the vector once, posts the event and disarms. -/
  | cellNotifyFire (fn : FnId) (vec : Fin 64)
  /-- R331: POWER_LIMITS sets the long- and short-window caps. -/
  | powerLimits (r : RingId) (e : Entry)
  /-- R334: PHASE_POINT sets the policy point of a phase of the context. -/
  | phasePoint (r : RingId) (e : Entry)
  /-- R336: ENERGY_READ returns the context's energy count in mJ. -/
  | energyRead (r : RingId) (e : Entry)
  /-- R325: FW_STAGE copies image bytes into the inactive slot and marks it staged. -/
  | fwStage (r : RingId) (e : Entry) (data : List Byte)
  /-- R325: FW_COMMIT verifies the staged image and marks the slot committed. -/
  | fwCommit (r : RingId) (e : Entry)
  /-- R325: FW_ACTIVATE with when = 0 arranges a trial boot of the committed slot at the next module reset. -/
  | fwActivate (r : RingId) (e : Entry)
  /-- R325: FW_ACTIVATE with when = 1 restarts the headstock into the committed slot. -/
  | fwActivateNow (r : RingId) (e : Entry)
  /-- R325: FW_CONFIRM makes the trial slot the boot slot and raises the fused minimum security version. -/
  | fwConfirm (r : RingId) (e : Entry)
  /-- R325: ATTEST writes the measurements, nonce and a signature by the device identity key. -/
  | attest (r : RingId) (e : Entry)
  /-- R310: A host BAR2 read reaches the channel controllers or completes with Unsupported Request. -/
  | hostBar2Read (fn : FnId) (off : Nat) (len : Nat)
  /-- R310: A host BAR2 write reaches the channel controllers, poisons lines on EP, or is discarded with bar2_err. -/
  | hostBar2Write (fn : FnId) (off : Nat) (data : List Byte) (ep : Bool)
  /-- R324: Boot reaches ready = 1 and doorbells written earlier are served. -/
  | bootReady
  /-- R324: A trial image failing to reach ready within 5 s, three times, boots the previous slot with FW_FALLBACK. -/
  | trialBootTimeout
  /-- R328: Every 4 µs the calipers form the power estimate from the regressors and charge it to contexts. -/
  | calipersEstimate (a : Activity)
  /-- R330: A 1 ms input energy sample arrives, feeding the windows and the input-rating backstop. -/
  | inputEnergySample (microjoules : Nat)
  /-- R329: Every 1 ms the estimator weights are updated by recursive least squares. -/
  | calibrationUpdate
  /-- R330: No input sample for 4 ms sets sensor_lost and limits the operating point to index 10. -/
  | sensorLost
  /-- R330: The 10 ms hold at index 0 after an input-rating breach expires. -/
  | backstopRelease
  /-- R332: Every 100 µs the controller chooses a target operating point from budget, ceiling and policy. -/
  | calipersDecision (busy : List BusyShare)
  /-- R327: The slewing rail reaches a voltage at which the spindle frequency steps. -/
  | railStep (mv : Nat)
  /-- R335: Every 100 µs the temperature sensors are read and the thermal ceiling lowered if hot. -/
  | sensorRead (tiles : List Nat) (hub : Nat)
  /-- R335: Once every sensor is cool, the thermal ceiling rises by one index per millisecond. -/
  | thermalCeilingRise
  /-- R335: A sensor at 115 °C asserts THERMTRIP#, stops spindle and fabric clocks and sets thermtrip. -/
  | thermtrip
  /-- R329: Every 10 minutes firmware saves the calipers weights to the configuration store. -/
  | configStoreSave
  /-- R345: At the snapshot instant every counter latches its value. -/
  | snapshotLatch
  /-- R346: A snapshot image is complete in its slot and context copies are written to memory. -/
  | snapshotImageWritten
  /-- R343: At a window boundary each port's LAST and PEAK are updated. -/
  | portWindowBoundary
  /-- R348: A write of freeze stops or resumes counter advance. -/
  | cntFreeze (who : Initiator) (on : Bool)
  /-- R348: A write of clr_ovf clears every ovf at one instant. -/
  | cntClrOvf (who : Initiator)
  /-- R348: A write of clr_ctx zeroes every context counter and CNT_DEV_IDLE. -/
  | cntClrCtx (who : Initiator)
  /-- R348: A write of clr_port zeroes every port counter. -/
  | cntClrPort (who : Initiator)
  /-- R348: A write of clr_spindle zeroes every spindle counter. -/
  | cntClrSpindle (who : Initiator)
  /-- R343: A write of len_us restarts the port windows at the next boundary of the new length. -/
  | cntWinCfg (who : Initiator) (lenUs : BitVec 16)
  /-- R341: A write of CNT_SEL_BCAST_n sets programmable counter n's select on every spindle. -/
  | cntSelBcast (who : Initiator) (n : Fin 8) (val : Word64)
  /-- R350: An uncorrectable on-chip SRAM error is handled by the outcome of its array. -/
  | sramUncorrectable (a : SramArray) (unit : Nat) (addr : Word64)
  /-- R351: A spindle fault is detected, the spindle stops and re-dispatch or removal begins. -/
  | spindleFault (p : Spd)
  /-- R357: A spare is powered and takes the failed spindle's logical number, windows and handles, and the blank restarts on it. -/
  | spareBroughtIn (p : Spd) (good : Bool)
  /-- R353: A tile fabric fault or tile or hub link loss is recorded as a device error. -/
  | tileFault (t : TileId) (cause : TileFaultCause)
  /-- R353: The hub is lost and a HUB_LOSS record is kept for the next boot. -/
  | hubLoss (cause : HubLossCause)
  /-- R352: A regulator phase fails and is absorbed or recorded as a device error. -/
  | vrPhaseFail (rail : Nat) (phase : Nat)
  /-- R366: After 100 µs idle the module gates spindle and fabric clocks and enters A1. -/
  | a1Enter
  /-- R367: A push, doorbell or request ungates the clocks and returns the module to A0. -/
  | a1Exit
  /-- R368: With every function in D3hot and A1 conditions held, firmware flushes, enters self-refresh and powers down tiles. -/
  | a2Enter
  /-- R371: The 50 µs drain window closes and held packets complete with DOMAIN_OFF or RETRY_LATER. -/
  | drainWindowClose
  /-- R368: A function written to D0 starts channel recalibration and tile power-up. -/
  | a2Exit (fn : FnId)
  /-- R369: The tiles are powered, HANDLES_LOST events are posted and the module is in A0. -/
  | a2ExitComplete
  /-- R390: The 54 V input leaves its range, PWR_GOOD falls and the module enters A3. -/
  | mainSupplyLoss
  /-- R366: Both supplies are removed and the module enters A4. -/
  | auxSupplyLoss
  /-- R389: The auxiliary rail comes into range and the straps are read. -/
  | auxPowerUp (straps : Fin 8)
  /-- R389: 54 V is applied and the internal rails are brought up. -/
  | mainPowerUp
  /-- R372: PWR_GOOD rises, performing a cold reset that releases THERMTRIP# and clears memory. -/
  | coldReset
  /-- R377: PERST# asserts, stopping spindles, placing channels in self-refresh and discarding buffered writes. -/
  | perstAssert
  /-- R324: PERST# deasserts and the boot chain runs with training and map-out. -/
  | perstDeassert (b : BootInputs)
  /-- R375: A hot reset, link down, PF0 FLR or VF Enable clear resets every function and tears down every context. -/
  | pcieHotReset
  /-- R375: An FLR of a virtual function resets its function state and tears down its context. -/
  | functionLevelReset (fn : FnId)
  /-- R395: A read of the SMBus Alert Response Address deasserts ALERT#. -/
  | smbusAlertResponse
  /-- R395: An MCTP control, PLDM or SPDM message is received and answered. -/
  | mctpMessage (overPcie : Bool) (msg : List Byte)
  /-- R397: A JTAG instruction is executed, acting as BYPASS on a secure module without debug enabled. -/
  | jtagInstruction (j : JtagInstr)
  /-- R23: A PCIe completion for a host-window read issued by an engine arrives and its data is delivered to the requester. -/
  | hostWindowReadResponse (k : Nat) (data : List Byte)
  /-- R353: The PCIe link retrains narrower or slower, setting link_degraded and writing a PCIE_LINK record. -/
  | pcieLinkNarrowed (width : Nat) (speed : Nat)
  /-- R366: The host writes a function's power state to D3hot, the condition that permits entry to A2. -/
  | functionD3hot (fn : FnId)
  /-- R308: The host sets VF Enable with NumVFs from 1 to 16, enabling virtual functions that then serve their contexts' rings. -/
  | vfEnable (n : Fin 17)
  /-- R310: The host resizes PF0's BAR2 through Resizable BAR, from 1 GiB up to 64 GiB. -/
  | bar2Resize (gib : Nat)
  /-- R281: A PFC or PAUSE frame arrives on a port; PFC pauses Kerf transmission at pfc_prio and PAUSE is ignored. -/
  | priorityFlowControlFrame (port : PortId) (prio : Fin 8) (pause : Bool) (is8023 : Bool)
  /-- R282: An IPv6 neighbour discovery message arrives and the headstock resolves or updates a link-layer next hop. -/
  | neighbourDiscovery (addr : Word128) (mac : BitVec 48)
  /-- R397: JTAG_TRST# is driven low, holding the test logic in reset, or is released. -/
  | jtagTrst (low : Bool)
  /-- R317: The flash write or verification work of a parked FW_STAGE, FW_COMMIT or ATTEST finishes and the command completes. -/
  | fwFlashWriteDone (r : RingId)
deriving DecidableEq, Repr

end Sys2Proof
end

