-- ==== Sys2Proof/Decode.lean ====
section
/-!
DEFINITION. The command that a word spells by the bits of the manual's table of operations: no row of that table has
bits (a command of this block is an event, not a word), so that no word spells one.
-/
namespace Sys2Proof

def decodeTableWord (_nbits _w : Nat) : Option Instr := none

end Sys2Proof
end

