-- ==== Sys2Proof/Config.lean ====
section
/-!
DEFINITION. What the manual leaves open, each as a constant with no body: nothing in Lean can evaluate one or
prove a value of it, so a claim about the machine holds whatever it is. A first argument `n` is the block's
free-value counter, which every use advances.
-/
namespace Sys2Proof.Config

/-- A byte of scratchpad or bowl whose contents the manual leaves unspecified (R65, R75, R101, R373):
`tag` says which event left it so. Free value, notes/assumptions/4. -/
opaque freeByte (tag addr : Nat) : Byte

/-- The result of vector-lane operation `op` where R38 states none (a quotient by zero or of infinities, the square root of a
value below zero, the sign of the root of −0, the logarithm of zero or of a value whose sign is set), a function of the operands
so that R45 holds.
Free value, notes/assumptions/5. -/
opaque freeLane (op a b : Nat) : Word32

/-- The data byte of a BAR2 read completed with EP set, which R239 leaves unspecified.
DESIGN CHOICE, notes/assumptions/64. -/
opaque freeBar2Byte (n i : Nat) : Byte

/-- The fields of a TRACE_LOST record that Table 14.7 does not give: blank_tag, phase, spindle, context, priority and
filler. Free value, notes/assumptions/6. -/
opaque freeTraceLost (n : Nat) : Word128

/-- The source code and peer that a chain engine's signal of done_cell leaves as last signaller: Table 15.12 names no
code for it. Free value, notes/assumptions/9. -/
opaque freeSignaller (n : Nat) : BitVec 28

/-- The opcode that SPD_FAULT and BLANK_END hold for a word that was never fetched: outside the code range, or in a line
whose fetch failed (R51). Free value, notes/assumptions/11. -/
opaque freeOpcode (n : Nat) : Byte

/-- The answer of the device to an MCTP control, PLDM or SPDM message: R395 names the standards and not the bytes.
DESIGN CHOICE, notes/assumptions/65. -/
opaque mctpAnswer (n : Nat) (overPcie : Bool) (msg : List Byte) : List Byte

/-- Whether a staged image passes verification: R324, R325 rest on keys the manual cannot give.
DESIGN CHOICE, notes/assumptions/66. -/
opaque imageVerifies (image : List (Nat × Byte)) : Bool

/-- The security version and the version that a staged image's signed header states (R322, R325).
DESIGN CHOICE, notes/assumptions/66. -/
opaque imageSvn (image : List (Nat × Byte)) : Word32
/-- DESIGN CHOICE, notes/assumptions/66. -/
opaque imageVersion (image : List (Nat × Byte)) : Word32

/-- The SHA-384 measurement of boot stage 0, the loader, or 1, the headstock firmware, in the image of a slot; a slot never staged
holds the factory image (R324).
DESIGN CHOICE, notes/assumptions/66. -/
opaque measurement (stage : Nat) (factory : Bool) (image : List (Nat × Byte)) : BitVec 384

/-- The ECDSA P-384 signature of the measurements and the nonce by the device identity key (R325).
DESIGN CHOICE, notes/assumptions/66. -/
opaque attestSignature (measured : List (BitVec 384)) (nonce : List Byte) : BitVec 768

/-- The module's serial number and the version fields of the image it left the factory with (R322). -/
opaque serial : Word64
/-- DESIGN CHOICE, notes/assumptions/67. -/
opaque factoryVersion : Word32
/-- DESIGN CHOICE, notes/assumptions/67. -/
opaque factorySvn : Word32

/-- Factory calipers weights of the stepping, in joules, and the factory rate of retired slots (R329, R333).
DESIGN CHOICE, notes/assumptions/68. -/
opaque factoryWeight (j : Nat) : Rat
/-- DESIGN CHOICE, notes/assumptions/68. -/
opaque factoryRate : Rat

/-- Fuses: whether debug is enabled and whether the root-key fuses hold a digest (R324, R397).
DESIGN CHOICE, notes/assumptions/67. -/
opaque debugFuse : Bool
/-- DESIGN CHOICE, notes/assumptions/67. -/
opaque rootKeyFused : Bool

/-- The value a JTAG boundary-scan shift returns for a pin state the manual does not give (R397).
DESIGN CHOICE, notes/assumptions/67. -/
opaque boundaryScan (n : Nat) : Word64

/-- The current epoch of a table whose home is a peer, as the exchange of a VPIN reports it (R165): the peer's state.
Free value, notes/assumptions/12. -/
opaque peerEpoch (n : Nat) : BitVec 63

/-- A step row whose stream is not the context's, where Table 11.7 gives no value but the identifier and byte 12.
Free value, notes/assumptions/14. -/
opaque freeStepRow (n : Nat) : BitVec 256

/-- How a record's unit number and info spell a regulator phase (Tables 20.6 and 20.7 name rail and phase and give no
layout). Free value, notes/assumptions/15. -/
opaque vrUnit (rail phase : Nat) : BitVec 16
/-- DESIGN CHOICE, notes/assumptions/15. -/
opaque vrInfo (rail phase : Nat) : Word32

/-- The step by which a servo update moves device time, in ns: R298 says that the headstock disciplines it and not by how much.
Free value, notes/assumptions/160. -/
opaque servoStep (n : Nat) : Int

end Sys2Proof.Config
end

