-- ==== Sys2Proof/Machine/State.lean ====
section
/-!
DEFINITION. The state of the module: every register, buffer, queue, memory and mode the manual names, as plain data,
and the queue of waiting commands. INVENTORY.md names the rule that gives each field, and its reset value.
-/
namespace Sys2Proof.Machine

/-- A sparse map from numbers: keys strictly rising. In a map of bytes, words or counters no entry equals what an
unlisted key reads as; in a map of records an unlisted key reads as the record's reset value. -/
abbrev Tab (α : Type) := List (Nat × α)

/-- Status codes (R9, Table 17.8). -/
inductive Status where
  | success | invalidField | accessDenied | addressUnmapped | poisonedTarget | handleNotLive | handleNotOwner
  | pageNotLive | rackFull | poolEmpty | combineFull | shavingsFull | epochHeld | epochRejected | timeout | peerLost
  | chainBroken | domainOff | configMismatch | memoryDegraded | unknownCommand | notReady | signatureInvalid
  | versionRollback | spindleFault | contextTeardown
deriving DecidableEq, Repr

/-- Scratchpad or bowl: bytes, and the ranges `[lo, hi)` whose contents are unspecified, each with the tag of its
free bytes (R65, R75, R101, R373). -/
structure Ram where
  mem : Tab Byte := []
  undef : List (Nat × Nat × Nat) := []
deriving DecidableEq, Repr

/-- A local flag (R57, Table 3.10). -/
structure LocalFlag where
  count : Nat := 0
  sat : Bool := false
deriving DecidableEq, Repr

/-- A counter of 48 bits with its overflow bit (Table 19.1); `tflag` is used by CNT_PORT_LAST alone. -/
structure Counter where
  count : Nat := 0
  ovf : Bool := false
  tflag : Bool := false
deriving DecidableEq, Repr

/-- SPD_SPAD_WIN_n (Table 5.3). -/
structure Window where
  basePage : Nat := 0
  pages : Nat := 0
  handleLo : Nat := 0
  handleHi : Nat := 0
deriving DecidableEq, Repr

inductive HandleState where
  | free | live | freeing
deriving DecidableEq, Repr

/-- SPD_HANDLE_n (Table 5.4), with the carried mark of R358 and the issue index before which a freeing entry's
namers must complete (R102). -/
structure Handle where
  state : HandleState := .free
  context : Nat := 0
  /-- bit 0 sequencer, 1 matrix, 2 vector, 3 load, 4 store, 5 gouge -/
  owners : Nat := 0
  prefetch : Bool := false
  sizePages : Nat := 0
  basePage : Nat := 0
  /-- the current blank has written into it -/
  written : Bool := false
  carried : Bool := false
  freeIdx : Nat := 0
deriving DecidableEq, Repr

/-- A reader registration of a blank (R159). -/
structure Registration where
  tableId : Nat := 0
  descAddr : Nat := 0
  er : Nat := 0
  policy : Nat := 0
  /-- the count is kept by the peer that is the table's home -/
  remote : Bool := false
deriving DecidableEq, Repr

/-- A blank as an entry holds it: its descriptor's copy (Table 14.1) and the address the push named (R259). -/
structure Blank where
  desc : BitVec 512 := 0
  addr : Word64 := 0
  /-- spindle faults it has met (R359, reason 5) -/
  faults : Nat := 0
  /-- registrations it carries to its rerun (R159) -/
  regsns : List Registration := []
  guest : Bool := false
deriving DecidableEq, Repr

/-- A rack entry: reserved until the pusher's release makes it ready (R250, R253). -/
structure RackEntry where
  blank : Blank := {}
  ready : Bool := false
  /-- the reservation's number: which push made it, and the entry's place in that push -/
  resv : Nat := 0
  ord : Nat := 0
deriving DecidableEq, Repr

/-- A memory-side operation (Table 6.5). -/
inductive MemOp where
  | store | add | max | min
deriving DecidableEq, Repr

/-- One staged effect (R140, R162, R253, R278, R296, R300). -/
inductive Effect where
  /-- a memory-side piece or store at a local address, or on a peer -/
  | memSide (op : MemOp) (fmt : Nat) (peer : Option Nat) (addr : Nat) (data : List Byte)
  /-- a settled reservation and its records, of the command of issue index `idx`: lane address, capacity, record bytes,
  records (R134) -/
  | lane (idx : Nat) (peer : Option Nat) (addr cap recBytes : Nat) (recs : List (List Byte))
  /-- an SSIG of issue index `idx` -/
  | signal (idx : Nat) (peer : Option Nat) (cell : Nat) (amount : Int)
  | receipt (cell theta : Nat)
  | push (resv count : Nat)
  | chain (desc : Nat)
  /-- the last packet of a KPUT: peer, remote address, bytes, cell, amount (R296) -/
  | putLast (peer : Nat) (addr : Nat) (data : List Byte) (cell : Nat) (amount : Int)
  /-- a flip of a versioned row (R162) -/
  | flip (desc row : Nat) (data : List Byte)
  /-- the write of burl_sel (R128) -/
  | burlSel (desc sel : Nat)
deriving DecidableEq, Repr

/-- A command in an engine queue: its issue index in the blank, its word and the scalar registers read at issue (R92). -/
structure QCmd where
  idx : Nat := 0
  pc : Nat := 0
  w : Word128 := 0
  regs : Tab Word64 := []
  begun : Bool := false
  /-- its effect is carried out; it completes in queue order -/
  done : Bool := false
  /-- completed while still speculative: its flag set waits for confirmation (R58) -/
  completed : Bool := false
  credit : Bool := false
  flagTaken : Bool := false
  deferred : Option Status := none
  /-- scratchpad ranges it wrote while speculative: base and length (R65) -/
  wrote : List (Nat × Nat) := []
  /-- begun while speculative with rel = 1: its credit release waits for confirmation (R56) -/
  relPending : Bool := false
  /-- effects that enter staging once it is confirmed (R124) -/
  onConfirm : List Effect := []
  /-- the highest epoch its versioned reads observed (R161) -/
  obs : Option Nat := none
  /-- its effect waits for host-window reads (R22) -/
  hostWait : Bool := false
  /-- host-window bytes that have arrived for it, by host address (R22) -/
  hostBuf : Tab Byte := []
  /-- packets or reads still unanswered, and the first failure met (R296) -/
  outstanding : Nat := 0
  failed : Option Status := none
  /-- lines whose write-back must be accepted before it completes (R112) -/
  awaits : List Nat := []
  /-- the bowl set that was next when it began (R62, R75) -/
  bowlWas : Option Nat := none
  /-- begun, and goes on from its beginning once its host-window bytes are there (R22, R56) -/
  resume : Bool := false
  /-- slots its engine has worked on it (R339, R340) -/
  slots : Nat := 0
deriving DecidableEq, Repr

/-- An unconfirmed BR (R59, R61): operands as far as known, and the scalar checkpoint (R62). -/
structure BrEntry where
  idx : Nat := 0
  pc : Nat := 0
  offset : Int := 0
  hint : Bool := false
  cond : Nat := 0
  sa : Nat := 0
  sb : Nat := 0
  va : Option Word64 := none
  vb : Option Word64 := none
  checkpoint : Tab Word64 := []
  evaluated : Bool := false
  mispred : Bool := false
deriving DecidableEq, Repr

/-- An SLD whose data has not returned. -/
structure PendingSld where
  idx : Nat := 0
  rd : Nat := 0
  val : Word64 := 0
deriving DecidableEq, Repr

/-- A wait in progress (R268, R275 to R277). -/
structure Wait where
  cell : Nat := 0
  theta : Nat := 0
  consume : Bool := false
  hot : Bool := false
  watchEn : Bool := false
  watchPeer : Nat := 0
  watchAll : Bool := false
  rd : Nat := 0
  started : Nat := 0
  pc : Nat := 0
  /-- a watched peer has been declared lost: PEER_LOST falls due (R276) -/
  peerLostDue : Bool := false
deriving DecidableEq, Repr

/-- Why the sequencer issues nothing (R60, R68, R270). -/
inductive SeqHold where
  | none
  | fence (mask : Nat) (memory : Bool) (idx : Nat)
  | swait (w : Wait)
  /-- an SREAD that a cell freeze holds at its bank (R279) -/
  | sread (pc : Nat)
  | retired
deriving DecidableEq, Repr

/-- A blank that is ending under R69: older commands complete first. -/
structure Ending where
  status : Status
  opcode : Nat := 0
  pcOffset : Nat := 0
  idx : Nat := 0
deriving DecidableEq, Repr

/-- What an N tile of a matrix command needs to run: descriptor, offsets of its visit, marks (R83, R91, R178). -/
structure TileJob where
  idx : Nat := 0
  /-- 0 MTILE, 1 RTILE, 2 FTILE -/
  kind : Nat := 0
  word : Word128 := 0
  desc : BitVec 1024 := 0
  nest : BitVec 1024 := 0
  visit : Nat := 0
  /-- the visit has consumed ready_flag and may stream -/
  visiting : Bool := true
  /-- next N tile to begin, the N tile being accumulated and its next K chunk -/
  nextNt : Nat := 0
  curNt : Option Nat := none
  kc : Nat := 0
  set : Nat := 0
  /-- N tiles below this number are the command's own; higher ones were stolen -/
  ntEnd : Nat := 0
  /-- N tiles accumulated and not yet drained, with their sets -/
  toDrain : List (Nat × Nat) := []
  /-- N tiles that thieves hold, and those returned to be run again (R183) -/
  stolen : List Nat := []
  returned : List Nat := []
  /-- the marks, read when the command begins (R178) -/
  marks : List Byte := []
deriving DecidableEq, Repr

/-- A held roughing set (R175). -/
structure HeldSet where
  set : Nat := 0
  nt : Nat := 0
  desc : BitVec 1024 := 0
  idx : Nat := 0
  /-- the speculative mark operation that has read it and will release it once confirmed (R180) -/
  readBy : Option Nat := none
deriving DecidableEq, Repr

/-- A stolen N tile on its thief (R182). -/
structure Stolen where
  victim : Nat := 0
  idx : Nat := 0
  nt : Nat := 0
  kc : Nat := 0
  set : Nat := 0
  full : Bool := false
deriving DecidableEq, Repr

structure Session where
  hacc : Nat := 0
  owner : Word64 := 0
deriving DecidableEq, Repr

/-- A gathering-buffer entry: one 64 B sector with a byte mask (R97). -/
structure GatherEntry where
  engine : Engine := .vector
  sector : Nat := 0
  mask : BitVec 64 := 0
  data : BitVec 512 := 0
deriving DecidableEq, Repr

/-- Where a row request reads: a home row here, a burl through the die cache or in the tile's HBM copy, the host window, a
peer, a versioned row, whose tag comes first, or a further piece of the slot that the tag named (R116, R123, R126, R160). -/
inductive RowKind where
  | home | burl | burlCopy | host | peer | versioned | slot | peerTag
deriving DecidableEq, Repr

/-- One row request of stage two: a piece of a row within one 4 KiB granule (R116). -/
structure RowReq where
  row : Nat := 0
  kind : RowKind := .home
  /-- address the piece is read at, byte offset of the piece in the row, and its length -/
  addr : Nat := 0
  off : Nat := 0
  len : Nat := 0
  /-- positions that name the row; none for the exchange that registers a reader at the table's home (R159) -/
  positions : List Nat := []
  /-- the host window or the peer has been asked -/
  asked : Bool := false
  /-- transfer number of a read outstanding at a peer -/
  xfer : Nat := 0
deriving DecidableEq, Repr

/-- A gather (GGATHER, VREAD) in progress (R114, R122, R160). -/
structure GatherRun where
  idx : Nat := 0
  desc : BitVec 1024 := 0
  descAddr : Nat := 0
  nextBatch : Nat := 0
  reqs : List RowReq := []
  missing : Nat := 0
  oor : Nat := 0
  burlSel : Option Nat := none
  /-- epoch and policy a versioned read resolves rows with -/
  ev : Nat := 0
  perRow : Bool := false
  observed : Nat := 0
  /-- its destination holds stage three until it is confirmed: scratchpad writes that wait (R63, R124) -/
  held : Bool := false
  late : List (Nat × List Byte) := []
deriving DecidableEq, Repr

/-- A write that a command makes once it is confirmed: to scratchpad, or to device memory (R63, R153). -/
inductive LateWrite where
  | spad (addr : Nat) (data : List Byte)
  | mem (addr : Nat) (data : List Byte)
deriving DecidableEq, Repr

/-- A reader registration that a peer's blank holds on a table of this device (R159). -/
structure PeerReg where
  conn : Nat := 0
  tableId : Nat := 0
  er : Nat := 0
deriving DecidableEq, Repr

/-- Who holds a pin: a context here, or a context's peer (R165). -/
inductive PinOwner where
  | local (ctx : Nat)
  | peer (conn : Nat)
deriving DecidableEq, Repr

structure Pin where
  owner : PinOwner
  slot : Nat := 0
  desc : Nat := 0
  tableId : Nat := 0
  epoch : Nat := 0
  /-- the peer that is the table's home and holds the pin; none for a table of this device -/
  home : Option Nat := none
deriving DecidableEq, Repr

/-- What the gouge engine's begun command still waits for. -/
inductive GougeRun where
  | gather (g : GatherRun)
  /-- a refresh of replica set `set`; once started, the home rows still to come from a peer -/
  | burl (idx descAddr set : Nat) (started : Bool) (reqs : List RowReq)
  | advance (idx descAddr target : Nat) (force : Bool)
  /-- a pin, or its release, by an exchange with the table's home; the packet's tag, and where the epoch goes (R165) -/
  | pin (idx xfer : Nat) (pin : Pin) (release : Bool) (dst : Nat)
  /-- a sampling command that has read and computed, and holds before its first write (R153) -/
  | writes (idx : Nat) (l : List LateWrite)
deriving DecidableEq, Repr

/-- A tiled load in progress (R105): the next visit to copy. -/
structure LdtRun where
  idx : Nat := 0
  desc : BitVec 1024 := 0
  nest : BitVec 1024 := 0
  visit : Nat := 0
  /-- it has consumed free_flag for that visit -/
  took : Bool := false
  /-- visits of the nest whose drains have completed since it began (R91) -/
  drained : Nat := 0
deriving DecidableEq, Repr

/-- One physical spindle.
DESIGN CHOICE, notes/assumptions/20. -/
structure Spindle where
  /-- powered and in service (R404); a spare not in service is `spare` (Table 3.8) -/
  inService : Bool := true
  spare : Bool := false
  /-- stopped by a spindle fault, waiting for re-dispatch (R357) -/
  faulted : Bool := false
  faultAt : Nat := 0
  /-- a spindle reset is in progress (R373); one that waits until a re-dispatch is complete (R372) -/
  resetting : Bool := false
  resetDue : Bool := false
  cur : Option Blank := none
  /-- the current blank has started under R51 -/
  started : Bool := false
  /-- how many blanks have started here: tells the current blank's requests from an earlier blank's -/
  serial : Nat := 0
  /-- context and phase of the blanks that started here lately, by their start number, and the oldest number that the next decision
  keeps (R260, R332) -/
  phases : Tab (Nat × Nat) := []
  phaseMark : Nat := 0
  pre : Option Blank := none
  /-- a dispatched blank on its way to the prefetched slot (R257) -/
  arriving : Option Blank := none
  pc : Nat := 0
  sregs : Tab Word64 := []
  /-- code lines in the instruction buffer, by address (R51) -/
  ibuf : Tab (List Byte) := []
  /-- code lines in the instruction buffer that are read for the prefetched blank (R258) -/
  preCode : Tab (List Byte) := []
  flags : Tab LocalFlag := []
  matrixQ : List QCmd := []
  vectorQ : List QCmd := []
  loadQ : List QCmd := []
  storeQ : List QCmd := []
  gougeQ : List QCmd := []
  /-- commands begun and abandoned by a squash, waiting for their stage boundary (R66) -/
  abandoned : List (Engine × QCmd) := []
  brs : List BrEntry := []
  nextIdx : Nat := 0
  slds : List PendingSld := []
  /-- deferred faults of speculative sequencer words: issue index, pc, opcode, status (R64) -/
  deferredSeq : List (Nat × Nat × Nat × Status) := []
  hold : SeqHold := .none
  ending : Option Ending := none
  credit : Nat := 0
  creditUnderflow : Bool := false
  haltReq : Bool := false
  halted : Bool := false
  debugEn : Bool := false
  wasteCycles : Counter := {}
  wasteBytes : Counter := {}
  /-- SPD_FAULT: status code, opcode, pc_offset (Table 3.12) -/
  faultStatus : Nat := 0
  faultOpcode : Nat := 0
  faultPc : Nat := 0
  windows : Tab Window := []
  /-- page ranges `[lo, hi)` that firmware has given to a context; 16 is a context torn down since (R98) -/
  pagesHeld : List (Nat × Nat × Nat) := []
  handles : Tab Handle := []
  spad : Ram := {}
  bowl : Ram := {}
  /-- context that last had the bowl; 16 for none (Table 21.5) -/
  bowlCtx : Nat := 16
  gbuf : List GatherEntry := []
  /-- bowl set of the next N tile (R75) -/
  bowlNext : Nat := 0
  job : Option TileJob := none
  held : List HeldSet := []
  thief : Option Stolen := none
  sessions : List Session := []
  gouge : Option GougeRun := none
  ldt : Option LdtRun := none
  staging : List Effect := []
  stagingUsed : Nat := 0
  /-- effects that enter staging once every older command that stages effects has (R140): issue index and effect -/
  stageWait : List (Nat × Effect) := []
  /-- staging has overflowed: the blank is not replayable (R140, R354) -/
  overflow : Bool := false
  /-- released signals that wait for writes issued before them (R272) -/
  lateSigs : List Effect := []
  regsns : List Registration := []
  epochObs : Nat := 0
  /-- a versioned read of the blank has completed: its packets carry an epoch (R297) -/
  epochValid : Bool := false
  /-- lines of the dirty log, oldest first (R110) -/
  dirtyLog : List Nat := []
  /-- 64 B lines that its fence has written back from the dirty log (R60, R110) -/
  fenceLines : List Nat := []
  /-- events of speculative commands, counted once they are confirmed: issue index, event, number (R341) -/
  specEv : List (Nat × Nat × Nat) := []
  cntSel : Tab Word64 := []
  cntProg : Tab Counter := []
  cntTd : Tab Counter := []
  /-- slots worked for the blank and not posted yet, by `8 * spindle + source` (R340) -/
  tally : Tab Nat := []
  /-- slots of the sequencer worked on words not confirmed yet: issue index and number (R340) -/
  seqSlots : List (Nat × Nat) := []
  /-- context last served here: context 0 is considered first after reset -/
  lastServed : Nat := 15
deriving DecidableEq, Repr

/-- An entry of the write-combining buffer (R242). -/
structure WcEntry where
  line : Nat := 0
  data : BitVec 512 := 0
  mask : BitVec 64 := 0
  spindle : Nat := 0
  /-- bit 0 matrix, 1 vector, 2 load, 3 store, 4 gouge -/
  engines : Nat := 0
  blank : Word64 := 0
  context : Nat := 0
  /-- the start number of that blank on the spindle: the current blank has written into the entry if it is the spindle's -/
  serial : Nat := 0
  back : Bool := false
  born : Nat := 0
deriving DecidableEq, Repr

/-- A line of the die cache: its address over 128, data, dirty mask, and the spindle whose log names it (R108, R110). -/
structure DcLine where
  line : Nat := 0
  data : BitVec 1024 := 0
  dirty : BitVec 128 := 0
  owner : Nat := 0
  /-- the newest blank that made a byte of it dirty, its context and start number (R241) -/
  blank : Word64 := 0
  context : Nat := 0
  serial : Nat := 0
deriving DecidableEq, Repr

/-- A die-cache set: up to 16 ways and the tree pseudo-LRU bits. -/
structure DcSet where
  ways : Tab DcLine := []
  plru : BitVec 16 := 0
deriving DecidableEq, Repr

/-- A fill on its way: line, data as read, burl partition or reuse. -/
structure Fill where
  line : Nat := 0
  data : BitVec 1024 := 0
  burl : Bool := false
deriving DecidableEq, Repr

/-- SYN_CTX_n (Table 15.2). -/
structure SynCtx where
  timeoutMs : Nat := 0x03E8
  ackMode : Bool := true
deriving DecidableEq, Repr

structure Tile where
  wc : List WcEntry := []
  dc : Tab DcSet := []
  fills : List Fill := []
  burlWays : Nat := 0
  repartBusy : Bool := false
  /-- TILE_STEAL (Table 9.4) -/
  stealMask : Nat := 0
  stealMinLeft : Nat := 2
  stealEnable : Bool := false
  /-- SYN_PART_n: base and count (Table 15.1) -/
  synPart : Tab (Nat × Nat) := []
  synCtx : Tab SynCtx := []
  satAny : Bool := false
  firstSat : Nat := 0
  /-- rotating start of the dispatcher (R257) -/
  rotate : Nat := 0
  /-- powered; clocks gated in A1; draining (R366, R371) -/
  powered : Bool := true
  draining : Bool := false
deriving DecidableEq, Repr

/-- Who issued a memory request, for its outcome (R131, R241, R286). -/
inductive ReqSrc where
  | none
  /-- a write-combining entry: spindle, newest blank, its context, its start number there, writing engines -/
  | wc (spindle : Nat) (blank : Word64) (context serial engines : Nat)
  /-- a memory-side piece: spindle, blank, context, the blank's start number -/
  | memSide (spindle : Nat) (blank : Word64) (context serial : Nat)
  /-- a plain write that bypasses the buffer -/
  | hub
  /-- a trace record on its way to its ring (R262) -/
  | trace
  | kerf (conn : Nat) (seq : Nat)
  /-- a BAR2 write of function `fn` -/
  | host (fn : Nat)
deriving DecidableEq, Repr

inductive ReqKind where
  | write | poison
  /-- the poison mark of a line that a read found uncorrectable (R238) -/
  | mark
  | memOp (op : MemOp) (fmt : Nat)
deriving DecidableEq, Repr

/-- A request of a channel: a masked 64 B line, by its local address over 64 (R244). -/
structure Req where
  kind : ReqKind := .write
  line : Nat := 0
  data : BitVec 512 := 0
  mask : BitVec 64 := 0
  src : ReqSrc := .none
deriving DecidableEq, Repr

/-- Table 13.5, field state. -/
inductive ChanState where
  | inService | failed | pendingOut | mappedOut
deriving DecidableEq, Repr

structure Channel where
  /-- requests sent and not yet accepted; requests accepted -/
  transit : List Req := []
  queue : List Req := []
  state : ChanState := .inService
  ueAlert : Bool := false
  linkRetry : Bool := false
  ueCount : Nat := 0
  ceCount : Nat := 0
  /-- times of the uncorrectable errors in the window (R246) -/
  ueTimes : List Nat := []
  scrubPos : Nat := 0
  /-- what the controller will find in the line of the next read it serves (R237) -/
  nextFind : LineFinding := .clean
  zeroPos : Nat := 0
  selfRefresh : Bool := false
deriving DecidableEq, Repr

/-- A late write outcome not yet delivered (R241). -/
structure LateOutcome where
  src : ReqSrc := .none
  addr : Nat := 0
deriving DecidableEq, Repr

/-- A synchronisation cell (R265). -/
structure Cell where
  count : Int := 0
  sat : Bool := false
  src : Nat := 0
  peer : Nat := 0
deriving DecidableEq, Repr

/-- A signal, or a set, on its way to its cell. -/
structure Sig where
  cell : Nat := 0
  amount : Int := 0
  src : Nat := 0
  peer : Nat := 0
  /-- a set by the headstock, JTAG or the host (R269) -/
  isSet : Bool := false
  /-- a host signal: the function whose BAR2 writes must be accepted first (R311) -/
  after : Option Nat := none
  /-- lines whose writes must be accepted before it leaves its source (R216, R272) -/
  lines : List Nat := []
  /-- the spindle whose island sent it; the other sources are hub blocks (Table 15.12) -/
  island : Option Nat := none
deriving DecidableEq, Repr

/-- A retired blank whose done_cell and entry wait for its released effects (R259). -/
structure Done where
  blank : Blank := {}
  spindle : Nat := 0
  serial : Nat := 0
deriving DecidableEq, Repr

inductive CtxState where
  | free | live | tearing
deriving DecidableEq, Repr

/-- A stream lane (R216). -/
structure Lane where
  busy : Bool := false
  /-- address of the step descriptor, and the descriptor as prepare read it -/
  step : Nat := 0
  desc : BitVec 1024 := 0
  /-- prepared and waiting on results_cell -/
  waiting : Option Wait := none
  /-- results_cell has satisfied the wait -/
  satisfied : Bool := false
  /-- rows that prepare found active, with their streams -/
  active : List (Nat × Nat) := []
  skipped : Nat := 0
  parked : Nat := 0
  /-- the step is being abandoned with this status, and waits for host-window reads (R219) -/
  ending : Option Status := none
deriving DecidableEq, Repr

/-- HUB_POOL_*_n (Tables 11.4 to 11.6) with the free ring's head. -/
structure Pool where
  base : Nat := 0
  groupsM1 : Nat := 0
  pppLog2 : Nat := 0
  pages : Nat := 0
  freePages : Nat := 0
  head : Nat := 0
  notLive : Bool := false
  emptySeen : Bool := false
  notLiveCount : Nat := 0
deriving DecidableEq, Repr

/-- HUB_SCHED_CTX_n (Table 14.3). -/
structure Sched where
  used : Nat := 0
  quota : Nat := 0x1000
  lendMask : Nat := 0
  traceEn : Bool := false
  enable : Bool := false
deriving DecidableEq, Repr

/-- KRF_CTX_n, KRF_PEER_BASE_n, KRF_ACCEPT_EPOCH_n (Table 16.7). -/
structure KrfCtx where
  jobId : Nat := 0
  peers : Nat := 0
  epochPolicy : Nat := 0
  followEn : Bool := false
  jobEn : Bool := false
  formats : Nat := 0
  peerBase : Nat := 0
  acceptEpoch : Nat := 0
deriving DecidableEq, Repr

/-- Learnt P and R of one operating-point index (R333). -/
structure Learnt where
  index : Nat := 0
  p : Rat := 0
  r : Rat := 0
deriving DecidableEq, Repr

structure Ctx where
  state : CtxState := .free
  freeMode : Bool := false
  seed : Word64 := 0
  readPerm : Bool := false
  pool : Pool := {}
  sched : Sched := {}
  krf : KrfCtx := {}
  lanes : Tab Lane := []
  /-- policy points by phase (R334): 0 to 15, or 0xFE efficient; unlisted is cleared -/
  points : Tab Nat := []
  learnt : Tab (List Learnt) := []
  /-- indices tried by phase under the efficient policy (R334) -/
  tried : Tab (List Nat) := []
  energyUj : Rat := 0
  cnt : Tab Counter := []
  dstAddr : Nat := 0
  dstEn : Bool := false
deriving DecidableEq, Repr

/-- A registered table (R127, R157). -/
structure TableReg where
  burl : Bool := false
  context : Nat := 0
  desc : Nat := 0
  /-- its context has been torn down: released once its reader counts are zero (R374) -/
  releasing : Bool := false
deriving DecidableEq, Repr

/-- A tag store of a flip whose slot write must be accepted first (R162). -/
structure TagStore where
  spindle : Nat := 0
  slotAddr : Nat := 0
  slotLen : Nat := 0
  tagAddr : Nat := 0
  tag : Word64 := 0
  src : ReqSrc := .none
deriving DecidableEq, Repr

/-- A Kerf packet as its header and extension lay it out (Tables 16.3, 16.5). -/
structure Packet where
  version : Nat := 1
  type : Nat := 0
  inc : Nat := 0
  conn : Nat := 0
  seq : Nat := 0
  src : Nat := 0
  sgrp : Nat := 0
  sig : Bool := false
  ev : Bool := false
  op : Nat := 0
  fmt : Nat := 0
  epoch : Nat := 0
  addr : Nat := 0
  len : Nat := 0
  xfer : Nat := 0
  amount : Int := 0
  npre : Nat := 0
  cell : Nat := 0
  payload : List Byte := []
  /-- every reserved field is zero -/
  resvZero : Bool := true
deriving DecidableEq, Repr

/-- A frame that has left on a port (R281 to R283). -/
structure SentFrame where
  port : Nat := 0
  /-- link-layer address of the next hop, once neighbour discovery has resolved it -/
  mac : Option (BitVec 48) := none
  src : Word128 := 0
  dst : Word128 := 0
  hopLimit : Nat := 255
  dscp : Nat := 0
  flow : Nat := 0
  srcPort : Nat := 0
  dstPort : Nat := 0
  /-- header, signal extension, payload and CRC -/
  bytes : List Byte := []
deriving DecidableEq, Repr

/-- What an acknowledged or refused packet completes. -/
inductive XferOwner where
  | none
  | engine (p : Nat) (e : Engine) (idx : Nat) (dst : Nat) (spad : Bool)
  | row (p : Nat) (idx : Nat) (tag : Nat)
  | signal (ctx : Nat) (cell : Nat) (spindle : Nat) (blank : Word64)
  | chain (desc : Nat)
  | sweep (s : Nat)
  /-- a released memory-side piece or record -/
  | scatter (ctx spindle : Nat) (blank : Word64) (serial : Nat)
  /-- the fetch-add of a settled reservation at a peer, with the command's issue index and the records to write once it
  answers (R134) -/
  | lane (ctx peer addr cap recBytes spindle : Nat) (blank : Word64) (serial idx : Nat) (recs : List (List Byte))
  | probe (path : Nat)
deriving DecidableEq, Repr

/-- An unacknowledged packet (R286, R288). -/
structure OutPkt where
  pkt : Packet := {}
  attempts : Nat := 1
  path : Nat := 0
  owner : XferOwner := .none
  retryLater : Nat := 0
  firstSent : Nat := 0
  /-- a signal in acknowledged mode: sent once nothing is outstanding (R295) -/
  alone : Bool := false
  /-- what the signal that rides on the packet completes (R295) -/
  rider : XferOwner := .none
  /-- lines whose writes must be accepted before it leaves its source (R272) -/
  lines : List Nat := []
  /-- start number of the blank that sends it; 0 for a hub block (R297) -/
  serial : Nat := 0
deriving DecidableEq, Repr

/-- The receiver's record of one signal group (R295). -/
structure RxGroup where
  src : Nat := 0
  sgrp : Nat := 0
  accepted : Nat := 0
  refused : Bool := false
  /-- a signal received before its group was complete -/
  held : Option Packet := none
deriving DecidableEq, Repr

inductive PeerState where
  | connecting | up | refused | lost
deriving DecidableEq, Repr

/-- A connection: one per peer entry of a joined context (R285). -/
structure Conn where
  /-- 16 while the connection index is closed -/
  ctx : Nat := 16
  peer : Nat := 0
  state : PeerState := .connecting
  /-- the entry names this device and context: accesses loop back inside the hub (R25, R305) -/
  loop : Bool := false
  /-- local address of the peer's table entry -/
  entryAddr : Nat := 0
  inc : Nat := 0
  /-- the peer's device address and context, as its entry names them -/
  addr : Word128 := 0
  peerCtx : Nat := 0
  /-- the peer's connection index and the incarnation it sends with; 256 before either is known -/
  peerConn : Nat := 0
  peerInc : Nat := 256
  nextSeq : Nat := 0
  out : List OutPkt := []
  /-- packets waiting: acknowledged-mode signals, transfers while connecting, no live path -/
  waiting : List OutPkt := []
  /-- packets refused with RETRY_LATER or NOT_ARMED, until they are sent again (R289) -/
  again : List OutPkt := []
  /-- reads and fetch-adds whose answer has not come -/
  reads : List OutPkt := []
  /-- sources and groups of refused WRITE and ATOMIC packets whose signal is still to be answered (R295) -/
  txRefused : List (Nat × Nat) := []
  /-- signals acknowledged while packets of their group are still unanswered: source, group, and what they complete (R274) -/
  sigDue : List (Nat × Nat × XferOwner) := []
  rxBase : Nat := 0
  rxSeen : List Nat := []
  rxGroups : List RxGroup := []
  /-- newly received numbers not yet acknowledged -/
  ackPending : Nat := 0
  ackPath : Nat := 0
  /-- packets received whose effect is not yet accepted: they are not acknowledged yet; the flag says that a line of the
  write was poisoned -/
  rxWork : List (Packet × Bool) := []
  /-- sending groups by source: group number and packets in it -/
  txGroups : Tab (Nat × Nat) := []
  nextPath : Nat := 0
  downPaths : List Nat := []
  /-- consecutive expiries by path -/
  expiries : Tab Nat := []
  hbPath : Nat := 0
  hbTime : Nat := 0
  hbAt : Nat := 0
  latNs : Nat := 0
  hops : Nat := 0
  throttled : Bool := false
  opIndex : Nat := 0
  reason : Nat := 0
  foreignEpoch : Nat := 0
  foreignCount : Nat := 0
  retxCount : Nat := 0
deriving DecidableEq, Repr

/-- An armed chain (R300 to R302). -/
structure Chain where
  ctx : Nat := 0
  descAddr : Nat := 0
  desc : BitVec 1024 := 0
  /-- slices formed so far; slices acknowledged; result slices sent to memory -/
  formed : Nat := 0
  acked : Nat := 0
  results : Nat := 0
  /-- lines of the result writes -/
  lines : List Nat := []
deriving DecidableEq, Repr

/-- An armed sweep (R303). -/
structure Sweep where
  ctx : Nat := 0
  number : Nat := 0
  /-- the chain descriptor as it stood at arming -/
  desc : BitVec 1024 := 0
deriving DecidableEq, Repr

/-- A port (Table 16.2), with the priorities a peer has paused (R281). -/
structure Port where
  linkUp : Bool := false
  pfcEn : Bool := false
  pfcPrio : Nat := 3
  drops : Nat := 0
  fecCorr : Nat := 0
  paused : Bool := false
  /-- frames in the receive buffer, oldest first (R281) -/
  rx : List Frame := []
deriving DecidableEq, Repr

/-- A command that the device has taken (R317, R318). -/
structure Taken where
  entry : Entry := 0
  started : Bool := false
  /-- repeats of the same tag waiting for this command's completion (R318), with their irq bits -/
  repeats : List Bool := []
  /-- taken before enable was cleared: its completion is not written (R313) -/
  silent : Bool := false
deriving DecidableEq, Repr

/-- An entry of the tag history: tag, opcode, and the completion once there is one (R318). -/
structure Hist where
  tag : Nat := 0
  opcode : Nat := 0
  done : Option (Nat × Nat) := none
deriving DecidableEq, Repr

/-- A ring page and its ring's hidden state (Table 17.3, R316 to R319). -/
structure Ring where
  cmdBase : Word64 := 0
  cplBase : Word64 := 0
  eventsLost : Nat := 0
  errFetch : Bool := false
  errIndex : Bool := false
  stopped : Bool := false
  enable : Bool := false
  cmdProd : Word32 := 0
  cmdCons : Word32 := 0
  cplProd : Word32 := 0
  cplCons : Word32 := 0
  phase : Bool := true
  /-- completion slots reserved for taken commands -/
  reserved : Nat := 0
  taken : List Taken := []
  history : List Hist := []
  /-- events waiting for room: code and result -/
  events : List (Nat × Nat) := []
deriving DecidableEq, Repr

/-- A PCIe function (R308, R310). -/
structure Func where
  d3hot : Bool := false
  bar2Set : Bool := false
  bar2Base : Nat := 0
  bar2Limit : Nat := 0
  bar2Gib : Nat := 1
deriving DecidableEq, Repr

/-- A CELL_NOTIFY arm (R312). -/
structure Notify where
  fn : Nat := 0
  vec : Nat := 0
  cell : Nat := 0
  theta : Nat := 0
  ring : Nat := 0
deriving DecidableEq, Repr

/-- A stream that is not FREE: its entry (R207, R208), and what the stream block remembers of it. -/
structure Stream where
  entry : BitVec 1024 := 0
  dirty : Bool := false
  pausePending : Bool := false
  /-- no record has been written since open -/
  fresh : Bool := false
  /-- parked STREAM_PAUSE and STREAM_CLOSE commands: ring and entry -/
  parked : List (Nat × Entry) := []
  /-- the stream cache holds the entry; if not, it lies in memory and `entry` says nothing (R207) -/
  cached : Bool := true
  /-- the owning context of an entry that lies in memory -/
  owner : Nat := 0
deriving DecidableEq, Repr

/-- A host-window read issued and not yet answered, within one 4 KiB granule (R17, R22, R23). A read by the stream block has a requester
number from 272 on: 272 plus the ring of the command, or 289 plus `4 c + l` for lane `l` of context `c`. -/
structure HostRead where
  spindle : Nat := 0
  engine : Engine := .load
  idx : Nat := 0
  haddr : Nat := 0
  len : Nat := 0
  /-- a posted write that waits behind earlier reads of its granule (R23) -/
  wr : Option (List Byte) := none
deriving DecidableEq, Repr

/-- A fault record (Table 20.6). -/
structure FaultRec where
  seq : Nat := 0
  time : Nat := 0
  context : Option Nat := none
  timeFlag : Bool := false
  carried : Bool := false
  severity : Nat := 0
  cls : Nat := 0
  status : Nat := 0
  peer : Nat := 0
  unitKind : Nat := 0
  unit : Nat := 0
  info : Nat := 0
  jobId : Nat := 0
  addr : Nat := 0
  blank : Nat := 0
deriving DecidableEq, Repr

/-- The scheduling trace (Table 14.5) and the fault log (R362). -/
structure Trace where
  base : Nat := 0
  sizeLog2 : Nat := 5
  stopMode : Bool := false
  enable : Bool := false
  prod : Nat := 0
  lost : Nat := 0
  cons : Nat := 0
  /-- a TRACE_LOST record is due when room returns -/
  lostDue : Bool := false
  shadow : List FaultRec := []
  seq : Nat := 0
  logLost : Nat := 0
deriving DecidableEq, Repr

/-- A counter-snapshot in progress or pending (R345 to R347). -/
structure Snap where
  /-- trigger bits of the header: 0 command, 1 1PPS, 2 sweep, 3 partial -/
  triggers : Nat := 0
  tag : Nat := 0
  instant : Nat := 0
  frozen : Bool := false
  timeFlag : Bool := false
  /-- rings and entries of the COUNTER_SNAPSHOT commands that complete with the image -/
  waiters : List (Nat × Entry) := []
deriving DecidableEq, Repr

/-- A snapshot's latched counters (R346). -/
structure Image where
  seq : Nat := 0
  snap : Snap := {}
  /-- words of the image, by byte offset -/
  words : Tab Word64 := []
deriving DecidableEq, Repr

/-- Slots on their way into a category: spindle, source, category, number, and the context charged, none for the device account (R340). -/
structure Slots where
  spindle : Nat := 0
  src : Nat := 0
  cat : Nat := 0
  n : Nat := 0
  ctx : Option Nat := none
deriving DecidableEq, Repr

/-- The counter block (Tables 19.2 to 19.8). -/
structure Counters where
  ppsEn : Bool := false
  freeze : Bool := false
  lenUs : Nat := 0x03E8
  /-- the window in progress is being discarded after a change of len_us (R343) -/
  restart : Bool := false
  /-- ports 0 to 81: TOT, LAST, PEAK, SPEC, and the bytes of the window in progress -/
  tot : Tab Counter := []
  last : Tab Counter := []
  peak : Tab Counter := []
  spec : Tab Counter := []
  window : Tab Nat := []
  windowFlag : Bool := false
  devIdle : Counter := {}
  seq : Nat := 0
  lost : Nat := 0
  /-- an image being written, and the trigger queued behind it for each source -/
  trigger : Option Snap := none
  writing : Option Image := none
  queued : Tab Snap := []
  slotA : Option Image := none
  slotB : Option Image := none
  /-- tallies posted while frozen (R348) -/
  owed : List Slots := []
  /-- thousandths of an island cycle that have passed -/
  cycle : Nat := 0
deriving DecidableEq, Repr

/-- A millisecond of estimates: the regressors, the estimated energy in joules, and the charges by context, with the device account
at key 16 (R328, R336). -/
structure Ms where
  x : List Rat := []
  est : Rat := 0
  charges : Tab Rat := []
deriving DecidableEq, Repr

/-- The calipers (Tables 18.4 to 18.7, R326 to R336). -/
structure Calipers where
  longW : Nat := 3200
  shortW : Nat := 3600
  target : Nat := 10
  opNow : Nat := 10
  railMv : Nat := 750
  phase : Nat := 0
  phaseCtx : Nat := 0
  throttled : Bool := false
  rPower : Bool := false
  ceiling : Nat := 15
  backstop : Bool := false
  followIndex : Nat := 15
  stale : Bool := false
  staleOk : Nat := 0
  sensorLost : Bool := false
  thermtrip : Bool := false
  rejectCount : Nat := 0
  maxSeen : Nat := 0
  hubTemp : Nat := 0
  tileTemp : List Nat := [0, 0, 0, 0]
  /-- highest die temperature read since the last estimate (R328) -/
  tempRead : Option Nat := none
  weights : List Rat := []
  cov : List (List Rat) := []
  /-- the millisecond in progress, with its number of estimates, and the last one complete, which waits for its sample (R330) -/
  ms : Ms := {}
  msCount : Nat := 0
  held : Option Ms := none
  /-- measured energy of the millisecond last sampled, in joules, until the calibration update uses it -/
  measured : Option Rat := none
  /-- regressors of that millisecond -/
  calX : List Rat := []
  /-- backstopped powers of the last 8,000 ms, newest first -/
  history : List Rat := []
  /-- a slew took place since the last decision (R333) -/
  slewed : Bool := false
  energyDevUj : Rat := 0
  /-- estimated power of the last 100 µs interval: sum and number of estimates -/
  estSum : Rat := 0
  estCount : Nat := 0
deriving DecidableEq, Repr

/-- PTP (KRF_PTP_STAT, Table 16.2) and device time. -/
structure Ptp where
  timeFlag : Bool := true
  offsetWarn : Bool := false
  locked : Bool := false
  source : Nat := 0
  offsetNs : Int := 0
  /-- consecutive updates at 500 ns or less -/
  good : Nat := 0
  /-- time of the last accepted 1PPS edge -/
  lastEdge : Option Nat := none
deriving DecidableEq, Repr

/-- A firmware slot (R325). -/
structure FwSlot where
  /-- 0 empty, 1 staged, 2 committed -/
  mark : Nat := 0
  image : Tab Byte := []
deriving DecidableEq, Repr

/-- The configuration store and fuses: sticky (Table 21.5). -/
structure Store where
  mapOut : List Nat := []
  failedSpindles : List Nat := []
  weights : List Rat := []
  carried : List FaultRec := []
  /-- hub losses not yet reported at a boot, and when (R365) -/
  hubLoss : List (HubLossCause × Nat) := []
  bootSlot : Nat := 0
  slots : Tab FwSlot := []
  /-- the slot that the next module reset boots as a trial (R325) -/
  trial : Option Nat := none
  trialFails : Nat := 0
  minSvn : Nat := 0
  ceTotal : Tab Nat := []
  ueTotal : Tab Nat := []
deriving DecidableEq, Repr

inductive PowerState where
  | a0 | a1 | a2 | a3 | a4
deriving DecidableEq, Repr

/-- An operation that reached a cell store during a freeze (R279). -/
inductive CellOp where
  | signal (g : Sig)
  /-- an SREAD of spindle `p`, in the blank with that start number -/
  | read (p serial cell rd : Nat)
  /-- a read of `size` bytes through the control window -/
  | ctl (cell size : Nat)
  /-- the sets to zero of a new partition: cells `[base, base + n)` of tile `t` (R266) -/
  | zero (t base n : Nat)
deriving DecidableEq, Repr

/-- A SYNC_DUMP with its destination: a host bus address, or a local address in the trace region (R279, R362). -/
structure Dump where
  ring : Nat := 0
  entry : Entry := 0
  /-- the context of a context-scope dump -/
  scope : Option Nat := none
  toTrace : Bool := false
  dest : Nat := 0
deriving DecidableEq, Repr

/-- The cell freeze of a synchronisation dump (R279). -/
structure Freeze where
  dump : Dump := {}
  /-- the dump as it stood at the freeze -/
  bytes : List Byte := []
  held : List CellOp := []
deriving DecidableEq, Repr

/-- One access's answer, as its initiator sees it.
DESIGN CHOICE, notes/assumptions/141. -/
structure Resp where
  status : Status := .success
  data : List Byte := []
  /-- PCIe Unsupported Request; completion with EP set -/
  ur : Bool := false
  ep : Bool := false
deriving DecidableEq, Repr

/-- The device memory behind the channel controllers (R236). -/
structure Dram where
  /-- bytes by channel and offset: key `channel * 2^35 + offset` (R19, R21); an unlisted byte is zero (R403) -/
  mem : Tab Byte := []
  /-- poisoned lines, by key over 64 (R237, R238); an unlisted line is not poisoned -/
  poison : Tab Bool := []
deriving DecidableEq, Repr

/-- A store of a hub block that leaves once the writes of `lines` are accepted. -/
structure HubLater where
  lines : List Nat := []
  addr : Nat := 0
  bytes : List Byte := []
deriving DecidableEq, Repr

/-- A parked JOB_LEAVE: writes of the closed connections' peers that are still on their way (R317). -/
structure Leave where
  ring : Nat := 0
  entry : Entry := 0
  lines : List Nat := []
deriving DecidableEq, Repr

/-- Everything but the device memory and the queue of waiting commands.
DESIGN CHOICE, notes/assumptions/20. DESIGN CHOICE, notes/assumptions/21. -/
structure Block where
  power : PowerState := .a0
  pwrGood : Bool := true
  /-- held in reset: PERST# is asserted or PWR_GOOD is low -/
  perst : Bool := true
  auxGood : Bool := true
  /-- the 54 V input is within its range (R389, R390) -/
  mainOn : Bool := true
  thermtripPin : Bool := false
  wake : Bool := false
  alert : Bool := false
  straps : Nat := 0
  hubLost : Bool := false
  draining : Bool := false
  /-- Kerf packets held by the drain window, with their connections (R371) -/
  drained : List (Nat × Packet) := []
  a2Exiting : Bool := false
  handlesLost : Tab Nat := []
  /-- MBX_STATUS (Table 17.2) -/
  ready : Bool := false
  bootStage : Nat := 0
  /-- what the boot in progress has still to find (R324) -/
  boot : Option BootInputs := none
  /-- measurements of the boot stages that have run (R324) -/
  measured : List (BitVec 384) := []
  fallback : Bool := false
  secure : Bool := false
  bar2Err : Bool := false
  cellErr : Bool := false
  restarts : Nat := 0
  restarting : Bool := false
  fwVersion : Nat := 0
  fwSvn : Nat := 0
  /-- the slot running, and whether as a trial (R325) -/
  runSlot : Nat := 0
  runTrial : Bool := false
  /-- parked FW_STAGE, FW_COMMIT and ATTEST commands, oldest first, with the bytes that FW_STAGE read from its buffer -/
  flashWork : List (Entry × List Byte) := []
  memoryDegraded : Bool := false
  /-- HBM channels in service, ascending (R19) -/
  inservice : List Nat := List.range 256
  pcieWidth : Nat := 16
  pcieSpeed : Nat := 64
  linkDegraded : Bool := false
  numVfs : Nat := 0
  jtagReset : Bool := false
  time : Nat := 0
  ptp : Ptp := {}
  freeCtr : Nat := 0
  /-- first tag of the scratchpads and bowls that nothing has touched since the last reset or A2 -/
  bootTag : Nat := 0
  store : Store := {}
  spindles : Tab Spindle := []
  tiles : Tab Tile := []
  chans : Tab Channel := []
  outcomes : List LateOutcome := []
  /-- stores of hub blocks that wait for earlier writes (R218) -/
  hubLater : List HubLater := []
  cells : Tab Cell := []
  sigs : List Sig := []
  dones : List Done := []
  frozen : Option Freeze := none
  /-- dumps that wait for the one in progress -/
  dumps : List Dump := []
  ctxs : Tab Ctx := []
  racks : Tab (List RackEntry) := []
  nextResv : Nat := 1
  /-- HUB_SCHED_SPD_l: primary_en and primary (Table 14.4) -/
  primary : Tab (Bool × Nat) := []
  /-- physical spindles that wait for a spare, oldest fault first (R357) -/
  faultQueue : List Nat := []
  /-- logical to physical spindle where a spare has taken the number; removed logical numbers (R357, R359) -/
  spdMap : Tab Nat := []
  removed : List Nat := []
  tables : Tab TableReg := []
  /-- reader counts, by `2 * table_id + parity`, and burl reader counts, by `2 * table_id + set` (R127, R159) -/
  readers : Tab Nat := []
  burlReaders : Tab Nat := []
  pins : List Pin := []
  /-- registrations held for peers (R159, R292) -/
  peerRegs : List PeerReg := []
  tagStores : List TagStore := []
  streamTable : Option Nat := none
  streams : Tab Stream := []
  /-- stream-cache order, least recently used first -/
  streamLru : List Nat := []
  krfUdpPort : Nat := 0xB80A
  krfDscpData : Nat := 0x1A
  krfDscpCtrl : Nat := 0x30
  deviceAddr : Word128 := 0
  ports : Tab Port := []
  /-- resolved link-layer next hops (R282) -/
  neighbours : List (Word128 × BitVec 48) := []
  conns : Tab Conn := []
  chains : List Chain := []
  leaving : List Leave := []
  sweeps : List Sweep := []
  rings : Tab Ring := []
  /-- ring that the command processor serves next (R317) -/
  ringTurn : Nat := 0
  funcs : Tab Func := []
  notifies : List Notify := []
  trace : Trace := {}
  cnt : Counters := {}
  cal : Calipers := {}
  memUeThreshold : Nat := 4
  memUeWindowH : Nat := 0x18
  memScrubHbmH : Nat := 0x18
  memScrubDeepH : Nat := 0x30
  memScrubEn : Bool := true
  keepShare : Nat := 4
  sramCe : Tab Nat := []
  vrFailed : List (Nat × Nat) := []
  hostReads : List HostRead := []
  /-- host-window bytes that have arrived for the stream block, by requester (R207) -/
  hubBuf : Tab (Tab Byte) := []
  /-- what has left the device: posted PCIe writes, interrupts and Kerf packets, oldest first -/
  hostOut : List (Word64 × List Byte) := []
  msix : List (Nat × Nat) := []
  txOut : List SentFrame := []
  /-- pause frames sent, by port and priority (R281) -/
  pfcOut : List (Nat × Nat) := []
  /-- packets that the Kerf engine loops back inside the hub (R25) -/
  loopIn : List Packet := []
  resp : Resp := {}
  /-- a read of the command in progress meets a full channel queue: the command waits instead (R244) -/
  stalled : Bool := false
  mctpOut : List Byte := []
deriving DecidableEq, Repr

/-- The state: the waiting commands, first in first out, and the block they act on. -/
structure State where
  pending : List Instr
  dram : Dram
  blk : Block
deriving DecidableEq, Repr

/-- No meaning of this model ends in a fault: every status the manual names is state.
DEDUCED, notes/assumptions/147. -/
inductive Fault where
deriving DecidableEq, Repr

/-- Refusals.
DEDUCED, notes/assumptions/147. -/
inductive Refusal where
  /-- Raised by `exec`'s arm of a command that has no meaning yet: safe. -/
  | notModelled (mnemonic : String)
deriving DecidableEq, Repr

/-- The module right after a cold reset, PERST# still asserted (R372, R377, R389): the registers' reset values,
memory that reads as zero (R403), scratchpads and bowls unspecified (Table 21.5).
DESIGN CHOICE, notes/assumptions/19. DESIGN CHOICE, notes/assumptions/20. DESIGN CHOICE, notes/assumptions/21. -/
def State.reset : State := { pending := [], dram := {}, blk := {} }

end Sys2Proof.Machine
end

