-- ==== Sys2Proof/Machine/Bits.lean ====
section
/-!
DEFINITION. Sparse maps, bit fields, little-endian bytes and the few list operations that the meanings share.
Every recursion is structural, so that the kernel can evaluate a meaning.
-/
namespace Sys2Proof.Machine

/-! ### Sparse maps -/

def tfind {α : Type} : Tab α → Nat → Option α
  | [], _ => none
  | (k', v) :: t, k => if k' = k then some v else tfind t k

def tget {α : Type} (d : α) (t : Tab α) (k : Nat) : α := (tfind t k).getD d

def tset {α : Type} : Tab α → Nat → α → Tab α
  | [], k, v => [(k, v)]
  | (k', v') :: t, k, v =>
    if k < k' then (k, v) :: (k', v') :: t else if k = k' then (k, v) :: t else (k', v') :: tset t k v

def tdel {α : Type} : Tab α → Nat → Tab α
  | [], _ => []
  | (k', v') :: t, k => if k < k' then (k', v') :: t else if k = k' then t else (k', v') :: tdel t k

/-- Writes `v` at `k`, keeping the form in which no entry equals the default `d`. -/
def tput {α : Type} [DecidableEq α] (d : α) (t : Tab α) (k : Nat) (v : α) : Tab α :=
  if v = d then tdel t k else tset t k v

/-- Keys strictly rising above `lo`, and no entry equal to `d`. -/
def tabWfFrom {α : Type} [DecidableEq α] (d : α) : Nat → Tab α → Bool
  | _, [] => true
  | lo, (k, v) :: t => decide (lo ≤ k) && decide (v ≠ d) && tabWfFrom d (k + 1) t

def tabWf {α : Type} [DecidableEq α] (d : α) (t : Tab α) : Bool := tabWfFrom d 0 t

/-! ### Bit fields -/

/-- Bits `hi:lo` of `x`. -/
def bits (x hi lo : Nat) : Nat := (x >>> lo) % 2 ^ (hi + 1 - lo)

def bit (x k : Nat) : Bool := (x >>> k) % 2 == 1

/-- A field of `n` bits holding `v`, placed at bit `pos`. -/
def fld (v n pos : Nat) : Nat := (v % 2 ^ n) <<< pos

/-- `x` with bits `hi:lo` replaced by `v`. -/
def setBits (x hi lo v : Nat) : Nat :=
  x - (bits x hi lo <<< lo) + ((v % 2 ^ (hi + 1 - lo)) <<< lo)

/-- The two's-complement value of the low `n` bits of `x`. -/
def sext (n x : Nat) : Int :=
  let y := x % 2 ^ n
  if y < 2 ^ (n - 1) then (y : Int) else (y : Int) - (2 ^ n : Nat)

/-- The low `n` bits of an integer, as two's complement. -/
def trunc (n : Nat) (v : Int) : Nat := (v % (2 ^ n : Nat)).toNat

def sbits (x hi lo : Nat) : Int := sext (hi + 1 - lo) (bits x hi lo)

def ceilDiv (a b : Nat) : Nat := (a + b - 1) / b

def clampI (lo hi v : Int) : Int := max lo (min hi v)

/-- floor(log2 x) for x > 0, and 0 at 0. -/
def ilog2 (x : Nat) : Nat := Nat.log2 x

def alignDown (a n : Nat) : Nat := a - a % n

def popcountFrom : Nat → Nat → Nat
  | 0, _ => 0
  | n + 1, x => x % 2 + popcountFrom n (x / 2)

/-- The number of ones among the low `n` bits. -/
def popcount (n x : Nat) : Nat := popcountFrom n x

/-- The numbers of the set bits among the low `n` bits, ascending. -/
def bitList (n x : Nat) : List Nat := (List.range n).filter (bit x ·)

/-! ### Bytes -/

/-- The number that bytes spell, little-endian (R5). -/
def leNat : List Byte → Nat
  | [] => 0
  | b :: bs => b.toNat + 256 * leNat bs

/-- `n` bytes of `x`, little-endian (R5). -/
def leBytes : Nat → Nat → List Byte
  | 0, _ => []
  | n + 1, x => BitVec.ofNat 8 x :: leBytes n (x / 256)

/-- Network byte order, for Kerf (R5). -/
def beNat (l : List Byte) : Nat := leNat l.reverse
def beBytes (n x : Nat) : List Byte := (leBytes n x).reverse

/-- Bytes `[off, off + n)` of a list; a byte past the end is zero. -/
def slice (l : List Byte) (off n : Nat) : List Byte :=
  let s := (l.drop off).take n
  s ++ List.replicate (n - s.length) 0

def bytesEq0 (l : List Byte) : Bool := l.all (· == 0)

/-! ### Lists -/

def insertBy {α : Type} (le : α → α → Bool) (x : α) : List α → List α
  | [] => [x]
  | y :: ys => if le x y then x :: y :: ys else y :: insertBy le x ys

/-- Stable insertion sort. -/
def sortBy {α : Type} (le : α → α → Bool) : List α → List α
  | [] => []
  | x :: xs => insertBy le x (sortBy le xs)

/-- Keeps the first of equal elements. -/
def dedup {α : Type} [DecidableEq α] : List α → List α
  | [] => []
  | x :: xs => x :: (dedup xs).filter (· ≠ x)

/-- Removes the first element that satisfies `f`. -/
def eraseFirst {α : Type} (f : α → Bool) : List α → List α
  | [] => []
  | x :: xs => if f x then xs else x :: eraseFirst f xs

/-- Changes the first element that satisfies `f`. -/
def modFirst {α : Type} (f : α → Bool) (g : α → α) : List α → List α
  | [] => []
  | x :: xs => if f x then g x :: xs else x :: modFirst f g xs

def findIdx {α : Type} (f : α → Bool) : List α → Option Nat
  | [] => none
  | x :: xs => if f x then some 0 else (findIdx f xs).map (· + 1)

def chunksFrom {α : Type} : Nat → Nat → List α → List (List α)
  | 0, _, _ => []
  | _, _, [] => []
  | fuel + 1, n, l => l.take n :: chunksFrom fuel n (l.drop n)

/-- Pieces of `n` elements, the last one perhaps shorter. -/
def chunks {α : Type} (n : Nat) (l : List α) : List (List α) := chunksFrom l.length n l

/-- `f 0`, `f 1`, … threaded through a state `n` times. -/
def iter {σ : Type} (n : Nat) (s : σ) (f : σ → Nat → σ) : σ := (List.range n).foldl f s

/-- The lowest number below `n` that satisfies `f`. -/
def firstBelow (n : Nat) (f : Nat → Bool) : Option Nat := (List.range n).find? f

end Sys2Proof.Machine
end

