-- ==== Sys2Proof/Machine/Num.lean ====
section
/-!
DEFINITION. Number formats and the arithmetic that fixes every rounding (R26 to R43). A finite value is an exact
dyadic number `m * 2^e`; `sticky` says that the true magnitude lies strictly between `m` and `m + 1` units.
-/
namespace Sys2Proof.Machine

inductive Val where
  | nan
  | inf (neg : Bool)
  | fin (neg : Bool) (m : Nat) (e : Int) (sticky : Bool)
deriving DecidableEq, Repr

/-- How a floating format treats its top exponent (Table 2.1). -/
inductive TopCode where
  /-- infinities and NaNs under an exponent of all ones -/
  | ieee
  /-- S.1111.111 alone is a NaN -/
  | oneNan
  /-- every code is finite -/
  | none
deriving DecidableEq, Repr

structure FFmt where
  eb : Nat
  mb : Nat
  bias : Nat
  top : TopCode
deriving DecidableEq, Repr

def fp32 : FFmt := ⟨8, 23, 127, .ieee⟩
def bf16 : FFmt := ⟨8, 7, 127, .ieee⟩

/-- The floating element formats of Table 2.1, by code. -/
def ffmt (code : Nat) : Option FFmt :=
  match code with
  | 0 => some fp32
  | 1 => some bf16
  | 2 => some ⟨5, 10, 15, .ieee⟩
  | 3 => some ⟨4, 3, 7, .oneNan⟩
  | 4 => some ⟨5, 2, 15, .ieee⟩
  | 5 => some ⟨4, 3, 7, .oneNan⟩
  | 6 => some ⟨5, 2, 15, .ieee⟩
  | 7 => some ⟨3, 2, 3, .none⟩
  | 8 => some ⟨2, 3, 1, .none⟩
  | 9 => some ⟨2, 1, 1, .none⟩
  | _ => Option.none

def fmtKnown (code : Nat) : Bool := decide (code ≤ 0xD)

/-- Bits of one element (Table 2.1). -/
def elemBits (code : Nat) : Nat :=
  match code with
  | 0 => 32 | 1 => 16 | 2 => 16 | 3 => 8 | 4 => 8 | 5 => 8 | 6 => 8 | 7 => 6 | 8 => 6 | 9 => 4
  | 10 => 8 | 11 => 4 | 12 => 32 | 13 => 64 | _ => 8

def isMx (code : Nat) : Bool := decide (5 ≤ code) && decide (code ≤ 9)
def isInt (code : Nat) : Bool := decide (10 ≤ code) && decide (code ≤ 13)
/-- Formats with a per-tensor scale as a destination (Table 2.4). -/
def takesTensorScale (code : Nat) : Bool := code == 3 || code == 4 || code == 0xA || code == 0xB

/-- The exponent of the largest finite element (Table 2.1). -/
def emaxOf (code : Nat) : Int :=
  match code with
  | 3 => 8 | 4 => 15 | 5 => 8 | 6 => 15 | 7 => 4 | 8 => 2 | 9 => 2 | 2 => 15 | _ => 127

/-- Bytes of a row of `n` packed elements (R27). -/
def rowBytes (code n : Nat) : Nat := ceilDiv (n * elemBits code) 8

/-! ### Reading an element -/

def decodeF (f : FFmt) (x : Nat) : Val :=
  let neg := bit x (f.eb + f.mb)
  let ex := bits x (f.eb + f.mb - 1) f.mb
  let ma := x % 2 ^ f.mb
  let top := 2 ^ f.eb - 1
  if f.top = .ieee ∧ ex = top then (if ma = 0 then .inf neg else .nan)
  else if f.top = .oneNan ∧ ex = top ∧ ma = 2 ^ f.mb - 1 then .nan
  else if ex = 0 then .fin neg ma (1 - (f.bias : Int) - f.mb) false
  else .fin neg (2 ^ f.mb + ma) ((ex : Int) - f.bias - f.mb) false

def ofInt (v : Int) : Val := .fin (decide (v < 0)) v.natAbs 0 false

/-- The element value of the bits `x` in format `code`, its scale apart (R29). -/
def decodeElem (code x : Nat) : Val :=
  match ffmt code with
  | some f => decodeF f x
  | none => ofInt (sext (elemBits code) x)

/-- Multiplies by a power of two, exactly. -/
def Val.scale (v : Val) (k : Int) : Val :=
  match v with
  | .fin n m e s => .fin n m (e + k) s
  | v => v

/-- E8M0: `none` is the NaN scale 0xFF (R28). -/
def e8m0 (s : Nat) : Option Int := if s = 0xFF then none else some ((s : Int) - 127)

/-! ### Rounding -/

def signed (neg : Bool) (m : Nat) : Int := if neg then -(m : Int) else m

/-- How an inexact magnitude is rounded: to nearest even, or against a Grain word (R43). -/
inductive Rnd where
  | rne
  | stoch (r : Nat)
deriving DecidableEq, Repr

/-- Rounds `m * 2^e` to a multiple of `2^q`, answering the multiple. -/
def roundAt (rnd : Rnd) (m : Nat) (e q : Int) (sticky : Bool) : Nat :=
  let sh := (q - e).toNat
  if q ≤ e then m * 2 ^ (e - q).toNat
  else
    let lo := m / 2 ^ sh
    let rem := m % 2 ^ sh
    if rem = 0 ∧ sticky = false then lo
    else match rnd with
      | .rne =>
        let half := 2 ^ (sh - 1)
        if rem > half ∨ (rem = half ∧ (sticky ∨ lo % 2 = 1)) then lo + 1 else lo
      | .stoch r => if rem * 2 ^ 32 / 2 ^ sh + r ≥ 2 ^ 32 then lo + 1 else lo

/-- The magnitude code of `m * 2^e` in format `f`: biased exponent and mantissa as one number, unbounded above. -/
def magCode (f : FFmt) (rnd : Rnd) (m : Nat) (e : Int) (sticky : Bool) : Nat :=
  let qmin : Int := 1 - (f.bias : Int) - f.mb
  let q := if m = 0 then qmin else max qmin ((ilog2 m : Int) + e - f.mb)
  roundAt rnd m e q sticky + (q - qmin).toNat * 2 ^ f.mb

/-- The code of the largest finite magnitude. -/
def maxCode (f : FFmt) : Nat :=
  match f.top with
  | .ieee => (2 ^ f.eb - 1) * 2 ^ f.mb - 1
  | .oneNan => 2 ^ (f.eb + f.mb) - 2
  | .none => 2 ^ (f.eb + f.mb) - 1

/-- The canonical quiet NaN (R30). -/
def nanCode (f : FFmt) : Nat :=
  match f.top with
  | .ieee => (2 ^ f.eb - 1) * 2 ^ f.mb + 2 ^ (f.mb - 1)
  | _ => 2 ^ (f.eb + f.mb) - 1

def infCode (f : FFmt) : Nat := (2 ^ f.eb - 1) * 2 ^ f.mb

def signBit (f : FFmt) (neg : Bool) : Nat := if neg then 2 ^ (f.eb + f.mb) else 0

/-- Overflow of R41: the largest finite value when saturating, else infinity, or the NaN where there is none. -/
def overflowCode (f : FFmt) (sat neg : Bool) : Nat :=
  if sat then signBit f neg + maxCode f
  else if f.top = .ieee then signBit f neg + infCode f
  else if f.top = .oneNan then nanCode f
  else signBit f neg + maxCode f

/-- A value in a floating format (R41, after any scaling). -/
def encodeF (f : FFmt) (rnd : Rnd) (sat : Bool) (v : Val) : Nat :=
  match v with
  | .nan => nanCode f
  | .inf neg => if f.top = .ieee then signBit f neg + infCode f else overflowCode f sat neg
  | .fin neg m e s =>
    let c := magCode f rnd m e s
    if c > maxCode f then overflowCode f sat neg else signBit f neg + c

/-- A value in an integer format: rounded, then clamped (R41). -/
def encodeI (n : Nat) (rnd : Rnd) (v : Val) : Nat :=
  match v with
  | .nan => 0
  | .inf neg => if neg then 2 ^ (n - 1) else 2 ^ (n - 1) - 1
  | .fin neg m e s =>
    let top : Int := (2 ^ (n - 1) : Nat)
    trunc n (clampI (-top) (top - 1) (signed neg (roundAt rnd m e 0 s)))

/-- Conversion control (Table 2.4). -/
structure Conv where
  fmt : Nat
  stoch : Bool
  sat : Bool
  scale : Nat
  draw : Nat
deriving DecidableEq, Repr

def convOf (x : Nat) : Conv :=
  { fmt := bits x 4 0, stoch := bit x 5, sat := bit x 7, scale := bits x 15 8, draw := bits x 31 16 }

/-- R40 and R29: reserved rounding, a scale where none is taken, the NaN scale, or an unknown destination. -/
def convBad (x : Nat) : Bool :=
  let c := convOf x
  bit x 6 || decide (0xB < c.fmt) || (!takesTensorScale c.fmt && c.scale != 0x7F) || c.scale == 0xFF

/-- The non-MX narrowing or widening of one value (R41). -/
def convElem (c : Conv) (rnd : Rnd) (v : Val) : Nat :=
  let v := v.scale (127 - (c.scale : Int))
  match ffmt c.fmt with
  | some f => encodeF f rnd c.sat v
  | none => encodeI (elemBits c.fmt) rnd v

def Val.isSpecial : Val → Bool
  | .fin _ _ _ _ => false
  | _ => true

/-- floor(log2 |v|), none for zero. -/
def Val.flog2 : Val → Option Int
  | .fin _ m e _ => if m = 0 then none else some ((ilog2 m : Int) + e)
  | _ => none

/-- The MX narrowing of a block: its scale byte and its elements (R42). -/
def mxBlock (code : Nat) (rnd : Nat → Rnd) (vs : List Val) : Nat × List Nat :=
  if vs.any Val.isSpecial then (0xFF, vs.map fun _ => 0)
  else
    let top := vs.foldl (fun (a : Option Int) v =>
      match a, v.flog2 with
      | none, x => x
      | some y, some x => some (max x y)
      | some y, none => some y) none
    let ee := match top with
      | none => -127
      | some x => max (-127) (x - emaxOf code)
    match ffmt code with
    | some f =>
      ((ee + 127).toNat, (List.range vs.length).map fun k =>
        encodeF f (rnd k) true ((vs.getD k .nan).scale (-ee)))
    | none => (0xFF, vs.map fun _ => 0)

/-! ### FP32 arithmetic, each result rounded once to nearest even (R34, R38) -/

def Val.neg : Val → Val
  | .nan => .nan
  | .inf n => .inf (!n)
  | .fin n m e s => .fin (!n) m e s

def Val.abs : Val → Val
  | .nan => .nan
  | .inf _ => .inf false
  | .fin _ m e s => .fin false m e s

/-- The exact sum of two values without sticky parts; an exact zero is +0 unless both are −0. -/
def Val.add (a b : Val) : Val :=
  match a, b with
  | .nan, _ => .nan
  | _, .nan => .nan
  | .inf x, .inf y => if x = y then .inf x else .nan
  | .inf x, .fin _ _ _ _ => .inf x
  | .fin _ _ _ _, .inf y => .inf y
  | .fin na ma ea _, .fin nb mb eb _ =>
    let e := min ea eb
    let v := signed na (ma * 2 ^ (ea - e).toNat) + signed nb (mb * 2 ^ (eb - e).toNat)
    if v = 0 then .fin (na && nb) 0 e false else .fin (decide (v < 0)) v.natAbs e false

def Val.isZero : Val → Bool
  | .fin _ m _ _ => m == 0
  | _ => false

def Val.isNeg : Val → Bool
  | .nan => false
  | .inf n => n
  | .fin n _ _ _ => n

def Val.mul (a b : Val) : Val :=
  match a, b with
  | .nan, _ => .nan
  | _, .nan => .nan
  | .inf x, b => if b.isZero then .nan else .inf (x != b.isNeg)
  | a, .inf y => if a.isZero then .nan else .inf (a.isNeg != y)
  | .fin na ma ea _, .fin nb mb eb _ => .fin (na != nb) (ma * mb) (ea + eb) false

def toF32 (v : Val) : Nat := encodeF fp32 .rne false v
def ofF32 (x : Nat) : Val := decodeF fp32 x

/-- A value rounded to FP32. -/
def rn (v : Val) : Val := ofF32 (toF32 v)

/-- FP32 addition and multiplication on bits. -/
def fadd (a b : Nat) : Nat := toF32 ((ofF32 a).add (ofF32 b))
def fmul (a b : Nat) : Nat := toF32 ((ofF32 a).mul (ofF32 b))
def fsub (a b : Nat) : Nat := toF32 ((ofF32 a).add (ofF32 b).neg)

/-- The real order of two non-NaN values. -/
def Val.lt (a b : Val) : Bool :=
  match a, b with
  | .nan, _ => false
  | _, .nan => false
  | .inf x, .inf y => x && !y
  | .inf x, .fin _ _ _ _ => x
  | .fin _ _ _ _, .inf y => !y
  | .fin na ma ea _, .fin nb mb eb _ =>
    let e := min ea eb
    decide (signed na (ma * 2 ^ (ea - e).toNat) < signed nb (mb * 2 ^ (eb - e).toNat))

/-- IEEE 754 maximum and minimum (R38): +0 is above −0. -/
def Val.max (a b : Val) : Val :=
  if a = .nan ∨ b = .nan then .nan
  else if a.isZero && b.isZero then (if a.isNeg then b else a)
  else if a.lt b then b else a

def Val.min (a b : Val) : Val :=
  if a = .nan ∨ b = .nan then .nan
  else if a.isZero && b.isZero then (if a.isNeg then a else b)
  else if b.lt a then b else a

/-- The magnitude of a quotient to 96 bits and more, with its sticky part. -/
def divMag (ma mb : Nat) : Nat × Nat × Bool :=
  let k := 97 + ilog2 mb
  let n := ma * 2 ^ k
  (n / mb, k, n % mb != 0)

/-- The integer square root, bit by bit. -/
def isqrtFrom : Nat → Nat → Nat → Nat
  | 0, _, r => r
  | k + 1, n, r => let t := r + 2 ^ k; isqrtFrom k n (if t * t ≤ n then t else r)

def isqrt (n : Nat) : Nat := isqrtFrom (ilog2 n / 2 + 1) n 0

/-- Square root of a positive finite magnitude `m * 2^e`. -/
def sqrtVal (m : Nat) (e : Int) : Val :=
  let e' := if e % 2 = 0 then e else e - 1
  let m' := if e % 2 = 0 then m else 2 * m
  let n := m' * 2 ^ 128
  let r := isqrt n
  .fin false r (e' / 2 - 64) (r * r != n)

/-- `ln 2` and `1 / ln 2` in units of 2^-288. -/
def ln2Fix : Nat := 0xb17217f7d1cf79abc9e3b39803f2f6af40f343267298b62d8a0d175b8baafa2be7b87620
def invLn2Fix : Nat := 0x171547652b82fe1777d0ffda0d23a7d11d6aef551bad2b4b1164a2cd9a342648fbc3887ee

/-- `sum_{k<n} y^k / k!` for `y` in units of 2^-288. -/
def expSeries (n y : Nat) : Nat :=
  ((List.range n).foldl (fun (acc : Nat × Nat) k => (acc.1 + acc.2, acc.2 * y / (k + 1) / 2 ^ 288)) (0, 2 ^ 288)).1

/-- `atanh z` for `z ≤ 1/3` in units of 2^-288. -/
def atanhSeries (n z : Nat) : Nat :=
  let z2 := z * z / 2 ^ 288
  ((List.range n).foldl (fun (acc : Nat × Nat) k => (acc.1 + acc.2 / (2 * k + 1), acc.2 * z2 / 2 ^ 288)) (0, z)).1

/-- `2^v` for finite `v`, to more than 250 bits (DEDUCED: R38 asks for the correctly rounded value, which this
precision decides).
DEDUCED, notes/assumptions/22. -/
def exp2Fin (neg : Bool) (m : Nat) (e : Int) : Val :=
  if (ilog2 m : Int) + e ≥ 12 ∧ m ≠ 0 then (if neg then .fin false 1 (-400) true else .fin false 1 400 true)
  else
    -- v in units of 2^-288, exact because e ≥ -149 here for FP32 operands
    let s := signed neg (m * 2 ^ (e + 288).toNat)
    let n := Int.fdiv s (2 ^ 288 : Nat)
    let f := (s - n * (2 ^ 288 : Nat)).toNat
    if f = 0 then .fin false 1 n false
    else .fin false (expSeries 80 (f * ln2Fix / 2 ^ 288)) (n - 288) true

/-- `log2 (m * 2^e)` for `m > 0`.
DEDUCED, notes/assumptions/22. -/
def log2Pos (m : Nat) (e : Int) : Val :=
  let l := ilog2 m
  let n : Int := l + e
  if m = 2 ^ l then .fin (decide (n < 0)) n.natAbs 0 false
  else
    let z := (m - 2 ^ l) * 2 ^ 288 / (m + 2 ^ l)
    let fr : Nat := 2 * atanhSeries 100 z * invLn2Fix / 2 ^ 288
    let s := n * (2 ^ 288 : Nat) + fr
    .fin (decide (s < 0)) s.natAbs (-288) true

/-- Operation of the FP32 and BF16 lanes (R38). -/
inductive FOp where
  | add | sub | mul | fma | div | sqrt | exp2 | log2 | min | max
deriving DecidableEq, Repr

/-- A number of its own for each operation. -/
def FOp.code : FOp → Nat
  | .add => 0 | .sub => 1 | .mul => 2 | .fma => 3 | .div => 4 | .sqrt => 5 | .exp2 => 6 | .log2 => 7 | .min => 8 | .max => 9

/-- The exact result, or none where the manual states no result: a quotient by zero or of infinities, the square
root of a value with its sign set, the logarithm of zero or of a value with its sign set. -/
def fopExact (op : FOp) (a b c : Val) : Option Val :=
  match op with
  | .add => some (a.add b)
  | .sub => some (a.add b.neg)
  | .mul => some (a.mul b)
  | .fma => some ((a.mul b).add c)
  | .min => some (a.min b)
  | .max => some (a.max b)
  | .div =>
    match a, b with
    | .nan, _ => some .nan
    | _, .nan => some .nan
    | .inf _, .inf _ => none
    | .inf x, .fin nb mb _ _ => if mb = 0 then none else some (.inf (x != nb))
    | .fin na _ _ _, .inf y => some (.fin (na != y) 0 0 false)
    | .fin na ma ea _, .fin nb mb eb _ =>
      if mb = 0 then none
      else let (q, k, st) := divMag ma mb; some (.fin (na != nb) q (ea - eb - k) st)
  | .sqrt =>
    match a with
    | .nan => some .nan
    | .inf n => if n then none else some (.inf false)
    | .fin n m e _ => if n then none else if m = 0 then some (.fin false 0 0 false) else some (sqrtVal m e)
  | .exp2 =>
    match a with
    | .nan => some .nan
    | .inf n => some (if n then .fin false 0 0 false else .inf false)
    | .fin n m e _ => some (exp2Fin n m e)
  | .log2 =>
    match a with
    | .nan => some .nan
    | .inf n => if n then none else some (.inf false)
    | .fin n m e _ => if n ∨ m = 0 then none else some (log2Pos m e)

/-- One lane's result in FP32 or, when `b16`, in BF16 (R38). Where the manual states no result it is free, but for what every
result keeps: the root of a zero is a zero, and a NaN is the canonical one (R30).
DESIGN CHOICE, notes/assumptions/5. DEDUCED, notes/assumptions/22. -/
def fopLane (op : FOp) (b16 : Bool) (a b c : Val) : Nat :=
  match fopExact op a b c with
  | some v => encodeF (if b16 then bf16 else fp32) .rne false v
  | none =>
    let f := if b16 then bf16 else fp32
    let free := (Config.freeLane op.code (toF32 a) (toF32 b)).toNat
    if op = .sqrt ∧ a.isZero then signBit f (bit free 0)
    else
      let free := if b16 then free % 2 ^ 16 else free
      if decodeF f free = .nan then nanCode f else free

def fmaxBits (a b : Nat) : Nat := toF32 ((ofF32 a).max (ofF32 b))
def fminBits (a b : Nat) : Nat := toF32 ((ofF32 a).min (ofF32 b))

/-! ### Sums -/

/-- The products of one column, summed exactly and rounded once (R32, R33). -/
def exactColumn (ps : List Val) : Val :=
  if ps.any (· == .nan) then .nan
  else
    let pos := ps.any (· == .inf false)
    let neg := ps.any (· == .inf true)
    if pos && neg then .nan
    else if pos then .inf false
    else if neg then .inf true
    else
      let x := ps.foldl Val.add (.fin false 0 0 false)
      if x.isZero then .fin false 0 0 false else rn x

/-- Cell order: each product rounded, then added in ascending K (R34). -/
def cellColumn (ps : List Val) : Val :=
  match ps.map rn with
  | [] => .fin false 0 0 false
  | p :: rest => rest.foldl (fun s q => rn (s.add q)) p

/-- One level of the pairwise tree; an absent partner passes the other on (R39). -/
def treeLevel : List Val → List Val
  | a :: b :: rest => rn (a.add b) :: treeLevel rest
  | l => l

def treeSum (l : List Val) : Val :=
  match (List.range 8).foldl (fun v _ => treeLevel v) l with
  | [] => .fin false 0 0 false
  | v :: _ => v

/-- The row sum of R39, over FP32 values; none for an empty row. -/
def rowSum (l : List Val) : Option Val :=
  (chunks 256 l).foldl (fun (acc : Option Val) blk =>
    match acc with
    | none => some (treeSum blk)
    | some a => some (rn (a.add (treeSum blk)))) none

/-- R88's ranking of candidates: a NaN above every number, the zeros equal. -/
def rankGt (a b : Val) : Bool :=
  match a, b with
  | .nan, .nan => false
  | .nan, _ => true
  | _, .nan => false
  | a, b => b.lt a

/-- Position and value of the maximum, ties to the lower position (R39). -/
def rowArgmax (l : List Val) : Option (Nat × Val) :=
  iter l.length (none : Option (Nat × Val)) fun best k =>
    let v := l.getD k .nan
    match best with
    | none => some (k, v)
    | some (j, w) => if rankGt v w then some (k, v) else some (j, w)

/-! ### Packed rows (R27) -/

/-- Element `k` of a packed row whose bytes spell `row`. -/
def elemAt (code row k : Nat) : Nat := (row >>> (k * elemBits code)) % 2 ^ elemBits code

/-- The bytes of a packed row; absent bits are zero. -/
def packRow (code : Nat) (xs : List Nat) : List Byte :=
  let w := elemBits code
  let n := xs.foldr (fun x acc => x % 2 ^ w + acc * 2 ^ w) 0
  leBytes (rowBytes code xs.length) n

/-- The values of `n` elements of a packed row. -/
def unpackRow (code n : Nat) (bs : List Byte) : List Val :=
  let row := leNat bs
  (List.range n).map fun k => decodeElem code (elemAt code row k)

end Sys2Proof.Machine
end

