-- ==== Sys2Proof/Machine/Grain.lean ====
section
/-!
DEFINITION. Grain: Philox4x32 with 10 rounds (R191 to R193), and the rounding draws of R43.
-/
namespace Sys2Proof.Machine

structure Quad where
  c0 : Nat
  c1 : Nat
  c2 : Nat
  c3 : Nat
deriving DecidableEq, Repr

def philoxRound (c : Quad) (k0 k1 : Nat) : Quad :=
  let p0 := 0xD2511F53 * c.c0
  let p1 := 0xCD9E8D57 * c.c2
  { c0 := (p1 / 2 ^ 32) ^^^ c.c1 ^^^ k0, c1 := p1 % 2 ^ 32
    c2 := (p0 / 2 ^ 32) ^^^ c.c3 ^^^ k1, c3 := p0 % 2 ^ 32 }

/-- The block of R191. -/
def philox (c : Quad) (k0 k1 : Nat) : Quad :=
  iter 10 c fun c r =>
    philoxRound c ((k0 + r * 0x9E3779B9) % 2 ^ 32) ((k1 + r * 0xBB67AE85) % 2 ^ 32)

/-- Word `w mod 4` of the block with element field `w div 4` (R192, R193). -/
def grainWord (key w draw tag : Nat) : Nat :=
  let el := w / 4 % 2 ^ 64
  let q := philox ⟨el % 2 ^ 32, el / 2 ^ 32, draw % 2 ^ 32, tag % 2 ^ 32⟩ (key % 2 ^ 32) (key / 2 ^ 32 % 2 ^ 32)
  match w % 4 with
  | 0 => q.c0
  | 1 => q.c1
  | 2 => q.c2
  | _ => q.c3

/-- How a conversion rounds the element whose row-major index is `e` (R43): `seed` is the context's rounding seed. -/
def convRnd (c : Conv) (seed e : Nat) : Rnd :=
  if c.stoch then .stoch (grainWord seed e c.draw 1) else .rne

/-- Converts logical element `e` of value `v` under a non-MX destination. -/
def convAt (c : Conv) (seed e : Nat) (v : Val) : Nat := convElem c (convRnd c seed e) v

end Sys2Proof.Machine
end

