-- ==== Sys2Proof/Machine/Ops.lean ====
section
/-!
DEFINITION. Access to the units of the block, the counters, the device address map, and memory behind its channel
controllers: what a read sees, and what a request does when it is served (Chapters 1, 13 and 19).
-/
namespace Sys2Proof.Machine

/-! ### Units -/

/-- Physical spindle `p` before anything has touched it: spares are out of service (Table 3.8), scratchpad and bowl
are unspecified (Table 21.5), under tags from `tag` on.
DESIGN CHOICE, notes/assumptions/4. -/
def Spindle.init (tag p : Nat) : Spindle :=
  { inService := decide (p % 68 < 64), spare := decide (64 ≤ p % 68)
    spad := { undef := [(0, 0x600000, tag + 2 * p)] }, bowl := { undef := [(0, 0x100000, tag + 2 * p + 1)] } }

def Block.spd (b : Block) (p : Nat) : Spindle := (tfind b.spindles p).getD (Spindle.init b.bootTag p)
def Block.setSpd (b : Block) (p : Nat) (x : Spindle) : Block := { b with spindles := tset b.spindles p x }
def Block.modSpd (b : Block) (p : Nat) (f : Spindle → Spindle) : Block := b.setSpd p (f (b.spd p))

def Block.tile (b : Block) (t : Nat) : Tile := tget {} b.tiles t
def Block.setTile (b : Block) (t : Nat) (x : Tile) : Block := { b with tiles := tset b.tiles t x }
def Block.modTile (b : Block) (t : Nat) (f : Tile → Tile) : Block := b.setTile t (f (b.tile t))

def Block.chan (b : Block) (c : Nat) : Channel := tget {} b.chans c
def Block.setChan (b : Block) (c : Nat) (x : Channel) : Block := { b with chans := tset b.chans c x }
def Block.modChan (b : Block) (c : Nat) (f : Channel → Channel) : Block := b.setChan c (f (b.chan c))

def Block.ctx (b : Block) (c : Nat) : Ctx := tget {} b.ctxs c
def Block.setCtx (b : Block) (c : Nat) (x : Ctx) : Block := { b with ctxs := tset b.ctxs c x }
def Block.modCtx (b : Block) (c : Nat) (f : Ctx → Ctx) : Block := b.setCtx c (f (b.ctx c))

def Block.ring (b : Block) (r : Nat) : Ring := tget {} b.rings r
def Block.setRing (b : Block) (r : Nat) (x : Ring) : Block := { b with rings := tset b.rings r x }
def Block.modRing (b : Block) (r : Nat) (f : Ring → Ring) : Block := b.setRing r (f (b.ring r))

def Block.conn (b : Block) (k : Nat) : Conn := tget {} b.conns k
def Block.setConn (b : Block) (k : Nat) (x : Conn) : Block := { b with conns := tset b.conns k x }
def Block.modConn (b : Block) (k : Nat) (f : Conn → Conn) : Block := b.setConn k (f (b.conn k))

def Block.cell (b : Block) (c : Nat) : Cell := tget {} b.cells c
def Block.port (b : Block) (p : Nat) : Port := tget {} b.ports p
def Block.modPort (b : Block) (p : Nat) (f : Port → Port) : Block := { b with ports := tset b.ports p (f (b.port p)) }
def Block.func (b : Block) (f : Nat) : Func := tget {} b.funcs f
def Block.modFunc (b : Block) (n : Nat) (f : Func → Func) : Block := { b with funcs := tset b.funcs n (f (b.func n)) }

/-- The tile of physical spindle `p`. -/
def tileOf (p : Nat) : Nat := p / 68

/-- A fresh tag of free bytes: the tags below it are in use.
DESIGN CHOICE, notes/assumptions/4. DESIGN CHOICE, notes/assumptions/144. -/
def Block.freshTag (b : Block) : Nat := 544 + b.freeCtr
def Block.bumpFree (b : Block) : Block := { b with freeCtr := b.freeCtr + 1 }

/-! ### Scratchpad and bowl bytes -/

/-- DESIGN CHOICE, notes/assumptions/4. -/
def Ram.byte (r : Ram) (a : Nat) : Byte :=
  match tfind r.mem a with
  | some v => v
  | none =>
    match r.undef.find? fun u => decide (u.1 ≤ a) && decide (a < u.2.1) with
    | some (_, _, tag) => Config.freeByte tag a
    | none => 0

/-- Removes `[lo, hi)` from the unspecified ranges. -/
def cutUndef (lo hi : Nat) : List (Nat × Nat × Nat) → List (Nat × Nat × Nat)
  | [] => []
  | (l, h, t) :: rest =>
    let keep (x : Nat × Nat × Nat) := if x.1 < x.2.1 then [x] else []
    (if hi ≤ l ∨ h ≤ lo then [(l, h, t)] else keep (l, min h lo, t) ++ keep (max l hi, h, t)) ++ cutUndef lo hi rest

/-- DESIGN CHOICE, notes/assumptions/4. -/
def Ram.read (r : Ram) (a n : Nat) : List Byte := (List.range n).map fun k => r.byte (a + k)

def Ram.write (r : Ram) (a : Nat) (bs : List Byte) : Ram :=
  { mem := (iter bs.length r.mem fun t k => tput 0 t (a + k) (bs.getD k 0))
    undef := cutUndef a (a + bs.length) r.undef }

/-- Bytes `[lo, hi)` become unspecified under `tag`.
DESIGN CHOICE, notes/assumptions/4. -/
def Ram.forget (r : Ram) (lo hi tag : Nat) : Ram :=
  { mem := r.mem.filter fun e => decide (e.1 < lo) || decide (hi ≤ e.1)
    undef := if lo < hi then (lo, hi, tag) :: cutUndef lo hi r.undef else r.undef }

/-! ### Counters (R337 to R344) -/

/-- A counter advanced by `n`, wrapping at 2^48 (R337). -/
def Counter.add (c : Counter) (n : Nat) : Counter :=
  { c with count := (c.count + n) % 2 ^ 48, ovf := c.ovf || decide (2 ^ 48 ≤ c.count + n) }

def bumpTab (t : Tab Counter) (k n : Nat) : Tab Counter := tput {} t k ((tget {} t k).add n)

/-- Bytes counted at port `p` (Table 19.6); nothing advances while frozen (R348). -/
def Block.countPort (b : Block) (p n : Nat) : Block :=
  if b.cnt.freeze then b
  else { b with cnt := { b.cnt with tot := bumpTab b.cnt.tot p n, window := tput 0 b.cnt.window p (tget 0 b.cnt.window p + n) } }

def Block.countSpec (b : Block) (p n : Nat) : Block :=
  if b.cnt.freeze then b else { b with cnt := { b.cnt with spec := bumpTab b.cnt.spec p n } }

/-- CNT_CTX_n counter `k` (Table 19.7). -/
def Block.countCtx (b : Block) (c k n : Nat) : Block :=
  if b.cnt.freeze ∨ n = 0 then b else b.modCtx c fun x => { x with cnt := bumpTab x.cnt k n }

/-- Slots enter their category, charged to a context or to the device account (R339, R340). -/
def Block.addSlots (b : Block) (x : Slots) : Block :=
  let b := b.modSpd x.spindle fun s => { s with cntTd := bumpTab s.cntTd (4 * x.src + x.cat) x.n }
  match x.ctx with
  | some c => b.modCtx c fun y => { y with cnt := bumpTab y.cnt x.cat x.n }
  | none => { b with cnt := { b.cnt with devIdle := b.cnt.devIdle.add x.n } }

/-- A tally is posted; while the counters are frozen it waits (R340, R348). -/
def Block.postSlots (b : Block) (x : Slots) : Block :=
  if x.n = 0 then b
  else if b.cnt.freeze then { b with cnt := { b.cnt with owed := b.cnt.owed ++ [x] } }
  else b.addSlots x

/-- CNT_CTL.freeze is written; what waited is posted when it returns to 0 (R348). -/
def Block.setFreeze (b : Block) (on : Bool) : Block :=
  let b : Block := { b with cnt := { b.cnt with freeze := on } }
  if on then b else b.cnt.owed.foldl Block.addSlots { b with cnt := { b.cnt with owed := [] } }

/-- Slots of source `e` of spindle `q` worked for the blank of this spindle. -/
def Spindle.addTally (s : Spindle) (q e n : Nat) : Spindle :=
  if n = 0 then s else { s with tally := tput 0 s.tally (8 * q + e) (tget 0 s.tally (8 * q + e) + n) }

/-- Event `code` happens `n` times on spindle `p`, charged to context `c` (R341).
DESIGN CHOICE, notes/assumptions/148. -/
def Block.countEvent (b : Block) (p c code n : Nat) : Block :=
  let s := b.spd p
  let hit := (List.range 8).filter fun j =>
    let sel := (tget 0 s.cntSel j).toNat
    bits sel 7 0 == code && code != 0 && (!bit sel 20 || bits sel 19 16 == c)
  if b.cnt.freeze ∨ hit = [] ∨ n = 0 then b
  else b.setSpd p { s with cntProg := hit.foldl (fun t j => bumpTab t j n) s.cntProg }

/-! ### Routes (R12, Tables 1.2 and 19.6) -/

def tileLinkPort (a c : Nat) : Nat :=
  let l := if a / 2 = c / 2 then (if a < 2 then 0 else 1) else (if a % 2 = 0 then 2 else 3)
  48 + 2 * l + (if a < c then 0 else 1)

/-- The link ports that data crosses from `src` to `dst`; `none` is the hub. -/
def route (src dst : Option Nat) (g : Nat) : List Nat :=
  match src, dst with
  | none, none => []
  | some a, none => [56 + 2 * a]
  | none, some c => [57 + 2 * c]
  | some a, some c =>
    if a = c then []
    else if a ^^^ c = 3 then
      (if g % 16 ≤ 9 then [56 + 2 * a, 57 + 2 * c]
       else
         let mid := if g % 16 ≤ 12 then a ^^^ 1 else a ^^^ 2
         [tileLinkPort a mid, tileLinkPort mid c])
    else [tileLinkPort a c]

/-- DEDUCED, notes/assumptions/88. -/
def Block.countRoute (b : Block) (src dst : Option Nat) (g n : Nat) : Block :=
  (route src dst g).foldl (fun b p => b.countPort p n) b

/-! ### The address map (R16 to R21) -/

inductive Region where
  | hbm | deep | host | control | debug | unmapped
deriving DecidableEq, Repr

/-- DEDUCED, notes/assumptions/132. -/
def Block.hbmTop (b : Block) : Nat := if b.memoryDegraded then 0 else b.inservice.length * 2 ^ 31

def deepBase : Nat := 0x10000000000
def deepEnd : Nat := 0x50000000000
def hostBase : Nat := 0x100000000000

def Block.region (b : Block) (a : Nat) : Region :=
  if a < b.hbmTop then .hbm
  else if deepBase ≤ a ∧ a < deepEnd ∧ b.memoryDegraded = false then .deep
  else if hostBase ≤ a ∧ a < 0x200000000000 then .host
  else if 0xF00000000000 ≤ a ∧ a < 0xF00100000000 then .control
  else if 0xF01000000000 ≤ a ∧ a < 0xF01400000000 then .control
  else if 0xF02000000000 ≤ a ∧ a < 0xF02000100000 then .control
  else if 0xF80000000000 ≤ a ∧ a < 0xFA0000000000 ∧ (a - 0xF80000000000) % 2 ^ 39 < 0x4400000000 then .debug
  else .unmapped

/-- The 64 B-line key and byte key of a local HBM or deep-tier address: channel and offset within it (R19, R21).
DEDUCED, notes/assumptions/132. -/
def Block.place (b : Block) (a : Nat) : Nat × Nat :=
  if a < deepBase then
    let g := a / 4096
    let n := b.inservice.length
    (b.inservice.getD (g % n) 0, g / n * 4096 + a % 4096)
  else
    let g := (a - deepBase) / 4096
    (256 + g % 128, g / 128 * 4096 + a % 4096)

def memKey (p : Nat × Nat) : Nat := p.1 * 2 ^ 35 + p.2

def Block.chanOf (b : Block) (a : Nat) : Nat := (b.place a).1

/-- The tile of a channel (R11). -/
def chanTile (c : Nat) : Nat := if c < 256 then c / 64 else (c - 256) / 32

/-- What a whole access meets (R16, R17, R247): its region, or the status it completes with. -/
def Block.rangeOf (b : Block) (a len : Nat) : Except Status Region :=
  if b.memoryDegraded ∧ a < deepEnd then .error .memoryDegraded
  else
    let r := b.region a
    if r = .unmapped ∨ b.region (a + len - 1) ≠ r then .error .addressUnmapped
    else if r = .hbm ∨ r = .deep ∨ r = .host then .ok r
    else if a + len ≤ 2 ^ 48 then .ok r else .error .addressUnmapped

/-- An access by a load, store or gouge engine (Table 1.7). -/
def Block.engineRange (b : Block) (a len : Nat) : Except Status Region :=
  match b.rangeOf a len with
  | .ok .control => .error .accessDenied
  | .ok .debug => .error .accessDenied
  | r => r

/-- An access confined to HBM and the deep tier, by the hub for a peer or the host (Table 1.7). -/
def Block.memRange (b : Block) (a len : Nat) : Except Status Region :=
  match b.rangeOf a len with
  | .ok .hbm => .ok .hbm
  | .ok .deep => .ok .deep
  | .ok _ => .error .accessDenied
  | r => r

/-- The status for a parameter of a Minyx command that has to name device memory: another region breaches its range (R320).
DESIGN CHOICE, notes/assumptions/44. -/
def paramStatus (st : Status) : Status := if st = .accessDenied then .invalidField else st

/-- The range lies wholly in one HBM or deep-tier region (R252, R362). -/
def Block.inMemory (b : Block) (a len : Nat) : Bool :=
  match b.memRange a len with
  | .ok _ => true
  | .error _ => false

/-- The pieces of a range, one per 4 KiB granule: address and length (R17). -/
def granules (a len : Nat) : List (Nat × Nat) :=
  if len = 0 then []
  else (List.range ((a + len - 1) / 4096 - a / 4096 + 1)).map fun k =>
    let lo := max a ((a / 4096 + k) * 4096)
    (lo, min (a + len) ((a / 4096 + k + 1) * 4096) - lo)

/-! ### Lines -/

/-- The 512-bit mask of a byte mask. -/
def expandMask (mask : Nat) : Nat := (bitList 64 mask).foldl (fun acc k => acc + 0xFF <<< (8 * k)) 0

def mergeNat (old new mask : Nat) : Nat :=
  let e := expandMask mask
  (old &&& ((2 ^ 512 - 1) ^^^ e)) ||| (new &&& e)

def fullMask : Nat := 2 ^ 64 - 1

/-- The number that bytes `[lo, lo + n)` of a byte map spell. -/
def tabNat (t : Tab Byte) (lo n : Nat) : Nat :=
  t.foldl (fun acc e => if lo ≤ e.1 ∧ e.1 < lo + n then acc + e.2.toNat <<< (8 * (e.1 - lo)) else acc) 0

/-- One element of a memory-side operation (Table 6.5).
DEDUCED, notes/assumptions/49. -/
def memElem (op : MemOp) (fmt m c : Nat) : Nat :=
  match op with
  | .store => c
  | .add =>
    if fmt = 0 then fadd m c
    else if fmt = 1 then encodeF bf16 .rne false ((decodeF bf16 m).add (decodeF bf16 c))
    else (m + c) % 2 ^ elemBits fmt
  | .max => fmaxBits m c
  | .min => fminBits m c

/-- A memory-side piece on a line: each element with covered bytes is replaced by its new value (R130).
DEDUCED, notes/assumptions/49. -/
def memPiece (op : MemOp) (fmt old data mask : Nat) : Nat :=
  if op = .store then mergeNat old data mask
  else
    let w := elemBits fmt
    let new := iter (512 / w) 0 fun acc k =>
      acc + memElem op fmt ((old >>> (k * w)) % 2 ^ w) ((data >>> (k * w)) % 2 ^ w) <<< (k * w)
    mergeNat old new mask

/-- A line as later requests see it. -/
structure LineSt where
  data : Nat := 0
  poisoned : Bool := false
deriving DecidableEq, Repr

/-- What a request does to its line, and whether its outcome is POISONED_TARGET (Table 13.2, R131, R238). A request
to a failed channel is discarded.
DEDUCED, notes/assumptions/87. -/
def serveLine (failed : Bool) (l : LineSt) (q : Req) : LineSt × Bool :=
  if failed then (l, true)
  else
    let mask := q.mask.toNat
    let merged := mergeNat l.data q.data.toNat mask
    match q.kind with
    | .write => if mask = fullMask then ({ data := merged, poisoned := false }, false) else ({ l with data := merged }, l.poisoned)
    | .poison => ({ data := merged, poisoned := true }, false)
    | .mark => ({ l with poisoned := true }, false)
    | .memOp .store fmt =>
      if mask = fullMask then ({ data := merged, poisoned := false }, false)
      else ({ l with data := memPiece .store fmt l.data q.data.toNat mask }, l.poisoned)
    | .memOp op fmt => if l.poisoned then (l, true) else ({ l with data := memPiece op fmt l.data q.data.toNat mask }, false)

def Block.failedChan (b : Block) (c : Nat) : Bool := decide ((b.chan c).state = .failed)

/-- The line in its channel, before any waiting request. -/
def Dram.line (m : Dram) (key : Nat) : LineSt :=
  { data := tabNat m.mem (key * 64) 64, poisoned := tget false m.poison key }

/-- The line of local address `64 * line`, as a read that queues behind every request sent so far sees it (R244).
DEDUCED, notes/assumptions/28. -/
def lineNow (m : Dram) (b : Block) (line : Nat) : LineSt :=
  let pl := b.place (64 * line)
  let c := b.chan pl.1
  if c.state = .failed then { data := 0, poisoned := true }
  else (c.queue ++ c.transit).foldl (fun l q => if q.line = line then (serveLine false l q).1 else l) (m.line (memKey pl / 64))

/-- The lines that a byte range touches. -/
def linesOf (a len : Nat) : List Nat :=
  if len = 0 then [] else (List.range ((a + len - 1) / 64 - a / 64 + 1)).map (a / 64 + ·)

/-- Bytes of a range and whether any line of it is poisoned, read at the channel controllers.
DEDUCED, notes/assumptions/28. -/
def readNow (m : Dram) (b : Block) (a len : Nat) : Bool × List Byte :=
  let ls := (linesOf a len).map (lineNow m b)
  let all := ls.foldr (fun l acc => l.data + acc * 2 ^ 512) 0
  (ls.any (·.poisoned), leBytes len (all >>> (8 * (a % 64))))

/-! ### Requests -/

/-- Pieces of bytes at an address, one per 64 B line (R130).
DEDUCED, notes/assumptions/49. -/
def linePieces (a : Nat) (bs : List Byte) : List (Nat × List Byte) :=
  (linesOf a bs.length).map fun l =>
    let lo := max a (64 * l)
    (lo, (bs.drop (lo - a)).take (min (a + bs.length) (64 * l + 64) - lo))

/-- Bytes at `a` cut at line boundaries: line, mask and data of each piece. -/
def cutLines (a : Nat) (bs : List Byte) : List (Nat × Nat × Nat) :=
  (linesOf a bs.length).map fun l =>
    let lo := max a (64 * l)
    let hi := min (a + bs.length) (64 * l + 64)
    (l, ((2 ^ (hi - lo) - 1) <<< (lo - 64 * l)), leNat ((bs.drop (lo - a)).take (hi - lo)) <<< (8 * (lo - 64 * l)))

/-- A request leaves its issuer for the line's channel. -/
def Block.send (b : Block) (q : Req) : Block :=
  b.modChan (b.chanOf (64 * q.line)) fun c => { c with transit := c.transit ++ [q] }

def Block.sendBytes (b : Block) (kind : ReqKind) (src : ReqSrc) (a : Nat) (bs : List Byte) : Block :=
  (cutLines a bs).foldl (fun b (l, mask, data) =>
    b.send { kind := kind, line := l, data := BitVec.ofNat 512 data, mask := BitVec.ofNat 64 mask, src := src }) b

/-- A write to one of these lines has been sent and is not accepted: by its channel controller, or, in the host window, by
PCIe. -/
def Block.linesSent (b : Block) (ls : List Nat) : Bool :=
  ls != [] && ((b.chans.any fun c => c.2.transit.any fun q => ls.contains q.line)
    || b.hostReads.any fun x => x.wr.isSome && ls.any fun l => (linesOf (hostBase + x.haddr) x.len).contains l)

/-- A write to one of these lines has not been accepted, or has not even been sent. -/
def Block.linesWait (b : Block) (ls : List Nat) : Bool :=
  b.linesSent ls || b.hubLater.any fun x => ls.contains (x.addr / 64)

/-- Lines of requests from sources that satisfy `f` that no channel controller has accepted yet. -/
def Block.openLines (b : Block) (f : ReqSrc → Bool) : List Nat :=
  b.chans.flatMap fun c => (c.2.transit.filter fun q => f q.src).map (·.line)

/-- The tile whose spindles or write-combining buffer sent a request. -/
def ReqSrc.tile : ReqSrc → Option Nat
  | .wc p _ _ _ _ => some (tileOf p)
  | .memSide p _ _ _ => some (tileOf p)
  | _ => Option.none

/-- Spindle `p` may begin to send: its store engine, which drains use too, has fewer than 256 lines on their way, and a credit is left
to its tile, of its own 49,152 or of the hub's 65,536 (R249). -/
def Block.lineRoom (b : Block) (p : Nat) (store : Bool) : Bool :=
  let used (t : Option Nat) : Nat := (b.openLines fun src => src.tile == t).length
  let hub := used none + (b.hostReads.filter (·.wr.isNone)).length + ((List.range 4).map fun t => used (some t) - 49152).sum
  let mine (src : ReqSrc) : Bool := match src with
    | .wc sp _ _ _ e => sp == p && e &&& 9 != 0
    | _ => false
  !(store && decide (256 ≤ (b.openLines mine).length)) && (decide (used (some (tileOf p)) < 49152) || decide (hub < 65536))

/-- A command whose reads or write-backs find a controller's queue full changes nothing and comes again (R244).
DESIGN CHOICE, notes/assumptions/152. -/
def Block.orWait (b : Block) (f : Block → Block) : Block :=
  let r := f b
  if r.stalled then b else r

/-- Ports of a channel's reads and writes (Table 19.6). -/
def readPort (c : Nat) : Nat := if c < 256 then c / 16 else 32 + (c - 256) / 16
def writePort (c : Nat) : Nat := if c < 256 then 16 + c / 16 else 40 + (c - 256) / 16

/-- Who reads: the tile (none for a hub block), the context charged, and whether the read is speculative. -/
structure Reader where
  tile : Option Nat := none
  ctx : Option Nat := none
  spec : Bool := false
deriving DecidableEq, Repr

/-- The traffic of one line read at its channel: a speculative read counts in SPEC of its read port and nowhere else
(R67, R342, R344). -/
def Block.countRead (b : Block) (rd : Reader) (line : Nat) : Block :=
  let c := b.chanOf (64 * line)
  if rd.spec then b.countSpec (readPort c) 64
  else
    let b := (b.countPort (readPort c) 64).countRoute (some (chanTile c)) rd.tile (line / 64) 64
    match rd.ctx with
    | some n => b.countCtx n 6 64
    | none => b

/-- Whether bytes written now will meet a poisoned line, an uncorrectable one apart, or a failed channel (Table 13.2): the
outcome that the channel controllers report to a writer that waits for it.
DEDUCED, notes/assumptions/28. -/
def writeBad (m : Dram) (b : Block) (kind : ReqKind) (a : Nat) (bs : List Byte) : Bool :=
  (cutLines a bs).any fun (l, mask, data) =>
    (serveLine (b.failedChan (b.chanOf (64 * l))) (lineNow m b l)
      { kind, line := l, data := BitVec.ofNat 512 data, mask := BitVec.ofNat 64 mask }).2

/-- A plain write by the hub at the channel controllers. -/
def Block.hubWrite (b : Block) (a : Nat) (bs : List Byte) : Block := b.sendBytes .write .hub a bs

end Sys2Proof.Machine
end

