-- ==== Sys2Proof/Machine/Flags.lean ====
section
/-!
DEFINITION. Status codes, local flags, and the status words that registers show.
-/
namespace Sys2Proof.Machine

/-- Numeric status codes (Table 17.8). -/
def Status.code : Status → Nat
  | .success => 0x00
  | .invalidField => 0x01
  | .accessDenied => 0x02
  | .addressUnmapped => 0x03
  | .poisonedTarget => 0x04
  | .handleNotLive => 0x05
  | .handleNotOwner => 0x06
  | .pageNotLive => 0x07
  | .rackFull => 0x08
  | .poolEmpty => 0x09
  | .combineFull => 0x0A
  | .shavingsFull => 0x0B
  | .epochHeld => 0x0C
  | .epochRejected => 0x0D
  | .timeout => 0x0E
  | .peerLost => 0x0F
  | .chainBroken => 0x10
  | .domainOff => 0x11
  | .configMismatch => 0x12
  | .memoryDegraded => 0x13
  | .unknownCommand => 0x14
  | .notReady => 0x15
  | .signatureInvalid => 0x16
  | .versionRollback => 0x17
  | .spindleFault => 0x18
  | .contextTeardown => 0x19

/-- A set: adds 1, or at 65,535 sets sat (R57). -/
def LocalFlag.set (f : LocalFlag) : LocalFlag :=
  if f.count = 65535 then { f with sat := true } else { f with count := f.count + 1 }

/-- A satisfied wait (R57). -/
def LocalFlag.take (f : LocalFlag) : LocalFlag := { f with count := f.count - 1 }

/-- The return of a squashed command's consumption: sat is not touched (R58). -/
def LocalFlag.giveBack (f : LocalFlag) : LocalFlag := { f with count := min 65535 (f.count + 1) }

def Spindle.flag (s : Spindle) (k : Nat) : LocalFlag := tget {} s.flags k
def Spindle.modFlag (s : Spindle) (k : Nat) (f : LocalFlag → LocalFlag) : Spindle :=
  { s with flags := tput {} s.flags k (f (s.flag k)) }

/-- A state of TILE_MC_ERR_n (Table 13.5). -/
def ChanState.code : ChanState → Nat
  | .inService => 0
  | .failed => 1
  | .pendingOut => 2
  | .mappedOut => 3

/-- A counter register (Table 19.1). -/
def Counter.word (c : Counter) : Nat :=
  c.count + (if c.tflag then 2 ^ 62 else 0) + (if c.ovf then 2 ^ 63 else 0)

def b2n (x : Bool) : Nat := if x then 1 else 0

end Sys2Proof.Machine
end

