-- ==== Sys2Proof/Machine/Records.lean ====
section
/-!
DEFINITION. What the device tells others: completions, events and interrupts (R312 to R319), trace records (R262,
R263), fault records (R361 to R365), and signals on their way to cells (R267).
-/
namespace Sys2Proof.Machine

/-! ### The host -/

/-- A posted write on PCIe (R22).
DESIGN CHOICE, notes/assumptions/142. -/
def Block.hostWrite (b : Block) (a : Nat) (bs : List Byte) : Block :=
  { b with hostOut := b.hostOut ++ [(BitVec.ofNat 64 a, bs)] }.countPort 65 bs.length

/-! ### The host window (R17, R22, R23) -/

/-- Reads `x` and `y` touch a common 4 KiB granule of the host. -/
def HostRead.meets (x y : HostRead) : Bool :=
  decide (x.haddr / 4096 ≤ (y.haddr + y.len - 1) / 4096) && decide (y.haddr / 4096 ≤ (x.haddr + x.len - 1) / 4096)

/-- Requester number of a posted write that waits.
DESIGN CHOICE, notes/assumptions/153. -/
def hostWriter : Nat := 354

/-- Bytes cross the hub link of the tile whose engine issued the access, if any (R12, R342). -/
def Block.hubLink (b : Block) (tile : Option Nat) (toHub : Bool) (n : Nat) : Block :=
  if toHub then b.countRoute tile none 0 (64 * ceilDiv n 64) else b.countRoute none tile 0 (64 * ceilDiv n 64)

/-- A write through the host window, one request per granule: it leaves at once, or behind the earlier accesses to its
granule. -/
def Block.windowWrite (b : Block) (tile : Option Nat) (h : Nat) (bs : List Byte) : Block :=
  (granules h bs.length).foldl (fun (b : Block) (a, n) =>
    let piece := (bs.drop (a - h)).take n
    let x : HostRead := { spindle := hostWriter, haddr := a, len := n, wr := some piece }
    if b.hostReads.any (·.meets x) then { b with hostReads := b.hostReads ++ [x] } else b.hostWrite a piece) (b.hubLink tile true bs.length)

/-- Reads that a requester issues, one per granule. -/
def Block.windowAsk (b : Block) (x : HostRead) (reqs : List (Nat × Nat)) : Block :=
  { b with hostReads := b.hostReads ++ (reqs.flatMap fun r => granules r.1 r.2).map fun r => { x with haddr := r.1, len := r.2 } }

/-- Writes that no earlier access to their granule holds any more leave, in order. -/
def Block.releaseWrites (b : Block) : Block :=
  b.hostReads.foldl (fun (b : Block) x =>
    match x.wr with
    | some bs => if b.hostReads.any (·.meets x) then { b with hostReads := b.hostReads ++ [x] } else b.hostWrite x.haddr bs
    | none => { b with hostReads := b.hostReads ++ [x] }) { b with hostReads := [] }

/-- A store that a hub block held back leaves. -/
def Block.laterWrite (b : Block) (x : HubLater) : Block :=
  if x.addr < hostBase then b.hubWrite x.addr x.bytes else b.windowWrite none (x.addr - hostBase) x.bytes

/-- Stores of hub blocks whose earlier writes are accepted now leave; two stores to one line keep their order (R218). -/
def Block.hubSettle (b : Block) : Block :=
  b.hubLater.foldl (fun (b : Block) x =>
    if b.linesSent x.lines || b.hubLater.any (fun y => y.addr / 64 == x.addr / 64) then { b with hubLater := b.hubLater ++ [x] }
    else b.laterWrite x) { b with hubLater := [] }

/-- Outstanding reads whose requester is gone are forgotten. -/
def Block.dropReads (b : Block) (f : HostRead → Bool) : Block := { b with hostReads := b.hostReads.filter fun x => !f x }.releaseWrites.hubSettle

/-- Reads outstanding at the host: at most 4,096 (R249). -/
def Block.hostRoom (b : Block) : Nat := 4096 - (b.hostReads.filter (·.wr.isNone)).length

/-! ### Rings -/

/-- The function that serves ring `r`, and the vector of the ring there (R308, R312). -/
def Block.ringFn (b : Block) (r : Nat) : Nat := if r ≤ b.numVfs then r else 0
def Block.ringVec (b : Block) (r : Nat) : Nat := if r ≤ b.numVfs then 0 else r

/-- DESIGN CHOICE, notes/assumptions/142. DESIGN CHOICE, notes/assumptions/146. -/
def Block.raise (b : Block) (fn vec : Nat) : Block := { b with msix := b.msix ++ [(fn, vec)] }
def Block.raiseRing (b : Block) (r : Nat) : Block := b.raise (b.ringFn r) (b.ringVec r)

/-! ### Completions and events -/

/-- Table 17.4. -/
def entOpcode (e : Entry) : Nat := bits e.toNat 13 0
def entTag (e : Entry) : Nat := bits e.toNat 63 32
def entIrq (e : Entry) : Bool := bit e.toNat 16

/-- Completion slots that no command has reserved (R317, R319). -/
def Ring.room (g : Ring) : Nat := 4096 - (g.cplProd - g.cplCons).toNat - g.reserved

/-- Writes one 16 B entry at MBX_CPL_PROD with the expected phase (R316). -/
def Block.writeCpl (b : Block) (r entry : Nat) : Block :=
  let g := b.ring r
  if b.pcieWidth = 0 then (b.setRing r { g with errFetch := true, stopped := true }).raiseRing r
  else
  let b := b.hostWrite (g.cplBase.toNat + 16 * (g.cplProd.toNat % 4096)) (leBytes 16 (entry + (if g.phase then 2 ^ 46 else 0)))
  let prod := g.cplProd + 1
  b.setRing r { g with cplProd := prod, phase := if prod.toNat % 4096 = 0 then !g.phase else g.phase }

/-- Delivers events that wait for room (R319). -/
def Block.drainEvents (b : Block) (r : Nat) : Block :=
  iter 256 b fun b _ =>
    let g := b.ring r
    match g.events with
    | [] => b
    | (code, result) :: rest =>
      if g.enable ∧ g.stopped = false ∧ 0 < g.room ∧ b.restarting = false then
        ((b.setRing r { g with events := rest }).writeCpl r (fld code 14 32 + 2 ^ 47 + fld result 64 64)).raiseRing r
      else b

/-- An event: written as a completion, queued up to 256, or dropped and counted (R319). -/
def Block.postEvent (b : Block) (r code result : Nat) : Block :=
  let g := b.ring r
  if g.events.length < 256 then (b.setRing r { g with events := g.events ++ [(code, result)] }).drainEvents r
  else b.setRing r { g with eventsLost := min 255 (g.eventsLost + 1) }

/-- A completion in a slot that the command reserved. -/
def Block.cplOne (b : Block) (r tag opcode : Nat) (st : Status) (result : Nat) (irq : Bool) : Block :=
  let b := b.modRing r fun g => { g with reserved := g.reserved - 1 }
  let b := b.writeCpl r (tag + fld opcode 14 32 + fld st.code 16 48 + fld result 64 64)
  if irq then b.raiseRing r else b

/-- Command `e` of ring `r` completes: the tag history keeps the completion unless it is NOT_READY, and it is written
for the command and for its repeats (R313, R317, R318). During a headstock restart only IDENTIFY completes (R376). -/
def Block.finish (b : Block) (r : Nat) (e : Entry) (st : Status) (result : Nat) : Block :=
  let g := b.ring r
  let k := entTag e
  let op := entOpcode e
  if b.restarting ∧ op ≠ 0x01 then b else
  let hist :=
    if st = .notReady then g.history.filter fun h => !(h.tag == k && h.opcode == op && h.done.isNone)
    else modFirst (fun h => h.tag == k && h.opcode == op && h.done.isNone) (fun h => { h with done := some (st.code, result) }) g.history
  let mine := g.taken.find? fun x => x.started && x.entry == e
  let b := b.setRing r { g with history := hist, taken := eraseFirst (fun x => x.started && x.entry == e) g.taken }
  match mine with
  | none => b
  | some x =>
    let b := if x.silent then b else b.cplOne r k op st result (entIrq e)
    (x.repeats.foldl (fun b irq => b.cplOne r k op st result irq) b).drainEvents r

/-- Parked JOB_LEAVE commands whose writes have all been accepted complete (R317).
DEDUCED, notes/assumptions/122. -/
def Block.leaveSettle (b : Block) : Block :=
  (b.leaving.filter fun x => !b.linesSent x.lines).foldl (fun b x => b.finish x.ring x.entry .success 0)
    { b with leaving := b.leaving.filter fun x => b.linesSent x.lines }

/-! ### The scheduling trace -/

def Trace.records (t : Trace) : Nat := 2 ^ (20 + t.sizeLog2) / 16

/-- Writes a record at its place in the ring.
DESIGN CHOICE, notes/assumptions/149. -/
def Block.tracePut (b : Block) (x : Nat) : Block :=
  let t := b.trace
  let b := { b with trace := { t with prod := (t.prod + 1) % 2 ^ 48 } }
  b.sendBytes .write .trace (t.base + 16 * (t.prod % t.records)) (leBytes 16 x)

def Trace.full (t : Trace) : Bool := t.stopMode && decide (t.records ≤ t.prod - t.cons)

/-- The FIFO before the ring holds 1,024 records: those that no channel controller has accepted yet (R262, R264).
DEDUCED, notes/assumptions/149. -/
def Block.traceFifoFull (b : Block) : Bool := decide (1024 ≤ (b.openLines fun src => src == .trace).length)

/-- The TRACE_LOST record that stands first once room has returned (R262).
DESIGN CHOICE, notes/assumptions/6. -/
def Block.traceLost (b : Block) : Block :=
  let t := b.trace
  if t.lostDue = false ∨ t.full ∨ b.traceFifoFull then b
  else
    let free := (Config.freeTraceLost b.freeCtr).toNat
    ({ b.bumpFree with trace := { t with lostDue := false } }).tracePut
      (fld (bits free 127 88) 40 88 + fld 0x08 8 80 + fld (bits free 79 65) 15 65 + fld (b2n b.ptp.timeFlag) 1 64
        + fld t.lost 16 48 + b.time % 2 ^ 48)

/-- An event of a blank of context `c` enters the trace (R262, Table 14.6).
DESIGN CHOICE, notes/assumptions/149. -/
def Block.traceEvent (b : Block) (c : Nat) (desc : BitVec 512) (event spindle info : Nat) : Block :=
  if b.trace.enable = false ∨ (b.ctx c).sched.traceEn = false then b
  else
    let b := b.traceLost
    let d := desc.toNat
    let t := b.trace
    if t.full || b.traceFifoFull then { b with trace := { t with lost := min 65535 (t.lost + 1), lostDue := true } }
    else
      b.tracePut (fld (bits d 351 320) 32 96 + fld (bits d 127 120) 8 88 + fld event 8 80 + fld spindle 8 72 + fld c 4 68
        + fld (bits d 101 100) 2 66 + fld (bits d 102 102) 1 65 + fld (b2n b.ptp.timeFlag) 1 64 + fld info 16 48 + b.time % 2 ^ 48)

/-! ### Fault records -/

/-- Table 20.6. -/
def FaultRec.word (f : FaultRec) : Nat :=
  fld f.seq 64 0 + fld f.time 64 64 + fld (f.context.getD 0) 4 287 + fld (b2n f.context.isSome) 1 291
    + fld (b2n f.timeFlag) 1 292 + fld (b2n f.carried) 1 293 + fld f.severity 2 294 + fld f.cls 8 296 + fld f.status 16 304
    + fld f.peer 12 320 + fld f.unitKind 4 332 + fld f.unit 16 336 + fld f.info 32 352 + fld f.jobId 32 384
    + fld f.addr 48 416 + fld f.blank 48 464

/-- The fault log is valid once the trace base is at or above 0x80_0000 (R362). -/
def Trace.logValid (t : Trace) : Bool := decide (0x800000 ≤ t.base)

def Block.logWrite (b : Block) (f : FaultRec) : Block :=
  if b.trace.logValid then
    b.hubWrite (b.trace.base - 0x800000 + 64 * ((f.seq - 1) % 65536)) (leBytes 64 f.word)
  else b

/-- Enters a record in the shadow and the log, and raises FAULT_LOGGED (R361, R362). -/
def Block.enterRecord (b : Block) (f : FaultRec) : Block :=
  let t := b.trace
  let f := { f with seq := t.seq + 1 }
  let sh := t.shadow ++ [f]
  let excess := sh.length - 4096
  let lost := if t.logValid then t.logLost else min 255 (t.logLost + excess)
  let b := { b with trace := { t with seq := t.seq + 1, shadow := sh.drop excess, logLost := lost } }
  let b := (b.logWrite f).postEvent 0 0x2005 f.seq
  match f.context with
  | some c => b.postEvent (1 + c) 0x2005 f.seq
  | none => b

/-- One record of a fault detected at time `t`: stamped, entered, and kept in the configuration store when its severity
is job error or device (R361, R365). -/
def Block.recordAt (b : Block) (t : Nat) (f : FaultRec) : Block :=
  let job := match f.context with
    | some c => if (b.ctx c).krf.jobEn then (b.ctx c).krf.jobId else f.jobId
    | none => f.jobId
  let f := { f with time := t, timeFlag := b.ptp.timeFlag, jobId := job }
  let b := b.enterRecord f
  if f.severity = 0 then b
  else
    let kept := b.store.carried ++ [{ f with seq := b.trace.seq }]
    { b with store := { b.store with carried := kept.drop (kept.length - 64) } }

/-- A record written at its detection. -/
def Block.record (b : Block) (f : FaultRec) : Block := b.recordAt b.time f

/-! ### Cells -/

/-- The tile of a cell (R265). -/
def cellTile (c : Nat) : Nat := c / 32768

/-- A cell lies in the partition of context `n` (R266). -/
def Block.cellOwned (b : Block) (n c : Nat) : Bool :=
  let (base, count) := tget (0, 0) (b.tile (cellTile c)).synPart n
  decide (c < 131072) && decide (base ≤ c % 32768) && decide (c % 32768 < base + count)

/-- A signal applied at its cell (R267). -/
def Block.applySig (b : Block) (g : Sig) : Block :=
  let c := b.cell g.cell
  let v := c.count + g.amount
  let hi : Int := 2 ^ 63 - 1
  let lo : Int := -(2 ^ 63)
  let sat := decide (hi < v) || decide (v < lo)
  let b := { b with cells := tput {} b.cells g.cell { count := clampI lo hi v, sat := c.sat || sat, src := g.src, peer := g.peer } }
  if sat then
    b.modTile (cellTile g.cell) fun t =>
      { t with satAny := true, firstSat := if t.satAny then t.firstSat else g.cell }
  else b

/-- A set by the headstock or the host clears sat, and no source has signalled since (R267, R269, Table 15.12).
DEDUCED, notes/assumptions/69. -/
def Block.setCell (b : Block) (c : Nat) (v : Int) : Block := { b with cells := tput {} b.cells c { count := v } }

/-- One message between the island of spindle `p`, or the hub, and a cell's tile: a packet with no address (R12). -/
def Block.cellTraffic (b : Block) (p : Option Nat) (cell : Nat) : Block := b.countRoute (p.map tileOf) (some (cellTile cell)) 0 64

/-- A poll or a read of a cell: one message to its tile, and its answer (R12, R269). -/
def Block.cellTrip (b : Block) (p : Option Nat) (cell : Nat) : Block :=
  (b.cellTraffic p cell).countRoute (some (cellTile cell)) (p.map tileOf) 0 64

/-- A signal leaves its source once the writes of `lines` are accepted (R267, R272); it takes effect when it is applied at the
cell's bank. -/
def Block.signal (b : Block) (cell : Nat) (amount : Int) (src : Nat) (peer : Nat := 0) (lines : List Nat := []) (after : Option Nat := none)
    (island : Option Nat := none) : Block :=
  let g : Sig := { cell, amount, src, peer, lines, after, island }
  { b with sigs := b.sigs ++ [g] }.cellTraffic island cell

/-- A signal or a set arrives at its bank: applied, or held during a freeze (R279).
DEDUCED, notes/assumptions/111. -/
def Block.cellArrive (b : Block) (g : Sig) : Block :=
  match b.frozen with
  | some z => { b with frozen := some { z with held := z.held ++ [.signal g] } }
  | none => if g.isSet then b.setCell g.cell g.amount else b.applySig g

/-- A signal has left its source: the BAR2 writes that precede it, and the writes it waits for, have been accepted (R216,
R272, R311).
DEDUCED, notes/assumptions/110. -/
def Block.sigReady (b : Block) (g : Sig) : Bool :=
  !b.linesWait g.lines && (match g.after with
    | none => true
    | some fn => !(b.chans.any fun c => c.2.transit.any fun q => q.src == .host fn))

/-- What an island has sent to a tile arrives there before the island's next operation does (R13, R269). -/
def Block.cellFirst (b : Block) (p : Option Nat) (cell : Nat) : Block :=
  (b.sigs.filter fun g => g.island == p && cellTile g.cell == cellTile cell && b.sigReady g).foldl (fun (b : Block) g =>
    ({ b with sigs := eraseFirst (· == g) b.sigs } : Block).cellArrive g) b

/-- A cell as the next operation of an island, or of the hub, meets it (R12, R13, R269). -/
def Block.cellMet (b : Block) (p : Option Nat) (cell : Nat) : Block := (b.cellFirst p cell).cellTrip p cell

/-- A set by the hub's blocks: after what they have sent to the tile. -/
def Block.cellSet (b : Block) (cell : Nat) (v : Int) : Block :=
  ((b.cellFirst none cell).cellTraffic none cell).cellArrive { cell, amount := v, isSet := true }

end Sys2Proof.Machine
end

