-- ==== Sys2Proof/Machine/Reads.lean ====
section
/-!
DEFINITION. Reads at the channel controllers: what a controller finds in a line, the states of a channel, and the reads
of the hub (R237 to R239, R244, R246).
-/
namespace Sys2Proof.Machine

/-! ### Channels (R246) -/

def chanUnitKind (c : Nat) : Nat := if c < 256 then 2 else 3
def chanUnit (c : Nat) : Nat := if c < 256 then c else c - 256

/-- A channel changes state: recorded for the next reset, an event, and a record. -/
def Block.channelState (b : Block) (c : Nat) (st : ChanState) : Block :=
  let b := b.modChan c fun x => { x with state := st }
  let b : Block := { b with store := { b.store with mapOut := if b.store.mapOut.contains c then b.store.mapOut else sortBy (fun x y => decide (x ≤ y)) (c :: b.store.mapOut) } }
  let b := b.postEvent 0 0x2001 (c + fld st.code 2 16)
  b.record { severity := 2, cls := 0x07, unitKind := chanUnitKind c, unit := chanUnit c, info := st.code }

/-- One correctable error more (R237). -/
def Block.countCe (b : Block) (c : Nat) : Block :=
  let b := b.modChan c fun x => { x with ceCount := min (2 ^ 32 - 1) (x.ceCount + 1) }
  { b with store := { b.store with ceTotal := tset b.store.ceTotal c (tget 0 b.store.ceTotal c + 1) } }

/-- The record of a line that becomes poisoned (R238, R239). -/
def Block.poisonRecord (b : Block) (c line info : Nat) : Block :=
  b.record { severity := 2, cls := 0x06, status := Status.poisonedTarget.code, unitKind := chanUnitKind c, unit := chanUnit c, info, addr := 64 * line }

/-- One uncorrectable line more; the threshold within the window makes the channel map-out pending (R246). -/
def Block.countUe (b : Block) (c : Nat) : Block :=
  let x := b.chan c
  let times := (x.ueTimes.filter fun t => decide (b.time < t + max 1 b.memUeWindowH * 3600000000000)) ++ [b.time]
  let b := b.setChan c { x with ueCount := min 65535 (x.ueCount + 1), ueTimes := times }
  let b : Block := { b with store := { b.store with ueTotal := tset b.store.ueTotal c (tget 0 b.store.ueTotal c + 1) } }
  if x.state = .inService ∧ max 1 b.memUeThreshold ≤ times.length then
    (b.modChan c fun x => { x with ueAlert := true }).channelState c .pendingOut
  else b

/-- What a controller finds as it reads a line: counts it, and says whether the line is uncorrectable (R237).
DEDUCED, notes/assumptions/63. -/
def Block.findLine (b : Block) (c line cause : Nat) (poisoned : Bool) (found : LineFinding) : Bool × Block :=
  let deep := decide (256 ≤ c)
  let b := if deep ∧ (found = .linkRetried ∨ found = .linkFailed) then b.modChan c fun x => { x with linkRetry := true } else b
  let b := if (deep ∧ found = .linkCorrected) ∨ (found = .correctable ∧ poisoned = false) then b.countCe c else b
  let bad := !poisoned && (found == .uncorrectable || (deep && found == .linkFailed))
  (bad, if bad then (b.countUe c).poisonRecord c line cause else b)

/-! ### Reads (R237 to R239) -/

/-- One line read at its channel, behind every request sent so far: the line as it is delivered, with what the controller
finds in it. An uncorrectable line is marked before the answer, so that every later read sees the mark (R238).
DEDUCED, notes/assumptions/28. DESIGN CHOICE, notes/assumptions/63. -/
def Block.readLine (m : Dram) (b : Block) (rd : Reader) (line : Nat) : LineSt × Block :=
  let c := b.chanOf (64 * line)
  let x := b.chan c
  let l := lineNow m b line
  let b := b.countRead rd line
  let b : Block := if rd.tile.isSome ∧ 4096 ≤ x.queue.length then { b with stalled := true } else b
  if x.nextFind = .clean ∨ x.state = .failed then (l, b)
  else
    let r := (b.modChan c fun x => { x with nextFind := .clean }).findLine c line 1 l.poisoned x.nextFind
    if r.1 then ({ l with poisoned := true }, r.2.send { kind := .mark, line }) else (l, r.2)

/-- Bytes of a range and whether any line of it is poisoned. -/
def readRange (m : Dram) (b : Block) (rd : Reader) (a len : Nat) : Bool × List Byte × Block :=
  let r := (linesOf a len).foldl (fun (acc : List LineSt × Block) l =>
    let x := acc.2.readLine m rd l
    (acc.1 ++ [x.1], x.2)) ([], b)
  let all := r.1.foldr (fun l acc => l.data + acc * 2 ^ 512) 0
  (r.1.any (·.poisoned), leBytes len (all >>> (8 * (a % 64))), r.2)

/-- A read by the hub at the channel controllers; the status covers regions and poison (R239). -/
def hubRead (m : Dram) (b : Block) (a len : Nat) : Status × List Byte × Block :=
  match b.memRange a len with
  | .error st => (st, [], b)
  | .ok _ =>
    let (bad, bs, b) := readRange m b {} a len
    if bad then (.poisonedTarget, [], b) else (.success, bs, b)

end Sys2Proof.Machine
end

