-- ==== Sys2Proof/Machine/TileMem.lean ====
section
/-!
DEFINITION. Memory as a tile's engines reach it: the write-combining buffer (R242, R243) and the die cache
(R108 to R113).
-/
namespace Sys2Proof.Machine

/-! ### The blank of a spindle -/

/-- Context of a blank (Table 14.1). -/
def Blank.ctx (k : Blank) : Nat := bits k.desc.toNat 99 96

def Spindle.ctx (s : Spindle) : Nat := match s.cur with
  | some k => k.ctx
  | none => 0

def Spindle.blankAddr (s : Spindle) : Word64 := match s.cur with
  | some k => k.addr
  | none => 0

/-- The blank that issued a write or an effect, as its requests and records name it: its spindle, or its thief's (R182). -/
structure Issuer where
  p : Nat
  ctx : Nat
  blank : Word64
  serial : Nat
deriving DecidableEq, Repr

def Block.issuer (b : Block) (p : Nat) : Issuer :=
  let s := b.spd p
  { p, ctx := s.ctx, blank := s.blankAddr, serial := s.serial }

/-! ### The die cache -/

def dcSetOf (line : Nat) : Nat := line % 49152

/-- The way that holds a 128 B line. -/
def DcSet.find (x : DcSet) (line : Nat) : Option (Nat × DcLine) := x.ways.find? fun w => w.2.line == line

def Tile.dcSet (t : Tile) (line : Nat) : DcSet := tget {} t.dc (dcSetOf line)
def Tile.modSet (t : Tile) (line : Nat) (f : DcSet → DcSet) : Tile := { t with dc := tset t.dc (dcSetOf line) (f (t.dcSet line)) }

/-- Tree pseudo-LRU: the path of way `w` is made to point away from it. Node `n` is bit `n`.
DESIGN CHOICE, notes/assumptions/7. -/
def plruTouch (x : BitVec 16) (w : Nat) : BitVec 16 :=
  ((List.range 4).foldl (fun (a : Nat × Nat) l =>
    let d := (w >>> (3 - l)) % 2
    (setBits a.1 a.2 a.2 (1 - d), 2 * a.2 + d)) (x.toNat, 1)).1

/-- The victim among the allowed ways: the tree's choice at each node where both sides hold an allowed way
(DESIGN CHOICE, notes/assumptions/7: R108 gives no tree over a part of the ways). -/
def plruVictim (x : BitVec 16) (lo hi : Nat) : Nat :=
  ((List.range 4).foldl (fun (a : Nat × Nat) l =>
    let size := 2 ^ (3 - l)
    let d := bits x.toNat a.2 a.2
    let has (d : Nat) := decide (a.1 + d * size < hi) && decide (lo < a.1 + d * size + size)
    let d := if has d then d else 1 - d
    (a.1 + d * size, 2 * a.2 + d)) (0, 1)).1

/-- Ways of the reuse partition and of the burls (R113). -/
def Tile.ways (t : Tile) (burl : Bool) : Nat × Nat := if burl then (16 - t.burlWays, 16) else (0, 16 - t.burlWays)

/-- Takes a line out of every dirty log of the tile. -/
def Block.unlog (b : Block) (t line : Nat) : Block :=
  { b with spindles := b.spindles.map fun e =>
      if tileOf e.1 = t ∧ e.2.dirtyLog.contains line then (e.1, { e.2 with dirtyLog := e.2.dirtyLog.filter (· ≠ line) }) else e }

/-- Sends the dirty bytes of a line to their channels (R110). -/
def Block.writeBack (b : Block) (t : Nat) (l : DcLine) : Block :=
  let d := l.dirty.toNat
  if d = 0 then b
  else
    let b := [0, 1].foldl (fun (b : Block) h =>
      let mask := bits d (64 * h + 63) (64 * h)
      if mask = 0 then b
      else b.send { kind := .write, line := 2 * l.line + h, data := BitVec.ofNat 512 (l.data.toNat >>> (512 * h))
                    mask := BitVec.ofNat 64 mask, src := .wc l.owner l.blank l.context l.serial 8 }) b
    (b.unlog t l.line).countEvent l.owner l.context 0x0E 1

/-- Installs a line in its partition; the line it replaces is written back. -/
def Block.dcInstall (b : Block) (t : Nat) (l : DcLine) (burl : Bool) : Block :=
  let tl := b.tile t
  let x := tl.dcSet l.line
  let (lo, hi) := tl.ways burl
  if hi ≤ lo then b
  else
    let w := match (List.range hi).find? fun w => decide (lo ≤ w) && (tfind x.ways w).isNone with
      | some w => w
      | none => plruVictim x.plru lo hi
    let b : Block := match tfind x.ways w with
      | some old => b.writeBack t old
      | none => b
    b.modTile t fun tl => tl.modSet l.line fun x => { ways := tset x.ways w l, plru := plruTouch x.plru w }

/-- Changes the tile's copy of a line, cached or on its way (R110). -/
def Block.dcUpdate (b : Block) (t line : Nat) (f : DcLine → DcLine) : Block :=
  b.modTile t fun tl =>
    let x := tl.dcSet line
    let tl := match x.find line with
      | some (w, l) => tl.modSet line fun x => { x with ways := tset x.ways w (f l) }
      | none => tl
    { tl with fills := tl.fills.map fun g => if g.line = line then { g with data := (f { line, data := g.data }).data } else g }

/-- A line with the covered bytes of its half `h` replaced. -/
def DcLine.put (l : DcLine) (h mask data : Nat) : DcLine :=
  let old := bits l.data.toNat (512 * h + 511) (512 * h)
  { l with data := BitVec.ofNat 1024 (setBits l.data.toNat (512 * h + 511) (512 * h) (mergeNat old data mask)) }

/-! ### The write-combining buffer -/

/-- Bytes of one 128 B line on their way into the die cache under the back policy, with their writer. -/
structure BackWrite where
  line : Nat := 0
  mask : Nat := 0
  data : Nat := 0
  spindle : Nat := 0
  engines : Nat := 0
  blank : Word64 := 0
  context : Nat := 0
  serial : Nat := 0

/-- Half `h` of the bytes goes on to its channel. -/
def BackWrite.sendHalf (w : BackWrite) (b : Block) (h : Nat) : Block :=
  let mask := bits w.mask (64 * h + 63) (64 * h)
  if mask = 0 then b
  else b.send { kind := .write, line := 2 * w.line + h, data := BitVec.ofNat 512 (w.data >>> (512 * h)), mask := BitVec.ofNat 64 mask
                src := .wc w.spindle w.blank w.context w.serial w.engines }

/-- The requests sent for a line enter the controller's queue before anything else happens: what waits for their acceptance
goes on after it. With no room in the queue, or behind a peer's packet, the command waits instead (R110, R244).
DESIGN CHOICE, notes/assumptions/152. -/
def Block.acceptLine (b : Block) (line : Nat) : Block :=
  let c := b.chanOf (64 * line)
  let x := b.chan c
  let mine := x.transit.filter fun q => q.line == line
  let kerf := mine.any fun q => match q.src with
    | .kerf _ _ => true
    | _ => false
  if mine = [] then b
  else if kerf || decide (4096 < x.queue.length + mine.length) then { b with stalled := true }
  else b.setChan c { x with transit := x.transit.filter fun q => !(q.line == line), queue := x.queue ++ mine }

/-- The oldest line of a full dirty log is written back, and the write-back is accepted, before a line joins (R110). -/
def Block.logRoom (b : Block) (t p line : Nat) : Block :=
  let s := b.spd p
  if s.dirtyLog.contains line ∨ s.dirtyLog.length < 1024 then b
  else match s.dirtyLog with
    | [] => b
    | old :: _ =>
      match ((b.tile t).dcSet old).find old with
      | some (_, l) => (((b.writeBack t l).dcUpdate t old fun l => { l with dirty := 0 }).acceptLine (2 * old)).acceptLine (2 * old + 1)
      | none => b.unlog t old

/-- A back write merges into the line in the tile's die cache, read first when it misses unless all 128 B are written. A
line with a poisoned half is not allocated (R239), nor is any during a repartition (R113), and the bytes then go on to
the channel (DEDUCED, notes/assumptions/8). -/
def Block.backMerge (m : Dram) (b : Block) (t : Nat) (w : BackWrite) : Block :=
  let line := w.line
  let busy := (b.tile t).repartBusy
  let b : Block := match (b.tile t).fills.find? fun g => g.line == line with
    | some g =>
      let b := b.modTile t fun tl => { tl with fills := eraseFirst (fun g => g.line == line) tl.fills }
      if busy then b else b.dcInstall t { line, data := g.data } g.burl
    | none => b
  let b : Block := match ((b.tile t).dcSet line).find line with
    | some _ => b
    | none =>
      if busy then b
      else if w.mask = 2 ^ 128 - 1 then b.dcInstall t { line } false
      else
        let rd : Reader := { tile := some t, ctx := some w.context }
        let (l0, b) := b.readLine m rd (2 * line)
        let (l1, b) := b.readLine m rd (2 * line + 1)
        if l0.poisoned || l1.poisoned then b else b.dcInstall t { line, data := BitVec.ofNat 1024 (l0.data + l1.data <<< 512) } false
  match ((b.tile t).dcSet line).find line with
  | none => w.sendHalf (w.sendHalf b 0) 1
  | some _ =>
    let b := (b.logRoom t w.spindle line).dcUpdate t line fun l =>
      { (l.put 0 (bits w.mask 63 0) w.data).put 1 (bits w.mask 127 64) (w.data >>> 512) with
        dirty := l.dirty ||| BitVec.ofNat 128 w.mask
        owner := w.spindle, blank := w.blank, context := w.context, serial := w.serial }
    b.modSpd w.spindle fun s => if s.dirtyLog.contains line then s else { s with dirtyLog := s.dirtyLog ++ [line] }

/-- A back-policy entry leaves the buffer. -/
def Block.flushBack (m : Dram) (b : Block) (t : Nat) (e : WcEntry) : Block :=
  let h := e.line % 2
  b.backMerge m t { line := e.line / 2, mask := e.mask.toNat <<< (64 * h), data := e.data.toNat <<< (512 * h)
                    spindle := e.spindle, engines := e.engines, blank := e.blank, context := e.context, serial := e.serial }

/-- A flushed entry goes to its channel, updating the tile's copy in place, or into the die cache (R110, R243). -/
def Block.flushEntry (m : Dram) (b : Block) (t : Nat) (e : WcEntry) : Block :=
  if e.back then b.flushBack m t e
  else
    let b := b.send { kind := .write, line := e.line, data := e.data, mask := e.mask, src := .wc e.spindle e.blank e.context e.serial e.engines }
    b.dcUpdate t (e.line / 2) fun l => l.put (e.line % 2) e.mask.toNat e.data.toNat

/-- Flushes the entries of tile `t` that satisfy `f`, oldest first. -/
def Block.flushWhere (m : Dram) (b : Block) (t : Nat) (f : WcEntry → Bool) : Block :=
  let out := (b.tile t).wc.filter f
  let b := if out = [] then b else b.modTile t fun tl => { tl with wc := tl.wc.filter fun e => !f e }
  out.foldl (fun b e => b.flushEntry m t e) b

/-- Engines in the order of Table 3.5. -/
def engNum : Engine → Nat
  | .matrix => 0
  | .vector => 1
  | .load => 2
  | .store => 3
  | .gouge => 4

/-- One line's piece of a write enters the buffer (R242). -/
def Block.wcPiece (m : Dram) (b : Block) (o : Issuer) (eng : Engine) (back : Bool) (line mask data : Nat) : Block :=
  let p := o.p
  let t := tileOf p
  let b := b.flushWhere m t fun e => e.line == line && (e.spindle != p || e.back != back)
  let b : Block := match (b.tile t).wc.find? fun e => e.line == line with
    | some _ => b
    | none =>
      let b := if (b.tile t).wc.length < 1024 then b
        else match (b.tile t).wc with
          | [] => b
          | old :: _ => b.flushWhere m t (· == old)
      b.modTile t fun tl => { tl with wc := tl.wc ++ [{ line, spindle := p, back, born := b.time }] }
  let b := b.modTile t fun tl => { tl with wc := modFirst (fun (e : WcEntry) => e.line == line) (fun (e : WcEntry) =>
    { e with data := BitVec.ofNat 512 (mergeNat e.data.toNat data mask), mask := e.mask ||| BitVec.ofNat 64 mask
             engines := e.engines ||| (1 <<< engNum eng), blank := o.blank, context := o.ctx, serial := o.serial }) tl.wc }
  b.flushWhere m t fun e => e.line == line && e.mask.toNat == fullMask

/-- A write of a spindle engine to HBM or the deep tier (R110, R242). A back write of all 128 B of a line goes into the die
cache as one.
DEDUCED, notes/assumptions/8. -/
def Block.tileWrite (m : Dram) (b : Block) (p : Nat) (eng : Engine) (back : Bool) (a : Nat) (bs : List Byte)
    (o : Issuer := b.issuer p) : Block :=
  let whole (line : Nat) : Bool := back && decide (a ≤ 128 * line) && decide (128 * line + 128 ≤ a + bs.length)
  (cutLines a bs).foldl (fun b (l, mask, data) =>
    if !whole (l / 2) then b.wcPiece m o eng back l mask data
    else if l % 2 = 1 then b
    else
      (b.flushWhere m (tileOf p) fun e => e.line / 2 == l / 2).backMerge m (tileOf p)
        { line := l / 2, mask := 2 ^ 128 - 1, data := leNat ((bs.drop (64 * l - a)).take 128), spindle := p
          engines := 1 <<< engNum eng, blank := o.blank, context := o.ctx, serial := o.serial }) b

/-- A memory-side piece leaves a tile: the tile's entry for the line is flushed first (R243). -/
def Block.tileMemSide (m : Dram) (b : Block) (t : Nat) (op : MemOp) (fmt : Nat) (src : ReqSrc) (a : Nat) (bs : List Byte) : Block :=
  (cutLines a bs).foldl (fun b (l, mask, data) =>
    (b.flushWhere m t fun e => e.line == l).send
      { kind := .memOp op fmt, line := l, data := BitVec.ofNat 512 data, mask := BitVec.ofNat 64 mask, src := src }) b

/-! ### Reads -/

/-- How a read that misses allocates (R109, R123). -/
inductive Alloc where
  | reuse | none | burl
deriving DecidableEq, Repr

/-- Event `code` of a word of spindle `p`: counted at once, or noted while the word `spec` is speculative (R341). -/
def Block.countFor (b : Block) (p code n : Nat) (spec : Option Nat) : Block :=
  match spec with
  | none => b.countEvent p (b.spd p).ctx code n
  | some idx => if n = 0 then b else b.modSpd p fun s => { s with specEv := s.specEv ++ [(idx, code, n)] }

/-- One 128 B line for a spindle engine: its data, which halves are poisoned, and the block after the lookup. `h0` and
`h1` say which halves the read touches. While the tile is repartitioning a burl's line is read from the set in memory
(R126). -/
def Block.cacheLine (m : Dram) (b : Block) (p line : Nat) (h0 h1 : Bool) (pol : Alloc) (spec : Option Nat) : Nat × Bool × Bool × Block :=
  let t := tileOf p
  let cx := (b.spd p).ctx
  let b := b.flushWhere m t fun e => (h0 && e.line == 2 * line) || (h1 && e.line == 2 * line + 1)
  let bypass := pol == .burl && (b.tile t).repartBusy
  match (if bypass then none else ((b.tile t).dcSet line).find line) with
  | some (w, l) =>
    let b := b.modTile t fun tl => tl.modSet line fun x => { x with plru := plruTouch x.plru w }
    (l.data.toNat, false, false, b.countFor p 0x0C 1 spec)
  | none =>
    match (if bypass then none else (b.tile t).fills.find? fun g => g.line == line) with
    | some g => (g.data.toNat, false, false, b.countFor p 0x0C 1 spec)
    | none =>
      let b := b.countFor p 0x0D 1 spec
      let alloc := pol ≠ .none ∧ (b.tile t).repartBusy = false
      let b := if alloc then b.flushWhere m t fun e => e.line / 2 == line else b
      let rd : Reader := { tile := some t, ctx := some cx, spec := spec.isSome }
      let (l0, b) := if h0 ∨ alloc then b.readLine m rd (2 * line) else ({}, b)
      let (l1, b) := if h1 ∨ alloc then b.readLine m rd (2 * line + 1) else ({}, b)
      let data := l0.data + l1.data <<< 512
      let b := if alloc ∧ l0.poisoned = false ∧ l1.poisoned = false then
          b.modTile t fun tl => { tl with fills := tl.fills ++ [{ line, data := BitVec.ofNat 1024 data, burl := pol == .burl }] }
        else b
      (data, l0.poisoned, l1.poisoned, b)

/-- A read by an engine or the sequencer of spindle `p`, of a range already known to lie in HBM or the deep tier. -/
def Block.tileRead (m : Dram) (b : Block) (p a len : Nat) (pol : Alloc) (spec : Option Nat := none) : Status × List Byte × Block :=
  if len = 0 then (.success, [], b)
  else
    let first := a / 128
    let n := (a + len - 1) / 128 - first + 1
    let r := iter n ((0, false, b) : Nat × Bool × Block) fun acc k =>
      let line := first + k
      let h0 := decide (a < 128 * line + 64)
      let h1 := decide (128 * line + 64 < a + len)
      let x := acc.2.2.cacheLine m p line h0 h1 pol spec
      (acc.1 + x.1 <<< (1024 * k), acc.2.1 || (h0 && x.2.1) || (h1 && x.2.2.1), x.2.2.2)
    if r.2.1 then (.poisonedTarget, [], r.2.2) else (.success, leBytes len (r.1 >>> (8 * (a % 128))), r.2.2)

/-- A read of the gouge engine at the channel controllers, never from a die cache (R158): the tile's write-combining entries
for the lines are flushed first (R243). Whether a line is poisoned, and the bytes. -/
def Block.gougeRead (m : Dram) (b : Block) (p a len : Nat) (spec : Option Nat := none) : Bool × List Byte × Block :=
  let t := tileOf p
  let b := b.flushWhere m t fun e => decide (0 < len) && decide (a / 64 ≤ e.line) && decide (64 * e.line < a + len)
  readRange m b { tile := some t, ctx := some (b.spd p).ctx, spec := spec.isSome } a len

end Sys2Proof.Machine
end

