-- ==== Sys2Proof/Machine/KerfTx.lean ====
section
/-!
DEFINITION. Sending on Kerf: connections, paths, signal groups, and the loopback of a device that names itself
(R25, R285 to R290, R295, R305).
-/
namespace Sys2Proof.Machine

/-- The connection of a joined context to peer index `peer`; absent while the context has not joined (R25). -/
def Block.connOf (b : Block) (ctx peer : Nat) : Option Nat :=
  if (b.ctx ctx).krf.jobEn then (b.conns.find? fun e => e.2.ctx == ctx && e.2.peer == peer).map (·.1) else none

/-- The connections of a context. -/
def Block.connsOf (b : Block) (ctx : Nat) : List Nat := (b.conns.filter fun e => e.2.ctx == ctx).map (·.1)

/-- A path can carry a packet: its port is up and not paused, and it is not down (R281, R290). -/
def Block.pathLive (b : Block) (c : Conn) (p : Nat) : Bool :=
  (b.port (p % 8)).linkUp && !c.downPaths.contains p

def Block.pathOpen (b : Block) (c : Conn) (p : Nat) : Bool := b.pathLive c p && !(b.port (p % 8)).paused

/-- The first path from `start` on, in turn, that can carry a packet. -/
def Block.nextLive (b : Block) (c : Conn) (start : Nat) : Option Nat :=
  ((List.range 32).map fun k => (start + k) % 32).find? (b.pathOpen c)

/-! ### Packets as bytes (R5, R282, R283) -/

/-- CRC-32C.
PRESUMED, notes/assumptions/145. -/
def crcBit (c : Nat) : Nat := if c % 2 = 1 then (c / 2) ^^^ 0x82F63B78 else c / 2
/-- PRESUMED, notes/assumptions/145. -/
def crcByte (c : Nat) (b : Byte) : Nat := iter 8 (c ^^^ b.toNat) fun c _ => crcBit c
/-- DEDUCED, notes/assumptions/71. -/
def crc32c (bs : List Byte) : Nat := bs.foldl crcByte 0xFFFFFFFF ^^^ 0xFFFFFFFF

/-- Table 16.3, in network byte order. -/
def Packet.header (k : Packet) : List Byte :=
  beBytes 32 (fld k.version 4 252 + fld k.type 4 248 + fld k.inc 8 240 + fld k.conn 16 224 + fld k.seq 32 192 + fld k.src 12 180
    + fld k.sgrp 8 172 + fld (b2n k.sig) 1 171 + fld (b2n k.ev) 1 170 + fld k.op 4 164 + fld k.fmt 4 160 + fld k.epoch 63 97
    + fld k.addr 48 48 + fld k.len 16 32 + fld k.xfer 32 0)

/-- Table 16.5, in network byte order. -/
def Packet.extension (k : Packet) : List Byte :=
  if k.sig then beBytes 16 (fld (trunc 64 k.amount) 64 64 + fld k.npre 32 32 + fld k.cell 17 15) else []

/-- Header, signal extension, payload and CRC; the CRC is little-endian (R5).
DEDUCED, notes/assumptions/71. -/
def Packet.bytes (k : Packet) : List Byte :=
  let body := k.header ++ k.extension ++ k.payload
  body ++ leBytes 4 (crc32c body)

/-- Types 0 to 6 are sequenced (Table 16.4). -/
def sequenced (type : Nat) : Bool := decide (type ≤ 6)

/-- UDP source port and flow label of a packet on path `p` (R282).
DEDUCED, notes/assumptions/154. -/
def pathPort (conn p : Nat) : Nat := 0xC000 + 32 * (conn % 512) + p
def pathFlow (conn p : Nat) : Nat := 4 * conn + p / 8

/-- A packet leaves on a path to the device whose address is `dev`; its frame's bytes are counted from destination address
through FCS (R281, R282, R342).
DEDUCED, notes/assumptions/71. DESIGN CHOICE, notes/assumptions/142. -/
def Block.emit (b : Block) (dev : Word128) (k : Packet) (path : Nat) : Block :=
  let dst := dev + BitVec.ofNat 128 (path % 8)
  let f : SentFrame :=
    { port := path % 8, mac := (b.neighbours.find? fun e => e.1 == dst).map (·.2), src := b.deviceAddr + BitVec.ofNat 128 (path % 8), dst
      dscp := if sequenced k.type then b.krfDscpData else b.krfDscpCtrl, flow := pathFlow k.conn path, srcPort := pathPort k.conn path
      dstPort := b.krfUdpPort, bytes := k.bytes }
  { b with txOut := b.txOut ++ [f] }.countPort (74 + path % 8) (66 + f.bytes.length)

/-- A packet of connection `i` leaves on a path; one to the device itself stays inside the hub (R25). -/
def Block.transmit (b : Block) (i : Nat) (k : Packet) (path : Nat) : Block :=
  if (b.conn i).loop then { b with loopIn := b.loopIn ++ [k] } else b.emit (b.conn i).addr k path

/-! ### Sending (R273, R287, R295, R297) -/

/-- The window has room: no packet is at or above the oldest unacknowledged number plus 65,536 (R287). -/
def Conn.room (c : Conn) : Bool := c.out.all fun o => decide ((c.nextSeq + 2 ^ 32 - o.pkt.seq) % 2 ^ 32 < 65536)

/-- The source has 128 groups whose signals are unacknowledged (R295). -/
def Conn.groupsFull (c : Conn) (src : Nat) : Bool :=
  decide (128 ≤ ((c.out ++ c.again).filter fun x => x.pkt.sig && x.pkt.src == src).length)

/-- The next waiting packet that may go: sources in `held` are stalled; an acknowledged-mode signal goes alone.
DEDUCED, notes/assumptions/155. -/
def Block.nextSend (b : Block) (c : Conn) (held : List Nat) : List OutPkt → Option OutPkt
  | [] => none
  | o :: rest =>
    if held.contains o.pkt.src && o.pkt.type != 2 then b.nextSend c held rest
    else if o.alone && !(c.out.isEmpty && c.again.isEmpty) then none
    else if (o.pkt.sig && c.groupsFull o.pkt.src) || b.linesWait o.lines then
      (if o.alone then none else b.nextSend c (o.pkt.src :: held) rest)
    else some o

/-- The packet with the epoch that its blank has observed by now (R297). -/
def Block.stampEpoch (b : Block) (o : OutPkt) : Packet :=
  let s := b.spd o.pkt.src
  if o.serial ≠ 0 ∧ s.serial = o.serial then { o.pkt with ev := s.epochValid, epoch := if s.epochValid then s.epochObs else 0 } else o.pkt

/-- Sends what may leave of a connection's waiting packets, as far as its state, window and paths allow. -/
def Block.pump (b : Block) (k : Nat) : Block :=
  iter (b.conn k).waiting.length b fun b _ =>
    let c := b.conn k
    match (if c.state = .up ∧ c.room then b.nextSend c [] c.waiting else none) with
    | none => b
    | some o =>
      match (if c.loop then some 0 else b.nextLive c c.nextPath) with
      | none => b
      | some path =>
        let pkt := { b.stampEpoch o with seq := c.nextSeq, inc := c.inc, conn := c.peerConn }
        let sent := { o with pkt, path, firstSent := b.time }
        (b.setConn k { c with waiting := eraseFirst (· == o) c.waiting, out := c.out ++ [sent]
                              nextSeq := (c.nextSeq + 1) % 2 ^ 32, nextPath := (path + 1) % 32 }).transmit k pkt path
          |>.countCtx c.ctx 8 pkt.payload.length

/-- Hands a sequenced packet to a connection: WRITE and ATOMIC packets enter their source's group, and a signal closes
the group (R295). A spindle's data crosses its tile's hub link (R12). -/
def Block.queuePkt (b : Block) (k : Nat) (pkt : Packet) (owner : XferOwner) (alone : Bool := false) (lines : List Nat := [])
    (serial : Nat := 0) : Block :=
  let c := b.conn k
  let (grp, n) := tget (0, 0) c.txGroups pkt.src
  let counts := pkt.type == 0 || pkt.type == 3
  let n' := if counts then n + 1 else n
  let pkt := { pkt with sgrp := grp, npre := if pkt.sig then n else 0, len := if pkt.type = 1 then pkt.len else pkt.payload.length }
  let groups := tset c.txGroups pkt.src (if pkt.sig then ((grp + 1) % 256, 0) else (grp, n'))
  let o : OutPkt := { pkt, owner, alone, lines, serial }
  let asks := (pkt.type == 1 && pkt.len != 0) || (pkt.type == 3 && pkt.op == 4)
  let reads := if asks then c.reads ++ [o] else c.reads
  let b := if pkt.src < 272 ∧ pkt.type ≠ 2 then b.hubLink (some (tileOf pkt.src)) true (pkt.payload.length + (if pkt.sig then 64 else 0)) else b
  (b.setConn k { c with txGroups := groups, reads, waiting := c.waiting ++ [o] }).pump k

/-- A signal rides on its group's last WRITE while that is still to be sent (R295). -/
def Block.rideOn (b : Block) (k : Nat) (pkt : Packet) (owner : XferOwner) (lines : List Nat) : Option Block :=
  let c := b.conn k
  let (grp, n) := tget (0, 0) c.txGroups pkt.src
  match c.waiting.reverse.find? fun o => o.pkt.type == 0 && !o.pkt.sig && o.pkt.src == pkt.src && o.pkt.sgrp == grp with
  | none => none
  | some o =>
    let o' := { o with pkt := { o.pkt with sig := true, amount := pkt.amount, cell := pkt.cell, npre := n - 1 }, rider := owner, lines := o.lines ++ lines }
    some ((b.setConn k { c with txGroups := tset c.txGroups pkt.src ((grp + 1) % 256, 0)
                                waiting := c.waiting.map fun x => if x = o then o' else x }).pump k)

/-- A tag that no outstanding read of the connection has: the number its packet is to take. -/
def Conn.freshTag (c : Conn) : Nat := (c.nextSeq + c.waiting.length) % 2 ^ 32

/-! ### Peer table entries -/

def PeerState.code : PeerState → Nat
  | .connecting => 0
  | .up => 1
  | .refused => 2
  | .lost => 3

/-- The device fields of a peer table entry, written at the channel controllers when they change (Table 16.12). -/
def Block.publishPeer (b : Block) (k : Nat) : Block :=
  let c := b.conn k
  let up := (List.range 32).foldl (fun acc p => acc + (if b.pathLive c p then 2 ^ p else 0)) 0
  let w := fld up 32 344 + fld c.state.code 2 342 + fld c.reason 4 338 + fld (b2n c.throttled) 1 337 + fld c.opIndex 4 333
    + fld c.hops 8 325 + fld (min c.latNs (2 ^ 24 - 1)) 24 296 + fld c.foreignEpoch 63 233 + fld c.foreignCount 32 192 + fld c.retxCount 32 160
  b.hubWrite (c.entryAddr + 20) (leBytes 27 (w >>> 160))

/-! ### What a receiver's rules do to an access by a peer -/

/-- The status of a write or atomic on behalf of a peer (R16, R18, Table 1.7). -/
def Block.peerRange (b : Block) (a len : Nat) : Status :=
  match b.memRange a len with
  | .ok _ => .success
  | .error st => st

def atomicOp (op : Nat) : MemOp :=
  match op with
  | 1 => .add
  | 4 => .add
  | 2 => .max
  | 3 => .min
  | _ => .store

/-- A packet of another epoch, treated by the receiving context's policy (R297): false when it is rejected. -/
def Block.epochTreat (b : Block) (k : Nat) (pkt : Packet) : Bool × Block :=
  let c := b.conn k
  let x := (b.ctx c.ctx).krf
  if !pkt.ev || pkt.epoch == x.acceptEpoch || !([0, 3, 4, 5].contains pkt.type) then (true, b)
  else
    match x.epochPolicy with
    | 0 => (true, b)
    | 1 => (true, (b.setConn k { c with foreignCount := (c.foreignCount + 1) % 2 ^ 32, foreignEpoch := max c.foreignEpoch pkt.epoch }).publishPeer k)
    | _ => (false, b)

/-- What refuses a WRITE, ATOMIC or SIGNAL packet at its receiver, connection `k` of context `ctx` (R16, R18, R266, R297). -/
def Block.peerCheck (b : Block) (k ctx : Nat) (pkt : Packet) : Option Status × Block :=
  let st := if pkt.type = 4 ∨ pkt.payload = [] then Status.success else b.peerRange pkt.addr pkt.payload.length
  if pkt.sig ∧ b.cellOwned ctx pkt.cell = false then (some .accessDenied, b)
  else if st ≠ .success then (some st, b)
  else
    let r := b.epochTreat k pkt
    if r.1 then (none, r.2) else (some .epochRejected, r.2)

/-- The requests of an accepted WRITE or ATOMIC packet. -/
def Block.peerStore (b : Block) (src : ReqSrc) (k : Packet) : Block :=
  if k.type = 3 then b.sendBytes (.memOp (atomicOp k.op) k.fmt) src k.addr k.payload
  else if k.type = 0 then b.sendBytes .write src k.addr k.payload
  else b

/-- How a transfer to a peer that cannot be sent to completes at once: absent, lost or refused (R25, R292, R294). -/
def Block.peerStatus (b : Block) (ctx peer : Nat) : Option Status :=
  match b.connOf ctx peer with
  | none => some .invalidField
  | some k =>
    match (b.conn k).state with
    | .lost => some .peerLost
    | .refused => some .configMismatch
    | _ => none

/-- Ranges cut at 4 KiB granules of the destination, at most 4,096 B each (R284). -/
def cutGranules (a : Nat) (bs : List Byte) : List (Nat × List Byte) :=
  if bs = [] then []
  else (List.range ((a + bs.length - 1) / 4096 - a / 4096 + 1)).map fun j =>
    let lo := max a (4096 * (a / 4096 + j))
    let hi := min (a + bs.length) (4096 * (a / 4096 + j) + 4096)
    (lo, (bs.drop (lo - a)).take (hi - lo))

/-- A deferred signal: refused by its peer, or its peer lost (R274).
DEDUCED, notes/assumptions/75. -/
def Block.deferredSignal (b : Block) (ctx cell : Nat) (st : Status) (spindle : Nat) (blank : Word64) : Block :=
  b.record { context := some ctx, severity := 1, cls := 0x05, status := st.code, info := cell, unitKind := 1, unit := spindle, blank := blank.toNat }

/-- The deferred record of a remote signal names one of two statuses (R274). -/
def sigStatus (st : Status) : Status := if st = .peerLost then .peerLost else .accessDenied

/-- A signal to a peer cell leaves its source, in acknowledged mode or in normal service (R273, R295); first the writes of
`lines` are accepted (R272). -/
def Block.peerSignal (b : Block) (ctx peer cell : Nat) (amount : Int) (src : Nat) (spindle : Nat) (blank : Word64)
    (ack : Bool) (serial : Nat) (lines : List Nat := []) : Block :=
  match b.connOf ctx peer with
  | none => b.deferredSignal ctx cell .peerLost spindle blank
  | some k =>
    match b.peerStatus ctx peer with
    | some st => b.deferredSignal ctx cell (sigStatus st) spindle blank
    | none =>
      let pkt : Packet := { type := 4, src, sig := true, amount, cell }
      let owner : XferOwner := .signal ctx cell spindle blank
      match (if ack then none else b.rideOn k pkt owner lines) with
      | some b => b
      | none => b.queuePkt k pkt owner ack lines serial

end Sys2Proof.Machine
end

