-- ==== Sys2Proof/Machine/Chain.lean ====
section
/-!
DEFINITION. The chain engine: arming, slices, breaks and completion (R300 to R302).
-/
namespace Sys2Proof.Machine

/-- Table 16.11. -/
structure ChainDesc where
  id : Nat
  nPos : Nat
  pos : Nat
  prevPeer : Nat
  nextPeer : Nat
  op : Nat
  bf16 : Bool
  bcast : Bool
  doneCell : Nat
  elems : Nat
  parts : Nat
  partsAddr : Nat
  stride : Nat
  recvAddr : Nat
  resultAddr : Nat
  statusAddr : Nat
deriving DecidableEq, Repr

def chainDesc (x : Nat) : ChainDesc :=
  { id := bits x 1023 992, nPos := bits x 991 979, pos := bits x 978 966, prevPeer := bits x 965 954, nextPeer := bits x 953 942
    op := bits x 941 940, bf16 := bit x 939, bcast := bit x 938, doneCell := bits x 937 921, elems := bits x 895 868
    parts := bits x 863 856, partsAddr := bits x 847 800, stride := bits x 799 768, recvAddr := bits x 751 704
    resultAddr := bits x 687 640, statusAddr := bits x 623 576 }

/-- A breach of Table 16.11. -/
def chainBad (x : Nat) : Bool :=
  let d := chainDesc x
  let last := d.pos + 1 == d.nPos
  bits x 920 896 != 0 || bits x 867 864 != 0 || bits x 855 848 != 0 || bits x 767 752 != 0 || bits x 703 688 != 0
    || bits x 639 624 != 0 || bits x 575 0 != 0
    || d.nPos == 0 || decide (4096 < d.nPos) || decide (d.nPos ≤ d.pos) || d.op == 3 || d.elems == 0 || d.parts == 0
    || (d.pos == 0 && d.prevPeer != 0) || (last && d.nextPeer != 0) || d.partsAddr % 64 != 0 || d.stride % 64 != 0
    || (d.pos == 0 && d.recvAddr != 0) || (!last && !d.bcast && d.resultAddr != 0)

def ChainDesc.slices (d : ChainDesc) : Nat := ceilDiv d.elems 1024
def ChainDesc.sliceLen (d : ChainDesc) (j : Nat) : Nat := min 1024 (d.elems - 1024 * j)
def ChainDesc.last (d : ChainDesc) : Bool := d.pos + 1 == d.nPos

/-- The chain's own reduction of two FP32 values (R37, R38). -/
def chainOp (op a b : Nat) : Nat :=
  match op with
  | 0 => fadd a b
  | 1 => fmaxBits a b
  | _ => fminBits a b

/-- Slice `j` of local part `p`, as FP32 bits, read at the channel controllers (R301). -/
def chainPart (m : Dram) (b : Block) (d : ChainDesc) (p j : Nat) : Except Status (List Nat) × Block :=
  let w := if d.bf16 then 2 else 4
  let n := d.sliceLen j
  let (st, bs, b) := hubRead m b (d.partsAddr + p * d.stride + w * 1024 * j) (w * n)
  if st ≠ .success then (.error st, b)
  else
    let row := leNat bs
    (.ok ((List.range n).map fun k => if d.bf16 then toF32 (decodeElem 1 (elemAt 1 row k)) else elemAt 0 row k), b)

/-- Adds the local parts of slice `j` to the running value, if there is one (R301, R46). -/
def chainForm (m : Dram) (b : Block) (free : Bool) (d : ChainDesc) (j : Nat) (r : Option (List Nat)) : Except Status (List Nat) × Block :=
  let zip (x y : List Nat) := (List.range x.length).map fun k => chainOp d.op (x.getD k 0) (y.getD k 0)
  let start : Except Status (Option (List Nat)) × Block := (.ok (if free then none else r), b)
  let acc := (List.range d.parts).foldl (fun (acc : Except Status (Option (List Nat)) × Block) p =>
    match acc.1 with
    | .error _ => acc
    | .ok v =>
      let x := chainPart m acc.2 d p j
      match x.1, v with
      | .error st, _ => (.error st, x.2)
      | .ok l, none => (.ok (some l), x.2)
      | .ok l, some y => (.ok (some (zip y l)), x.2)) start
  match acc.1, r with
  | .error st, _ => (.error st, acc.2)
  | .ok none, _ => (.ok [], acc.2)
  | .ok (some x), some y => (.ok (if free then zip y x else x), acc.2)
  | .ok (some x), none => (.ok x, acc.2)

def f32Bytes (l : List Nat) : List Byte := l.flatMap (leBytes 4 ·)
def f32Of (bs : List Byte) : List Nat :=
  let row := leNat bs
  (List.range (bs.length / 4)).map fun k => elemAt 0 row k

/-- The hub's signal of a chain's done_cell.
DESIGN CHOICE, notes/assumptions/9. DEDUCED, notes/assumptions/27. -/
def Block.chainSignal (b : Block) (ctx cell : Nat) : Block :=
  if b.cellOwned ctx cell then
    let f := (Config.freeSignaller b.freeCtr).toNat
    b.bumpFree.signal cell 1 (bits f 15 0) (bits f 27 16)
  else b

/-- A position completes: its completion word is written, done_cell signalled and the chain disarmed.
DEDUCED, notes/assumptions/27. -/
def Block.chainDone (b : Block) (ch : Chain) (word : Nat) : Block :=
  let d := chainDesc ch.desc.toNat
  let b := { b with chains := eraseFirst (· == ch) b.chains }
  let b := if b.inMemory d.statusAddr 8 then b.hubWrite d.statusAddr (leBytes 8 word) else b
  b.chainSignal ch.ctx d.doneCell

/-- Sends one CHAIN packet to a neighbour; false when the neighbour cannot be reached. -/
def Block.chainSend (b : Block) (ctx peer id op off : Nat) (desc : Nat) (payload : List Byte) : Bool × Block :=
  match b.connOf ctx peer with
  | none => (false, b)
  | some k =>
    if (b.conn k).state = .lost ∨ (b.conn k).state = .refused then (false, b)
    else (true, b.queuePkt k { type := 5, op, src := 0x112, addr := off, xfer := id, payload } (.chain desc))

/-- A break at this device: passed on to the neighbours but the one it came from, and completed with CHAIN_BROKEN
(R302). The position and the cause travel in the address field (DESIGN CHOICE, notes/assumptions/10). -/
def Block.chainBreakAt (b : Block) (ch : Chain) (pos cause : Nat) (origin : Option Nat) : Block :=
  let d := chainDesc ch.desc.toNat
  let off := pos + cause * 2 ^ 16
  let tell (b : Block) (peer : Nat) : Block := if origin = some peer then b else (b.chainSend ch.ctx peer d.id 2 off ch.descAddr []).2
  let b := if 0 < d.pos then tell b d.prevPeer else b
  let b := if d.last then b else tell b d.nextPeer
  b.chainDone ch (Status.chainBroken.code + fld pos 13 16 + fld cause 16 32)

def Block.setChain (b : Block) (old new : Chain) : Block := { b with chains := modFirst (· == old) (fun _ => new) b.chains }

/-- Whether the position has done everything of its own: slices acknowledged, or results sent to memory (R301). -/
def Chain.finished (ch : Chain) : Bool :=
  let d := chainDesc ch.desc.toNat
  if d.bcast ∨ d.last then ch.results == d.slices else ch.acked == d.slices

/-- Completes the chain when it is finished and its result writes have been accepted (R301). -/
def Block.chainCheck (b : Block) (ch : Chain) : Block := if ch.finished && !b.linesWait ch.lines then b.chainDone ch 0 else b

/-- Chains that waited for a result write complete once it has been accepted. -/
def Block.chainsSettle (b : Block) : Block := b.chains.foldl (fun b ch => if ch.lines = [] then b else b.chainCheck ch) b

/-- Writes result slice `j` here and passes it back along the chain (R301).
DEDUCED, notes/assumptions/80. -/
def Block.chainResultAt (m : Dram) (b : Block) (ch : Chain) (j : Nat) (bs : List Byte) : Block :=
  let d := chainDesc ch.desc.toNat
  match b.memRange (d.resultAddr + 4096 * j) bs.length with
  | .error st => b.chainBreakAt ch d.pos st.code none
  | .ok _ =>
    if writeBad m b .write (d.resultAddr + 4096 * j) bs then b.chainBreakAt ch d.pos Status.poisonedTarget.code none else
    let b := b.hubWrite (d.resultAddr + 4096 * j) bs
    let ch' := { ch with results := ch.results + 1, lines := ch.lines ++ linesOf (d.resultAddr + 4096 * j) bs.length }
    let b := b.setChain ch ch'
    if 0 < d.pos ∧ d.bcast then
      let (ok, b) := b.chainSend ch.ctx d.prevPeer d.id 1 (4096 * j) ch.descAddr bs
      if ok then b.chainCheck ch' else b.chainBreakAt ch' d.pos Status.peerLost.code none
    else b.chainCheck ch'

/-- Forms slice `j` from the incoming running value, and forwards it or, at the last position, writes it.
DEDUCED, notes/assumptions/80. -/
def Block.chainSlice (m : Dram) (b : Block) (ch : Chain) (j : Nat) (r : Option (List Nat)) : Block :=
  let d := chainDesc ch.desc.toNat
  let x := chainForm m b ((b.ctx ch.ctx).freeMode && 0 < d.pos) d j r
  let b := x.2
  match x.1 with
  | .error st => b.chainBreakAt ch d.pos st.code none
  | .ok v =>
    let ch' := { ch with formed := ch.formed + 1 }
    let b := b.setChain ch ch'
    if d.last then b.chainResultAt m ch' j (f32Bytes v)
    else
      let (ok, b) := b.chainSend ch.ctx d.nextPeer d.id 0 (4096 * j) ch.descAddr (f32Bytes v)
      if ok then b else b.chainBreakAt ch' d.pos Status.peerLost.code none

/-- Arms a chain at release: validated, entered, and at position 0 started (R300).
DESIGN CHOICE, notes/assumptions/26. DEDUCED, notes/assumptions/27. -/
def Block.chainArm (m : Dram) (b : Block) (ctx descAddr : Nat) : Block :=
  let (st, bs, b) := hubRead m b descAddr 128
  if st ≠ .success then b
  else
    let x := leNat bs
    let d := chainDesc x
    let refuse (b : Block) (st : Status) : Block :=
      let b := if b.inMemory d.statusAddr 8 then b.hubWrite d.statusAddr (leBytes 8 st.code) else b
      b.chainSignal ctx d.doneCell
    if chainBad x ∨ descAddr % 128 ≠ 0 ∨ 64 ≤ b.chains.length ∨ (0 < d.pos ∧ (b.connOf ctx d.prevPeer).isNone)
        ∨ (d.last = false ∧ (b.connOf ctx d.nextPeer).isNone) ∨ b.cellOwned ctx d.doneCell = false then refuse b .invalidField
    else
      let ch : Chain := { ctx, descAddr, desc := BitVec.ofNat 1024 x }
      let b := { b with chains := b.chains ++ [ch] }
      if d.pos = 0 then
        iter d.slices b fun b j =>
          match b.chains.find? fun c => c.descAddr == descAddr && c.ctx == ctx with
          | some ch => b.chainSlice m ch j none
          | none => b
      else b

end Sys2Proof.Machine
end

