-- ==== Sys2Proof/Machine/Table.lean ====
section
/-!
DEFINITION. Table descriptors and versioned tables: reader counts, row resolution, flips and the hold list
(R117, R118, R127, R156 to R165).
-/
namespace Sys2Proof.Machine

/-- Tables 6.1 and 8.1. -/
structure TableDesc where
  raw : Nat
  laneRecords : Nat
  combLanes : Nat
  combAddr : Nat
  repSetBytes : Nat
  repBase : Nat
  tableId : Nat
  burlCount : Nat
  burlSel : Nat
  burlMode : Nat
  settled : Bool
  versioned : Bool
  stream : Bool
  remote : Bool
  idx64 : Bool
  fmt : Nat
  rowBytes : Nat
  stride : Nat
  numRows : Nat
  home : Nat
  epoch : Nat
  slot1 : Nat
  tagAddr : Nat
  holdAddr : Nat
  holdCap : Nat
  policy : Nat
  holdLost : Bool
  lostCount : Nat
deriving DecidableEq, Repr

def tableDesc (x : Nat) : TableDesc :=
  { raw := x, laneRecords := bits x 477 464, combLanes := bits x 460 448, combAddr := bits x 431 384
    repSetBytes := bits x 351 320, repBase := bits x 303 256, tableId := bits x 235 224, burlCount := bits x 220 208
    burlSel := bits x 204 204, burlMode := bits x 203 202, settled := bit x 201, versioned := bit x 200, stream := bit x 199
    remote := bit x 198, idx64 := bit x 197, fmt := bits x 196 192, rowBytes := bits x 176 160, stride := bits x 159 128
    numRows := bits x 111 64, home := bits x 63 0, epoch := bits x 895 832, slot1 := bits x 831 784, tagAddr := bits x 783 736
    holdAddr := bits x 735 688, holdCap := bits x 687 672, policy := bits x 671 670, holdLost := bit x 669
    lostCount := bits x 639 576 }

/-- Where a home address is on its own device. -/
def TableDesc.homeLocal (d : TableDesc) : Nat := if d.remote then d.home % 2 ^ 48 else d.home
def TableDesc.peer (d : TableDesc) : Nat := bits d.home 63 52

/-- Bytes from row 0 to the end of the last row. -/
def TableDesc.span (d : TableDesc) : Nat := if d.numRows = 0 then 0 else (d.numRows - 1) * d.stride + d.rowBytes
def TableDesc.laneBytes (d : TableDesc) : Nat := 64 + d.laneRecords * (16 + (d.rowBytes + 15) / 16 * 16)
def TableDesc.recBytes (d : TableDesc) : Nat := 16 + (d.rowBytes + 15) / 16 * 16
def TableDesc.laneAddr (d : TableDesc) (parity rank : Nat) : Nat := d.combAddr + (parity * d.combLanes + rank) * d.laneBytes

/-- Two ranges meet. -/
def overlap (a n c k : Nat) : Bool := decide (0 < n) && decide (0 < k) && decide (a < c + k) && decide (c < a + n)

/-- The range lies wholly in one region that a table may use (R118). -/
def Block.tableRange (b : Block) (a n : Nat) (hostOk : Bool) : Bool :=
  n == 0 || (match b.rangeOf a n with
    | .ok .hbm => true
    | .ok .deep => true
    | .ok .host => hostOk
    | .ok _ => false
    | .error st => st == .memoryDegraded)

/-- Bytes of the replica granule map (R125). -/
def TableDesc.mapBytes (d : TableDesc) : Nat := 32 * (d.repSetBytes / 4096)

/-- A descriptor that breaks R118 or R157. A remote table's rows, combine area and version ranges are the peer's to
check (R25). -/
def Block.tableBad (b : Block) (d : TableDesc) : Bool :=
  let x := d.raw
  let ver := bits x 895 512
  let tagBytes := 8 * d.numRows
  let holdBytes := if d.holdCap = 0 then 0 else 64 + d.holdCap * d.recBytes
  let rangesMeet := d.versioned &&
    (overlap d.homeLocal d.span d.slot1 d.span || overlap d.homeLocal d.span d.tagAddr tagBytes || overlap d.slot1 d.span d.tagAddr tagBytes
      || overlap d.holdAddr holdBytes d.homeLocal d.span || overlap d.holdAddr holdBytes d.slot1 d.span
      || overlap d.holdAddr holdBytes d.tagAddr tagBytes)
  bits x 511 478 != 0 || bits x 463 461 != 0 || bits x 447 432 != 0 || bits x 383 352 != 0 || bits x 319 304 != 0
    || bits x 255 236 != 0 || bits x 223 221 != 0 || bits x 207 205 != 0 || bits x 191 177 != 0 || bits x 127 112 != 0
    || (!d.versioned && ver != 0)
    || (d.settled && (decide (d.laneRecords < 64) || decide (8192 < d.laneRecords) || d.combLanes == 0 || decide (4096 < d.combLanes)))
    || (!d.settled && (d.laneRecords != 0 || d.combLanes != 0)) || d.combAddr % 64 != 0
    || decide (4096 < d.burlCount) || d.burlMode == 3 || (d.burlMode == 0 && d.burlCount != 0)
    || d.repSetBytes % 4096 != 0 || decide (d.repSetBytes < d.burlCount * d.stride)
    || !fmtKnown d.fmt || decide (d.rowBytes < 32) || decide (65536 < d.rowBytes) || d.rowBytes % 4 != 0
    || d.stride % 4 != 0 || decide (d.stride < d.rowBytes) || (!d.idx64 && decide (2 ^ 32 ≤ d.numRows))
    || (d.remote && bits d.home 51 48 != 0)
    || (d.versioned && (d.burlMode != 0 || d.policy == 2 || d.policy == 3
        || bits x 668 640 != 0 || bits x 575 512 != 0 || d.tagAddr % 64 != 0 || d.holdAddr % 64 != 0
        || (d.holdCap == 0 && d.holdAddr != 0) || bit x 895 || rangesMeet))
    || (!d.remote && (!b.tableRange d.home d.span (!d.versioned)
        || (d.settled && !b.tableRange d.combAddr (2 * d.combLanes * d.laneBytes) false)
        || (d.versioned && (!b.tableRange d.slot1 d.span false || !b.tableRange d.tagAddr tagBytes false || !b.tableRange d.holdAddr holdBytes false))))
    || (d.burlMode == 1 && !b.tableRange d.repBase (d.repSetBytes + d.burlCount * d.stride) false)
    || (d.burlMode == 2 && !b.tableRange d.repBase d.mapBytes false)

/-- A home that a memory-side operation cannot reach: the host window (R118, R130). -/
def TableDesc.homeInHost (d : TableDesc) : Bool := !d.remote && decide (hostBase ≤ d.home) && decide (d.home < 0x200000000000)

/-! ### Reader counts (R127, R159) -/

/-- A table that its context has left is released once its counts are zero (R374). -/
def Block.tableIdle (b : Block) (id : Nat) : Block :=
  if (tfind b.tables id).any (·.releasing) ∧ [0, 1].all (fun k => tget 0 b.readers (2 * id + k) == 0 && tget 0 b.burlReaders (2 * id + k) == 0) then
    { b with tables := tdel b.tables id }
  else b

/-- DESIGN CHOICE, notes/assumptions/150. -/
def Block.readerCount (b : Block) (id parity : Nat) : Nat := tget 0 b.readers (2 * id + parity % 2)
def Block.addReader (b : Block) (id parity : Nat) : Block :=
  { b with readers := tput 0 b.readers (2 * id + parity % 2) (b.readerCount id parity + 1) }
def Block.subReader (b : Block) (id parity : Nat) : Block :=
  ({ b with readers := tput 0 b.readers (2 * id + parity % 2) (b.readerCount id parity - 1) } : Block).tableIdle id

def Block.burlCount (b : Block) (id set : Nat) : Nat := tget 0 b.burlReaders (2 * id + set)
def Block.addBurl (b : Block) (id set : Nat) : Block :=
  { b with burlReaders := tput 0 b.burlReaders (2 * id + set) (b.burlCount id set + 1) }
def Block.subBurl (b : Block) (id set : Nat) : Block :=
  ({ b with burlReaders := tput 0 b.burlReaders (2 * id + set) (b.burlCount id set - 1) } : Block).tableIdle id

/-- Registrations leave the counts. -/
def Block.dropRegs (b : Block) (l : List Registration) : Block :=
  l.foldl (fun b r => if r.remote then b else b.subReader r.tableId r.er) b

/-- A blank's registrations end with it (R159). -/
def Block.unregister (b : Block) (p : Nat) : Block :=
  (b.dropRegs (b.spd p).regsns).modSpd p fun s => { s with regsns := [] }

/-! ### Rows and flips -/

def TableDesc.slotAddr (d : TableDesc) (slot row : Nat) : Nat := (if slot = 0 then d.homeLocal else d.slot1) + row * d.stride
def TableDesc.tagOf (d : TableDesc) (row : Nat) : Nat := d.tagAddr + 8 * row

/-- The row tag as the gouge engine of spindle `p` reads it: whether its line is poisoned, row epoch and sel (R156, R158). -/
def readTag (m : Dram) (b : Block) (p : Nat) (d : TableDesc) (row : Nat) (spec : Option Nat := none) : Bool × Nat × Nat × Block :=
  let (bad, bs, b) := b.gougeRead m p (d.tagOf row) 8 spec
  (bad, leNat bs / 2, leNat bs % 2, b)

/-- Which slot a versioned read takes, and the epoch it observes (R160). -/
def resolveRow (perRow : Bool) (ev re sel : Nat) : Nat × Nat :=
  if perRow then (sel, re) else if re ≤ ev then (sel, ev) else (1 - sel, ev)

/-- A row is reclaimable against table epoch `e` (R162). -/
def Block.reclaimable (b : Block) (d : TableDesc) (e re : Nat) : Bool :=
  decide (re < e) || (re == e && b.readerCount d.tableId (e + 1) == 0)

/-- Writes slot 1 − sel and leaves the tag store to follow the slot's acceptance (R162). -/
def Block.writeFlip (m : Dram) (b : Block) (p : Nat) (src : ReqSrc) (d : TableDesc) (e row sel : Nat) (data : List Byte) : Block :=
  let a := d.slotAddr (1 - sel) row
  let b := b.tileMemSide m (tileOf p) .store d.fmt src a data
  { b with tagStores := b.tagStores ++ [{ spindle := p, slotAddr := a, slotLen := data.length, tagAddr := d.tagOf row
                                          tag := BitVec.ofNat 64 (2 * (e + 1) + (1 - sel)), src }] }

/-- A row's tag, where the tag of a flip still to be stored counts as stored. -/
def tagNow (m : Dram) (b : Block) (p : Nat) (d : TableDesc) (row : Nat) : Bool × Nat × Nat × Block :=
  let r := readTag m b p d row
  match (r.2.2.2.tagStores.filter fun t => t.tagAddr == d.tagOf row).getLast? with
  | some t => (r.1, t.tag.toNat / 2, t.tag.toNat % 2, r.2.2.2)
  | none => r

/-- A staged flip at release: applied, held, or lost (R162); the address of a line found poisoned where the flip needs it.
DEDUCED, notes/assumptions/62. -/
def Block.applyFlip (m : Dram) (b : Block) (p : Nat) (src : ReqSrc) (desc row : Nat) (data : List Byte) : Option Nat × Block :=
  let t := tileOf p
  let (bad, bs, b) := b.gougeRead m p desc 128
  let d := tableDesc (leNat bs)
  let e := d.epoch
  if bad then (some desc, b)
  else
    let (tbad, re, sel, b) := tagNow m b p d row
    if tbad then (some (d.tagOf row), b)
    else if b.reclaimable d e re then (none, b.writeFlip m p src d e row sel data)
    else
      let (hbad, hs, b) := b.gougeRead m p d.holdAddr (if d.holdCap = 0 then 0 else 8)
      let count := leNat hs
      if hbad then (some d.holdAddr, b)
      else if d.holdCap ≤ count then
        let b := b.tileMemSide m t .store 0xD src (desc + 72) (leBytes 8 (d.lostCount + 1))
        (none, b.tileMemSide m t .store 0 src (desc + 80) (slice (leBytes 128 (setBits d.raw 669 669 1)) 80 4))
      else
        let b := b.tileMemSide m t .store d.fmt src (d.holdAddr + 64 + count * d.recBytes) (leBytes 8 row ++ leBytes 8 0 ++ data)
        (none, b.tileMemSide m t .store 0xD src d.holdAddr (leBytes 8 (count + 1)))

end Sys2Proof.Machine
end

