-- ==== Sys2Proof/Machine/Blank.lean ====
section
/-!
DEFINITION. What befalls a blank: staging and its release (R140), squashes (R66), faults (R69), its end (R360) and its
retirement (R68, R259).
-/
namespace Sys2Proof.Machine

/-! ### Racks -/

def rackOf (c prio : Nat) : Nat := 4 * c + prio
def Block.rack (b : Block) (r : Nat) : List RackEntry := tget [] b.racks r
def Block.setRack (b : Block) (r : Nat) (l : List RackEntry) : Block := { b with racks := tput [] b.racks r l }
def Blank.prio (k : Blank) : Nat := bits k.desc.toNat 101 100

/-- Entries left in a context's quota, as the RPUSH result forms it (R253). -/
def Block.quotaLeft (b : Block) (c : Nat) : Nat := let s := (b.ctx c).sched; min 65535 (s.quota - s.used)

def Block.addUsed (b : Block) (c n : Nat) : Block :=
  b.modCtx c fun x => { x with sched := { x.sched with used := x.sched.used + n } }
def Block.subUsed (b : Block) (c n : Nat) : Block :=
  b.modCtx c fun x => { x with sched := { x.sched with used := x.sched.used - n } }

/-- The reserved entries of push `resv` become ready in push order, each with its PUSH record (R253, R263). -/
def Block.pushReady (b : Block) (c resv : Nat) : Block :=
  let mine := (List.range 4).flatMap fun prio => ((b.rack (rackOf c prio)).filter fun e => e.resv == resv && !e.ready).map fun e => (rackOf c prio, e)
  (sortBy (fun (x y : Nat × RackEntry) => decide (x.2.ord ≤ y.2.ord)) mine).foldl (fun (b : Block) x =>
    (b.setRack x.1 ((b.rack x.1).map fun e => if e = x.2 then { e with ready := true } else e)).traceEvent c x.2.blank.desc 0x01 0 (b.quotaLeft c)) b

/-- A push that is not released returns its reservation (R253). -/
def Block.pushReturn (b : Block) (c resv : Nat) : Block :=
  (List.range 4).foldl (fun b prio =>
    let r := rackOf c prio
    let gone := (b.rack r).filter fun e => e.resv == resv && !e.ready
    if gone = [] then b
    else (b.setRack r ((b.rack r).filter fun e => !(e.resv == resv && !e.ready))).subUsed c gone.length) b

/-- Discards the buffer of a blank that ends without retiring: receipts are signalled back, behind what the hub has sent to the
cell's tile, and reservations returned, before anything else is told of the end (R253, R278). -/
def Block.discardStaging (b : Block) (p : Nat) : Block :=
  let s := b.spd p
  let b := (s.staging ++ s.stageWait.map (·.2)).foldl (fun b x =>
    match x with
    | .receipt cell theta => (b.signal cell theta (0x7000 + p)).cellFirst none cell
    | .push resv _ => b.pushReturn s.ctx resv
    | _ => b) b
  b.modSpd p fun s => { s with staging := [], stagingUsed := 0, stageWait := [] }

/-! ### Speculation -/

/-- A word is speculative while any older BR is unconfirmed (R61). -/
def Spindle.isSpec (s : Spindle) (idx : Nat) : Bool := s.brs.any fun r => decide (r.idx < idx)

def Spindle.queue (s : Spindle) : Engine → List QCmd
  | .matrix => s.matrixQ
  | .vector => s.vectorQ
  | .load => s.loadQ
  | .store => s.storeQ
  | .gouge => s.gougeQ

def Spindle.setQueue (s : Spindle) (e : Engine) (q : List QCmd) : Spindle :=
  match e with
  | .matrix => { s with matrixQ := q }
  | .vector => { s with vectorQ := q }
  | .load => { s with loadQ := q }
  | .store => { s with storeQ := q }
  | .gouge => { s with gougeQ := q }

def engines : List Engine := [.matrix, .vector, .load, .store, .gouge]

/-- Speculative commands in queues and engines (R61, Table 3.8). -/
def Spindle.specCmds (s : Spindle) : Nat :=
  (engines.map fun e => ((s.queue e).filter fun q => s.isSpec q.idx && !q.completed).length).sum

/-- Changes the queue entry of issue index `idx`. -/
def Block.modCmd (b : Block) (p : Nat) (e : Engine) (idx : Nat) (f : QCmd → QCmd) : Block :=
  b.modSpd p fun s => s.setQueue e (modFirst (fun q => q.idx == idx) f (s.queue e))

/-- A failure that a command meets under way, kept until it completes (R134, R296). -/
def Block.kxFail (b : Block) (p : Nat) (e : Engine) (idx : Nat) (st : Status) : Block :=
  b.modCmd p e idx fun q => { q with failed := some (q.failed.getD st) }

/-- Sectors of a range become unspecified, with what the gathering buffers hold of them (R65).
DESIGN CHOICE, notes/assumptions/4. -/
def Block.forgetRange (b : Block) (p : Nat) (r : Nat × Nat) : Block :=
  let (lo, hi) := (alignDown r.1 64, alignDown (r.1 + r.2 + 63) 64)
  (b.modSpd p fun s => { s with
    spad := s.spad.forget lo hi b.freshTag
    gbuf := s.gbuf.filter fun g => decide (64 * g.sector < lo) || decide (hi ≤ 64 * g.sector) }).bumpFree

/-- The registration of a gather in flight is returned when it is abandoned (R127). -/
def Block.dropGather (b : Block) (p : Nat) : Block :=
  match (b.spd p).gouge with
  | some (.gather g) =>
    match g.burlSel with
    | some set => b.subBurl (tableDesc g.desc.toNat).tableId set
    | none => b
  | _ => b

/-- The tally of the spindle's blank is posted in category `cat` (R340). -/
def Block.postTally (b : Block) (p cat : Nat) : Block :=
  let s := b.spd p
  s.tally.foldl (fun (b : Block) x => b.postSlots { spindle := x.1 / 8, src := x.1 % 8, cat, n := x.2, ctx := some s.ctx }) (b.setSpd p { s with tally := [] })

/-- Removes every word younger than issue index `i`: unbegun commands leave their queues, begun ones wait to be
abandoned at their stage boundary, what they wrote into the prefetch region becomes unspecified, and the bowl set that was next
is next again; slots worked on squashed sequencer words are wasted (R62, R65, R66, R340). -/
def Block.squash (b : Block) (p i : Nat) : Block :=
  let young (q : QCmd) : Bool := decide (i < q.idx)
  let b := match (b.spd p).gouge with
    | some (.gather g) => if i < g.idx then b.dropGather p else b
    | _ => b
  let lost := (((b.spd p).seqSlots.filter fun x => decide (i < x.1)).map (·.2)).sum
  let b := b.postSlots { spindle := p, src := 0, cat := 1, n := lost, ctx := some (b.spd p).ctx }
  let wrote := engines.flatMap fun e => ((b.spd p).queue e).flatMap fun q => if young q then q.wrote else []
  let set := ((b.spd p).matrixQ.filter young).findSome? (·.bowlWas)
  let b := wrote.foldl (fun b r => b.forgetRange p r) b
  let b := b.modSpd p fun s =>
    let aband := engines.flatMap fun e => ((s.queue e).filter fun q => young q && q.begun).map fun q => (e, q)
    let s := engines.foldl (fun s e => s.setQueue e ((s.queue e).filter fun q => !young q)) s
    { s with
      abandoned := s.abandoned ++ aband
      brs := s.brs.filter fun r => !decide (i < r.idx)
      slds := s.slds.filter fun r => !decide (i < r.idx)
      deferredSeq := s.deferredSeq.filter fun r => !decide (i < r.1)
      specEv := s.specEv.filter fun r => !decide (i < r.1)
      seqSlots := s.seqSlots.filter fun r => !decide (i < r.1)
      hold := match s.hold with
        | .fence _ _ k => if i < k then .none else s.hold
        | h => h
      job := s.job.filter fun j => !decide (i < j.idx)
      bowlNext := set.getD s.bowlNext
      held := (s.held.filter fun h => !decide (i < h.idx)).map fun h => if h.readBy.any (fun k => decide (i < k)) then { h with readBy := none } else h
      gouge := match s.gouge with
        | some (.gather g) => if i < g.idx then none else s.gouge
        | some (.burl k _ _ _ _) => if i < k then none else s.gouge
        | some (.advance k _ _ _) => if i < k then none else s.gouge
        | some (.pin k _ _ _ _) => if i < k then none else s.gouge
        | some (.writes k _) => if i < k then none else s.gouge
        | none => none
      ldt := s.ldt.filter fun l => !decide (i < l.idx) }
  b.dropReads fun h => h.spindle == p && decide (i < h.idx)

/-! ### The end of a blank -/

/-- A stolen N tile goes back to its victim, to be run again (R183). -/
def Block.returnStolen (b : Block) (p : Nat) : Block :=
  match (b.spd p).thief with
  | none => b
  | some t =>
    (b.modSpd t.victim fun s => { s with job := s.job.map fun j =>
      if j.idx = t.idx then { j with stolen := j.stolen.filter (· ≠ t.nt), returned := j.returned ++ [t.nt] } else j }).modSpd p fun s => { s with thief := none }

/-- Thieves drop what they took from a spindle whose blank is gone. -/
def Block.dropThieves (b : Block) (p : Nat) : Block :=
  { b with spindles := b.spindles.map fun e => if e.2.thief.any (·.victim == p) then (e.1, { e.2 with thief := none }) else e }

/-- The spindle forgets its current blank; what its engines still have to abandon stays (R66). `retired` says whether what it wrote
makes its handles carried (R358); the commands that named an entry being freed are gone (R102).
DEDUCED, notes/assumptions/130. -/
def Spindle.clearBlank (s : Spindle) (retired : Bool) : Spindle :=
  { s with
    cur := none, started := false, hold := .none, ending := none
    matrixQ := [], vectorQ := [], loadQ := [], storeQ := [], gougeQ := []
    abandoned := s.abandoned.map fun x => (x.1, { x.2 with credit := false, flagTaken := false })
    brs := [], slds := [], deferredSeq := [], job := none, held := [], sessions := [], gouge := none, ldt := none
    staging := [], stagingUsed := 0, stageWait := [], overflow := false, specEv := [], lateSigs := [], tally := [], seqSlots := []
    handles := s.handles.map fun h => (h.1, { h.2 with written := false, carried := h.2.carried || (retired && h.2.written), freeIdx := 0 }) }

/-- Everything of a blank that does not retire is undone: staging discarded, registrations returned, the spindle freed
of it (R356). -/
def Block.dropBlank (b : Block) (p : Nat) : Block :=
  let b := ((b.squash p 0).dropGather p).postTally p 1
  let b := ((b.discardStaging p).unregister p).dropThieves p
  let mine (o : OutPkt) : Bool := match o.owner with
    | .engine q _ _ _ _ => q == p
    | .row q _ _ => q == p
    | _ => false
  let drop (o : OutPkt) : OutPkt := if mine o then { o with owner := .none } else o
  let b := b.dropReads fun h => h.spindle == p
  { b.modSpd p (·.clearBlank false) with
    conns := b.conns.map fun e => (e.1, { e.2 with out := e.2.out.map drop, waiting := e.2.waiting.map drop, again := e.2.again.map drop, reads := e.2.reads.filter fun o => !mine o }) }

/-- The logical number of a physical spindle (R251, R357). -/
def Block.logicalOf (b : Block) (p : Nat) : Nat :=
  match b.spdMap.find? fun e => e.2 == p with
  | some e => e.1
  | none => 64 * (p / 68) + p % 68

/-- The physical spindle that has logical number `l`. -/
def Block.physOf (b : Block) (l : Nat) : Nat := (tfind b.spdMap l).getD (68 * (l / 64) + l % 64)

/-- A blank ends for good (R360): one BLANK_END record, its entry freed, its done_cell not signalled. -/
def Block.blankEnd (b : Block) (p : Nat) (st : Status) (info : Nat) : Block :=
  let s := b.spd p
  match s.cur with
  | none => b
  | some k =>
    let c := k.ctx
    let b := (b.dropBlank p).dropRegs k.regsns
    let b := b.record { context := some c, severity := 1, cls := 0x03, status := st.code, info, unitKind := 1, unit := p, blank := k.addr.toNat }
    let b := b.traceEvent c k.desc 0x06 (b.logicalOf p) st.code
    (b.subUsed c 1).countCtx c 5 1

/-- A confirmed fault completes once every older command has: the blank ends with its status (R69). -/
def Block.tryEnd (b : Block) (p : Nat) : Block :=
  let s := b.spd p
  match s.ending with
  | none => b
  | some f =>
    if engines.any fun e => (s.queue e).any fun q => decide (q.idx < f.idx) then b
    else
      let b := b.setSpd p { s with faultStatus := f.status.code, faultOpcode := f.opcode, faultPc := f.pcOffset }
      b.blankEnd p f.status (fld f.opcode 8 24 + f.pcOffset % 2 ^ 24)

/-- A confirmed command or word faults: younger words are abandoned and the blank ends (R69). -/
def Block.blankFault (b : Block) (p idx : Nat) (st : Status) (opcode pcOffset : Nat) : Block :=
  let s := b.spd p
  match s.cur with
  | none => b
  | some _ =>
    if s.ending.any (fun f => decide (f.idx ≤ idx)) then b
    else
      let b := (b.squash p idx).modSpd p fun s =>
        let s := engines.foldl (fun s e => s.setQueue e ((s.queue e).filter fun q => q.idx != idx)) s
        { s with ending := some { status := st, opcode, pcOffset, idx }, hold := .none, brs := s.brs.filter fun r => r.idx != idx }
      b.tryEnd p

/-- The word offset of an address from the code address. -/
def Spindle.pcOffset (s : Spindle) (pc : Nat) : Nat :=
  match s.cur with
  | some k => ((pc + 2 ^ 52 - bits k.desc.toNat 47 0) / 16) % 2 ^ 32
  | none => 0

/-! ### Late faults (R69, R131, R241) -/

def Issuer.memSrc (o : Issuer) : ReqSrc := .memSide o.p o.blank o.ctx o.serial
def Block.memSrc (b : Block) (p : Nat) : ReqSrc := (b.issuer p).memSrc

/-- The blank still runs on its spindle. -/
def Block.stillRuns (b : Block) (o : Issuer) : Bool :=
  let s := b.spd o.p
  s.cur.isSome && s.started && s.serial == o.serial

/-- The program counter of the oldest word that has not completed.
DEDUCED, notes/assumptions/89. -/
def Spindle.oldestPc (s : Spindle) : Nat :=
  let cmds := engines.flatMap fun e => ((s.queue e).filter fun q => !q.completed).map fun q => (q.idx, q.pc)
  let here := match s.hold with
    | .none => (s.nextIdx, s.pc)
    | .swait w => (s.nextIdx - 1, w.pc)
    | .sread pc => (s.nextIdx - 1, pc)
    | _ => (s.nextIdx - 1, s.pc - 16)
  ((cmds ++ s.brs.map fun r => (r.idx, r.pc)).foldl (fun (a : Nat × Nat) x => if x.1 < a.1 then x else a) here).2

/-- A write or an effect of a blank fails after its command has completed: while the blank still runs it ends, and otherwise one
DEFERRED_WRITE record is charged to its context (R69, R131, R241).
DEDUCED, notes/assumptions/89. -/
def Block.lateFault (b : Block) (o : Issuer) (addr : Nat) (st : Status) : Block :=
  if b.stillRuns o then
    let s := b.spd o.p
    let off := s.pcOffset s.oldestPc
    (b.setSpd o.p { s with faultStatus := st.code, faultOpcode := 0, faultPc := off }).blankEnd o.p st (off % 2 ^ 24)
  else b.record { context := some o.ctx, severity := 1, cls := 0x04, status := st.code, unitKind := 1, unit := o.p, addr, blank := o.blank.toNat }

/-! ### Effects -/

/-- The through-policy entries that a spindle allocated leave the buffer (R272). -/
def Block.flushThrough (m : Dram) (b : Block) (p : Nat) : Block :=
  b.flushWhere m (tileOf p) fun e => e.spindle == p && !e.back

/-- A command issued before index `idx` has not completed. -/
def Spindle.writesBefore (s : Spindle) (idx : Nat) : Bool :=
  engines.any fun e => (s.queue e).any fun q => decide (q.idx < idx)

/-- A released signal of a blank: it leaves once the through-policy writes of its spindle are accepted (R272, R273). -/
def Block.sigOut (m : Dram) (b : Block) (o : Issuer) (peer : Option Nat) (cell : Nat) (amount : Int) : Block :=
  let b := b.flushThrough m o.p
  let lines := b.openLines fun src => match src with
    | .wc p _ _ _ _ => p == o.p
    | _ => false
  match peer with
  | none => b.signal cell amount (0x1000 + o.p) (lines := lines) (island := some o.p)
  | some peer => b.peerSignal o.ctx peer cell amount o.p o.p o.blank (tget {} (b.tile (tileOf o.p)).synCtx o.ctx).ackMode o.serial lines

/-- Signals that waited for earlier writes leave in order once those have completed (R272). -/
def Block.lateOut (m : Dram) (b : Block) (p : Nat) : Block :=
  iter (b.spd p).lateSigs.length b fun b _ =>
    let s := b.spd p
    match s.lateSigs with
    | .signal idx peer cell amount :: rest =>
      if s.writesBefore idx then b else (b.setSpd p { s with lateSigs := rest }).sigOut m (b.issuer p) peer cell amount
    | _ => b

/-- A settled reservation and its records in a lane of this device; a reservation past the lane's capacity writes no record and
fails the command, if that still runs (R134).
DEDUCED, notes/assumptions/25. -/
def Block.laneLocal (m : Dram) (b : Block) (o : Issuer) (idx a cap recBytes : Nat) (recs : List (List Byte)) : Block :=
  let t := tileOf o.p
  let n := recs.length
  let bad := writeBad m b (.memOp .add 0xD) a (leBytes 8 n)
  let b := b.tileMemSide m t .add 0xD o.memSrc a (leBytes 8 n)
  let c0 := (leNat (readNow m b a 8).2 + 2 ^ 64 - n) % 2 ^ 64
  if bad then b
  else if c0 + n ≤ cap then
    iter n b fun b k => b.tileMemSide m t .store 0xA o.memSrc (a + 64 + (c0 + k) * recBytes) (recs.getD k [])
  else if b.stillRuns o then b.kxFail o.p .gouge idx .combineFull else b

/-- The connection to a peer, or the status that what goes to it completes with (R25, R292, R294). -/
def Block.peerConn (b : Block) (ctx peer : Nat) : Except Status Nat :=
  match b.connOf ctx peer, b.peerStatus ctx peer with
  | some _, some st => .error st
  | some i, none => .ok i
  | none, _ => .error .peerLost

def atomicCode : MemOp → Nat
  | .store => 0
  | .add => 1
  | .max => 2
  | .min => 3

/-- An effect takes place: released in order at retirement, or at once after an overflow (R140). -/
def Block.applyEffect (m : Dram) (b : Block) (o : Issuer) (x : Effect) : Block :=
  let s := b.spd o.p
  let (p, c) := (o.p, o.ctx)
  let pkt : Packet := { src := p, epoch := s.epochObs, ev := s.epochValid }
  match x with
  | .memSide op fmt none a data =>
    (b.tileMemSide m (tileOf p) op fmt o.memSrc a data).countEvent p c 0x14 (linesOf a data.length).length
  | .memSide op fmt (some peer) a data =>
    (linePieces a data).foldl (fun b (a, d) =>
      match b.peerConn c peer with
      | .error st => b.lateFault o a st
      | .ok i => b.queuePkt i { pkt with type := 3, op := atomicCode op, fmt := fmt % 16, addr := a, payload := d } (.scatter c p o.blank o.serial)
          (serial := o.serial)) b
  | .lane idx none a cap recBytes recs => b.laneLocal m o idx a cap recBytes recs
  | .lane idx (some peer) a cap recBytes recs =>
    match b.peerConn c peer with
    | .error st => b.lateFault o a st
    | .ok i =>
      let b := if b.stillRuns o then b.modCmd p .gouge idx fun q => { q with outstanding := q.outstanding + 1 } else b
      b.queuePkt i { pkt with type := 3, op := 4, fmt := 0xD, addr := a, xfer := (b.conn i).freshTag, payload := leBytes 8 recs.length }
        (.lane c peer a cap recBytes p o.blank o.serial idx recs) (serial := o.serial)
  | .signal idx peer cell amount =>
    if s.serial = o.serial ∧ (s.lateSigs ≠ [] ∨ s.writesBefore idx) then b.setSpd p { s with lateSigs := s.lateSigs ++ [x] }
    else b.sigOut m o peer cell amount
  | .receipt _ _ => b
  | .push resv _ => b.pushReady c resv
  | .chain desc => b.chainArm m c desc
  | .putLast peer a data cell amount =>
    match b.peerConn c peer with
    | .error st => b.deferredSignal c cell (sigStatus st) p o.blank
    | .ok i =>
      let w := { pkt with addr := a, payload := data }
      if (tget {} (b.tile (tileOf p)).synCtx c).ackMode then
        (b.queuePkt i w (.scatter c p o.blank o.serial) (serial := o.serial)).queuePkt i { pkt with type := 4, sig := true, cell, amount }
          (.signal c cell p o.blank) (alone := true) (serial := o.serial)
      else b.queuePkt i { w with sig := true, cell, amount } (.signal c cell p o.blank) (serial := o.serial)
  | .flip desc row data =>
    match b.applyFlip m p o.memSrc desc row data with
    | (none, b) => b
    | (some a, b) => b.lateFault o a .poisonedTarget
  | .burlSel desc sel =>
    let (bad, bs, b) := b.gougeRead m p (desc + 24) 4
    if bad then b.lateFault o (desc + 24) .poisonedTarget
    else b.tileMemSide m (tileOf p) .store 0 o.memSrc (desc + 24) (leBytes 4 (setBits (leNat bs) 12 12 sel))

/-! ### Staging -/

/-- Bytes an effect takes: 16 B plus its data in units of 16 B (R140); a settled reservation and each of its records take that
each.
DEDUCED, notes/assumptions/47. -/
def effectSize : Effect → Nat
  | .memSide _ _ _ _ data => 16 + (data.length + 15) / 16 * 16
  | .lane _ _ _ _ recBytes recs => 32 + (16 + recBytes) * recs.length
  | .putLast _ _ data _ _ => 16 + (data.length + 15) / 16 * 16
  | .flip _ _ data => 16 + (data.length + 15) / 16 * 16
  | .burlSel _ _ => 32
  | _ => 16

/-- Appends an effect; one that does not fit releases the buffer at once, and it and every later effect of the blank
apply without staging (R140).
DEDUCED, notes/assumptions/70. -/
def Block.stageOne (m : Dram) (b : Block) (p : Nat) (x : Effect) : Block :=
  let s := b.spd p
  let o := b.issuer p
  if s.overflow then b.applyEffect m o x
  else if s.stagingUsed + effectSize x ≤ 0x40000 then
    (b.setSpd p { s with staging := s.staging ++ [x], stagingUsed := s.stagingUsed + effectSize x }).countEvent p s.ctx 0x15 (effectSize x)
  else
    let b := (b.setSpd p { s with staging := [], stagingUsed := 0, overflow := true }).countEvent p s.ctx 0x16 1
    (s.staging ++ [x]).foldl (fun b x => b.applyEffect m o x) b

/-- Opcodes of commands that stage effects (R140, R147, R162, R253, R296, R300). -/
def stagesEffects (op : Nat) : Bool := [0xE0, 0xE1, 0xE2, 0xE3, 0xE8, 0xE9, 0xF0, 0xF3, 0xC4, 0xC5, 0xC6].contains op

/-- A command issued before index `i` may still stage effects. -/
def Spindle.stagesBefore (s : Spindle) (i : Nat) : Bool :=
  (s.gougeQ ++ s.storeQ).any fun q => decide (q.idx < i) && stagesEffects (q.w.toNat % 256)

/-- Effects enter the buffer in issue order: the next one once no older command may still stage one (R140). -/
def Block.stagePump (m : Dram) (b : Block) (p : Nat) : Block :=
  iter (b.spd p).stageWait.length b fun b _ =>
    let s := b.spd p
    match s.stageWait with
    | [] => b
    | (i, x) :: rest => if s.stagesBefore i then b else (b.setSpd p { s with stageWait := rest }).stageOne m p x

/-- An effect of the word of issue index `i` takes its place in issue order. -/
def Block.stage (m : Dram) (b : Block) (p i : Nat) (x : Effect) : Block :=
  (b.modSpd p fun s => { s with stageWait := s.stageWait.filter (fun y => decide (y.1 ≤ i)) ++ (i, x) :: s.stageWait.filter fun y => !decide (y.1 ≤ i) }).stagePump m p

end Sys2Proof.Machine
end

