-- ==== Sys2Proof/Machine/Operands.lean ====
section
/-!
DEFINITION. Operands of words: fields, scalar registers, scratchpad ranges and their handles, and the gathering
buffer (R51, R54, R92, R94, R97, R100).
-/
namespace Sys2Proof.Machine

/-- The whole word of a command whose opcode its name gives. -/
def mkWord (op : Nat) (w : W120) : Nat := op + w.toNat <<< 8

/-- Every listed field `(hi, lo)` is zero (R7). -/
def zeros (w : Nat) (fs : List (Nat × Nat)) : Bool := fs.all fun f => bits w f.1 f.2 == 0

/-! ### Scalar registers -/

/-- s0 reads as zero. -/
def Spindle.reg (s : Spindle) (r : Nat) : Word64 := if r = 0 then 0 else tget 0 s.sregs r

/-- Writes to s0 are discarded. -/
def Spindle.setReg (s : Spindle) (r : Nat) (v : Word64) : Spindle :=
  if r = 0 then s else { s with sregs := tput 0 s.sregs r v }

/-- An SLD into the register has not returned. -/
def Spindle.pendingReg (s : Spindle) (r : Nat) : Bool := r != 0 && s.slds.any (·.rd == r)

/-! ### Scratchpad ranges -/

def spadSize : Nat := 0x600000

/-- The range lies below 0x60_0000 (R94). -/
def inSpad (a n : Nat) : Bool := decide (a + n ≤ spadSize)

/-- The live handle of context `c` that holds the whole range (R100). -/
def Spindle.handleOf (s : Spindle) (c a n : Nat) : Option (Nat × Handle) :=
  s.handles.find? fun h => h.2.state == .live && h.2.context == c && decide (h.2.basePage * 4096 ≤ a)
    && decide (a + n ≤ (h.2.basePage + h.2.sizePages) * 4096)

/-- The handle table as a command of issue index `idx` meets it: an entry that a later HFREE is freeing is still live to
it (R102). -/
def Spindle.asOf (s : Spindle) (idx : Nat) : Spindle :=
  { s with handles := s.handles.map fun h => if h.2.state = .freeing ∧ idx < h.2.freeIdx then (h.1, { h.2 with state := .live }) else h }

/-- Bits of SPD_HANDLE_n's owners (Table 5.4). -/
def ownerSeq : Nat := 0
def ownerOf (e : Engine) : Nat := 1 + engNum e

/-- A read of a range by a command of context `c`. -/
def Spindle.readOk (s : Spindle) (c a n : Nat) : Option Status :=
  if n = 0 then none
  else if !inSpad a n then some .invalidField
  else if (s.handleOf c a n).isNone then some .handleNotLive else none

/-- A write of a range by owner bit `o`. -/
def Spindle.writeOk (s : Spindle) (c o a n : Nat) : Option Status :=
  if n = 0 then none
  else if !inSpad a n then some .invalidField
  else match s.handleOf c a n with
    | none => some .handleNotLive
    | some (_, h) => if bit h.owners o then none else some .handleNotOwner

/-- A speculative write is permitted: a live prefetch handle that the engine owns (R63, R100). -/
def Spindle.prefetchOk (s : Spindle) (c o a n : Nat) : Bool :=
  n == 0 || (match s.handleOf c a n with
    | none => false
    | some (_, h) => h.prefetch && bit h.owners o)

/-- The first failure of a list of checks. -/
def firstBad (l : List (Option Status)) : Option Status := (l.find? (·.isSome)).getD none

/-! ### The gathering buffer (R97) -/

def GatherEntry.commit (r : Ram) (g : GatherEntry) : Ram :=
  (bitList 64 g.mask.toNat).foldl (fun r k => r.write (64 * g.sector + k) [BitVec.ofNat 8 (g.data.toNat >>> (8 * k))]) r

/-- Writes the entries that satisfy `f` to their banks, in order. -/
def Spindle.commitWhere (s : Spindle) (f : GatherEntry → Bool) : Spindle :=
  let out := s.gbuf.filter f
  if out = [] then s
  else { s with gbuf := s.gbuf.filter fun g => !f g, spad := out.foldl GatherEntry.commit s.spad }

/-- A read by any port flushes the entries of the sectors it touches. -/
def Spindle.commitRange (s : Spindle) (a n : Nat) : Spindle :=
  s.commitWhere fun g => decide (n ≠ 0) && decide (a / 64 ≤ g.sector) && decide (g.sector ≤ (a + n - 1) / 64)

/-- A change of a spindle that may write gathering-buffer entries to their banks, `added` of them new; the writes are
events (Table 19.5), noted until the word `spec` is confirmed if it is speculative (R341). -/
def Block.modGb (b : Block) (p : Nat) (f : Spindle → Spindle) (added : Nat := 0) (spec : Option Nat := none) : Block :=
  let n := (b.spd p).gbuf.length + added
  let b := b.modSpd p f
  b.countFor p 0x09 (n - (b.spd p).gbuf.length) spec

/-- The entries of a range reach their banks before a port reads them (R97). -/
def Block.commitRange (b : Block) (p a n : Nat) (spec : Option Nat := none) : Block := b.modGb p (fun s => s.commitRange a n) (spec := spec)

def Block.spadRead (b : Block) (p a n : Nat) (spec : Option Nat := none) : List Byte × Block :=
  let b := b.commitRange p a n spec
  ((b.spd p).spad.read a n, b)

/-- Bytes as every port reads them, without changing the buffer. -/
def Spindle.peek (s : Spindle) (a n : Nat) : List Byte := (s.commitRange a n).spad.read a n

/-- Marks the handle that holds a range as written by the current blank (R358). -/
def Spindle.markWritten (s : Spindle) (a : Nat) : Spindle :=
  { s with handles := s.handles.map fun h =>
      if h.2.state = .live ∧ h.2.basePage * 4096 ≤ a ∧ a < (h.2.basePage + h.2.sizePages) * 4096 then (h.1, { h.2 with written := true }) else h }

/-- A write of a port to its banks. -/
def Block.spadWrite (b : Block) (p a : Nat) (bs : List Byte) (spec : Option Nat := none) : Block :=
  if bs = [] then b
  else b.modGb p (spec := spec) fun s =>
    let s := s.commitRange a bs.length
    { s with spad := s.spad.write a bs }.markWritten a

/-- A narrow write of the vector or gouge engine, within one sector, merges into its gathering buffer; other writes go to the
banks. What the other engine's buffer holds of the sector reaches the bank first, so that writes of two engines apply
in the order made (R97). -/
def Block.gatherWrite (b : Block) (p : Nat) (e : Engine) (a : Nat) (bs : List Byte) (spec : Option Nat := none) : Block :=
  let n := bs.length
  if decide (4 ≤ n) && decide (n ≤ 32) && a % n == 0 && a / 64 == (a + n - 1) / 64 then
    let sec := a / 64
    let mine := fun (g : GatherEntry) => g.engine == e && g.sector == sec
    b.modGb p (added := if (b.spd p).gbuf.any mine then 0 else 1) (spec := spec) fun s =>
      let s := s.commitWhere fun g => g.sector == sec && g.engine != e
      let s : Spindle := match s.gbuf.find? mine with
        | some _ => s
        | none =>
          let s : Spindle := match s.gbuf.filter fun (g : GatherEntry) => g.engine == e with
            | old :: rest => if 7 ≤ rest.length then s.commitWhere (· == old) else s
            | [] => s
          { s with gbuf := s.gbuf ++ [{ engine := e, sector := sec }] }
      let mask := (2 ^ n - 1) <<< (a % 64)
      let s := { s with gbuf := modFirst mine (fun (g : GatherEntry) =>
        { g with mask := g.mask ||| BitVec.ofNat 64 mask
                 data := BitVec.ofNat 512 (mergeNat g.data.toNat (leNat bs <<< (8 * (a % 64))) mask) }) s.gbuf }
      (s.commitWhere fun g => mine g && g.mask.toNat == fullMask).markWritten a
  else b.spadWrite p a bs spec

/-! ### The word at the program counter -/

def Spindle.code (s : Spindle) : Nat × Nat :=
  match s.cur with
  | some k => (bits k.desc.toNat 47 0, bits k.desc.toNat 87 64)
  | none => (0, 0)

def Spindle.inCode (s : Spindle) (pc : Nat) : Bool :=
  let (a, n) := s.code
  decide (a ≤ pc) && decide (pc < a + 16 * n)

/-- The word at an address, when its line is in the instruction buffer (R51). -/
def Spindle.wordAt (s : Spindle) (pc : Nat) : Option Nat :=
  (tfind s.ibuf (alignDown pc 128)).map fun l => leNat (slice l (pc % 128) 16)

/-- A line enters the instruction buffer of 4,096 words, for the prefetched blank or the current one, in the place of the line
64 KiB away (R51, R258).
DESIGN CHOICE, notes/assumptions/156. -/
def Spindle.fillCode (s : Spindle) (pre : Bool) (line : Nat) (bs : List Byte) : Spindle :=
  let stays (l : Nat × List Byte) : Bool := l.1 / 128 % 512 != line / 128 % 512
  let (old, next) := (s.ibuf.filter stays, s.preCode.filter stays)
  if pre then { s with ibuf := old, preCode := tset next line bs } else { s with ibuf := tset old line bs, preCode := next }

/-- The hub runs: powered, out of reset and not lost. -/
def Block.hubUp (b : Block) : Bool := !b.hubLost && !b.perst && (b.power == .a0 || b.power == .a1 || b.power == .a2)

/-- The spindle and tile-fabric clocks run: A0, no THERMTRIP#, the hub up. -/
def Block.clocked (b : Block) : Bool := b.power == .a0 && !b.thermtripPin && b.hubUp

/-- Spindle `p` runs a started blank. -/
def Block.runs (b : Block) (p : Nat) : Bool :=
  let s := b.spd p
  b.clocked && s.inService && !s.faulted && !s.resetting && s.cur.isSome && s.started

/-- The sequencer may issue `w` now: nothing holds it, and `w` is the word at its program counter. -/
def Block.mayIssue (b : Block) (p w : Nat) : Bool :=
  let s := b.spd p
  b.runs p && s.hold == .none && s.ending == none && !s.haltReq && !s.halted && s.inCode s.pc && s.wordAt s.pc == some w

/-- The word has been issued: the program counter and the issue index advance. -/
def Block.advance (b : Block) (p : Nat) : Block :=
  b.modSpd p fun s => { s with pc := s.pc + 16, nextIdx := s.nextIdx + 1 }

/-- The issue index of the next word, where that word is speculative. -/
def Block.specNext (b : Block) (p : Nat) : Option Nat := if (b.spd p).isSpec (b.spd p).nextIdx then some (b.spd p).nextIdx else none

/-- The word at the program counter faults: at once when confirmed; while speculative its fault is deferred and the sequencer goes on
(R64, R69).
DESIGN CHOICE, notes/assumptions/164. -/
def Block.wordFault (b : Block) (p op : Nat) (st : Status) : Block :=
  let s := b.spd p
  if s.isSpec s.nextIdx then
    (b.setSpd p { s with deferredSeq := s.deferredSeq ++ [(s.nextIdx, s.pc, op, st)] }).advance p
  else (b.blankFault p s.nextIdx st op (s.pcOffset s.pc))

end Sys2Proof.Machine
end

