-- ==== Sys2Proof/WellFormed.lean ====
section
/-!
DEFINITION. Which terms of Instr spell a command that something can send: the operands whose range a type does
not carry.
-/
namespace Sys2Proof

/-- Opcodes that a table of the manual marks reserved (Tables 3.1 and 3.3, and the tables of the engines' chapters). -/
def reservedOp (op : Nat) : Bool :=
  (0x0D ≤ op && op ≤ 0x0F) || (0x13 ≤ op && op ≤ 0x17) || (0x1B ≤ op && op ≤ 0x1F) || (0x22 ≤ op && op ≤ 0x2E)
    || (0x33 ≤ op && op ≤ 0x3F) || (0x41 ≤ op && op ≤ 0x47) || (0x4D ≤ op && op ≤ 0x5F) || (0x6B ≤ op && op ≤ 0x6F)
    || (0x74 ≤ op && op ≤ 0x77) || (0x7E ≤ op && op ≤ 0x7F) || (0x88 ≤ op && op ≤ 0x9F) || (0xA6 ≤ op && op ≤ 0xBF)
    || (0xC7 ≤ op && op ≤ 0xDF) || (0xEA ≤ op && op ≤ 0xEF) || (0xF5 ≤ op && op ≤ 0xFF)

/-- A power of two from 1 to 64 (R310). -/
def bar2Size (gib : Nat) : Bool := [1, 2, 4, 8, 16, 32, 64].contains gib

/-- PCIe link widths that training can reach (R308). -/
def pcieWidthOk (w : Nat) : Bool := [1, 2, 4, 8, 16].contains w

def Instr.wf : Instr → Bool
  | .reservedOpcode _ w => reservedOp (w.toNat % 256)
  | .codeFetch _ line => decide (line.toNat % 128 = 0)
  | .wcWrite _ _ _ _ data => decide (1 ≤ data.length) && decide (data.length ≤ 64)
  | .hostBar2Read _ _ len => decide (1 ≤ len) && decide (len ≤ 4096)
  | .hostBar2Write _ _ data _ => decide (1 ≤ data.length) && decide (data.length ≤ 4096)
  | .calipersEstimate a => decide (a.device.length = 10) && a.work.all fun k => decide (k.x.length = 10)
  | .sensorRead tiles _ => decide (tiles.length = 4)
  | .vfEnable n => decide (1 ≤ n.val)
  | .bar2Resize gib => bar2Size gib
  | .perstDeassert b => pcieWidthOk b.width
  | .pcieLinkNarrowed width _ => pcieWidthOk width
  | .functionLevelReset fn => decide (1 ≤ fn.val)
  | _ => true

end Sys2Proof
end

