-- ==== Sys2Proof/Machine/Seq.lean ====
section
/-!
DEFINITION. Sequencer words (Table 3.3), the start of a blank and the fetch of its code.
-/
namespace Sys2Proof.Machine

/-- A sequencer word: it stalls until it may issue, a word that Table 3.6 holds waits for confirmation, and the checks of
R53 come before its effect. `rs` are the registers it reads or writes.
DESIGN CHOICE, notes/assumptions/1. -/
def Block.seqWord (b : Block) (p w : Nat) (mayBeSpec : Bool) (rs : List Nat) (bad : Bool) (act : Block → Block) : Block :=
  let s := b.spd p
  if !b.mayIssue p w then b
  else if !mayBeSpec && s.isSpec s.nextIdx then b
  else if bits w 11 8 ≠ s.ctx then b.wordFault p (w % 256) .accessDenied
  else if bad then b.wordFault p (w % 256) .invalidField
  else if rs.any s.pendingReg then b
  else act b

/-- A three-operand word (R401, R402). -/
def Block.arith (b : Block) (p w : Nat) (f : Word64 → Word64 → Word64) : Block :=
  let (sd, sa, sb) := (bits w 36 32, bits w 41 37, bits w 46 42)
  b.seqWord p w true [sd, sa, sb] (!zeros w [(31, 12), (127, 47)]) fun b =>
    (b.modSpd p fun s => s.setReg sd (f (s.reg sa) (s.reg sb))).advance p

/-- The command completes: the block is `blk`, its working flag `stalled` down again.
DESIGN CHOICE, notes/assumptions/1. -/
def nextOf (s : State) (blk : Block) : Host.Outcome State Fault Refusal := .next { s with blk := { blk with stalled := false } }

def execNop (p : Spd) (w : W120) (s : State) : Host.Outcome State Fault Refusal :=
  let w := mkWord 0x00 w
  nextOf s (s.blk.seqWord p w true [] (!zeros w [(31, 12), (127, 32)]) fun b => b.advance p)

/-- R52: a word whose opcode is reserved; a context breach has precedence (R53). -/
def execReservedOpcode (p : Spd) (w : Word128) (s : State) : Host.Outcome State Fault Refusal :=
  nextOf s (if reservedOp (w.toNat % 256) then s.blk.seqWord p w.toNat true [] true id else s.blk)

def execAdd (p : Spd) (w : W120) (s : State) : Host.Outcome State Fault Refusal :=
  nextOf s (s.blk.arith p (mkWord 0x01 w) fun x y => x + y)
def execSub (p : Spd) (w : W120) (s : State) : Host.Outcome State Fault Refusal :=
  nextOf s (s.blk.arith p (mkWord 0x02 w) fun x y => x - y)
def execAnd (p : Spd) (w : W120) (s : State) : Host.Outcome State Fault Refusal :=
  nextOf s (s.blk.arith p (mkWord 0x03 w) fun x y => x &&& y)
def execOr (p : Spd) (w : W120) (s : State) : Host.Outcome State Fault Refusal :=
  nextOf s (s.blk.arith p (mkWord 0x04 w) fun x y => x ||| y)
def execXor (p : Spd) (w : W120) (s : State) : Host.Outcome State Fault Refusal :=
  nextOf s (s.blk.arith p (mkWord 0x05 w) fun x y => x ^^^ y)
def execShl (p : Spd) (w : W120) (s : State) : Host.Outcome State Fault Refusal :=
  nextOf s (s.blk.arith p (mkWord 0x06 w) fun x y => x <<< (y.toNat % 64))
def execShr (p : Spd) (w : W120) (s : State) : Host.Outcome State Fault Refusal :=
  nextOf s (s.blk.arith p (mkWord 0x07 w) fun x y => x >>> (y.toNat % 64))
def execSra (p : Spd) (w : W120) (s : State) : Host.Outcome State Fault Refusal :=
  nextOf s (s.blk.arith p (mkWord 0x08 w) fun x y => x.sshiftRight (y.toNat % 64))
def execMul (p : Spd) (w : W120) (s : State) : Host.Outcome State Fault Refusal :=
  nextOf s (s.blk.arith p (mkWord 0x09 w) fun x y => x * y)
def execMin (p : Spd) (w : W120) (s : State) : Host.Outcome State Fault Refusal :=
  nextOf s (s.blk.arith p (mkWord 0x0A w) fun x y => if x.slt y then x else y)
def execMax (p : Spd) (w : W120) (s : State) : Host.Outcome State Fault Refusal :=
  nextOf s (s.blk.arith p (mkWord 0x0B w) fun x y => if x.slt y then y else x)
def execSlt (p : Spd) (w : W120) (s : State) : Host.Outcome State Fault Refusal :=
  nextOf s (s.blk.arith p (mkWord 0x0C w) fun x y => if x.slt y then 1 else 0)

def execLi (p : Spd) (w : W120) (s : State) : Host.Outcome State Fault Refusal :=
  let w := mkWord 0x10 w
  nextOf s (s.blk.seqWord p w true [bits w 36 32] (!zeros w [(31, 12), (63, 37)]) fun b =>
    (b.modSpd p fun s => s.setReg (bits w 36 32) (BitVec.ofNat 64 (bits w 127 64))).advance p)

/-- SLD reads its 8 B when it issues; SLD_RESULT delivers them (R401).
DEDUCED, notes/assumptions/29. -/
def execSld (p : Spd) (w : W120) (s : State) : Host.Outcome State Fault Refusal :=
  let w := mkWord 0x11 w
  let (rd, a) := (bits w 36 32, bits w 95 64)
  let bad := !zeros w [(31, 12), (63, 37), (127, 96)] || a % 8 != 0 || !inSpad a 8
  nextOf s (s.blk.seqWord p w true [rd] bad fun b =>
    match ((b.spd p).asOf (b.spd p).nextIdx).readOk (b.spd p).ctx a 8 with
    | some st => b.wordFault p 0x11 st
    | none =>
      let (bs, b) := b.spadRead p a 8 (b.specNext p)
      (b.modSpd p fun s => { s with slds := s.slds ++ [{ idx := s.nextIdx, rd, val := BitVec.ofNat 64 (leNat bs) }] }).advance p)

/-- The oldest SLD's data returns: to its register, to the operands of younger BRs and to their checkpoints.
DEDUCED, notes/assumptions/29. -/
def sldDeliver (s : Spindle) (r : PendingSld) : Spindle :=
  let s := s.setReg r.rd r.val
  { s with brs := s.brs.map fun k =>
      if r.idx < k.idx ∧ r.rd ≠ 0 then
        { k with checkpoint := tput 0 k.checkpoint r.rd r.val
                 va := if k.sa = r.rd ∧ k.va = none then some r.val else k.va
                 vb := if k.sb = r.rd ∧ k.vb = none then some r.val else k.vb }
      else k }

def execSldResult (p : Spd) (s : State) : Host.Outcome State Fault Refusal :=
  let b := s.blk
  nextOf s (if !b.runs p then b
    else match (b.spd p).slds with
      | [] => b
      | r :: rest => b.modSpd p fun s => sldDeliver { s with slds := rest } r)

/-- SST waits for confirmation and writes 8 B (R401, Table 3.6). -/
def execSst (p : Spd) (w : W120) (s : State) : Host.Outcome State Fault Refusal :=
  let w := mkWord 0x12 w
  let (ra, a) := (bits w 36 32, bits w 95 64)
  let bad := !zeros w [(31, 12), (63, 37), (127, 96)] || a % 8 != 0 || !inSpad a 8
  nextOf s (s.blk.seqWord p w false [ra] bad fun b =>
    let x := b.spd p
    match (x.asOf x.nextIdx).writeOk x.ctx ownerSeq a 8 with
    | some st => b.wordFault p 0x12 st
    | none => (b.spadWrite p a (leBytes 8 (x.reg ra).toNat)).advance p)

/-- A word offset from the branching word. -/
def branchTo (pc : Nat) (off : Int) : Nat := ((pc : Int) + 16 * off).toNat

/-- BR: the sequencer goes on along the hint (R59); at most 8 may be unconfirmed (R61). -/
def execBr (p : Spd) (w : W120) (s : State) : Host.Outcome State Fault Refusal :=
  let w := mkWord 0x18 w
  let (sa, sb, cond) := (bits w 68 64, bits w 73 69, bits w 76 74)
  let bad := !zeros w [(31, 12), (127, 78)] || cond == 6 || cond == 7
  nextOf s (if 8 ≤ (s.blk.spd p).brs.length then s.blk
    else s.blk.seqWord p w true [] bad fun b =>
      b.modSpd p fun s =>
        let off := sbits w 63 32
        { s with
          brs := s.brs ++ [{ idx := s.nextIdx, pc := s.pc, offset := off, hint := bit w 77, cond, sa, sb
                             va := if s.pendingReg sa then none else some (s.reg sa)
                             vb := if s.pendingReg sb then none else some (s.reg sb), checkpoint := s.sregs }]
          pc := if bit w 77 then branchTo s.pc off else s.pc + 16
          nextIdx := s.nextIdx + 1 })

/-- JMP: the target is known when it issues. -/
def execJmp (p : Spd) (w : W120) (s : State) : Host.Outcome State Fault Refusal :=
  let w := mkWord 0x19 w
  nextOf s (s.blk.seqWord p w true [] (!zeros w [(31, 12), (127, 64)]) fun b =>
    b.modSpd p fun s => { s with pc := branchTo s.pc (sbits w 63 32), nextIdx := s.nextIdx + 1 })

/-- LOOP: the new value of sd decides; s0 reads as zero after the discarded write.
DEDUCED, notes/assumptions/23. -/
def execLoop (p : Spd) (w : W120) (s : State) : Host.Outcome State Fault Refusal :=
  let w := mkWord 0x1A w
  let sd := bits w 68 64
  nextOf s (s.blk.seqWord p w true [sd] (!zeros w [(31, 12), (127, 69)]) fun b =>
    b.modSpd p fun s =>
      let s := s.setReg sd (s.reg sd - 1)
      { s with pc := if s.reg sd ≠ 0 then branchTo s.pc (sbits w 63 32) else s.pc + 16, nextIdx := s.nextIdx + 1 })

/-- The writes a memory-scope fence waits for start towards memory (R110, R243). -/
def Block.fenceFlush (m : Dram) (b : Block) (p mask : Nat) : Block :=
  let b := b.flushWhere m (tileOf p) fun e => e.spindle == p && e.engines &&& mask != 0
  if bit mask 3 then
    (b.spd p).dirtyLog.foldl (fun b line =>
      let b := b.modSpd p fun s => { s with fenceLines := s.fenceLines ++ [2 * line, 2 * line + 1] }
      match ((b.tile (tileOf p)).dcSet line).find line with
      | some (_, l) => (b.writeBack (tileOf p) l).dcUpdate (tileOf p) line fun l => { l with dirty := 0 }
      | none => b.unlog (tileOf p) line) b
  else b

/-- The engines whose bits are set in a FENCE mask (Table 3.5). -/
def maskEngines (mask : Nat) : List Engine := engines.filter fun e => bit mask (engNum e)

/-- FENCE holds the sequencer; a named engine's gathering buffer is written (R60, R97). -/
def execFence (p : Spd) (w : W120) (s : State) : Host.Outcome State Fault Refusal :=
  let w := mkWord 0x20 w
  let mask := bits w 36 32
  nextOf s (s.blk.seqWord p w true [] (!zeros w [(31, 12), (39, 37), (127, 41)] || mask == 0) fun b =>
    let b := b.modGb p (spec := b.specNext p) fun s => s.commitWhere fun g => (maskEngines mask).contains g.engine
    b.orWait fun b =>
      let b := if bit w 40 then b.fenceFlush s.dram p mask else b
      (b.modSpd p fun s => { s with hold := .fence mask (bit w 40) s.nextIdx }).advance p)

/-- A request of the spindle's buffer entries written by an engine of the mask, or of a line its fence has written back, that is
not yet served. -/
def Block.fencePending (b : Block) (p mask : Nat) : Bool :=
  let lines := (b.spd p).fenceLines
  let mine (src : ReqSrc) (line : Nat) : Bool := match src with
    | .wc sp _ _ _ e => (sp == p && e &&& mask != 0) || lines.contains line
    | _ => false
  b.chans.any (fun c => (c.2.transit ++ c.2.queue).any fun q => mine q.src q.line) || b.outcomes.any fun o => mine o.src (o.addr / 64)

/-- The conditions of a FENCE are met and the sequencer resumes; until then what it waits for moves on (R60, R241). -/
def execFenceComplete (p : Spd) (s : State) : Host.Outcome State Fault Refusal :=
  let b := s.blk
  let x := b.spd p
  nextOf s (b.orWait fun b => if !b.runs p then b
    else match x.hold with
      | .fence mask memory idx =>
        if (maskEngines mask).any fun e => (x.queue e).any fun q => decide (q.idx < idx) && !q.completed then b
        else
          let b := if memory then b.fenceFlush s.dram p mask else b
          if memory && b.fencePending p mask then b else b.modSpd p fun s => { s with hold := .none, fenceLines := [] }
      | _ => b)

/-- RETIRE: nothing further issues (R68). -/
def execRetire (p : Spd) (w : W120) (s : State) : Host.Outcome State Fault Refusal :=
  let w := mkWord 0x2F w
  nextOf s (s.blk.seqWord p w false [] (!zeros w [(31, 12), (127, 32)]) fun b =>
    (b.modSpd p fun s => { s with hold := .retired }).advance p)

/-- A blank starts in the current slot: its state is that of R51, the bowl is unspecified (R75), and what the instruction buffer holds
of an earlier blank is gone.
DESIGN CHOICE, notes/assumptions/144. -/
def Block.startOn (b : Block) (p : Nat) (k : Blank) : Block :=
  let s := b.spd p
  if b.clocked && s.inService && !s.faulted && !s.resetting && s.thief.isNone then
    let d := k.desc.toNat
    let b := b.setSpd p { s with
      cur := some { k with regsns := [] }, started := true, serial := s.serial + 1, phases := tset s.phases (s.serial + 1) (k.ctx, bits d 127 120)
      pc := bits d 47 0, sregs := tput 0 [] 1 (BitVec.ofNat 64 (bits d 447 384)), flags := [], credit := 0, regsns := k.regsns, ibuf := []
      fenceLines := [], nextIdx := 1, bowl := s.bowl.forget 0 0x100000 b.freshTag, bowlNext := 0, bowlCtx := k.ctx
      epochObs := 0, epochValid := false, overflow := false, hold := .none, ending := none }
    b.bumpFree.traceEvent k.ctx k.desc 0x04 (b.logicalOf p) 0
  else b

/-- The prefetched blank moves to the current slot, with the code lines read for it, and starts, or a re-dispatched blank starts in it
(R51, R258, R357). -/
def Block.blankStart (b : Block) (p : Nat) : Block :=
  let s := b.spd p
  match s.cur, s.pre with
  | some k, _ => if s.started then b else b.startOn p k
  | none, some k =>
    let b' := b.startOn p k
    if (b'.spd p).started then b'.modSpd p fun s => { s with pre := none, ibuf := s.preCode, preCode := [] } else b
  | none, none => b

def execBlankStart (p : Spd) (s : State) : Host.Outcome State Fault Refusal := nextOf s (s.blk.blankStart p)

/-- R51: a code line arrives, or the word that needs it ends the blank.
DESIGN CHOICE, notes/assumptions/11. -/
def Block.codeFetch (m : Dram) (b : Block) (p line : Nat) : Block :=
  let s := b.spd p
  let line := alignDown line 128
  let here := alignDown s.pc 128 == line
  let confirmed := !s.isSpec s.nextIdx && s.hold == .none && !s.haltReq
  let (code, n) := s.code
  if !b.runs p || s.ending != none then b
  else if here ∧ !s.inCode s.pc then
    (if confirmed then b.bumpFree.blankFault p s.nextIdx .invalidField (Config.freeOpcode b.freeCtr).toNat (s.pcOffset s.pc) else b)
  else if line + 128 ≤ code ∨ code + 16 * n ≤ line then b
  else
    match b.engineRange line 128 with
    | .error st => if here ∧ confirmed then b.bumpFree.blankFault p s.nextIdx st (Config.freeOpcode b.freeCtr).toNat (s.pcOffset s.pc) else b
    | .ok _ =>
      let spec := b.specNext p
      let (st, bs, b) := b.tileRead m p line 128 .reuse spec
      if st = .success then (b.modSpd p fun s => s.fillCode false line bs).countFor p 0x0F 1 spec
      else if here ∧ confirmed then b.bumpFree.blankFault p s.nextIdx st (Config.freeOpcode b.freeCtr).toNat (s.pcOffset s.pc)
      else b

def execCodeFetch (p : Spd) (line : BitVec 48) (s : State) : Host.Outcome State Fault Refusal :=
  nextOf s (s.blk.orWait fun b => b.codeFetch s.dram p line.toNat)

end Sys2Proof.Machine
end

