-- ==== Sys2Proof/Machine/EngineBase.lean ====
section
/-!
DEFINITION. What the five engines share: how an operation answers when it begins, and how its queue entry moves on
(R54 to R58, R63).
-/
namespace Sys2Proof.Machine

/-- The answer of an operation at its beginning. -/
inductive EffRes where
  /-- carried out -/
  | ok (b : Block)
  /-- begun, and going on through later events -/
  | run (b : Block)
  /-- a fault condition -/
  | fault (b : Block) (st : Status)
  /-- it cannot begin now: Table 3.6 holds it, or what it waits for has not come -/
  | hold
  /-- it first needs these bytes of the host window: bus address and length (R22) -/
  | host (b : Block) (reqs : List (Nat × Nat))

/-- An engine opcode: its engine, whether it takes a load credit, whether it may begin while speculative, the registers
read at issue, the breaches of its word, and its effect. -/
structure OpSpec where
  eng : Engine
  credit : Bool := false
  mayBeSpec : Bool := false
  regs : Nat → List Nat
  bad : Nat → Bool
  eff : Dram → Block → Nat → QCmd → Bool → EffRes

/-- DEDUCED, notes/assumptions/58. -/
def queueDepth : Engine → Nat
  | .matrix => 16
  | .vector => 32
  | .load => 64
  | .store => 32
  | .gouge => 64

/-- The header of Table 3.2. -/
def hdrRel (w : Nat) : Bool := bit w 28
def hdrSet (w : Nat) : Option Nat := if bit w 27 then some (bits w 26 22) else none
def hdrWait (w : Nat) : Option Nat := if bit w 21 then some (bits w 20 16) else none

/-- The register value that the sequencer read at issue. -/
def QCmd.reg (q : QCmd) (r : Nat) : Nat := (tget 0 q.regs r).toNat
/-- The value of the register that field `hi:lo` of the word names. -/
def QCmd.rf (q : QCmd) (hi lo : Nat) : Nat := q.reg (bits q.w.toNat hi lo)

/-- The entry's effect is carried out; it completes in queue order. -/
def Block.markDone (b : Block) (p : Nat) (e : Engine) (idx : Nat) : Block := b.modCmd p e idx fun q => { q with done := true, hostBuf := [], resume := false }

/-- A fault condition of the entry met while it runs: raised when confirmed, deferred otherwise (R64). -/
def Block.cmdFault (b : Block) (p : Nat) (e : Engine) (q : QCmd) (st : Status) : Block :=
  if (b.spd p).isSpec q.idx then b.modCmd p e q.idx fun q => { q with done := true, deferred := some st }
  else b.blankFault p q.idx st (q.w.toNat % 256) ((b.spd p).pcOffset q.pc)

/-- The index of a command that is still speculative. -/
def Block.specOf (b : Block) (p : Nat) (q : QCmd) : Option Nat := if (b.spd p).isSpec q.idx then some q.idx else none

/-- Event `code` of a command (R341). -/
def Block.cmdEvent (b : Block) (p : Nat) (q : QCmd) (code n : Nat) : Block := b.countFor p code n (b.specOf p q)

/-- Grain blocks that hold the words from index `w` on (R193).
DEDUCED, notes/assumptions/56. -/
def grainBlocks (w n : Nat) : Nat := if n = 0 then 0 else (w + n - 1) / 4 - w / 4 + 1
/-- The blocks that a conversion of `n` elements from index `e` on draws from (R43).
DEDUCED, notes/assumptions/56. -/
def convBlocks (c : Conv) (e n : Nat) : Nat := if c.stoch then grainBlocks e n else 0

/-- Effects of a command enter staging, once it is confirmed (R124, R140).
DEDUCED, notes/assumptions/47. -/
def Block.stageFor (m : Dram) (b : Block) (p : Nat) (e : Engine) (q : QCmd) (xs : List Effect) : Block :=
  if (b.spd p).isSpec q.idx then b.modCmd p e q.idx fun q => { q with onConfirm := q.onConfirm ++ xs }
  else xs.foldl (fun b x => b.stage m p q.idx x) b

/-- A write of an engine to scratchpad: noted while speculative, so that a squash makes it unspecified (R65). -/
def Block.engWrite (b : Block) (p : Nat) (e : Engine) (q : QCmd) (a : Nat) (bs : List Byte) : Block :=
  let b := if (b.spd p).isSpec q.idx then b.modCmd p e q.idx fun q => { q with wrote := q.wrote ++ [(a, bs.length)] } else b
  match e with
  | .vector => b.gatherWrite p e a bs (b.specOf p q)
  | .gouge => b.gatherWrite p e a bs (b.specOf p q)
  | _ => b.spadWrite p a bs (b.specOf p q)

/-- Sectors that speculative commands issued after index `idx` have written. -/
def Spindle.shadows (s : Spindle) (idx : Nat) : List (Nat × Nat) :=
  engines.flatMap fun e => ((s.queue e).filter fun q => decide (idx < q.idx) && s.isSpec q.idx).flatMap fun q =>
    q.wrote.map fun r => (alignDown r.1 64, alignDown (r.1 + r.2 + 63) 64)

/-- Scratchpad as the command of issue index `idx` reads it: a sector that a younger speculative command has written holds nothing
defined for it (R65).
DESIGN CHOICE, notes/assumptions/4. -/
def Block.cmdSpad (b : Block) (p idx : Nat) : Ram × Block :=
  let sh := (b.spd p).shadows idx
  if sh = [] then ((b.spd p).spad, b) else (sh.foldl (fun r x => r.forget x.1 x.2 b.freshTag) (b.spd p).spad, b.bumpFree)

/-- A read of a command from scratchpad. -/
def Block.engRead (b : Block) (p : Nat) (q : QCmd) (a n : Nat) : List Byte × Block :=
  let (r, b) := (b.commitRange p a n (b.specOf p q)).cmdSpad p q.idx
  (r.read a n, b)

/-- Reads of several ranges. -/
def Block.engReads (b : Block) (p : Nat) (q : QCmd) (rs : List (Nat × Nat)) : List (List Byte) × Block :=
  rs.foldl (fun (acc : List (List Byte) × Block) r =>
    let (bs, b) := acc.2.engRead p q r.1 r.2
    (acc.1 ++ [bs], b)) ([], b)

/-- Checks a command's ranges at its beginning: a range past scratchpad faults, a speculative write outside a live prefetch handle
that the engine owns holds, and other failures fault (R63, R100, Table 3.6). Reads and writes are `(address, bytes)`. -/
def rangeCheck (b : Block) (p : Nat) (e : Engine) (q : QCmd) (reads writes : List (Nat × Nat)) : Option EffRes :=
  let s := (b.spd p).asOf q.idx
  let c := s.ctx
  if (reads ++ writes).any fun r => r.2 != 0 && !inSpad r.1 r.2 then some (.fault b .invalidField)
  else if s.isSpec q.idx && !(writes.all fun r => s.prefetchOk c (ownerOf e) r.1 r.2) then some .hold
  else match firstBad ((reads.map fun r => s.readOk c r.1 r.2) ++ writes.map fun r => s.writeOk c (ownerOf e) r.1 r.2) with
  | some st => some (.fault b st)
  | none => none

/-- Host-window bytes that have arrived for a command; none while any is missing. -/
def QCmd.hostBytes (q : QCmd) (a n : Nat) : Option (List Byte) :=
  if (List.range n).all fun k => (tfind q.hostBuf (a + k)).isSome then some ((List.range n).map fun k => tget 0 q.hostBuf (a + k)) else none

end Sys2Proof.Machine
end

