-- ==== Sys2Proof/Machine/Tiles.lean ====
section
/-!
DEFINITION. Tile descriptors and nest extensions: their fields, their checks, the ranges they name, the walk of visits
(Chapter 4, R169, R173), and the access of an engine to device memory or the host window (R16 to R23).
-/
namespace Sys2Proof.Machine

/-- Table 4.4. -/
structure TDesc where
  raw : Nat
  eCols : Nat
  conv : Nat
  colBase : Nat
  eRowBase : Nat
  outScaleAddr : Nat
  outStride : Nat
  outScaleStride : Nat
  outAddr : Nat
  topkAddr : Nat
  nestAddr : Nat
  nLogical : Nat
  epiAddr : Nat
  nestEn : Bool
  n : Nat
  k : Nat
  mLogical : Nat
  cinStride : Nat
  cinFmt : Nat
  init : Nat
  drainMode : Nat
  outSpace : Bool
  epi : Nat
  topkInit : Bool
  topkK : Nat
  m : Nat
  bScaleStride : Nat
  maskAddr : Nat
  cinAddr : Nat
  aScaleAddr : Nat
  aScaleStride : Nat
  bScaleAddr : Nat
  bAddr : Nat
  bStride : Nat
  bTrans : Bool
  maskMode : Nat
  aAddr : Nat
  aStride : Nat
  bFmt : Nat
  aFmt : Nat
deriving DecidableEq, Repr

def tileDescOf (x : Nat) : TDesc :=
  { raw := x, eCols := bits x 831 800, conv := bits x 799 768, colBase := bits x 767 736, eRowBase := bits x 735 704
    outScaleAddr := bits x 687 640, outStride := bits x 639 608, outScaleStride := bits x 607 584, outAddr := bits x 559 512
    topkAddr := bits x 511 488, nestAddr := bits x 487 464, nLogical := bits x 447 428, epiAddr := bits x 427 404
    nestEn := bit x 403, n := bits x 383 364, k := bits x 363 340, mLogical := bits x 339 328, cinStride := bits x 319 296
    cinFmt := bits x 295 291, init := bits x 287 286, drainMode := bits x 285 284, outSpace := bit x 283, epi := bits x 282 281
    topkInit := bit x 280, topkK := bits x 279 273, m := bits x 267 256, bScaleStride := bits x 255 240
    maskAddr := bits x 239 216, cinAddr := bits x 215 192, aScaleAddr := bits x 191 168, aScaleStride := bits x 167 152
    bScaleAddr := bits x 151 128, bAddr := bits x 127 104, bStride := bits x 103 80, bTrans := bit x 66
    maskMode := bits x 65 64, aAddr := bits x 63 40, aStride := bits x 39 16, bFmt := bits x 9 5, aFmt := bits x 4 0 }

/-- Table 4.6. -/
structure Nest where
  raw : Nat
  c1 : Nat × Nat × Nat
  c2 : Nat × Nat × Nat
  order1 : Nat
  order2 : Nat
  levels : Nat
  ready : Nat
  free : Nat
  bufOffset : Nat
  srcAsStride : Nat
  srcBsStride : Nat
  partStride : Nat
  srcAStride : Nat
  srcBStride : Nat
  partAddr : Nat
  srcBs : Nat
  srcAs : Nat
  srcB : Nat
  srcA : Nat
deriving DecidableEq, Repr

/-- Extents are (m, n, k); a level-2 extent is 1 when there is one level. -/
def nestOf (x : Nat) : Nest :=
  { raw := x, c1 := (bits x 463 456, bits x 455 448, bits x 575 568)
    c2 := if bits x 561 560 = 2 then (bits x 511 496, bits x 495 480, bits x 479 464) else (1, 1, 1)
    order1 := bits x 567 565, order2 := bits x 564 562, levels := bits x 561 560, ready := bits x 559 555, free := bits x 554 550
    bufOffset := bits x 549 526, srcAsStride := bits x 447 432, srcBsStride := bits x 431 416, partStride := bits x 415 384
    srcAStride := bits x 383 352, srcBStride := bits x 351 320, partAddr := bits x 303 256, srcBs := bits x 239 192
    srcAs := bits x 175 128, srcB := bits x 111 64, srcA := bits x 47 0 }

/-- The operand pairs of Table 2.2: K chunk and whether the column path is exact. -/
def operandPair (a b : Nat) : Option (Nat × Bool) :=
  if a = 9 ∧ b = 9 then some (128, true)
  else if 3 ≤ a ∧ a ≤ 9 ∧ 3 ≤ b ∧ b ≤ 9 then some (64, true)
  else if a = 0xA ∧ b = 0xA then some (64, true)
  else if a = b ∧ (a = 1 ∨ a = 2) then some (64, false)
  else none

def TDesc.chunk (d : TDesc) : Nat := match operandPair d.aFmt d.bFmt with
  | some (c, _) => c
  | none => 64
def TDesc.exact (d : TDesc) : Bool := match operandPair d.aFmt d.bFmt with
  | some (_, e) => e
  | none => true

/-- Operands of codes 0x03, 0x04 and 0x0A take one scale byte (R29, R80). -/
def perTensor (code : Nat) : Bool := code == 3 || code == 4 || code == 0xA

def TDesc.dst (d : TDesc) : Nat := (convOf d.conv).fmt
/-- Beside the field's values, a drain that writes no output at all: RTILE's, and a hash FTILE's. -/
def drainNowhere : Nat := 4
def TDesc.stores (d : TDesc) : Bool := d.drainMode != 1 && d.drainMode != drainNowhere
def TDesc.topk (d : TDesc) : Bool := d.drainMode == 1 || d.drainMode == 2
/-- Stored rows of B and elements of one. -/
def TDesc.bRows (d : TDesc) : Nat := if d.bTrans then d.n else d.k
def TDesc.bCols (d : TDesc) : Nat := if d.bTrans then d.k else d.n

def cinBytes (fmt : Nat) : Nat := if fmt = 0 then 4 else 2

/-- Bytes from the first row's start to the last row's end. -/
def rowSpan (rows stride len : Nat) : Nat := if rows = 0 then 0 else (rows - 1) * stride + len

/-- Counts of level-0 tiles along m, n and k. -/
def Nest.counts (x : Nest) : Nat × Nat × Nat := (x.c1.1 * x.c2.1, x.c1.2.1 * x.c2.2.1, x.c1.2.2 * x.c2.2.2)

/-- Indices along (m, n, k) of step `i` of a loop nest under an order code (R91). -/
def orderIdx (order i : Nat) (c : Nat × Nat × Nat) : Nat × Nat × Nat :=
  let (cm, cn, ck) := c
  match order with
  | 0 => (i / (cn * ck), i / ck % cn, i % ck)
  | 1 => (i / ck % cm, i / (cm * ck), i % ck)
  | 2 => (i / (ck * cn), i % cn, i / cn % ck)
  | 3 => (i % cm, i / (ck * cm), i / cm % ck)
  | 4 => (i / cn % cm, i % cn, i / (cm * cn))
  | _ => (i % cm, i / cm % cn, i / (cn * cm))

def vol (c : Nat × Nat × Nat) : Nat := c.1 * c.2.1 * c.2.2

/-- Visits of a nest extension. -/
def Nest.visits (x : Nest) : Nat := vol x.c1 * vol x.c2

/-- The level-1 tile and the level-0 indices of visit `v`, in whole-extent level-0 tiles (R91). -/
def Nest.visit (x : Nest) (v : Nat) : Nat × Nat × Nat :=
  let o := orderIdx x.order2 (v / vol x.c1) x.c2
  let i := orderIdx x.order1 (v % vol x.c1) x.c1
  (o.1 * x.c1.1 + i.1, o.2.1 * x.c1.2.1 + i.2.1, o.2.2 * x.c1.2.2 + i.2.2)

/-! ### Masks (Table 9.1) -/

def maskBitmapBytes (sr sc : Nat) : Nat := ceilDiv (sr * sc) 32768
def maskNibbleBase (sr sc : Nat) : Nat := ceilDiv (maskBitmapBytes sr sc) 64 * 64
def maskBytes (mode sr sc : Nat) : Nat :=
  if mode = 2 then maskNibbleBase sr sc + ceilDiv (sr / 4 * sc) 2 else maskBitmapBytes sr sc

def byteBit (l : Nat → Byte) (i : Nat) : Bool := bit (l (i / 8)).toNat (i % 8)

/-- The block bit of stored position (r, c), over the bytes of a mask. -/
def maskBlock (l : Nat → Byte) (sc r c : Nat) : Bool := byteBit l (r / 64 * (sc / 64) + c / 64)

/-- The nibble of stored position (r, c). -/
def maskNibble (l : Nat → Byte) (sr sc r c : Nat) : Nat :=
  let i := r / 4 * sc + c
  bits (l (maskNibbleBase sr sc + i / 2)).toNat (4 * (i % 2) + 3) (4 * (i % 2))

/-- The position is kept. -/
def maskKeep (l : Nat → Byte) (mode sr sc r c : Nat) : Bool :=
  mode == 0 || (maskBlock l sc r c && (mode != 2 || bit (maskNibble l sr sc r c) (r % 4)))

/-! ### Validation (R81) -/

/-- A range of scratchpad and whether the matrix engine writes it. -/
structure SRange where
  addr : Nat
  len : Nat
  write : Bool := false
deriving DecidableEq, Repr

/-- Multiplicity along (m, n, k) of a descriptor with its extension. -/
def wholeCounts (d : TDesc) (x : Nest) : Nat × Nat × Nat := if d.nestEn then x.counts else (1, 1, 1)

/-- Operand ranges at an offset: A, B, their scales and the accumulate-into rows. -/
def operandRanges (d : TDesc) (off : Nat) : List SRange :=
  [{ addr := d.aAddr + off, len := rowSpan d.m d.aStride (rowBytes d.aFmt d.k) },
   { addr := d.bAddr + off, len := rowSpan d.bRows d.bStride (rowBytes d.bFmt d.bCols) }]
  ++ (if isMx d.aFmt then [{ addr := d.aScaleAddr + off, len := rowSpan d.m d.aScaleStride (d.k / 32) }] else [])
  ++ (if isMx d.bFmt then [{ addr := d.bScaleAddr + off, len := rowSpan d.n d.bScaleStride (d.k / 32) }] else [])
  ++ (if perTensor d.aFmt then [{ addr := d.aScaleAddr + off, len := 1 }] else [])
  ++ (if perTensor d.bFmt then [{ addr := d.bScaleAddr + off, len := 1 }] else [])
  ++ (if d.init = 1 ∨ d.nestEn then [{ addr := d.cinAddr + off, len := rowSpan d.m d.cinStride (cinBytes d.cinFmt * d.n) }] else [])

def maskRange (d : TDesc) (off sr sc : Nat) : List SRange :=
  if d.maskMode = 0 then [] else [{ addr := d.maskAddr + off, len := maskBytes d.maskMode sr sc }]

/-- Every scratchpad range that a descriptor and its extension name. -/
def tileRanges (d : TDesc) (x : Nest) : List SRange :=
  let (cm, cn, ck) := wholeCounts d x
  let offs := if d.nestEn then [0, x.bufOffset] else [0]
  let sr := d.bRows * (if d.bTrans then cn else ck)
  let sc := d.bCols * (if d.bTrans then ck else cn)
  offs.flatMap (operandRanges d)
  ++ offs.flatMap (fun o => maskRange d o sr sc)
  ++ (if d.epi = 0 then [] else [{ addr := d.epiAddr, len := 4 * d.n * cn }])
  ++ (if d.stores ∧ d.outSpace = false then
        { addr := d.outAddr, len := rowSpan (d.m * cm) d.outStride (rowBytes d.dst (d.n * cn)), write := true }
        :: (if isMx d.dst then [{ addr := d.outScaleAddr, len := rowSpan (d.m * cm) d.outScaleStride (d.n * cn / 32), write := true }] else [])
      else [])
  ++ (if d.topk then [{ addr := d.topkAddr, len := 8 * d.topkK * d.mLogical, write := true }] else [])

/-- Bytes to which an element of a format is aligned (Table 4.5). -/
def elemAlign (code : Nat) : Nat := max 1 (elemBits code / 8)

/-- The scale fields of one operand: MX, per tensor, or zero (Table 4.5).
DEDUCED, notes/assumptions/33. -/
def scaleFieldsBad (fmt addr stride need : Nat) (tensor : Bool) : Bool :=
  if isMx fmt then decide (stride < need) else if tensor then stride != 0 else addr != 0 || stride != 0

/-- A descriptor that breaks Table 4.5, R74, R85 to R88 or R91. An address field that the descriptor does not use (epi_addr with
epi = 00, mask_addr with mask_mode = 00) may hold any value, and with nest_en = 1 the bytes of one row are those of the level-0 n
(DESIGN CHOICE, notes/assumptions/165: R79 and R81 leave both open). DEDUCED, notes/assumptions/33. -/
def tileBad (d : TDesc) (x : Nest) : Bool :=
  let r := d.raw
  let y := x.raw
  let mxOut := d.stores && isMx d.dst
  let strideBad (s need : Nat) : Bool := s % 64 != 0 || decide (s < need)
  bits r 1023 832 != 0 || bits r 703 688 != 0 || bits r 583 560 != 0 || bits r 463 448 != 0 || bits r 402 384 != 0
    || bits r 327 320 != 0 || bits r 290 288 != 0 || bits r 272 268 != 0 || bits r 79 67 != 0 || bits r 15 10 != 0
    || (operandPair d.aFmt d.bFmt).isNone
    || d.m % 64 != 0 || decide (d.m < 64) || decide (2048 < d.m) || d.n % 64 != 0 || decide (d.n < 64)
    || d.k % d.chunk != 0 || decide (d.k < d.chunk) || decide (16777088 < d.k)
    || d.mLogical == 0 || decide (d.m < d.mLogical) || d.nLogical == 0 || decide (d.n < d.nLogical)
    || (d.nestEn && (d.mLogical != d.m || d.nLogical != d.n))
    || d.aAddr % 64 != 0 || d.bAddr % 64 != 0
    || strideBad d.aStride (rowBytes d.aFmt d.k) || strideBad d.bStride (rowBytes d.bFmt d.bCols)
    || (d.bTrans && isMx d.bFmt)
    || scaleFieldsBad d.aFmt d.aScaleAddr d.aScaleStride (d.k / 32) (perTensor d.aFmt)
    || scaleFieldsBad d.bFmt d.bScaleAddr d.bScaleStride (d.k / 32) (perTensor d.bFmt)
    || decide (2 ≤ d.init) || d.drainMode == 3 || d.maskMode == 3
    || (if d.init = 1 ∨ d.nestEn then decide (2 < d.cinFmt) || strideBad d.cinStride (cinBytes d.cinFmt * d.n)
        else d.cinAddr != 0 || d.cinStride != 0 || d.cinFmt != 0)
    || (d.nestEn && (d.init != 0 || d.cinFmt != 0 || d.topk || d.nestAddr % 128 != 0))
    || (if d.topk then d.topkK == 0 || decide (64 < d.topkK) else d.topkK != 0 || d.topkAddr != 0 || d.topkInit)
    || decide (0xFFFFFFFF ≤ d.colBase + d.nLogical - 1) || d.epiAddr % 4 != 0
    || (if d.stores then
          convBad d.conv || scaleFieldsBad d.dst d.outScaleAddr d.outScaleStride (d.n / 32) false
          || (if d.outSpace then
                d.outAddr % elemAlign d.dst != 0 || d.outStride % elemAlign d.dst != 0 || decide (d.outStride < rowBytes d.dst d.n)
              else decide (spadSize ≤ d.outAddr) || strideBad d.outStride (rowBytes d.dst d.n))
          || (mxOut && d.nLogical % 32 != 0 && d.colBase + d.nLogical != d.eCols)
        else d.outAddr != 0 || d.outStride != 0 || d.outScaleAddr != 0 || d.outScaleStride != 0 || d.conv != 0)
    || (d.nestEn && (bits y 1023 576 != 0 || bits y 525 512 != 0 || bits y 319 304 != 0 || bits y 255 240 != 0
          || bits y 191 176 != 0 || bits y 127 112 != 0 || bits y 63 48 != 0
          || x.c1.1 == 0 || x.c1.2.1 == 0 || x.c1.2.2 == 0 || decide (6 ≤ x.order1) || decide (6 ≤ x.order2)
          || x.levels == 0 || x.levels == 3 || x.c2.1 == 0 || x.c2.2.1 == 0 || x.c2.2.2 == 0
          || (x.levels == 1 && (x.order2 != 0 || bits y 511 464 != 0))))
    || (tileRanges d x).any fun r => !inSpad r.addr r.len

/-- A per-tensor scale byte of 0xFF refuses the descriptor (R29). -/
def tensorScaleBad (s : Spindle) (d : TDesc) (off : Nat) : Bool :=
  (perTensor d.aFmt && (s.peek (d.aScaleAddr + off) 1) == [0xFF]) || (perTensor d.bFmt && (s.peek (d.bScaleAddr + off) 1) == [0xFF])

/-- A fetched descriptor: its fields, its extension, or the status it is refused with (R81, R100). `more` are further
ranges of the command, `extra` a further breach; `view` is the descriptor that Table 4.5 is checked on. -/
def loadTile (b : Block) (p idx descAddr : Nat) (more : TDesc → Nest → List SRange) (extra : TDesc → Bool) (view : TDesc → TDesc := id) : Except Status (TDesc × Nest) :=
  let s := (b.spd p).asOf idx
  let c := s.ctx
  if descAddr % 128 ≠ 0 ∨ !inSpad descAddr 128 then .error .invalidField
  else match s.readOk c descAddr 128 with
    | some st => .error st
    | none =>
      let d := tileDescOf (leNat (s.peek descAddr 128))
      if d.nestEn ∧ !inSpad d.nestAddr 128 then .error .invalidField
      else match (if d.nestEn then s.readOk c d.nestAddr 128 else none) with
        | some st => .error st
        | none =>
          let x := nestOf (if d.nestEn then leNat (s.peek d.nestAddr 128) else 0)
          if tileBad (view d) x ∨ extra d ∨ (more d x).any (fun r => !inSpad r.addr r.len) then .error .invalidField
          else
            match firstBad ((tileRanges (view d) x ++ more d x).map fun r => if r.write then s.writeOk c (ownerOf .matrix) r.addr r.len else s.readOk c r.addr r.len) with
            | some st => .error st
            | none => if d.nestEn = false ∧ tensorScaleBad s d 0 then .error .invalidField else .ok (d, x)

/-! ### Device memory and the host window -/

/-- What a read of device memory answers an engine. -/
inductive Fetch where
  | got (bs : List Byte) (b : Block)
  | bad (st : Status) (b : Block)
  /-- host-window bytes that have not arrived: bus address and length -/
  | need (h len : Nat)

/-- A read by an engine command (R16 to R18, R22, R108). -/
def Block.fetch (m : Dram) (b : Block) (p : Nat) (q : QCmd) (a len : Nat) (pol : Alloc) : Fetch :=
  if len = 0 then .got [] b
  else match b.engineRange a len with
    | .error st => .bad st b
    | .ok .host =>
      match q.hostBytes (a - hostBase) len with
      | some bs => .got bs b
      | none => .need (a - hostBase) len
    | .ok _ =>
      let (st, bs, b) := b.tileRead m p a len pol (b.specOf p q)
      if st = .success then .got bs b else .bad st b

/-- The host-window pieces among some ranges that a command still lacks. -/
def Block.hostNeeds (b : Block) (q : QCmd) (rs : List (Nat × Nat)) : List (Nat × Nat) :=
  rs.filterMap fun r =>
    match b.engineRange r.1 r.2 with
    | .ok .host => if r.2 ≠ 0 ∧ (q.hostBytes (r.1 - hostBase) r.2).isNone then some (r.1 - hostBase, r.2) else none
    | _ => none

/-- A write by an engine of spindle `p` to device memory or the host window, on behalf of blank `o`. -/
def Block.engineStore (m : Dram) (b : Block) (p : Nat) (eng : Engine) (back : Bool) (a : Nat) (bs : List Byte)
    (o : Issuer := b.issuer p) : Status × Block :=
  if bs = [] then (.success, b)
  else match b.engineRange a bs.length with
    | .error st => (st, b)
    | .ok .host => (.success, b.windowWrite (some (tileOf p)) (a - hostBase) bs)
    | .ok _ =>
      let n := if eng = .store ∨ eng = .matrix then (linesOf a bs.length).length else 0
      (.success, (b.countEvent p o.ctx 0x0B n).tileWrite m p eng back a bs o)

end Sys2Proof.Machine
end

