-- ==== Sys2Proof/Machine/Ldt.lean ====
section
/-!
DEFINITION. The tiled load LDT (R91, R105), and the sets of local flags it waits for.
-/
namespace Sys2Proof.Machine

/-- The word of MTILE, RTILE and LDT (Tables 4.3 and 5.7). -/
def tileWordBad (w : Nat) : Bool := bits w 127 56 != 0 || bits w 55 32 % 128 != 0

/-- One row copy of a visit: source, scratchpad destination, bytes. -/
structure RowCopy where
  src : Nat
  dst : Nat
  len : Nat
deriving DecidableEq, Repr

def copyRows (rows src srcStride dst dstStride len : Nat) : List RowCopy :=
  (List.range rows).map fun r => { src := src + r * srcStride, dst := dst + r * dstStride, len }

/-- The operand and scale copies of a visit at level-0 indices (im, inn, ik) (R80, R91, R105). -/
def operandCopies (d : TDesc) (x : Nest) (off : Nat) (i : Nat × Nat × Nat) : List RowCopy :=
  let (im, inn, ik) := i
  let k0 := ik * d.k
  let (bRow, bCol) := if d.bTrans then (inn * d.n, k0) else (k0, inn * d.n)
  copyRows d.m (x.srcA + im * d.m * x.srcAStride + rowBytes d.aFmt k0) x.srcAStride (d.aAddr + off) d.aStride (rowBytes d.aFmt d.k)
  ++ copyRows d.bRows (x.srcB + bRow * x.srcBStride + rowBytes d.bFmt bCol) x.srcBStride (d.bAddr + off) d.bStride (rowBytes d.bFmt d.bCols)
  ++ (if isMx d.aFmt then copyRows d.m (x.srcAs + im * d.m * x.srcAsStride + k0 / 32) x.srcAsStride (d.aScaleAddr + off) d.aScaleStride (d.k / 32) else [])
  ++ (if isMx d.bFmt then copyRows d.n (x.srcBs + inn * d.n * x.srcBsStride + k0 / 32) x.srcBsStride (d.bScaleAddr + off) d.bScaleStride (d.k / 32) else [])
  ++ (if perTensor d.aFmt then [{ src := x.srcAs, dst := d.aScaleAddr + off, len := 1 }] else [])
  ++ (if perTensor d.bFmt then [{ src := x.srcBs, dst := d.bScaleAddr + off, len := 1 }] else [])

/-- The partial sums that a visit past the first k index copies. -/
def partialCopies (d : TDesc) (x : Nest) (off : Nat) (i : Nat × Nat × Nat) : List RowCopy :=
  if i.2.2 = 0 then []
  else copyRows d.m (x.partAddr + i.1 * d.m * x.partStride + 4 * (i.2.1 * d.n)) x.partStride (d.cinAddr + off) d.cinStride (4 * d.n)

/-- Rows read in order; the status and address of the first that fails. -/
def Block.copyAll (m : Dram) (b : Block) (p : Nat) (q : QCmd) (cs : List RowCopy) (store : Bool) : Option Status × Block :=
  cs.foldl (fun (acc : Option Status × Block) c =>
    match acc with
    | (some st, b) => (some st, b)
    | (none, b) =>
      match b.fetch m p q c.src c.len .reuse with
      | .got bs b =>
        let b := b.cmdEvent p q 0x0A (linesOf c.src c.len).length
        (none, if store then b.engWrite p .load q c.dst bs else b)
      | .bad st b => (some st, b)
      | .need _ _ => (none, b)) (none, b)

/-- An engine command asks for host-window bytes, as many as the bound on outstanding reads leaves room for, and waits for
those (R22, R249). -/
def Block.askHost (b : Block) (p : Nat) (e : Engine) (q : QCmd) (reqs : List (Nat × Nat)) : Block :=
  let now := (reqs.flatMap fun r => granules r.1 r.2).take b.hostRoom
  if now = [] then b
  else (b.modCmd p e q.idx fun q => { q with hostWait := true }).windowAsk { spindle := p, engine := e, idx := q.idx } now

/-- The visits that have to be drained before the partial sums of visit `v` are in place: those up to the last one before it at the
same position along m and n (R91). -/
def Nest.before (x : Nest) (v : Nat) : Nat :=
  let i := x.visit v
  if i.2.2 = 0 then 0
  else ((List.range v).filter fun u => (x.visit u).1 == i.1 && (x.visit u).2.1 == i.2.1).foldl (fun _ u => u + 1) 0

/-- The next visit of a running LDT, as far as free_flag, confirmation, the drains it reads from and its data let it (R62, R91,
R105). free_flag is consumed first.
DEDUCED, notes/assumptions/36. -/
def Block.ldtStep (m : Dram) (b : Block) (p : Nat) : Block :=
  let s := b.spd p
  match s.ldt with
  | none => b
  | some r =>
    match s.loadQ.find? fun q => q.idx == r.idx with
    | none => b
    | some q =>
      let d := tileDescOf r.desc.toNat
      let x := nestOf r.nest.toNat
      if q.hostWait ∨ s.isSpec q.idx then b
      else if x.visits ≤ r.visit then (b.modSpd p fun s => { s with ldt := none }).markDone p .load q.idx
      else if 2 ≤ r.visit ∧ r.took = false then
        (if (s.flag x.free).count = 0 then b
         else b.modSpd p fun s => { s.modFlag x.free LocalFlag.take with ldt := some { r with took := true } })
      else if r.drained < x.before r.visit then b
      else
        let off := r.visit % 2 * x.bufOffset
        let ahead := if r.visit % vol x.c1 = 0 then
            (List.range (vol x.c1)).flatMap fun j => operandCopies d x 0 (x.visit (r.visit + j))
          else []
        let here := operandCopies d x off (x.visit r.visit) ++ partialCopies d x off (x.visit r.visit)
        let needs := b.hostNeeds q (here.map fun c => (c.src, c.len))
        if needs ≠ [] then b.askHost p .load q needs
        else
          match b.copyAll m p q ahead false with
          | (some st, b) => (b.modSpd p fun s => { s with ldt := none }).cmdFault p .load q st
          | (none, b) =>
            match b.copyAll m p q here true with
            | (some st, b) => (b.modSpd p fun s => { s with ldt := none }).cmdFault p .load q st
            | (none, b) =>
              (b.modSpd p fun s => { s.modFlag x.ready LocalFlag.set with ldt := some { r with visit := r.visit + 1, took := false } }).modCmd p .load q.idx
                fun q => { q with hostBuf := [] }

/-- Runs LDT until it waits or ends; two buffers and the count of free_flag bound the visits it can run.
DEDUCED, notes/assumptions/36. -/
def Block.ldtPump (m : Dram) (b : Block) (p : Nat) : Block :=
  match (b.spd p).ldt with
  | none => b
  | some r => iter (2 * ((b.spd p).flag (nestOf r.nest.toNat).free).count + 6) b fun b _ => b.orWait fun b => b.ldtStep m p

/-- A set of a local flag, and what waits inside a running command for it (R57, R105). -/
def Block.setFlag (m : Dram) (b : Block) (p k : Nat) : Block := (b.modSpd p fun s => s.modFlag k LocalFlag.set).ldtPump m p

/-- LDT begins: the descriptor and its extension are validated, the two it reads apart from the buffers it writes (R107), then the
visits run (R105). -/
def effLdt (m : Dram) (b : Block) (p : Nat) (q : QCmd) (spec : Bool) : EffRes :=
  let a := bits q.w.toNat 55 32
  let s := (b.spd p).asOf q.idx
  let c := s.ctx
  match loadTile b p q.idx a (fun _ _ => []) fun d => !d.nestEn with
  | .error st => if spec ∧ st ≠ .invalidField then .hold else .fault b st
  | .ok (d, x) =>
    let ws := [0, x.bufOffset].flatMap fun o => (operandRanges d o).map fun r => (r.addr, r.len)
    if ws.any fun r => overlap r.1 r.2 a 128 || overlap r.1 r.2 d.nestAddr 128 then .fault b .invalidField
    else if spec && !(ws.all fun r => s.prefetchOk c (ownerOf .load) r.1 r.2) then .hold
    else match firstBad (ws.map fun r => s.writeOk c (ownerOf .load) r.1 r.2) with
      | some st => .fault b st
      | none =>
        let (bs, b) := b.engRead p q a 128
        let (ns, b) := b.engRead p q d.nestAddr 128
        .run ((b.modSpd p fun s => { s with ldt := some { idx := q.idx, desc := BitVec.ofNat 1024 (leNat bs), nest := BitVec.ofNat 1024 (leNat ns), visit := 0 } }).ldtPump m p)

end Sys2Proof.Machine
end

