-- ==== Sys2Proof/Machine/Matrix.lean ====
section
/-!
DEFINITION. The matrix engine: tile jobs, weight tiles, the bowl and the drain path (Chapter 4), masks, roughing,
finishing and stealing (Chapter 9, R169 to R183).
-/
namespace Sys2Proof.Machine

/-! ### Top-k lists (R88) -/

/-- FP32 bits and position. -/
abbrev Cand := Nat × Nat

def emptyCand : Cand := (0xFF800000, 0xFFFFFFFF)

/-- `x` ranks above `y`. -/
def Cand.above (x y : Cand) : Bool :=
  if x = emptyCand then false
  else if y = emptyCand then true
  else
    let (a, c) := (ofF32 x.1, ofF32 y.1)
    rankGt a c || (!rankGt c a && decide (x.2 < y.2))

/-- A list with a candidate offered to it.
DEDUCED, notes/assumptions/41. -/
def offer (k : Nat) (l : List Cand) (x : Cand) : List Cand :=
  (insertBy (fun a c => !Cand.above c a) (if ofF32 x.1 = .nan then 0x7FC00000 else x.1, x.2) l).take k

/-- DEDUCED, notes/assumptions/41. -/
def candBytes (l : List Cand) : List Byte := l.flatMap fun x => leBytes 4 x.1 ++ leBytes 4 x.2
/-- DEDUCED, notes/assumptions/41. -/
def candsOf (k : Nat) (bs : List Byte) : List Cand :=
  (List.range k).map fun j => (leNat (slice bs (8 * j) 4), leNat (slice bs (8 * j + 4) 4))

/-! ### Jobs -/

/-- What an N tile is computed from: whose scratchpad, which buffer and level-0 indices, and the marks. -/
structure TileCtx where
  owner : Nat
  kind : Nat
  word : Nat
  d : TDesc
  x : Nest
  off : Nat
  i : Nat × Nat × Nat
  marks : List Byte
  /-- issue index of the command -/
  idx : Nat
deriving DecidableEq, Repr

def TileJob.ctx (j : TileJob) (owner : Nat) : TileCtx :=
  let d := tileDescOf j.desc.toNat
  let x := nestOf j.nest.toNat
  { owner, kind := j.kind, word := j.word.toNat, d, x
    off := if d.nestEn then j.visit % 2 * x.bufOffset else 0
    i := if d.nestEn then x.visit j.visit else (0, 0, 0), marks := j.marks, idx := j.idx }

/-- The position of row `m` and column `n` in the whole output (R91). -/
def TileCtx.row (t : TileCtx) (m : Nat) : Nat := t.i.1 * t.d.m + m
def TileCtx.col (t : TileCtx) (n : Nat) : Nat := t.i.2.1 * t.d.n + n
def TileCtx.chunks (t : TileCtx) : Nat := t.d.k / t.d.chunk
def TileCtx.lastK (t : TileCtx) : Bool := !t.d.nestEn || t.i.2.2 + 1 == t.x.counts.2.2

/-- FTILE's fields (Table 9.3). -/
def ftMarkKind (w : Nat) : Nat := bits w 59 58
def ftFill (w : Nat) : Bool := bit w 57
def ftSteal (w : Nat) : Bool := bit w 56
def ftHash (w : Nat) : Bool := bit w 63
def ftMarkAddr (w : Nat) : Nat := bits w 127 104
def ftHacc (w : Nat) : Nat := bits w 103 80
def ftPart (w : Nat) : Nat := bits w 79 64

/-- Output extent in whole positions: what marks are laid out over. -/
def markExtent (d : TDesc) (x : Nest) : Nat × Nat :=
  let (cm, cn, _) := wholeCounts d x
  (d.m * cm, d.n * cn)

/-- Bytes that the marks occupy (R178).
DEDUCED, notes/assumptions/32. -/
def markBytes (d : TDesc) (x : Nest) (w : Nat) : Nat :=
  let (sr, sc) := markExtent d x
  match ftMarkKind w with
  | 0 => 4 * (sc / 64)
  | 1 => sr / 8
  | 2 => 0
  | _ => maskBytes 2 sr sc

/-- Output (m, n) of the tile is marked; every output of MTILE and RTILE is (R178).
DEDUCED, notes/assumptions/32. -/
def TileCtx.marked (t : TileCtx) (m n : Nat) : Bool :=
  let l (i : Nat) : Byte := t.marks.getD i 0
  let (r, c) := (t.row m, t.col n)
  if t.kind ≠ 2 then true
  else match ftMarkKind t.word with
    | 0 => bit (leNat (slice t.marks (4 * (c / 64)) 4)) (r / 64)
    | 1 => byteBit l r
    | 2 => true
    | _ => let (sr, sc) := markExtent t.d t.x; maskKeep l 2 sr sc r c

/-- Rows streamed for an N tile, in streaming order: bowl row `μ` is the position in this list (R72, R178). -/
def TileCtx.rows (t : TileCtx) (nt : Nat) : List Nat :=
  let any (ms : List Nat) : Bool := ms.any fun m => (List.range 64).any fun c => t.marked m (64 * nt + c)
  if t.kind ≠ 2 ∨ ftMarkKind t.word = 2 then List.range t.d.m
  else if ftMarkKind t.word = 1 then (List.range t.d.m).filter fun m => t.marked m 0
  else ((List.range (t.d.m / 64)).filter fun g =>
      if ftMarkKind t.word = 0 then t.marked (64 * g) (64 * nt) else any ((List.range 64).map (64 * g + ·))).flatMap
    fun g => (List.range 64).map (64 * g + ·)

/-- Byte offset in the bowl of column 0 of streamed row `μ` of a set (R72, R76). -/
def bowlRow (set μ : Nat) : Nat := set * 0x80000 + μ / 64 % 4 * 0x20000 + (64 * (μ / 256) + μ % 64) * 0x100

/-! ### Weight tiles -/

/-- `n` elements of a packed row from element `k0`, under per-block or per-tensor scales. -/
def rowVals (s : Spindle) (fmt rowAddr k0 n : Nat) (scale : Nat → Nat) : List Val :=
  let off := rowBytes fmt k0
  let vs := unpackRow fmt n (s.spad.read (rowAddr + off) (rowBytes fmt n))
  (List.range n).map fun j =>
    match e8m0 (scale ((k0 + j) / 32)) with
    | none => .nan
    | some e => (vs.getD j .nan).scale e

def TileCtx.aScale (t : TileCtx) (s : Spindle) (m blk : Nat) : Nat :=
  if isMx t.d.aFmt then (s.spad.byte (t.d.aScaleAddr + t.off + m * t.d.aScaleStride + blk)).toNat
  else if perTensor t.d.aFmt then (s.spad.byte (t.d.aScaleAddr + t.off)).toNat else 127

def TileCtx.bScale (t : TileCtx) (s : Spindle) (n blk : Nat) : Nat :=
  if isMx t.d.bFmt then (s.spad.byte (t.d.bScaleAddr + t.off + n * t.d.bScaleStride + blk)).toNat
  else if perTensor t.d.bFmt then (s.spad.byte (t.d.bScaleAddr + t.off)).toNat else 127

/-- The stored position of B[k][n] in its whole operand, and the stored extent (R169, R173). -/
def TileCtx.stored (t : TileCtx) (k n : Nat) : Nat × Nat :=
  let (kk, nn) := (t.i.2.2 * t.d.k + k, t.col n)
  if t.d.bTrans then (nn, kk) else (kk, nn)
def TileCtx.storedExtent (t : TileCtx) : Nat × Nat :=
  let (_, cn, ck) := wholeCounts t.d t.x
  if t.d.bTrans then (t.d.n * cn, t.d.k * ck) else (t.d.k * ck, t.d.n * cn)

def TileCtx.maskByte (t : TileCtx) (s : Spindle) (i : Nat) : Byte := s.spad.byte (t.d.maskAddr + t.off + i)

def TileCtx.keeps (t : TileCtx) (s : Spindle) (k n : Nat) : Bool :=
  let (sr, sc) := t.storedExtent
  let (r, c) := t.stored k n
  t.d.maskMode == 0 || maskKeep (t.maskByte s) t.d.maskMode sr sc r c

/-- Every block of the weight tile is masked: it is neither loaded nor streamed (R172). -/
def TileCtx.skipped (t : TileCtx) (s : Spindle) (nt kc : Nat) : Bool :=
  t.d.maskMode != 0 && (List.range (t.d.chunk / 64)).all fun h =>
    let (_, sc) := t.storedExtent
    let (r, c) := t.stored (kc * t.d.chunk + 64 * h) (64 * nt)
    !maskBlock (t.maskByte s) sc r c

/-- A nibble of the tile in a kept block has more than two bits set (R171). -/
def TileCtx.nibbleBad (t : TileCtx) (s : Spindle) (nt kc : Nat) : Bool :=
  let (sr, sc) := t.storedExtent
  t.d.maskMode == 2 && (List.range t.d.chunk).any fun i => (List.range 64).any fun j =>
    let (r, c) := t.stored (kc * t.d.chunk + i) (64 * nt + j)
    maskBlock (t.maskByte s) sc r c && decide (2 < popcount 4 (maskNibble (t.maskByte s) sr sc r c))

/-- Column `n` of a weight tile: its values, none where masked (R71, R74, R80, R170). -/
def TileCtx.weights (t : TileCtx) (s : Spindle) (kc n : Nat) : List (Option Val) :=
  let d := t.d
  let k0 := kc * d.chunk
  let vals :=
    if d.bTrans then rowVals s d.bFmt (d.bAddr + t.off + n * d.bStride) k0 d.chunk fun _ => t.bScale s n 0
    else (List.range d.chunk).map fun j =>
      let row := d.bAddr + t.off + (k0 + j) * d.bStride
      let pos := n * elemBits d.bFmt
      let raw := leNat (s.spad.read (row + pos / 8) ((pos % 8 + elemBits d.bFmt + 7) / 8))
      match e8m0 (t.bScale s n ((k0 + j) / 32)) with
      | none => .nan
      | some e => (decodeElem d.bFmt ((raw >>> (pos % 8)) % 2 ^ elemBits d.bFmt)).scale e
  (List.range d.chunk).map fun j => if t.keeps s (k0 + j) n then some (vals.getD j .nan) else none

/-- The column sum of a row and a column of weights (R32, R34, R170). -/
def columnSum (exact : Bool) (a : List Val) (w : List (Option Val)) : Val :=
  let ps := (a.zip w).map fun x => match x.2 with
    | some y => x.1.mul y
    | none => .fin false 0 0 false
  if exact then exactColumn ps else cellColumn ps

/-- The init value of output (m, n), as FP32 bits (R35, R80, R91). -/
def TileCtx.initAt (t : TileCtx) (s : Spindle) (m n : Nat) : Nat :=
  let d := t.d
  let from1 := if d.nestEn then t.i.2.2 != 0 else d.init == 1
  if from1 then
    let w := cinBytes d.cinFmt
    toF32 (decodeElem d.cinFmt (leNat (s.spad.read (d.cinAddr + t.off + m * d.cinStride + n * w) w)))
  else 0

/-- Chunk `kc` accumulates into a set of runner `r`'s bowl; `s` is the spindle that the operands are read from, and `skip` says that
the weight tile is masked whole. -/
def Block.accumulate (b : Block) (r : Nat) (s : Spindle) (t : TileCtx) (set nt kc : Nat) (skip : Bool) : Block :=
  let cols := if skip then [] else (List.range 64).map fun j => t.weights s kc (64 * nt + j)
  let k0 := kc * t.d.chunk
  let rows := t.rows nt
  iter rows.length b fun b μ =>
    let m := rows.getD μ 0
    let a := if skip then [] else rowVals s t.d.aFmt (t.d.aAddr + t.off + m * t.d.aStride) k0 t.d.chunk (t.aScale s m)
    let at0 := bowlRow set μ
    let old := (b.spd r).bowl.read at0 256
    let new := (List.range 64).flatMap fun j =>
      let v := if kc = 0 then t.initAt s m (64 * nt + j) else leNat (slice old (4 * j) 4)
      let c : Val := if skip then .fin false 0 0 false else columnSum t.d.exact a (cols.getD j [])
      leBytes 4 (toF32 ((ofF32 v).add c))
    b.modSpd r fun s => { s with bowl := s.bowl.write at0 new }

/-- The spindle that a tile's operands are read from: the gathering-buffer entries of the ranges have reached their banks (R97), and
what younger speculative commands have written holds nothing defined (R65). -/
def Block.operands (b : Block) (t : TileCtx) : Spindle × Block :=
  let b := b.modGb t.owner (spec := if (b.spd t.owner).isSpec t.idx then some t.idx else none) fun s =>
    (operandRanges t.d t.off ++ maskRange t.d t.off t.storedExtent.1 t.storedExtent.2).foldl (fun s r => s.commitRange r.addr r.len) s
  let (r, b) := b.cmdSpad t.owner t.idx
  ({ b.spd t.owner with spad := r }, b)

/-! ### Progress of a job -/

/-- A set that an N tile may accumulate in: drained, and not held (R75, R175). -/
def Spindle.setFree (s : Spindle) (set : Nat) : Bool :=
  !s.held.any (·.set == set) && !(s.job.any fun j => j.toDrain.any (·.2 == set))

def Block.modJob (b : Block) (p : Nat) (f : TileJob → TileJob) : Block := b.modSpd p fun s => { s with job := s.job.map f }

/-- Sets the header field last_part (R186). -/
def Block.setLastPart (b : Block) (p : Nat) (q : QCmd) : Block :=
  let w := q.w.toNat
  let h := leNat ((b.spd p).peek (ftHacc w) 64)
  b.engWrite p .matrix q (ftHacc w) (leBytes 64 (setBits h 319 304 (ftPart w)))

/-- A visit of a nest has drained: a running LDT of the same nest may read its partial sums (R91). -/
def Block.visitDrained (b : Block) (p : Nat) (j : TileJob) : Block :=
  b.modSpd p fun s => { s with ldt := s.ldt.map fun l => if l.nest = j.nest then { l with drained := l.drained + 1 } else l }

/-- Everything of the visit has drained: free_flag is set, and the command ends with its last visit (R83, R91). -/
def Block.visitEnd (m : Dram) (b : Block) (p : Nat) (j : TileJob) : Block :=
  let t := j.ctx p
  let last := !t.d.nestEn || decide (t.x.visits ≤ j.visit + 1)
  let b := if t.d.nestEn then (b.visitDrained p j).setFlag m p t.x.free else b
  if last then
    let b : Block := match (b.spd p).matrixQ.find? fun q => q.idx == j.idx with
      | some q => if j.kind = 2 ∧ ftHash j.word.toNat then b.setLastPart p q else b
      | none => b
    (b.modSpd p fun s => { s with job := none }).markDone p .matrix j.idx
  else b.modJob p fun j => { j with visit := j.visit + 1, visiting := false, nextNt := 0, curNt := none, kc := 0, returned := [] }

/-- One move of a job that needs no weight tile; none when there is none to make. -/
def Block.jobMove (m : Dram) (b : Block) (p : Nat) : Option Block :=
  let s := b.spd p
  match s.job with
  | none => none
  | some j =>
    if j.visiting = false then none
    else
      let t := j.ctx p
      match j.curNt with
      | none =>
        let next := if j.nextNt < j.ntEnd then some j.nextNt else j.returned.head?
        match next with
        | some nt =>
          if s.setFree s.bowlNext then
            let j' := { j with curNt := some nt, kc := 0, set := s.bowlNext
                               nextNt := if j.nextNt < j.ntEnd then j.nextNt + 1 else j.nextNt
                               returned := if j.nextNt < j.ntEnd then j.returned else j.returned.drop 1 }
            some (b.setSpd p { s with job := some j', bowlNext := 1 - s.bowlNext })
          else none
        | none => if j.toDrain = [] ∧ j.stolen = [] then some (b.visitEnd m p j) else none
      | some nt =>
        if t.chunks ≤ j.kc ∨ t.rows nt = [] then
          if j.kind = 1 then
            some (b.setSpd p { s with job := some { j with curNt := none }, held := s.held ++ [{ set := j.set, nt, desc := j.desc, idx := j.idx }] })
          else some (b.modJob p fun j => { j with curNt := none, toDrain := j.toDrain ++ [(nt, j.set)] })
        else
          let (s, b) := b.operands t
          if t.skipped s nt j.kc then some ((b.accumulate p s t j.set nt j.kc true).modJob p fun j => { j with kc := j.kc + 1 })
          else none

def Block.jobMoves (m : Dram) : Nat → Block → Nat → Block
  | 0, b, _ => b
  | n + 1, b, p => match b.jobMove m p with
    | none => b
    | some b => Block.jobMoves m n b p

/-- Runs a job's moves until it needs a weight tile, a drain, a set or a flag. -/
def Block.matrixPump (m : Dram) (b : Block) (p : Nat) : Block :=
  match (b.spd p).job with
  | none => b
  | some j => let d := tileDescOf j.desc.toNat; Block.jobMoves m (d.n / 64 * (d.k / 64 + 3) + 3) b p

/-- A fault of a matrix command while it runs: the job stops (R81). -/
def Block.jobFault (b : Block) (p : Nat) (idx : Nat) (st : Status) : Block :=
  let b := (b.dropThieves p).modSpd p fun s => { s with job := none }
  match (b.spd p).matrixQ.find? fun q => q.idx == idx with
  | some q => b.cmdFault p .matrix q st
  | none => b

/-- The spindle's arrays have clocks and work. -/
def Block.arraysRun (b : Block) (p : Nat) : Bool :=
  let s := b.spd p
  b.clocked && s.inService && !s.faulted && !s.resetting

/-- The array row-cycles of one pass over an N tile: one cycle a row on the exact path, two on the cell-order path (R341).
DEDUCED, notes/assumptions/148. -/
def TileCtx.rowEvent (t : TileCtx) (nt : Nat) : Nat × Nat := if t.d.exact then (0x02, (t.rows nt).length) else (0x03, 2 * (t.rows nt).length)

/-- R73: the next weight tile is in place and the rows stream through it.
DESIGN CHOICE, notes/assumptions/35. -/
def Block.weightTile (m : Dram) (b : Block) (p : Nat) : Block :=
  if !b.arraysRun p then b
  else match (b.spd p).thief with
    | some st =>
      match (b.spd st.victim).job with
      | none => b
      | some j =>
        let t := j.ctx st.victim
        if st.full ∨ t.chunks ≤ st.kc ∨ t.rows st.nt = [] then b
        else
          let (s, b) := b.operands t
          if t.nibbleBad s st.nt st.kc then b.jobFault st.victim j.idx .invalidField
          else
            let skip := t.skipped s st.nt st.kc
            let b := if skip then b else (b.countEvent p s.ctx 0x04 1).countEvent p s.ctx (t.rowEvent st.nt).1 (t.rowEvent st.nt).2
            (b.accumulate p s t st.set st.nt st.kc skip).modSpd p fun s =>
              { s with thief := some { st with kc := st.kc + 1, full := decide (t.chunks ≤ st.kc + 1) } }
    | none =>
      let b := b.matrixPump m p
      match (b.spd p).job with
      | none => b
      | some j =>
        let t := j.ctx p
        match j.curNt with
        | none => b
        | some nt =>
          if t.chunks ≤ j.kc then b
          else
            let (s, b) := b.operands t
            if t.nibbleBad s nt j.kc then b.jobFault p j.idx .invalidField
            else ((((b.countFor p 0x04 1 (if s.isSpec j.idx then some j.idx else none)).countFor p (t.rowEvent nt).1 (t.rowEvent nt).2
                (if s.isSpec j.idx then some j.idx else none)).accumulate p s t j.set nt j.kc false).modJob p
              fun j => { j with kc := j.kc + 1 }).matrixPump m p

def execWeightTileLoad (p : Spd) (s : State) : Host.Outcome State Fault Refusal := nextOf s (s.blk.orWait fun b => b.weightTile s.dram p)

/-! ### The drain -/

/-- R85.
DEDUCED, notes/assumptions/31. -/
def epilogue (epi v e : Nat) : Nat :=
  match epi with
  | 1 => fadd v e
  | 2 => fmaxBits (fadd v e) 0
  | 3 => fmul v e
  | _ => v

/-- How one position drains: padding, unmarked, or a value with its bowl column. -/
inductive DrainVal where
  | pad | unmarked
  | val (v : Nat)
deriving DecidableEq, Repr

/-- The 64 values of row `m` of an N tile after the epilogue.
DEDUCED, notes/assumptions/31. -/
def TileCtx.drainRow (t : TileCtx) (own run : Spindle) (set nt m : Nat) : List DrainVal :=
  let μ := findIdx (· == m) (t.rows nt)
  let raw := match μ with
    | some μ => run.bowl.read (bowlRow set μ) 256
    | none => []
  (List.range 64).map fun j =>
    let n := 64 * nt + j
    if !t.marked m n then .unmarked
    else if t.d.mLogical ≤ m ∨ t.d.nLogical ≤ n then .pad
    else
      let v := leNat (slice raw (4 * j) 4)
      .val (if t.lastK then epilogue t.d.epi v (leNat (own.spad.read (t.d.epiAddr + 4 * t.col n) 4)) else v)

/-- Row-major element index of an output (R86).
DEDUCED, notes/assumptions/31. -/
def TileCtx.elem (t : TileCtx) (m n : Nat) : Nat := ((t.d.eRowBase + t.row m) * t.d.eCols + t.d.colBase + t.col n) % 2 ^ 64

/-- Bytes at an address of the output's space. `keep` names the half of a single byte that is not written: its low bits where 0x0F,
its high bits where 0xF0. -/
structure RowStore where
  addr : Nat
  bytes : List Byte
  keep : Byte := 0
deriving DecidableEq, Repr

/-- The writes of a drained row (R27, R86, R87, R178).
DEDUCED, notes/assumptions/34. -/
def TileCtx.rowStores (t : TileCtx) (seed nt m : Nat) (vs : List DrainVal) : List RowStore :=
  let d := t.d
  let fill := t.kind ≠ 2 ∨ ftFill t.word
  let n0 := t.col (64 * nt)
  if !t.lastK then
    (List.range 64).filterMap fun j =>
      let at0 := t.x.partAddr + t.row m * t.x.partStride + 4 * (n0 + j)
      match vs.getD j .pad with
      | .val v => some { addr := at0, bytes := leBytes 4 v }
      | .pad => some { addr := at0, bytes := leBytes 4 0 }
      | .unmarked => if fill then some { addr := at0, bytes := leBytes 4 0 } else none
  else
    let c := convOf d.conv
    let row := d.outAddr + t.row m * d.outStride
    let val (j : Nat) : Val := match vs.getD j .pad with
      | .val v => ofF32 v
      | _ => .fin false 0 0 false
    let rnd (j : Nat) : Rnd := match vs.getD j .pad with
      | .val _ => convRnd c seed (t.elem m (64 * nt + j))
      | _ => .rne
    if isMx d.dst then
      let blks := [0, 1].map fun h => mxBlock d.dst (fun j => rnd (32 * h + j)) ((List.range 32).map fun j => val (32 * h + j))
      [{ addr := row + rowBytes d.dst n0, bytes := packRow d.dst (blks.flatMap (·.2)) },
       { addr := d.outScaleAddr + t.row m * d.outScaleStride + n0 / 32, bytes := blks.map fun x => BitVec.ofNat 8 x.1 }]
    else
      let elem (j : Nat) : Nat := match vs.getD j .pad with
        | .val v => convElem c (rnd j) (ofF32 v)
        | _ => 0
      let w := elemBits d.dst
      if fill then [{ addr := row + rowBytes d.dst n0, bytes := packRow d.dst ((List.range 64).map elem) }]
      else
        let step := if w < 8 then 8 / w else 1
        (List.range (64 / step)).filterMap fun g =>
          let js := (List.range step).map (g * step + ·)
          let gone (j : Nat) : Bool := vs.getD j .pad == .unmarked
          if js.all gone then none
          else some {
            addr := row + rowBytes d.dst (n0 + g * step), bytes := packRow d.dst (js.map elem)
            keep := if step ≠ 2 then 0 else if gone (2 * g) then 0x0F else if gone (2 * g + 1) then 0xF0 else 0 }

/-- Joins byte runs that follow one another; a half byte stands alone. -/
def joinRuns : List RowStore → List RowStore
  | x :: rest =>
    match joinRuns rest with
    | y :: more =>
      if x.addr + x.bytes.length = y.addr ∧ x.keep = 0 ∧ y.keep = 0 then { x with bytes := x.bytes ++ y.bytes } :: more else x :: y :: more
    | [] => [x]
  | [] => []

/-- A drained row's offers to its list (R88). -/
def Block.offerRow (b : Block) (q : QCmd) (t : TileCtx) (nt m : Nat) (vs : List DrainVal) : Block :=
  let d := t.d
  if !d.topk ∨ d.mLogical ≤ m then b
  else
    let a := d.topkAddr + 8 * d.topkK * m
    let (bs, b) := b.engRead t.owner q a (8 * d.topkK)
    let l := iter 64 (candsOf d.topkK bs) fun l j =>
      match vs.getD j .pad with
      | .val v => offer d.topkK l (v, d.colBase + 64 * nt + j)
      | _ => l
    let n := (vs.filter fun v => match v with
      | .val _ => true
      | _ => false).length
    (b.cmdEvent t.owner q 0x06 n).engWrite t.owner .matrix q a (candBytes l)

/-- A byte of the output of which an unmarked half stays: it is read where it is kept. What the half of a byte of the host window
then holds is a free value.
DESIGN CHOICE, notes/assumptions/34. -/
def Block.keptByte (m : Dram) (b : Block) (p : Nat) (q : QCmd) (spad : Bool) (a : Nat) : Status × Byte × Block :=
  if spad then
    let (bs, b) := b.engRead p q a 1
    (.success, bs.headD 0, b)
  else if hostBase ≤ a ∧ a < 0x200000000000 then (.success, Config.freeByte b.freshTag a, b.bumpFree)
  else
    let (st, bs, b) := b.tileRead m p a 1 .none
    (st, bs.headD 0, b)

/-- One store of a drained row, by the spindle that runs the tile, through its own store port (R182). -/
def Block.drainStore (m : Dram) (b : Block) (run : Nat) (q : QCmd) (t : TileCtx) (r : RowStore) : Option Status × Block :=
  let spad : Bool := t.lastK && !t.d.outSpace
  let (st, old, b) := if r.keep = 0 then (.success, 0, b) else b.keptByte m t.owner q spad r.addr
  let bs := if r.keep = 0 then r.bytes else r.bytes.map fun x => (x &&& ~~~r.keep) ||| (old &&& r.keep)
  if st ≠ .success then (some st, b)
  else if spad then (none, b.engWrite t.owner .matrix q r.addr bs)
  else
    let o := b.issuer t.owner
    let (st, b) := b.engineStore m run .matrix false r.addr bs (if run = t.owner then o else { o with p := run, serial := 0 })
    if st = .success then (none, b) else (some st, b)

/-- Drains row `m`: top-k, then the stores; a store that faults stops the drain. -/
def Block.drainOne (m : Dram) (b : Block) (run : Nat) (q : QCmd) (t : TileCtx) (set nt row : Nat) : Option Status × Block :=
  let (own, b) := b.operands t
  let vs := t.drainRow own (b.spd run) set nt row
  let b := b.offerRow q t nt row vs
  let c := convOf t.d.conv
  let b := if t.lastK && t.d.stores then
      let drawn := (List.range 64).filter fun j => match vs.getD j .pad with
        | .val _ => c.stoch
        | _ => false
      b.countEvent run own.ctx 0x19 (drawn.map fun j => t.elem row (64 * nt + j) / 4).eraseDups.length
    else b
  if t.d.stores = false then (none, b)
  else
    (joinRuns (t.rowStores (b.ctx own.ctx).seed.toNat nt row vs)).foldl (fun (acc : Option Status × Block) r =>
      match acc with
      | (some st, b) => (some st, b)
      | (none, b) => b.drainStore m run q t r) (none, b)

/-! ### The hash accumulator (R184, R186, R187) -/

def haccSize : Nat := 2228288

/-- Where a key goes: its own slot, an empty slot, or none within 16 probes. -/
def haccProbe (s : Spindle) (hacc key : Nat) : Option (Nat × Bool) :=
  let h := (key * 0x9E3779B97F4A7C15 % 2 ^ 64) >>> 50
  (List.range 16).findSome? fun i =>
    let slot := (h + i) % 16384
    let k := leNat (s.peek (hacc + 64 + 8 * slot) 8)
    if k = key then some (slot, false) else if k = 2 ^ 64 - 1 then some (slot, true) else none

def shavRecord (key part : Nat) (c : List Nat) : List Byte := leBytes 8 key ++ leBytes 2 part ++ leBytes 6 0 ++ c.flatMap (leBytes 4 ·)

/-- One contribution: added to its entry, or appended to the shavings. -/
def Block.contribute (m : Dram) (b : Block) (p : Nat) (q : QCmd) (key : Nat) (c : List Nat) : Option Status × Block :=
  let w := q.w.toNat
  let hacc := ftHacc w
  let h := leNat ((b.spd p).peek hacc 64)
  match haccProbe (b.spd p) hacc key with
  | some (slot, fresh) =>
    let a := hacc + 131136 + 128 * slot
    let old := if fresh then List.replicate 128 (0 : Byte) else (b.spd p).peek a 128
    let new := (List.range 32).flatMap fun e => leBytes 4 (fadd (leNat (slice old (4 * e) 4)) (c.getD e 0))
    let b := if fresh then
        (b.engWrite p .matrix q (hacc + 64 + 8 * slot) (leBytes 8 key)).engWrite p .matrix q hacc
          (leBytes 64 (setBits h 335 320 (bits h 335 320 + 1)))
      else b
    (none, (b.cmdEvent p q 0x1B 1).engWrite p .matrix q a new)
  | none =>
    let count := bits h 367 336
    if bits h 399 368 ≤ count then (some .shavingsFull, b.engWrite p .matrix q hacc (leBytes 64 (setBits h 2 2 1)))
    else
      let (st, b) := b.engineStore m p .matrix false (bits h 447 400 + 144 * count) (shavRecord key (ftPart w) c)
      if st ≠ .success then (some st, b)
      else (none, (b.cmdEvent p q 0x1C 1).engWrite p .matrix q hacc (leBytes 64 (setBits h 367 336 (count + 1))))

/-- The two contributions of row `m` of an N tile: blocks that hold a marked position (R186). -/
def Block.contributeRow (m : Dram) (b : Block) (q : QCmd) (t : TileCtx) (set nt row : Nat) : Option Status × Block :=
  if t.d.mLogical ≤ row then (none, b)
  else
    let (own, b) := b.operands t
    let vs := t.drainRow own (b.spd t.owner) set nt row
    [0, 1].foldl (fun (acc : Option Status × Block) h =>
      match acc with
      | (some st, b) => (some st, b)
      | (none, b) =>
        if (List.range 32).any fun j => t.marked row (64 * nt + 32 * h + j) then
          let n := t.d.colBase + t.col (64 * nt + 32 * h)
          let key := ((t.d.eRowBase + t.row row) <<< 27) ||| (n >>> 5)
          b.contribute m t.owner q key ((List.range 32).map fun j => match vs.getD (32 * h + j) .pad with
            | .val v => v
            | _ => 0)
        else (none, b)) (none, b)

/-- Drains an N tile of a job, held in set `set` of the runner's bowl (R84).
DEDUCED, notes/assumptions/34. -/
def Block.drainTile (m : Dram) (b : Block) (run : Nat) (q : QCmd) (t : TileCtx) (set nt : Nat) : Option Status × Block :=
  let b := if t.d.epi = 0 then b else b.commitRange t.owner (t.d.epiAddr + 4 * t.col (64 * nt)) 256
  let b := b.countEvent run (b.spd t.owner).ctx 0x05 t.d.m
  (List.range t.d.m).foldl (fun (acc : Option Status × Block) row =>
    match acc with
    | (some st, b) => (some st, b)
    | (none, b) =>
      if t.kind = 2 ∧ ftHash t.word ∧ t.lastK then b.contributeRow m q t set nt row
      else b.drainOne m run q t set nt row) (none, b)

/-- R84 and R183: the oldest accumulated N tile drains. -/
def Block.bowlDrain (m : Dram) (b : Block) (p : Nat) : Block :=
  if !b.arraysRun p || !b.lineRoom p true then b
  else match (b.spd p).thief with
    | some st =>
      match (b.spd st.victim).job with
      | none => b
      | some j =>
        match (b.spd st.victim).matrixQ.find? fun q => q.idx == j.idx with
        | none => b
        | some q =>
          let t := j.ctx st.victim
          if !st.full && !(t.rows st.nt).isEmpty then b
          else
            match b.drainTile m p q t st.set st.nt with
            | (some f, b) => b.jobFault st.victim j.idx f
            | (none, b) =>
              ((b.modSpd p fun s => { s with thief := none }).modJob st.victim fun j =>
                { j with stolen := j.stolen.filter (· ≠ st.nt) }).matrixPump m st.victim
    | none =>
      let b := b.matrixPump m p
      match (b.spd p).job with
      | none => b
      | some j =>
        match j.toDrain, (b.spd p).matrixQ.find? fun q => q.idx == j.idx with
        | (nt, set) :: rest, some q =>
          match b.drainTile m p q (j.ctx p) set nt with
          | (some f, b) => b.jobFault p j.idx f
          | (none, b) => (b.modJob p fun j => { j with toDrain := rest }).matrixPump m p
        | _, _ => b

def execBowlDrain (p : Spd) (s : State) : Host.Outcome State Fault Refusal := nextOf s (s.blk.orWait fun b => b.bowlDrain s.dram p)

/-- R91: a visit consumes 1 from ready_flag and streams. -/
def Block.nestVisit (m : Dram) (b : Block) (p : Nat) : Block :=
  if !b.arraysRun p then b
  else match (b.spd p).job with
    | none => b
    | some j =>
      let t := j.ctx p
      if j.visiting ∨ !t.d.nestEn ∨ ((b.spd p).flag t.x.ready).count = 0 then b
      else
        let b := b.modSpd p fun s => s.modFlag t.x.ready LocalFlag.take
        if tensorScaleBad (b.spd p) t.d t.off then b.jobFault p j.idx .invalidField
        else (b.modJob p fun j => { j with visiting := true, nextNt := 0, ntEnd := t.d.n / 64, curNt := none, kc := 0 }).matrixPump m p

def execNestVisit (p : Spd) (s : State) : Host.Outcome State Fault Refusal := nextOf s (s.blk.orWait fun b => b.nestVisit s.dram p)

/-! ### Beginning a tile command -/

/-- The job of a validated descriptor; the lists of a top-k drain are emptied when they start empty (R88). -/
def Block.startJob (m : Dram) (b : Block) (p : Nat) (q : QCmd) (kind : Nat) (d : TDesc) (x : Nest) (marks : List Byte) : Block :=
  let b := if d.topk ∧ d.topkInit = false then
      b.engWrite p .matrix q d.topkAddr (candBytes (List.replicate (d.topkK * d.mLogical) emptyCand))
    else b
  ((b.modCmd p .matrix q.idx fun q => { q with bowlWas := some (b.spd p).bowlNext }).modSpd p fun s =>
    { s with job := some { idx := q.idx, kind, word := q.w, desc := BitVec.ofNat 1024 d.raw, nest := BitVec.ofNat 1024 x.raw
                           visiting := !d.nestEn, ntEnd := d.n / 64, marks } }).matrixPump m p

/-- MTILE (R81, R83). -/
def effMtile (m : Dram) (b : Block) (p : Nat) (q : QCmd) (_ : Bool) : EffRes :=
  match loadTile b p q.idx (bits q.w.toNat 55 32) (fun _ _ => []) fun _ => false with
  | .error st => .fault b st
  | .ok (d, x) => .run (b.startJob m p q 0 d x [])

/-- RTILE's restrictions (R174). -/
def rtileBad (d : TDesc) : Bool :=
  d.aFmt != 9 || d.bFmt != 9 || d.bTrans || d.nestEn || d.init != 0 || d.drainMode != 0 || d.epi != 0 || d.outSpace
    || d.outAddr != 0 || d.outScaleAddr != 0 || d.outScaleStride != 0 || d.conv != 0 || d.topkAddr != 0
    || d.topkK != 0 || d.topkInit || d.cinAddr != 0 || d.cinStride != 0 || d.cinFmt != 0 || d.eCols != 0 || d.outStride != 0

/-- RTILE (R174, R175). It stores nothing, so R81's checks run over a descriptor whose drain writes no output. -/
def effRtile (m : Dram) (b : Block) (p : Nat) (q : QCmd) (_ : Bool) : EffRes :=
  let a := bits q.w.toNat 55 32
  let s := (b.spd p).asOf q.idx
  if a % 128 ≠ 0 ∨ !inSpad a 128 then .fault b .invalidField
  else match s.readOk s.ctx a 128 with
    | some st => .fault b st
    | none =>
      let d := tileDescOf (leNat (s.peek a 128))
      if rtileBad d ∨ tileBad { d with drainMode := drainNowhere } (nestOf 0) then .fault b .invalidField
      else
        match firstBad ((operandRanges d 0 ++ maskRange d 0 d.k d.n).map fun r => s.readOk s.ctx r.addr r.len) with
        | some st => .fault b st
        | none => .run (b.startJob m p q 1 d (nestOf 0) [])

/-- FTILE's word and descriptor (R177, R178, R181, R186).
DEDUCED, notes/assumptions/34. -/
def ftileBad (w : Nat) (d : TDesc) : Bool :=
  let kind := ftMarkKind w
  bits w 62 60 != 0 || (kind == 2 && ftMarkAddr w != 0) || (!ftHash w && (ftHacc w != 0 || ftPart w != 0))
    || (isMx d.dst && d.stores && !ftFill w)
    || (ftSteal w && (ftHash w || !d.outSpace || d.drainMode != 0 || d.nestEn))
    || (ftHash w && (ftSteal w || d.drainMode != 0 || d.outSpace || d.outAddr != 0 || d.outStride != 0 || d.outScaleAddr != 0
          || d.outScaleStride != 0 || d.eCols != 0 || d.conv != 0x7F00 || d.colBase % 32 != 0
          || decide (2 ^ 37 - 2 < d.eRowBase + d.mLogical - 1) || ftHacc w % 64 != 0))

/-- The ranges of FTILE beside its descriptor's. -/
def ftileRanges (w : Nat) (d : TDesc) (x : Nest) : List SRange :=
  (if ftMarkKind w = 2 then [] else [{ addr := ftMarkAddr w, len := markBytes d x w }])
  ++ (if ftHash w then [{ addr := ftHacc w, len := haccSize, write := true }] else [])

/-- A session that a hash command may use: open, of this blank (R185). -/
def haccOpen (s : Spindle) (h : Nat) : Bool := bit h 0 && bits h 511 448 == s.blankAddr.toNat

/-- The checks of a tile descriptor whose contributions go to an accumulator: it has no output rows. -/
def hashView (w : Nat) (d : TDesc) : TDesc :=
  if ftHash w then { d with drainMode := drainNowhere, conv := 0 } else d

/-- FTILE (R178): marks are read now; a hash drain needs its session open.
DEDUCED, notes/assumptions/34. -/
def effFtile (m : Dram) (b : Block) (p : Nat) (q : QCmd) (_ : Bool) : EffRes :=
  let w := q.w.toNat
  match loadTile b p q.idx (bits w 55 32) (ftileRanges w) (ftileBad w) (hashView w) with
  | .error st => .fault b st
  | .ok (d, x) =>
    let h := leNat ((b.spd p).peek (ftHacc w) 64)
    if ftHash w ∧ (!haccOpen (b.spd p) h ∨ bit h 1 ∨ ftPart w < bits h 319 304) then .fault b .invalidField
    else
      let (marks, b) := b.engRead p q (ftMarkAddr w) (markBytes d x w)
      .run (b.startJob m p q 2 d x marks)

/-! ### Stealing (R182) -/

/-- N tiles that an idle spindle may take from `v`. -/
def Block.stealable (b : Block) (t v : Nat) : Nat :=
  let s := b.spd v
  match s.job, s.cur with
  | some j, some k =>
    let tl := b.tile t
    let head : Bool := match s.matrixQ with
      | q :: _ => q.idx == j.idx
      | [] => false
    let left := j.ntEnd - j.nextNt
    let thieved : Bool := b.spindles.any fun e => e.2.thief.any (·.victim == v)
    if head ∧ j.kind = 2 ∧ ftSteal j.word.toNat ∧ tl.stealEnable ∧ bit tl.stealMask k.ctx ∧ max 1 tl.stealMinLeft ≤ left ∧ thieved = false
      then left else 0
  | _, _ => 0

/-- The thief takes the highest unbegun N tile of the victim with the most of them, the lowest spindle on a tie.
DESIGN CHOICE, notes/assumptions/35. -/
def Block.stealTake (b : Block) (p : Nat) : Block :=
  let s := b.spd p
  let t := tileOf p
  if !b.arraysRun p || s.cur.isSome || s.thief.isSome then b
  else
    let best := (List.range 68).foldl (fun (a : Nat × Nat) i =>
      let v := 68 * t + i
      let n := b.stealable t v
      if a.2 < n ∧ v ≠ p then (v, n) else a) (p, 0)
    if best.2 = 0 then b
    else
      let v := best.1
      match (b.spd v).job with
      | none => b
      | some j =>
        let nt := j.ntEnd - 1
        let b := (b.countEvent p (b.spd v).ctx 0x1D 1).countEvent v (b.spd v).ctx 0x1E 1
        (b.modJob v fun j => { j with ntEnd := nt, stolen := j.stolen ++ [nt] }).modSpd p fun s =>
          { s with thief := some { victim := v, idx := j.idx, nt }, bowlCtx := (b.spd v).ctx }

def execStealTake (p : Spd) (s : State) : Host.Outcome State Fault Refusal := nextOf s (s.blk.stealTake p)

end Sys2Proof.Machine
end

