-- ==== Sys2Proof/Machine/Hash.lean ====
section
/-!
DEFINITION. The hash accumulator's sessions: HINIT, HMERGE, HDRAIN (R184, R185, R187 to R189).
-/
namespace Sys2Proof.Machine

/-- Fields of Table 9.6. -/
def hwHacc (w : Nat) : Nat := bits w 95 72
def hwRegs (w : Nat) : List Nat := [bits w 71 67, bits w 66 62, bits w 61 57]

def hashWordBad (w : Nat) (drain : Bool) : Bool :=
  bits w 56 32 != 0 || (!drain && (bits w 127 96 != 0 || bits w 61 57 != 0)) || hwHacc w % 64 != 0 || !inSpad (hwHacc w) haccSize
    || (drain && (convBad (bits w 127 96) || isMx (convOf (bits w 127 96)).fmt))

/-- HINIT: a session in a free slot, its header and keys set (R185). -/
def effHinit (_ : Dram) (b : Block) (p : Nat) (q : QCmd) (_ : Bool) : EffRes :=
  let w := q.w.toNat
  let s := b.spd p
  let (addr, cap) := (q.rf 71 67, q.rf 66 62)
  if 2 ^ 48 ≤ addr ∨ addr % 16 ≠ 0 ∨ cap = 0 ∨ 2 ^ 32 ≤ cap ∨ 2 ≤ s.sessions.length then .fault b .invalidField
  else match rangeCheck b p .matrix q [] [(hwHacc w, haccSize)] with
    | some r => r
    | none =>
      let h := fld s.blankAddr.toNat 64 448 + fld addr 48 400 + fld cap 32 368 + 1
      let b := b.engWrite p .matrix q (hwHacc w) (leBytes 64 h ++ List.replicate 131072 0xFF)
      .ok (b.modSpd p fun s => { s with sessions := s.sessions ++ [{ hacc := hwHacc w, owner := s.blankAddr }] })

/-- A shavings record: key, part, values (R187). -/
structure Shaving where
  key : Nat
  part : Nat
  vals : List Nat
deriving DecidableEq, Repr

def shavingsOf (bs : List Byte) : List Shaving :=
  (chunks 144 bs).map fun r =>
    { key := leNat (slice r 0 8), part := leNat (slice r 8 2), vals := (List.range 32).map fun e => leNat (slice r (16 + 4 * e) 4) }

/-- Folds records by key, each key's chain in record order, keys ascending (R188). -/
def foldShavings (l : List Shaving) : List Shaving :=
  (sortBy (fun a c => decide (a ≤ c)) (dedup (l.map (·.key)))).map fun k =>
    (l.filter (·.key == k)).foldl (fun acc r =>
      { key := k, part := r.part, vals := (List.range 32).map fun e => fadd (acc.vals.getD e 0) (r.vals.getD e 0) })
      { key := k, part := 0, vals := List.replicate 32 0 }

/-- HMERGE and HDRAIN need an open session of the running blank (R185). -/
def sessionCheck (b : Block) (p : Nat) (q : QCmd) : Except EffRes Nat :=
  let w := q.w.toNat
  match rangeCheck b p .matrix q [(hwHacc w, haccSize)] [(hwHacc w, haccSize)] with
  | some r => .error r
  | none =>
    let h := leNat ((b.spd p).peek (hwHacc w) 64)
    if haccOpen (b.spd p) h then .ok h else .error (.fault b .invalidField)

/-- HMERGE (R188). -/
def effHmerge (m : Dram) (b : Block) (p : Nat) (q : QCmd) (_ : Bool) : EffRes :=
  let w := q.w.toNat
  match sessionCheck b p q with
  | .error r => r
  | .ok h =>
    let (addr, cap, count) := (bits h 447 400, bits h 399 368, bits h 367 336)
    if cap < 2 * count then .fault b .shavingsFull
    else
      let needs := b.hostNeeds q [(addr, 144 * count)]
      if needs ≠ [] then .host b needs
      else match b.fetch m p q addr (144 * count) .none with
        | .bad st b => .fault b st
        | .need _ _ => .hold
        | .got bs b =>
          let l := foldShavings (shavingsOf bs)
          let (st, b) := b.engineStore m p .matrix false addr (l.flatMap fun r => shavRecord r.key r.part r.vals)
          if st ≠ .success then .fault b st
          else .ok (b.engWrite p .matrix q (hwHacc w) (leBytes 64 (setBits (setBits h 367 336 l.length) 1 1 1)))

/-- The output row piece of a key under conv (R189). -/
def hashPiece (c : Conv) (seed base stride eCols key : Nat) (vals : List Nat) : Nat × List Byte :=
  let (row, blk) := (key >>> 27, key % 2 ^ 27)
  (base + row * stride + rowBytes c.fmt (32 * blk),
   packRow c.fmt ((List.range 32).map fun e => convAt c seed ((row * eCols + 32 * blk + e) % 2 ^ 64) (ofF32 (vals.getD e 0))))

/-- Resident entries in slot order: key and values. -/
def residents (s : Spindle) (hacc : Nat) : List (Nat × List Nat) :=
  (List.range 16384).filterMap fun i =>
    let k := leNat (s.peek (hacc + 64 + 8 * i) 8)
    if k = 2 ^ 64 - 1 then none
    else some (k, (List.range 32).map fun e => leNat (s.peek (hacc + 131136 + 128 * i + 4 * e) 4))

/-- HDRAIN (R189): the session closes and its slot is free. -/
def effHdrain (m : Dram) (b : Block) (p : Nat) (q : QCmd) (_ : Bool) : EffRes :=
  let w := q.w.toNat
  match sessionCheck b p q with
  | .error r => r
  | .ok h =>
    let (addr, count) := (bits h 447 400, bits h 367 336)
    if bit h 1 = false ∧ count ≠ 0 then .fault b .invalidField
    else
      let needs := b.hostNeeds q [(addr, 144 * count)]
      if needs ≠ [] then .host b needs
      else match b.fetch m p q addr (144 * count) .none with
        | .bad st b => .fault b st
        | .need _ _ => .hold
        | .got bs b =>
          let c := convOf (bits w 127 96)
          let seed := (b.ctx (b.spd p).ctx).seed.toNat
          let all := residents (b.spd p) (hwHacc w) ++ (shavingsOf bs).map fun r => (r.key, r.vals)
          let (st, b) := all.foldl (fun (acc : Option Status × Block) kv =>
            match acc with
            | (some st, b) => (some st, b)
            | (none, b) =>
              let b := b.cmdEvent p q 0x19 (convBlocks c ((kv.1 >>> 27) * q.rf 61 57 + 32 * (kv.1 % 2 ^ 27)) 32)
              let (a, bs) := hashPiece c seed (q.rf 71 67) (q.rf 66 62) (q.rf 61 57) kv.1 kv.2
              let (st, b) := b.engineStore m p .matrix false a bs
              if st = .success then (none, b) else (some st, b)) (none, b)
          match st with
          | some st => .fault b st
          | none =>
            let b := b.engWrite p .matrix q (hwHacc w) (leBytes 64 (setBits h 0 0 0))
            let mine := fun (x : Session) => x.hacc == hwHacc w && x.owner == (b.spd p).blankAddr
            .ok (b.modSpd p fun s => { s with sessions := eraseFirst mine s.sessions })

end Sys2Proof.Machine
end

