-- ==== Sys2Proof/Machine/Vector.lean ====
section
/-!
DEFINITION. The vector engine: lane operations, conversions, row operations (R92, R93), mark bitmaps (R176), Grain
draws and token sampling (R197 to R205).
-/
namespace Sys2Proof.Machine

/-! ### The word (Table 4.7) -/

def vwConv (w : Nat) : Nat := bits w 127 96
def vwLen (w : Nat) : Nat := bits w 95 80
def vwRows (w : Nat) : Nat := bits w 79 64
def vwBsc (w : Nat) : Bool := bit w 40
def vwFmt (w : Nat) : Nat := bits w 35 32

/-- The registers a vector word names. -/
def vwRegs (w : Nat) : List Nat := [bits w 63 59, bits w 58 54, bits w 53 49, bits w 48 44]

def QCmd.rd (q : QCmd) : Nat := q.rf 63 59
def QCmd.ra (q : QCmd) : Nat := q.rf 58 54
def QCmd.rb (q : QCmd) : Nat := q.rf 53 49
def QCmd.rc (q : QCmd) : Nat := q.rf 48 44

/-- Breaches common to every vector word. -/
def vwBad (w : Nat) : Bool := bits w 43 41 != 0 || bits w 39 36 != 0 || vwLen w == 0 || vwRows w == 0

/-- The conv field of an operation that converts nothing (R93). -/
def plainConv (fmt : Nat) : Nat := 0x7F00 + fmt

/-- Destination and source ranges may meet only when they start together with equal element size (R93). -/
def overlapBad (dst src : Nat × Nat) (dstElem srcElem : Nat) : Bool :=
  overlap dst.1 dst.2 src.1 src.2 && !(dst.1 == src.1 && dstElem == srcElem)

/-! ### Lane operations -/

/-- Element-wise words: one operation on one, two or three sources (Table 4.8). -/
def laneBad (ops : Nat) (w : Nat) : Bool :=
  vwBad w || decide (1 < vwFmt w) || vwConv w != plainConv (vwFmt w) || (vwBsc w && ops == 1)

def effLane (op : FOp) (ops : Nat) (_ : Dram) (b : Block) (p : Nat) (q : QCmd) (_ : Bool) : EffRes :=
  let w := q.w.toNat
  let b16 := vwFmt w == 1
  let es := if b16 then 2 else 4
  let n := vwLen w * vwRows w
  let dst := (q.rd, n * es)
  let srcs := [(q.ra, n * es)] ++ (if 2 ≤ ops ∧ !vwBsc w then [(q.rb, n * es)] else []) ++ (if 3 ≤ ops then [(q.rc, n * es)] else [])
  if (dst :: srcs).any (fun r => r.1 % es != 0) || srcs.any fun r => overlapBad dst r es es then .fault b .invalidField
  else match rangeCheck b p .vector q srcs [dst] with
    | some r => r
    | none =>
      let fmt := vwFmt w
      let (ba, b) := b.engRead p q q.ra (n * es)
      let (bb, b) := if 2 ≤ ops ∧ !vwBsc w then b.engRead p q q.rb (n * es) else ([], b)
      let (bc, b) := if 3 ≤ ops then b.engRead p q q.rc (n * es) else ([], b)
      let (va, vb, vc) := (unpackRow fmt n ba, unpackRow fmt n bb, unpackRow fmt n bc)
      let bro := decodeElem fmt (q.rb % 2 ^ (8 * es))
      let out := (List.range n).map fun k =>
        fopLane op b16 (va.getD k .nan) (if vwBsc w then bro else vb.getD k .nan) (vc.getD k .nan)
      .ok (b.engWrite p .vector q q.rd (packRow fmt out))

/-! ### VCVT -/

def cvtBad (w : Nat) : Bool :=
  vwBad w || !([0, 1, 2, 0xA].contains (vwFmt w)) || convBad (vwConv w) || vwBsc w
    || (isMx (convOf (vwConv w)).fmt && vwLen w % 32 != 0)

/-- Converted rows: element bytes and, for an MX destination, scale bytes (R41, R42, R43, R93).
DEDUCED, notes/assumptions/37. -/
def cvtRow (c : Conv) (seed e0 : Nat) (vs : List Val) : List Byte × List Byte :=
  if isMx c.fmt then
    let blks := (List.range (vs.length / 32)).map fun g =>
      mxBlock c.fmt (fun j => convRnd c seed ((e0 + 32 * g + j) % 2 ^ 64)) ((vs.drop (32 * g)).take 32)
    (packRow c.fmt (blks.flatMap (·.2)), blks.map fun x => BitVec.ofNat 8 x.1)
  else (packRow c.fmt ((List.range vs.length).map fun j => convAt c seed ((e0 + j) % 2 ^ 64) (vs.getD j .nan)), [])

/-- DEDUCED, notes/assumptions/37. -/
def effCvt (_ : Dram) (b : Block) (p : Nat) (q : QCmd) (_ : Bool) : EffRes :=
  let w := q.w.toNat
  let c := convOf (vwConv w)
  let (len, rows, src) := (vwLen w, vwRows w, vwFmt w)
  let ses := elemBits src / 8
  let dBytes := rowBytes c.fmt len
  let sRange := (q.ra, rows * len * ses)
  let dRange := (q.rd, rows * dBytes)
  let scRange := (q.rb, if isMx c.fmt then rows * len / 32 else 0)
  if q.ra % ses ≠ 0 ∨ q.rd % elemAlign c.fmt ≠ 0 ∨ overlapBad dRange sRange (elemBits c.fmt) (elemBits src)
      ∨ overlapBad scRange sRange 8 (elemBits src) then .fault b .invalidField
  else match rangeCheck b p .vector q [sRange] [dRange, scRange] with
    | some r => r
    | none =>
      let (bs, b) := b.engRead p q sRange.1 sRange.2
      let seed := (b.ctx (b.spd p).ctx).seed.toNat
      let out := (List.range rows).map fun r =>
        cvtRow c seed (q.rc + r * len) (unpackRow src len (slice bs (r * len * ses) (len * ses)))
      let b := (b.cmdEvent p q 0x19 (convBlocks c q.rc (rows * len))).engWrite p .vector q q.rd (out.flatMap (·.1))
      .ok (if isMx c.fmt then b.engWrite p .vector q q.rb (out.flatMap (·.2)) else b)

/-! ### Row operations -/

def rowOpBad (w : Nat) : Bool := vwBad w || decide (1 < vwFmt w) || vwConv w != plainConv 0 || vwBsc w

def rowMax (l : List Val) : Val := match l with
  | [] => .nan
  | v :: rest => rest.foldl Val.max v
def rowMin (l : List Val) : Val := match l with
  | [] => .nan
  | v :: rest => rest.foldl Val.min v

def rowSumBytes (l : List Val) : List Byte := leBytes 4 (toF32 ((rowSum l).getD (.fin false 0 0 false)))
def rowMaxBytes (l : List Val) : List Byte := leBytes 4 (toF32 (rowMax l))
def rowMinBytes (l : List Val) : List Byte := leBytes 4 (toF32 (rowMin l))
/-- R39: the value at the winning position, then the position. -/
def rowArgmaxBytes (l : List Val) : List Byte :=
  match rowArgmax l with
  | some (j, v) => leBytes 4 (toF32 v) ++ leBytes 4 j
  | none => []

def effRow (size : Nat) (f : List Val → List Byte) (_ : Dram) (b : Block) (p : Nat) (q : QCmd) (_ : Bool) : EffRes :=
  let w := q.w.toNat
  let (len, rows, fmt) := (vwLen w, vwRows w, vwFmt w)
  let es := elemBits fmt / 8
  let src := (q.ra, rows * len * es)
  let dst := (q.rd, rows * size)
  if q.ra % es ≠ 0 ∨ q.rd % size ≠ 0 ∨ overlapBad dst src size es then .fault b .invalidField
  else match rangeCheck b p .vector q [src] [dst] with
    | some r => r
    | none =>
      let (bs, b) := b.engRead p q src.1 src.2
      .ok (b.engWrite p .vector q q.rd ((List.range rows).flatMap fun r => f (unpackRow fmt len (slice bs (r * len * es) (len * es)))))

/-! ### Mark bitmaps (R176) -/

def markOpBad (w : Nat) : Bool := vwBad w || vwConv w != plainConv 0 || vwFmt w != 0

/-- The zero fields of an operation that names some registers only. -/
def regsZero (w : Nat) (fs : List (Nat × Nat)) : Bool := zeros w fs

def vmkTileBad (w : Nat) : Bool := markOpBad w || !vwBsc w || vwLen w != 1 || vwRows w != 1 || !regsZero w [(58, 54), (48, 44)]

/-- The oldest held set that no speculative consumer has read (R175, R180). -/
def Spindle.heldNext (s : Spindle) : Option HeldSet := s.held.find? (·.readBy.isNone)

/-- A consumer has read a held set: released, or marked until the consumer is confirmed (R180). -/
def Block.consumeHeld (m : Dram) (b : Block) (p : Nat) (q : QCmd) (h : HeldSet) (spec : Bool) : Block :=
  if spec then b.modSpd p fun s => { s with held := modFirst (· == h) (fun h => { h with readBy := some q.idx }) s.held }
  else (b.modSpd p fun s => { s with held := eraseFirst (· == h) s.held }).matrixPump m p

/-- Value of row `r`, column `c` of a held set, as FP32 bits. -/
def heldVal (s : Spindle) (set r c : Nat) : Nat := leNat (s.bowl.read (bowlRow set r + 4 * c) 4)

/-- v ≥ t, or |v| ≥ t: a NaN passes (R176). -/
def passes (abs : Bool) (t v : Nat) : Bool :=
  let x := ofF32 v
  let x := if abs then x.abs else x
  let y := ofF32 t
  x == .nan || (y != .nan && !x.lt y)

/-- Rows of a held set with a passing element among the logical positions. -/
def heldRows (s : Spindle) (h : HeldSet) (f : Nat → Bool) : List Nat :=
  let d := tileDescOf h.desc.toNat
  (List.range d.mLogical).filter fun r => (List.range 64).any fun c => decide (64 * h.nt + c < d.nLogical) && f (heldVal s h.set r c)

/-- ORs bits into a bitmap of `n` bytes at `a`. -/
def Block.orBits (b : Block) (p : Nat) (q : QCmd) (a n : Nat) (x : Nat) : Block :=
  let (bs, b) := b.engRead p q a n
  b.engWrite p .vector q a (leBytes n (leNat bs ||| x))

def setOf (l : List Nat) : Nat := l.foldl (fun acc k => acc ||| 1 <<< k) 0

/-- VMKTILE and VMKTILEA: a bit per 64-row group. -/
def effVmkTile (abs : Bool) (m : Dram) (b : Block) (p : Nat) (q : QCmd) (spec : Bool) : EffRes :=
  let s := b.spd p
  match s.heldNext with
  | none => .fault b .invalidField
  | some h =>
    let a := q.rd + 4 * h.nt
    if q.rd % 4 ≠ 0 then .fault b .invalidField
    else match rangeCheck b p .vector q [(a, 4)] [(a, 4)] with
      | some r => r
      | none =>
        let rows := heldRows s h (passes abs (q.rb % 2 ^ 32))
        .ok ((b.orBits p q a 4 (setOf (rows.map (· / 64)))).consumeHeld m p q h spec)

/-- VMKROW and VMKROWA: a bit per row. -/
def effVmkRow (abs : Bool) (m : Dram) (b : Block) (p : Nat) (q : QCmd) (spec : Bool) : EffRes :=
  let s := b.spd p
  match s.heldNext with
  | none => .fault b .invalidField
  | some h =>
    let n := ceilDiv (tileDescOf h.desc.toNat).mLogical 8
    match rangeCheck b p .vector q [(q.rd, n)] [(q.rd, n)] with
    | some r => r
    | none =>
      let rows := heldRows s h (passes abs (q.rb % 2 ^ 32))
      .ok ((b.orBits p q q.rd n (setOf rows)).consumeHeld m p q h spec)

def vmkTopkBad (w : Nat) : Bool :=
  markOpBad w || vwBsc w || decide (64 < vwLen w) || vwRows w != 1 || !regsZero w [(58, 54), (53, 49), (48, 44)]

/-- VMKTOPK: candidates of a held set go to the rows' lists (R88). -/
def effVmkTopk (m : Dram) (b : Block) (p : Nat) (q : QCmd) (spec : Bool) : EffRes :=
  let s := b.spd p
  let k := vwLen q.w.toNat
  match s.heldNext with
  | none => .fault b .invalidField
  | some h =>
    let d := tileDescOf h.desc.toNat
    let n := 8 * k * d.mLogical
    if q.rd % 4 ≠ 0 then .fault b .invalidField
    else match rangeCheck b p .vector q [(q.rd, n)] [(q.rd, n)] with
      | some r => r
      | none =>
        let (bs, b) := b.engRead p q q.rd n
        let out := (List.range d.mLogical).flatMap fun r =>
          let l0 := if h.nt = 0 then List.replicate k emptyCand else candsOf k (slice bs (8 * k * r) (8 * k))
          candBytes (iter 64 l0 fun l c =>
            if 64 * h.nt + c < d.nLogical then offer k l (heldVal s h.set r c, d.colBase + 64 * h.nt + c) else l)
        .ok (((b.cmdEvent p q 0x06 (d.mLogical * min 64 (d.nLogical - 64 * h.nt))).engWrite p .vector q q.rd out).consumeHeld m p q h spec)

/-- DEDUCED, notes/assumptions/40. -/
def vmkListBad (w : Nat) : Bool :=
  markOpBad w || vwBsc w || decide (64 < vwLen w) || decide (2048 < vwRows w) || !regsZero w [(53, 49)]

/-- VMKLIST: lists become tile marks.
DEDUCED, notes/assumptions/40. -/
def effVmkList (_ : Dram) (b : Block) (p : Nat) (q : QCmd) (_ : Bool) : EffRes :=
  let w := q.w.toNat
  let (k, rows) := (vwLen w, vwRows w)
  let n := 8 * k * rows
  if q.ra % 4 ≠ 0 ∨ q.rd % 4 ≠ 0 ∨ !inSpad q.ra n then .fault b .invalidField
  else
    let bs := (b.engRead p q q.ra n).1
    let hits := (List.range rows).flatMap fun r =>
      (candsOf k (slice bs (8 * k * r) (8 * k))).filterMap fun e =>
        if e = emptyCand then none else some (r / 64, (e.2 + 2 ^ 32 - q.rc % 2 ^ 32) % 2 ^ 32 / 64)
    let words := dedup (hits.map (·.2))
    let ranges := words.map fun j => (q.rd + 4 * j, 4)
    if ranges.any fun r => overlap r.1 r.2 q.ra n then .fault b .invalidField
    else match rangeCheck b p .vector q ((q.ra, n) :: ranges) ranges with
      | some r => r
      | none =>
        let (_, b) := b.engRead p q q.ra n
        .ok (words.foldl (fun b j => b.orBits p q (q.rd + 4 * j) 4 (setOf ((hits.filter (·.2 == j)).map (·.1)))) b)

def vmkOrBad (w : Nat) : Bool := markOpBad w || vwRows w != 1 || !regsZero w [(48, 44)]

def effVmkOr (_ : Dram) (b : Block) (p : Nat) (q : QCmd) (_ : Bool) : EffRes :=
  let w := q.w.toNat
  let n := vwLen w
  let srcs := (q.ra, n) :: if vwBsc w then [] else [(q.rb, n)]
  if srcs.any fun r => overlapBad (q.rd, n) r 1 1 then .fault b .invalidField
  else match rangeCheck b p .vector q srcs [(q.rd, n)] with
    | some r => r
    | none =>
      let (x, b) := b.engRead p q q.ra n
      let (y, b) := if vwBsc w then (List.replicate n (BitVec.ofNat 8 q.rb), b) else b.engRead p q q.rb n
      .ok (b.engWrite p .vector q q.rd ((List.range n).map fun k => x.getD k 0 ||| y.getD k 0))

def vmkClrBad (w : Nat) : Bool := markOpBad w || vwBsc w || vwRows w != 1 || !regsZero w [(58, 54), (53, 49), (48, 44)]

def effVmkClr (_ : Dram) (b : Block) (p : Nat) (q : QCmd) (_ : Bool) : EffRes :=
  let n := vwLen q.w.toNat
  match rangeCheck b p .vector q [] [(q.rd, n)] with
  | some r => r
  | none => .ok (b.engWrite p .vector q q.rd (List.replicate n 0))

/-! ### Draws (R197) -/

/-- Table 10.5. -/
structure DrawParam where
  raw : Nat
  rowLen : Nat
  colBase : Nat
  topP : Nat
  scale : Nat
  tag : Nat
  draw : Nat
  greedy : Bool
  k : Nat
  elemBase : Nat
  key : Nat
deriving DecidableEq, Repr

def drawParam (x : Nat) : DrawParam :=
  { raw := x, rowLen := bits x 383 352, colBase := bits x 351 320, topP := bits x 319 288, scale := bits x 287 256
    tag := bits x 255 224, draw := bits x 223 192, greedy := bit x 136, k := bits x 134 128, elemBase := bits x 127 64, key := bits x 63 0 }

def DrawParam.word (d : DrawParam) (k : Nat) : Nat := grainWord d.key ((d.elemBase + k) % 2 ^ 64) d.draw d.tag

def drawWordBad (w : Nat) : Bool :=
  vwBad w || vwConv w != plainConv 0 || vwFmt w != 0 || vwBsc w || !regsZero w [(58, 54), (48, 44)]

/-- VRAND and VUNIF: `f` gives the 32 bits written for a Grain word. -/
def effDraw (f : Nat → Nat) (_ : Dram) (b : Block) (p : Nat) (q : QCmd) (_ : Bool) : EffRes :=
  let w := q.w.toNat
  let n := vwLen w * vwRows w
  let src := (q.rb, 64)
  let dst := (q.rd, 4 * n)
  if q.rb % 64 ≠ 0 ∨ q.rd % 4 ≠ 0 ∨ overlapBad dst src 4 64 then .fault b .invalidField
  else match rangeCheck b p .vector q [src] [dst] with
    | some r => r
    | none =>
      let (bs, b) := b.engRead p q q.rb 64
      let x := leNat bs
      if bits x 511 256 ≠ 0 ∨ bits x 191 128 ≠ 0 then .fault b .invalidField
      else .ok ((b.cmdEvent p q 0x19 (grainBlocks (drawParam x).elemBase n)).engWrite p .vector q q.rd
        ((List.range n).flatMap fun k => leBytes 4 (f ((drawParam x).word k))))

/-- VUNIF's value of a word. -/
def unifOf (x : Nat) : Nat := toF32 (.fin false (2 * (x >>> 9) + 1) (-24) false)

/-! ### Token sampling (R199 to R205) -/

def log2Bits (x : Nat) : Nat := fopLane .log2 false (ofF32 x) (.fin false 0 0 false) (.fin false 0 0 false)
def exp2Bits (x : Nat) : Nat := fopLane .exp2 false (ofF32 x) (.fin false 0 0 false) (.fin false 0 0 false)

/-- R149's b for a Grain word. -/
def gumbelB (r : Nat) : Nat := log2Bits (log2Bits (unifOf r) ^^^ 0x80000000)

/-- Table 10.6. -/
structure SampState where
  lpFull : Nat
  lpUsed : Nat
  token : Nat
  nextPos : Nat
  sum : Nat
  max : Nat
  bestKey : Nat
  bestPos : Nat
  started : Bool
  invalid : Bool
  trunc : Bool
  done : Bool
deriving DecidableEq, Repr

def sampState (x : Nat) : SampState :=
  { lpFull := bits x 511 480, lpUsed := bits x 479 448, token := bits x 447 416, nextPos := bits x 415 384, sum := bits x 383 352
    max := bits x 351 320, bestKey := bits x 319 288, bestPos := bits x 287 256, started := bit x 3, invalid := bit x 2
    trunc := bit x 1, done := bit x 0 }

def SampState.bytes (s : SampState) : List Byte :=
  leBytes 64 (fld s.lpFull 32 480 + fld s.lpUsed 32 448 + fld s.token 32 416 + fld s.nextPos 32 384 + fld s.sum 32 352 + fld s.max 32 320
    + fld s.bestKey 32 288 + fld s.bestPos 32 256 + fld (b2n s.started) 1 3 + fld (b2n s.invalid) 1 2 + fld (b2n s.trunc) 1 1
    + fld (b2n s.done) 1 0)

/-- FP32 order and equality of non-NaN values. -/
def f32Lt (a b : Nat) : Bool := (ofF32 a).lt (ofF32 b)
def f32Eq (a b : Nat) : Bool := ofF32 a != .nan && ofF32 b != .nan && !f32Lt a b && !f32Lt b a

/-- R204's breaches of a parameter block. -/
def paramBad (d : DrawParam) (len : Nat) : Bool :=
  bits d.raw 511 384 != 0 || bits d.raw 191 137 != 0 || bit d.raw 135 || d.rowLen == 0 || decide (64 < d.k)
    || !(f32Lt 0 d.scale) || d.scale == 0x7F800000 || !(f32Lt 0 d.topP) || f32Lt 0x3F800000 d.topP
    || (f32Lt d.topP 0x3F800000 && d.k == 0) || decide (d.rowLen < d.colBase + len)

/-- R150's ranking of keys. -/
def keyBetter (k pos k' pos' : Nat) : Bool := f32Lt k' k || (f32Eq k k' && decide (pos < pos'))

/-- The key of position `pos` with scaled score `y` (R200). -/
def DrawParam.keyOf (d : DrawParam) (y pos : Nat) : Nat := if d.greedy then y else fsub y (gumbelB (d.word pos))

/-- VSMAX on one row: state and list (R200). -/
def vsmaxRow (d : DrawParam) (st : SampState) (l : List Cand) (xs : List Val) : SampState × List Cand :=
  let st := if d.colBase = 0 then
      { st with max := 0xFF800000, bestKey := 0xFF800000, bestPos := 0xFFFFFFFF, nextPos := 0, sum := 0
                started := false, invalid := false, trunc := false, done := false }
    else st
  let l := if d.colBase = 0 then List.replicate d.k emptyCand else l
  iter xs.length (st, l) fun acc i =>
    let pos := d.colBase + i
    let y := toF32 ((xs.getD i .nan).mul (ofF32 d.scale))
    let v := ofF32 y
    let st := { acc.1 with invalid := acc.1.invalid || v == .nan || v == .inf false, max := fmaxBits acc.1.max y }
    if 0 < d.k then (st, offer d.k acc.2 (y, pos))
    else
      let key := d.keyOf y pos
      (if keyBetter key pos st.bestKey st.bestPos then { st with bestKey := key, bestPos := pos } else st, acc.2)

/-- VSSUM on one row (R201).
DEDUCED, notes/assumptions/39. -/
def vssumRow (d : DrawParam) (st : SampState) (xs : List Val) : SampState :=
  let es := xs.map fun x => ofF32 (exp2Bits (fsub (toF32 (x.mul (ofF32 d.scale))) st.max))
  let acc := (chunks 256 es).foldl (fun (acc : Option Val) blk => match acc with
    | none => some (treeSum blk)
    | some a => some (rn (a.add (treeSum blk)))) (if st.started then some (ofF32 st.sum) else none)
  { st with sum := toF32 (acc.getD (.fin false 0 0 false)), started := true, nextPos := (st.nextPos + xs.length) % 2 ^ 32 }

/-- The state shows, by best_pos and max, that VSMAX at position 0 has not run: it holds what no such run leaves. With a top-k
list best_pos stays empty; without one it is empty only where every key was a NaN, and then max is a NaN; otherwise it names
a position of the row, and without noise its key is the maximum. A NaN in max is the canonical one.
DEDUCED, notes/assumptions/39. -/
def SampState.unset (st : SampState) (d : DrawParam) : Bool :=
  let empty := st.bestPos == 0xFFFFFFFF
  (ofF32 st.max == .nan && st.max != 0x7FC00000)
    || (if 0 < d.k then !empty || st.bestKey != 0xFF800000
        else if empty then st.max != 0x7FC00000
        else decide (d.rowLen ≤ st.bestPos) || (d.greedy && ofF32 st.max != .nan && !f32Eq st.bestKey st.max))

/-- The candidate set of R202 and whether the nucleus met the end of the list. -/
def nucleus (d : DrawParam) (st : SampState) (list : List (Cand × Nat)) : List (Cand × Nat) × Bool :=
  if d.topP = 0x3F800000 then (list, false)
  else
    let t := fmul d.topP st.sum
    let r := list.foldl (fun (acc : List (Cand × Nat) × Nat × Bool) x =>
      if acc.2.2 then acc
      else
        let s := fadd acc.2.1 x.2
        (acc.1 ++ [x], s, !f32Lt s t && ofF32 s != .nan && ofF32 t != .nan)) ([], 0, false)
    if r.2.2 then (r.1, false) else (list, true)

/-- VSFIN, or VSSCORE when `given` names the token, on one row (R202, R203). `rowY` recomputes the scaled score of a
position from the row.
DEDUCED, notes/assumptions/38. -/
def vsfinRow (d : DrawParam) (st : SampState) (l : List Cand) (given : Option Nat) (rowY : Nat → Nat) : SampState :=
  if st.invalid ∨ st.max = 0xFF800000 then
    { st with token := 0xFFFFFFFF, lpUsed := 0x7FC00000, lpFull := 0x7FC00000, done := true }
  else
    let list := (l.filter (· ≠ emptyCand)).map fun e => (e, exp2Bits (fsub e.1 st.max))
    let (cand, trunc) := if d.k = 0 then ([], false) else nucleus d st list
    let sc := if d.k = 0 then st.sum else cand.foldl (fun acc x => fadd acc x.2) 0
    let drawn : Nat :=
      if d.k = 0 then st.bestPos
      else if d.greedy then ((cand.head?.map fun x => x.1.2).getD 0xFFFFFFFF)
      else ((cand.foldl (fun (acc : Option (Nat × Nat)) x =>
        let key := d.keyOf x.1.1 x.1.2
        match acc with
        | none => some (key, x.1.2)
        | some a => if keyBetter key x.1.2 a.1 a.2 then some (key, x.1.2) else some a) none).map (·.2)).getD 0xFFFFFFFF
    let token := given.getD drawn
    let y := match list.find? fun x => x.1.2 == token with
      | some x => x.1.1
      | none => rowY token
    let dd := fsub y st.max
    let inSet := d.k = 0 ∨ cand.any fun x => x.1.2 == token
    let lp (s : Nat) : Nat := fmul (fsub dd (log2Bits s)) 0x3F317218
    { st with token, lpUsed := if inSet then lp sc else 0xFF800000, lpFull := lp st.sum, trunc := st.trunc || trunc, done := true }

/-- Grain blocks that VSFIN's draw over its candidates computes.
DEDUCED, notes/assumptions/56. -/
def sfinBlocks (d : DrawParam) (st : SampState) (l : List Cand) : Nat :=
  if d.k = 0 ∨ d.greedy ∨ st.invalid ∨ st.max = 0xFF800000 then 0
  else
    let list := (l.filter (· ≠ emptyCand)).map fun e => (e, exp2Bits (fsub e.1 st.max))
    (dedup ((nucleus d st list).1.map fun x => (d.elemBase + x.1.2) / 4)).length

/-- Which of the four sampling operations. -/
inductive SampOp where
  | smax | ssum | sfin | sscore
deriving DecidableEq, Repr

/-- Blank registers of Table 10.4 are zero. R202 has VSFIN and VSSCORE read the row at ra, which Table 10.4 leaves blank for them:
the field then names register 0, and the row lies at address 0.
DEDUCED, notes/assumptions/38. -/
def sampWordBad (op : SampOp) (w : Nat) : Bool :=
  vwBad w || vwConv w != plainConv 0 || vwBsc w
    || (match op with
      | .smax => decide (1 < vwFmt w)
      | .ssum => decide (1 < vwFmt w) || !regsZero w [(48, 44)]
      | _ => vwFmt w != 0 || vwLen w != 1 || !regsZero w [(58, 54)])

/-- One row's inputs.
DEDUCED, notes/assumptions/38. -/
structure SampRow where
  d : DrawParam
  st : SampState
  list : List Cand
deriving DecidableEq, Repr

/-- A row that R204 refuses. -/
def sampRowBad (op : SampOp) (len : Nat) (x : SampRow) : Bool :=
  let (d, st) := (x.d, x.st)
  paramBad d len
    || (match op with
      | .smax => false
      | .ssum => st.done || st.unset d || d.colBase != st.nextPos || d.colBase % 256 != 0 || (len % 256 != 0 && d.colBase + len != d.rowLen)
      | .sfin => st.done || st.unset d || st.nextPos != d.rowLen || !st.started
      | .sscore => st.done || st.unset d || st.nextPos != d.rowLen || !st.started || decide (d.rowLen ≤ st.token))

/-- The score that a final operation recomputes, when it needs one: row r's scores lie at ra + r × len × element bytes (R197), and
len is 1.
DEDUCED, notes/assumptions/38. -/
def rowScoreAddr (op : SampOp) (ra r : Nat) (x : SampRow) : Option Nat :=
  let tok := if op = .sscore then x.st.token else x.st.bestPos
  let listed := x.list.any fun e => e != emptyCand && e.2 == tok
  let needed := !x.st.invalid && x.st.max != 0xFF800000
    && (match op with
      | .sfin => x.d.k == 0
      | .sscore => !listed
      | _ => false)
  if needed then some (ra + 4 * (r + tok)) else none

/-- DEDUCED, notes/assumptions/38. -/
def effSamp (op : SampOp) (_ : Dram) (b : Block) (p : Nat) (q : QCmd) (_ : Bool) : EffRes :=
  let w := q.w.toNat
  let (len, rows) := (vwLen w, vwRows w)
  let es := elemBits (vwFmt w) / 8
  let fold := decide (op = .smax) || decide (op = .ssum)
  let scores := (q.ra, if fold then rows * len * es else 0)
  let ps := (q.rb, 64 * rows)
  let sts := (q.rd, 64 * rows)
  let needList := decide (op ≠ .ssum)
  if q.rb % 64 ≠ 0 ∨ q.rd % 64 ≠ 0 ∨ q.ra % es ≠ 0 ∨ (needList ∧ q.rc % 8 ≠ 0) ∨ overlap sts.1 sts.2 ps.1 ps.2
      ∨ overlap sts.1 sts.2 scores.1 scores.2 then .fault b .invalidField
  else match rangeCheck b p .vector q [scores, ps, sts] [sts] with
    | some r => r
    | none =>
      let (pb, b) := b.engRead p q ps.1 ps.2
      let (sb, b) := b.engRead p q sts.1 sts.2
      let (xb, b) := b.engRead p q scores.1 scores.2
      let params := (List.range rows).map fun r => drawParam (leNat (slice pb (64 * r) 64))
      let lists := (List.range rows).map fun r =>
        (q.rc + 512 * r, if needList then 8 * (params.getD r (drawParam 0)).k else 0)
      let meets (l : Nat × Nat) : Bool := overlap l.1 l.2 sts.1 sts.2
        || (decide (op = .smax) && (overlap l.1 l.2 ps.1 ps.2 || overlap l.1 l.2 scores.1 scores.2))
      if lists.any meets then .fault b .invalidField
      else match rangeCheck b p .vector q lists (if op = .smax then lists else []) with
      | some r => if params.any fun d => paramBad d len then .fault b .invalidField else r
      | none =>
        let (lb, b) := b.engReads p q lists
        let ins := (List.range rows).map fun r =>
          let d := params.getD r (drawParam 0)
          ({ d, st := sampState (leNat (slice sb (64 * r) 64)), list := candsOf d.k (lb.getD r []) } : SampRow)
        if ins.any (sampRowBad op len) then .fault b .invalidField
        else
          let needs := (List.range rows).filterMap fun r => (ins[r]?).bind fun x => (rowScoreAddr op q.ra r x).map fun a => (a, 4)
          if needs.any fun r => overlap r.1 r.2 sts.1 sts.2 then .fault b .invalidField
          else match rangeCheck b p .vector q needs [] with
          | some r => r
          | none =>
            let (nb, b) := b.engReads p q needs
            let peek4 (a : Nat) : Nat := leNat ((((needs.zip nb).find? fun x => x.1.1 == a).map (·.2)).getD [])
            .ok (iter rows b fun b r =>
              match ins[r]? with
              | none => b
              | some x =>
                let xs := unpackRow (vwFmt w) len (slice xb (r * len * es) (len * es))
                let scaled (_ : Nat) : Nat := match rowScoreAddr op q.ra r x with
                  | some a => fmul (peek4 a) x.d.scale
                  | none => 0
                match op with
                | .smax =>
                  let (st, l) := vsmaxRow x.d x.st x.list xs
                  let b := if 0 < x.d.k then b.cmdEvent p q 0x06 len
                    else if x.d.greedy then b else b.cmdEvent p q 0x19 (grainBlocks (x.d.elemBase + x.d.colBase) len)
                  let b := b.engWrite p .vector q (q.rd + 64 * r) st.bytes
                  if 0 < x.d.k then b.engWrite p .vector q (q.rc + 512 * r) (candBytes l) else b
                | .ssum => b.engWrite p .vector q (q.rd + 64 * r) (vssumRow x.d x.st xs).bytes
                | .sfin => (b.cmdEvent p q 0x19 (sfinBlocks x.d x.st x.list)).engWrite p .vector q (q.rd + 64 * r) (vsfinRow x.d x.st x.list none scaled).bytes
                | .sscore => b.engWrite p .vector q (q.rd + 64 * r) (vsfinRow x.d x.st x.list (some x.st.token) scaled).bytes)

/-! ### The gathering buffer -/

/-- R97: an entry idle for 16 cycles is written to its bank. -/
def execGatheringBufferFlush (p : Spd) (e : Engine) (sector : Nat) (s : State) : Host.Outcome State Fault Refusal :=
  nextOf s (if s.blk.arraysRun p then s.blk.modGb p fun x => x.commitWhere fun g => g.engine == e && g.sector == sector else s.blk)

end Sys2Proof.Machine
end

