-- ==== Sys2Proof/Machine/LoadStore.lean ====
section
/-!
DEFINITION. The load and store engines: copies (R103 to R107), handles (R101, R102), die-cache maintenance (R112), kept
activations (R224 to R231), pushes (R250 to R253), remote copies (R296) and the arming of chains (R300).
-/
namespace Sys2Proof.Machine

/-! ### LD (Table 5.6) -/

def ldRegs (w : Nat) : List Nat := [bits w 63 59, bits w 58 54, bits w 53 49]

def ldBad (w : Nat) : Bool :=
  !zeros w [(95, 66), (48, 46), (43, 32)] || bits w 127 112 == 0 || bits w 111 96 == 0 || bits w 111 96 % 4 != 0
    || bits w 65 64 == 3 || decide (2 ≤ bits w 45 44)

/-- A source row as it lands in scratchpad: INT4 widened exactly to INT8 or BF16 (R104). -/
def widenRow (mode : Nat) (bs : List Byte) : List Byte :=
  let x := leNat bs
  let nib (k : Nat) : Int := sext 4 (x >>> (4 * k))
  match mode with
  | 1 => (List.range (2 * bs.length)).map fun k => BitVec.ofNat 8 (trunc 8 (nib k))
  | 2 => (List.range (2 * bs.length)).flatMap fun k => leBytes 2 (encodeF bf16 .rne false (ofInt (nib k)))
  | _ => bs

def widenFactor (mode : Nat) : Nat := match mode with
  | 1 => 2
  | 2 => 4
  | _ => 1

/-- Row copies in order; the first that fails stops the command, and earlier rows stay written (R107). -/
def Block.loadRows (m : Dram) (b : Block) (p : Nat) (q : QCmd) (mode : Nat) (pol : Alloc) (cs : List RowCopy) : Option Status × Block :=
  cs.foldl (fun (acc : Option Status × Block) c =>
    match acc with
    | (some st, b) => (some st, b)
    | (none, b) =>
      match b.fetch m p q c.src c.len pol with
      | .got bs b => (none, (b.cmdEvent p q 0x0A (linesOf c.src c.len).length).engWrite p .load q c.dst (widenRow mode bs))
      | .bad st b => (some st, b)
      | .need _ _ => (none, b)) (none, b)

def finishRows (r : Option Status × Block) : EffRes := match r with
  | (some st, b) => .fault b st
  | (none, b) => .ok b

/-- LD (R104, R107). The scratchpad range it writes runs from its first row's start to its last row's end, with what lies between
the rows, and must lie in one live handle; ST's source range likewise.
DESIGN CHOICE, notes/assumptions/157. -/
def effLd (m : Dram) (b : Block) (p : Nat) (q : QCmd) (_ : Bool) : EffRes :=
  let w := q.w.toNat
  let (rows, n, mode) := (bits w 127 112, bits w 111 96, bits w 65 64)
  let (rs, rd, rt) := (q.rf 63 59, q.rf 58 54, q.rf 53 49)
  let (ss, ds) := (bits rt 31 0, bits rt 63 32)
  if rd % 4 ≠ 0 then .fault b .invalidField
  else match rangeCheck b p .load q [] [(rd, rowSpan rows ds (n * widenFactor mode))] with
    | some r => r
    | none =>
      let cs := copyRows rows rs ss rd ds n
      let needs := b.hostNeeds q (cs.map fun c => (c.src, c.len))
      if needs ≠ [] then .host b needs
      else finishRows (b.loadRows m p q mode (if bits w 45 44 = 0 then .reuse else .none) cs)

/-! ### Handles (Table 5.9) -/

def halBad (w : Nat) : Bool := !zeros w [(127, 75), (39, 32)]
def hfreeBad (w : Nat) : Bool := !zeros w [(127, 64), (57, 57), (56, 52), (51, 51), (50, 40), (39, 32)]

/-- Page ranges meet. -/
def pagesMeet (a n c k : Nat) : Bool := overlap a n c k

/-- HALLOC (R101): the checks in their order, then the entry is live and its pages' contents unspecified.
DEDUCED, notes/assumptions/46. -/
def effHalloc (_ : Dram) (b : Block) (p : Nat) (q : QCmd) (_ : Bool) : EffRes :=
  let w := q.w.toNat
  let s := b.spd p
  let c := s.ctx
  let (base, h, owners, size) := (bits w 74 64, bits w 63 58, bits w 57 52, bits w 50 40)
  let win := tget {} s.windows c
  let e := tget {} s.handles h
  let meets (st : HandleState) : Bool := s.handles.any fun x => x.2.state == st && pagesMeet base size x.2.basePage x.2.sizePages
  if h < win.handleLo ∨ win.handleHi < h ∨ base < win.basePage ∨ win.basePage + win.pages < base + size ∨ win.pages = 0 then
    .fault b .accessDenied
  else if size = 0 ∨ owners &&& 0b111000 = 0 ∨ e.state = .live then .fault b .invalidField
  else if meets .live then .fault b .invalidField
  else if e.state = .freeing ∨ meets .freeing then .hold
  else
    let b := b.forgetRange p (base * 4096, size * 4096)
    let live : Handle := { state := .live, context := c, owners, prefetch := bit w 51, sizePages := size, basePage := base }
    .ok (b.modSpd p fun s => { s with handles := tset s.handles h live })

/-- HFREE and GHFREE (R102, R141).
DEDUCED, notes/assumptions/30. -/
def effHfree (eng : Engine) (_ : Dram) (b : Block) (p : Nat) (q : QCmd) (_ : Bool) : EffRes :=
  let s := b.spd p
  let h := bits q.w.toNat 63 58
  let e := tget {} s.handles h
  if e.state ≠ .live ∨ e.context ≠ s.ctx then .fault b .handleNotLive
  else if bit e.owners (ownerOf eng) = false then .fault b .handleNotOwner
  else .ok (b.modSpd p fun s => { s with handles := tset s.handles h { e with state := .freeing, freeIdx := q.idx } })

/-! ### ST (Table 5.8) -/

def stRegs (w : Nat) : List Nat := [bits w 63 59, bits w 58 54, bits w 53 49, bits w 48 44, bits w 43 39]

def stBad (w : Nat) : Bool :=
  bit w 36 || bits w 95 80 == 0 || bits w 79 64 == 0 || decide (2 ≤ bits w 38 37) || !([0, 1, 2, 3, 4, 0xA].contains (bits w 35 32))
    || convBad (bits w 127 96) || (isMx (convOf (bits w 127 96)).fmt && bits w 79 64 % 32 != 0)

def Block.storeAll (m : Dram) (b : Block) (p : Nat) (eng : Engine) (back : Bool) (ws : List (Nat × List Byte)) : Option Status × Block :=
  ws.foldl (fun (acc : Option Status × Block) r =>
    match acc with
    | (some st, b) => (some st, b)
    | (none, b) =>
      let (st, b) := b.engineStore m p eng back r.1 r.2
      if st = .success then (none, b) else (some st, b)) (none, b)

/-- ST (R106): rows converted and written in order, each MX row with its scale bytes. -/
def effSt (m : Dram) (b : Block) (p : Nat) (q : QCmd) (_ : Bool) : EffRes :=
  let w := q.w.toNat
  let (rows, len, src) := (bits w 95 80, bits w 79 64, bits w 35 32)
  let c := convOf (bits w 127 96)
  let (rd, rs, rt) := (q.rf 63 59, q.rf 58 54, q.rf 53 49)
  let (re, rsc) := (q.rf 48 44, q.rf 43 39)
  let (ss, ds) := (bits rt 31 0, bits rt 63 32)
  let ses := elemBits src / 8
  if rs % ses ≠ 0 ∨ rd % elemAlign c.fmt ≠ 0 then .fault b .invalidField
  else match rangeCheck b p .store q [(rs, rowSpan rows ss (len * ses))] [] with
    | some r => r
    | none =>
      let (r, b) := ((b.cmdEvent p q 0x19 (convBlocks c re (rows * len))).commitRange p rs (rowSpan rows ss (len * ses))).cmdSpad p q.idx
      let seed := (b.ctx (b.spd p).ctx).seed.toNat
      finishRows (b.storeAll m p .store (bits w 38 37 == 1) ((List.range rows).flatMap fun k =>
        let (e, sc) := cvtRow c seed (re + k * len) (unpackRow src len (r.read (rs + k * ss) (len * ses)))
        if isMx c.fmt then [(rd + k * ds, e), (rsc + k * (len / 32), sc)] else [(rd + k * ds, e)]))

/-! ### DCMAINT (R112) -/

def dcRegs (w : Nat) : List Nat := [bits w 63 59, bits w 58 54]
def dcBad (w : Nat) : Bool := !zeros w [(127, 66), (53, 32)] || bits w 65 64 == 3

/-- A way belongs to the reuse partition. -/
def Tile.reuseWay (t : Tile) (w : Nat) : Bool := decide (w < 16 - t.burlWays)

/-- One line of the reuse partition is cleaned, and removed unless `keep`; `drop` discards its dirty bytes. -/
def Block.dcLineOp (b : Block) (t : Nat) (line : Nat) (keep drop : Bool) : Block :=
  let tl := b.tile t
  match (tl.dcSet line).find line with
  | none => b
  | some (w, l) =>
    if !tl.reuseWay w then b
    else
      let b := if drop then b.unlog t line else b.writeBack t l
      if keep then b.dcUpdate t line fun l => { l with dirty := 0 }
      else b.modTile t fun tl => tl.modSet line fun x => { x with ways := tdel x.ways w }

/-- The cached lines of a tile that satisfy `f`. -/
def Tile.cachedLines (t : Tile) (f : Nat → Bool) : List Nat := (t.dc.flatMap fun s => s.2.ways.map fun w => w.2.line).filter f

/-- Applies an op to the lines of `[a, a + n)` held in the tile: pending entries of the range are flushed first (R243). -/
def Block.dcRange (m : Dram) (b : Block) (t op a n : Nat) : Block :=
  let hit (line : Nat) : Bool := decide (a / 128 ≤ line) && decide (128 * line < a + n)
  let b := b.flushWhere m t fun e => hit (e.line / 2)
  let b := b.modTile t fun tl => if op = 0 then tl else { tl with fills := tl.fills.filter fun g => g.burl || !hit g.line }
  ((b.tile t).cachedLines hit).foldl (fun b line => b.dcLineOp t line (op == 0) (op == 2)) b

/-- The range's lines in the tile; the command completes once the write-backs are accepted. -/
def Block.dcMaint (m : Dram) (b : Block) (p : Nat) (q : QCmd) (op a n : Nat) : EffRes :=
  let b := b.dcRange m (tileOf p) op a n
  let back (src : ReqSrc) : Bool := match src with
    | .wc _ _ _ _ 8 => true
    | _ => false
  let lines := (b.openLines back).filter fun l => decide (a / 64 ≤ l) && decide (64 * l < a + n)
  .ok (b.modCmd p .store q.idx fun q => { q with awaits := lines })

/-- DCMAINT (R112). -/
def effDcmaint (m : Dram) (b : Block) (p : Nat) (q : QCmd) (_ : Bool) : EffRes :=
  let (a, n) := (q.rf 63 59, q.rf 58 54)
  if a % 128 ≠ 0 ∨ n = 0 ∨ n % 128 ≠ 0 then .fault b .invalidField
  else match b.rangeOf a n with
    | .error st => .fault b st
    | .ok .hbm => b.dcMaint m p q (bits q.w.toNat 65 64) a n
    | .ok .deep => b.dcMaint m p q (bits q.w.toNat 65 64) a n
    | .ok .host => .ok b
    | .ok _ => .fault b .accessDenied

/-! ### Kept activations -/

def ksRegs (w : Nat) : List Nat := [bits w 63 59, bits w 58 54, bits w 53 49, bits w 48 44]

/-- DEDUCED, notes/assumptions/45. -/
def ksBad (w : Nat) : Bool :=
  let (len, mode, src) := (bits w 79 64, bits w 38 37, bits w 35 32)
  !zeros w [(43, 39), (36, 36)] || bits w 95 80 == 0 || len == 0 || len % 128 != 0 || decide (65408 < len) || decide (2 ≤ mode)
    || (mode == 0 && (bits w 127 96 != 0 || decide (1 < src)))
    || (mode == 1 && (convBad (bits w 127 96) || decide (2 < src) || !([5, 6].contains (convOf (bits w 127 96)).fmt)))

/-- The reserved length of a segment of `n` elements; none for a format that has no such segment (R225). -/
def reservedLen (mode src n : Nat) : Option Nat :=
  let up (x : Nat) : Nat := ceilDiv x 64 * 64
  if mode = 0 ∧ src = 1 then some (up (64 + 258 * n / 128))
  else if mode = 0 ∧ src = 0 then some (up (64 + 514 * n / 128))
  else if mode = 1 ∧ src ≤ 2 then some (up (64 + 132 * n / 128))
  else none

/-- A lossless block: 128 elements as bits (R226). -/
def groupBlock (src : Nat) (xs : List Nat) : List Byte :=
  let (eb, mb) := if src = 1 then (8, 7) else (8, 23)
  let exps := xs.map fun x => bits x (mb + eb - 1) mb
  let emin := exps.foldl min 255
  let emax := exps.foldl max 0
  let w := if emin = emax then 0 else ilog2 (emax - emin) + 1
  let sm := xs.map fun x => (x >>> (mb + eb)) <<< mb + x % 2 ^ mb
  let offs := exps.foldr (fun x acc => acc * 2 ^ w + (x - emin)) 0
  [BitVec.ofNat 8 emin, BitVec.ofNat 8 w] ++ sm.flatMap (leBytes (if src = 1 then 1 else 3) ·)
    ++ leBytes (16 * w) offs

/-- The bits of 128 elements of a lossless block, from its bytes after byte 1. -/
def ungroupBlock (src emin w : Nat) (bs : List Byte) : List Nat :=
  let (mb, n) := if src = 1 then (7, 1) else (23, 3)
  let offs := leNat (bs.drop (128 * n))
  (List.range 128).map fun k =>
    let sm := leNat (slice bs (n * k) n)
    let x := emin + (offs >>> (w * k)) % 2 ^ w
    (sm >>> mb) <<< (mb + 8) + (x % 256) <<< mb + sm % 2 ^ mb

def ksHeader (payload rows len elemBase conv src mode : Nat) : List Byte :=
  leBytes 64 (fld payload 64 256 + fld rows 16 240 + fld len 16 208 + fld elemBase 64 128 + fld conv 32 96 + fld src 4 2 + fld mode 2 0)

/-- KSAVE (R225 to R227, R231): every block, then the header.
DEDUCED, notes/assumptions/45. -/
def effKsave (m : Dram) (b : Block) (p : Nat) (q : QCmd) (_ : Bool) : EffRes :=
  let w := q.w.toNat
  let (rows, len, mode, src, conv) := (bits w 95 80, bits w 79 64, bits w 38 37, bits w 35 32, bits w 127 96)
  let (rd, rs, rt, re) := (q.rf 63 59, q.rf 58 54, q.rf 53 49, q.rf 48 44)
  let stride := bits rt 31 0
  let ses := elemBits src / 8
  if rd % 64 ≠ 0 ∨ bits rt 63 32 ≠ 0 ∨ rs % ses ≠ 0 then .fault b .invalidField
  else match rangeCheck b p .store q [(rs, rowSpan rows stride (len * ses))] [] with
    | some r => r
    | none =>
      match b.engineRange rd ((reservedLen mode src (rows * len)).getD 64) with
      | .error st => .fault b st
      | .ok _ =>
        let (ram, b) := ((b.cmdEvent p q 0x19 (if mode = 0 then 0 else convBlocks (convOf conv) re (rows * len))).commitRange p rs
          (rowSpan rows stride (len * ses))).cmdSpad p q.idx
        let c := convOf conv
        let seed := (b.ctx (b.spd p).ctx).seed.toNat
        let payload := (List.range rows).flatMap fun r =>
          let raw := leNat (ram.read (rs + r * stride) (len * ses))
          (List.range (len / 128)).flatMap fun g =>
            if mode = 0 then groupBlock src ((List.range 128).map fun k => elemAt src raw (128 * g + k))
            else
              let (e, sc) := cvtRow c seed (re + r * len + 128 * g) ((List.range 128).map fun k => decodeElem src (elemAt src raw (128 * g + k)))
              e ++ sc
        let pad := List.replicate (ceilDiv payload.length 64 * 64 - payload.length) (0 : Byte)
        finishRows (b.storeAll m p .store false [(rd + 64, payload ++ pad), (rd, ksHeader payload.length rows len re conv src mode)])

def klRegs (w : Nat) : List Nat := [bits w 63 59, bits w 58 54, bits w 53 49]
/-- DEDUCED, notes/assumptions/45. -/
def klBad (w : Nat) : Bool :=
  let len := bits w 79 64
  !zeros w [(127, 96), (48, 36)] || bits w 95 80 == 0 || len == 0 || len % 128 != 0 || decide (65408 < len) || decide (2 < bits w 35 32)

/-- Bytes read in lines from `a` on, up to the first line that fails. -/
def Block.fetchPrefix (m : Dram) (b : Block) (p : Nat) (q : QCmd) (a n : Nat) (pol : Alloc) : List Byte × Option Status × Block :=
  (linesOf a n).foldl (fun (acc : List Byte × Option Status × Block) l =>
    match acc with
    | (bs, some st, b) => (bs, some st, b)
    | (bs, none, b) =>
      let lo := max a (64 * l)
      match b.fetch m p q lo (min (a + n) (64 * l + 64) - lo) pol with
      | .got x b => (bs ++ x, none, b.cmdEvent p q 0x0A 1)
      | .bad st b => (bs, some st, b)
      | .need _ _ => (bs, none, b)) ([], none, b)

/-- One row restored from its blocks; `rest` are the payload bytes that remain and `short` the status of the byte after
them. -/
def restoreRow (mode src dst fmt blocks : Nat) (rest : List Byte) (short : Status) : Except Status (List Byte × List Byte) :=
  (List.range blocks).foldl (fun (acc : Except Status (List Byte × List Byte)) _ =>
    match acc with
    | .error st => .error st
    | .ok (out, rest) =>
      if mode = 0 then
        if rest.length < 2 then .error short
        else
          let (emin, w) := (leNat (slice rest 0 1), leNat (slice rest 1 1) % 16)
          let n := (if src = 1 then 128 else 384) + 16 * w
          if 8 < w then .error .invalidField
          else if rest.length < 2 + n then .error short
          else
            let xs := ungroupBlock src emin w (slice rest 2 n)
            let out' := if dst = src then xs.flatMap (leBytes (elemBits src / 8) ·) else xs.flatMap fun x => leBytes 4 (x <<< 16)
            .ok (out ++ out', rest.drop (2 + n))
      else if rest.length < 132 then .error short
      else
        let row := leNat (slice rest 0 128)
        let out' := (List.range 128).flatMap fun k =>
          let v := match e8m0 (leNat (slice rest (128 + k / 32) 1)) with
            | none => Val.nan
            | some e => (decodeElem fmt (elemAt fmt row k)).scale e
          leBytes (elemBits dst / 8) (convElem { fmt := dst, stoch := false, sat := false, scale := 0x7F, draw := 0 } .rne v)
        .ok (out ++ out', rest.drop 132)) (.ok ([], rest))

/-- KLOAD (R228, R229).
DEDUCED, notes/assumptions/45. -/
def effKload (m : Dram) (b : Block) (p : Nat) (q : QCmd) (_ : Bool) : EffRes :=
  let w := q.w.toNat
  let (rows, len, dst) := (bits w 95 80, bits w 79 64, bits w 35 32)
  let (rs, rd, rt) := (q.rf 63 59, q.rf 58 54, q.rf 53 49)
  let stride := bits rt 63 32
  let des := elemBits dst / 8
  if bits rt 31 0 ≠ 0 ∨ rd % des ≠ 0 then .fault b .invalidField
  else match rangeCheck b p .load q [] [(rd, rowSpan rows stride (len * des))] with
    | some r => r
    | none =>
      let needs := b.hostNeeds q [(rs, 64)]
      if needs ≠ [] then .host b needs
      else match b.fetch m p q rs 64 .none with
        | .bad st b => .fault b st
        | .need _ _ => .hold
        | .got hb b1 =>
          let b1 := b1.cmdEvent p q 0x0A 1
          let h := leNat hb
          let (mode, src, payload) := (bits h 1 0, bits h 5 2, bits h 319 256)
          let fmt := (convOf (bits h 127 96)).fmt
          let room := match reservedLen mode src (rows * len) with
            | none => false
            | some n => decide (payload ≤ n)
          if bits h 255 240 ≠ rows ∨ bits h 223 208 ≠ len ∨ !zeros h [(511, 320), (239, 224), (207, 192), (95, 6)] ∨ !room
              ∨ (mode = 0 ∧ !(dst == src || (dst == 0 && src == 1))) ∨ (mode = 1 ∧ !([5, 6].contains fmt)) then .fault b1 .invalidField
          else
            let needs := b.hostNeeds q [(rs + 64, payload)]
            if needs ≠ [] then .host b needs
            else
              let (bs, bad, b) := b1.fetchPrefix m p q (rs + 64) payload .none
              let short := bad.getD .invalidField
              let r := (List.range rows).foldl (fun (acc : Option Status × Block × List Byte) k =>
                match acc with
                | (some st, b, rest) => (some st, b, rest)
                | (none, b, rest) =>
                  match restoreRow mode src dst fmt (len / 128) rest short with
                  | .error st => (some st, b, rest)
                  | .ok (out, rest) => (none, b.engWrite p .load q (rd + k * stride) out, rest)) (none, b, bs)
              finishRows (r.1, r.2.1)

/-! ### RPUSH (R250 to R253) -/

/-- A blank descriptor that a push of context `c` refuses, and how (R252). -/
def descCheck (b : Block) (c x : Nat) : Option Status :=
  let warm (lo lenLo : Nat) : Bool :=
    let (a, n) := (bits x (lo + 47) lo, bits x (lenLo + 10) lenLo)
    decide (1024 < n) || (if n = 0 then a != 0 else a % 4096 != 0 || !b.inMemory a (4096 * n))
  let mode := bits x 105 104
  let (code, n) := (bits x 47 0, bits x 87 64)
  if !zeros x [(511, 448), (383, 352), (319, 315), (255, 251), (191, 146), (111, 106), (103, 103), (95, 88), (63, 48)]
      || mode == 3 || (mode == 1 && decide (3 < bits x 119 112)) || (mode == 2 && bits x 119 112 != 0)
      || n == 0 || code % 128 != 0 || !b.inMemory code (16 * n) || warm 192 240 || warm 256 304
      || (!bit x 145 && bits x 144 128 != 0) then some .invalidField
  else if bits x 99 96 ≠ c ∨ (b.ctx c).sched.enable = false ∨ (bit x 145 ∧ b.cellOwned c (bits x 144 128) = false) then some .accessDenied
  else none

/-- Entries of the pool that are held. -/
def Block.poolUsed (b : Block) : Nat := (b.ctxs.map fun c => c.2.sched.used).sum

/-- The quota or the pool refuses `n` more entries (R250). -/
def Block.rackFull (b : Block) (c n : Nat) : Bool :=
  decide ((b.ctx c).sched.quota < (b.ctx c).sched.used + n) || decide (65536 < b.poolUsed + n)

/-- Entries of a push, appended to their racks; `ord` keeps the order of the push.
DESIGN CHOICE, notes/assumptions/144. -/
def Block.reserve (b : Block) (c resv : Nat) (ready : Bool) (ks : List Blank) : Block :=
  ((ks.zip (List.range ks.length)).foldl (fun (b : Block) (k, ord) =>
    let r := rackOf c k.prio
    b.setRack r (b.rack r ++ [{ blank := k, ready, resv, ord }])) b).addUsed c ks.length

def rpRegs (w : Nat) : List Nat := [bits w 63 59, bits w 58 54]
def rpBad (w : Nat) : Bool := !zeros w [(127, 72), (53, 32)] || bits w 71 64 == 0 || decide (64 < bits w 71 64)

/-- DESIGN CHOICE, notes/assumptions/44. -/
def effRpush (m : Dram) (b : Block) (p : Nat) (q : QCmd) (_ : Bool) : EffRes :=
  let n := bits q.w.toNat 71 64
  let (rs, rd) := (q.rf 63 59, q.rf 58 54)
  let c := (b.spd p).ctx
  if rd % 8 ≠ 0 ∨ rs % 64 ≠ 0 then .fault b .invalidField
  else match rangeCheck b p .store q [] [(rd, 8)] with
    | some r => r
    | none =>
      match b.engineRange rs (64 * n) with
      | .error st => .fault b st
      | .ok .host => .fault b .invalidField
      | .ok _ =>
        let (st, bs, b) := b.tileRead m p rs (64 * n) .none
        if st ≠ .success then .fault b st
        else
          let descs := (List.range n).map fun i => leNat (slice bs (64 * i) 64)
          match firstBad (descs.map (descCheck b c)) with
          | some st => .fault b st
          | none =>
            let result (b : Block) (st : Status) : List Byte := leBytes 8 (fld st.code 16 0 + fld (b.quotaLeft c) 16 16)
            if b.rackFull c n then
              let b := b.traceEvent c (BitVec.ofNat 512 (descs.headD 0)) 0x02 0 0
              .ok (b.engWrite p .store q rd (result b .rackFull))
            else
              let resv := b.nextResv
              let ks := (List.range n).map fun i => ({ desc := BitVec.ofNat 512 (descs.getD i 0), addr := BitVec.ofNat 64 (rs + 64 * i) } : Blank)
              let b := ({ b with nextResv := resv + 1 }).reserve c resv false ks
              let b := b.engWrite p .store q rd (result b .success)
              .ok (b.stage m p q.idx (.push resv n))

/-! ### KPUT, KGET, KCHAIN -/

def kxRegs (w : Nat) : List Nat := [bits w 63 59, bits w 58 54, bits w 53 49, bits w 48 44]
def kputBad (w : Nat) : Bool := !zeros w [(92, 64), (43, 32)]
def kgetBad (w : Nat) : Bool := kputBad w || bits w 127 94 != 0

/-- Checks made before any packet leaves (R296). -/
def kxCheck (b : Block) (p : Nat) (q : QCmd) (eng : Engine) (writes : Bool) : Option EffRes :=
  let w := q.w.toNat
  let (rr, rl, rn, rs) := (q.rf 63 59, q.rf 58 54, q.rf 53 49, q.rf 48 44)
  let mem := bit w 93
  let st := if bits w 48 44 = 0 then [] else [(rs, 8)]
  let c := (b.spd p).ctx
  if rn = 0 ∨ 2 ^ 30 < rn ∨ bits rr 51 48 ≠ 0 ∨ (bits w 48 44 ≠ 0 ∧ rs % 8 ≠ 0) ∨ b.peerStatus c (bits rr 63 52) = some .invalidField then
    some (.fault b .invalidField)
  else match rangeCheck b p eng q (if mem ∨ writes then [] else [(rl, rn)]) ((if mem ∨ !writes then [] else [(rl, rn)]) ++ st) with
    | some r => some r
    | none =>
      if mem then
        match b.engineRange rl rn with
        | .error st => some (.fault b st)
        | .ok _ => none
      else none

/-- KPUT: every packet but a signalling last one leaves at once (R296). -/
def effKput (m : Dram) (b : Block) (p : Nat) (q : QCmd) (_ : Bool) : EffRes :=
  match kxCheck b p q .store false with
  | some r => r
  | none =>
    let w := q.w.toNat
    let (rr, rl, rn) := (q.rf 63 59, q.rf 58 54, q.rf 53 49)
    let s := b.spd p
    let c := s.ctx
    let peer := bits rr 63 52
    let needs := if bit w 93 then b.hostNeeds q [(rl, rn)] else []
    if needs ≠ [] then .host b needs
    else
      match (if bit w 93 then b.fetch m p q rl rn .none else let (bs, b) := b.engRead p q rl rn; .got bs b) with
      | .bad st b => .fault b st
      | .need _ _ => .hold
      | .got bs b =>
        let b := b.modCmd p .store q.idx fun q => { q with done := true }
        match b.peerStatus c peer with
        | some st => .ok (b.kxFail p .store q.idx st)
        | none =>
          let cuts := cutGranules (bits rr 47 0) bs
          let sig := bit w 94
          let now := if sig then cuts.dropLast else cuts
          let b := now.foldl (fun (b : Block) k =>
            let pkt : Packet := { type := 0, src := p, addr := k.1, payload := k.2 }
            match b.connOf c peer with
            | none => b
            | some i => (b.modCmd p .store q.idx fun q => { q with outstanding := q.outstanding + 1 }).queuePkt i pkt
                (.engine p .store q.idx 0 false) (serial := s.serial)) b
          match sig, cuts.getLast? with
          | true, some k => .ok (b.stage m p q.idx (.putLast peer k.1 k.2 (bits w 111 95) (sbits w 127 112)))
          | _, _ => .ok b

/-- Bytes that a KGET receives reach their local place.
DESIGN CHOICE, notes/assumptions/43. -/
def Block.kgetWrite (m : Dram) (b : Block) (p : Nat) (q : QCmd) (dst : Nat) (spad : Bool) (bs : List Byte) : Block :=
  if spad then b.engWrite p .load q dst bs else (b.engineStore m p .load false dst bs).2

/-- KGET: a read request for each granule of the remote range (R296).
DESIGN CHOICE, notes/assumptions/43. -/
def effKget (_ : Dram) (b : Block) (p : Nat) (q : QCmd) (_ : Bool) : EffRes :=
  match kxCheck b p q .load true with
  | some r => r
  | none =>
    let w := q.w.toNat
    let (rr, rl, rn) := (q.rf 63 59, q.rf 58 54, q.rf 53 49)
    let s := b.spd p
    let c := s.ctx
    let peer := bits rr 63 52
    let a := bits rr 47 0
    let spad := !bit w 93
    let b := b.modCmd p .load q.idx fun q => { q with done := true }
    match b.peerStatus c peer, b.connOf c peer with
    | some st, _ => .ok (b.kxFail p .load q.idx st)
    | none, none => .ok b
    | none, some i =>
      let n := (a + rn - 1) / 4096 - a / 4096 + 1
      .ok (iter n b fun b j =>
        let lo := max a (4096 * (a / 4096 + j))
        let len := min (a + rn) (4096 * (a / 4096 + j) + 4096) - lo
        let dst := rl + (lo - a)
        (b.modCmd p .load q.idx fun q => { q with outstanding := q.outstanding + 1 }).queuePkt i
          { type := 1, src := p, addr := lo, len, xfer := (b.conn i).freshTag } (.engine p .load q.idx dst spad) (serial := s.serial))

/-- KCHAIN: a 16 B staged effect (R300).
DEDUCED, notes/assumptions/42. -/
def kchainBad (w : Nat) : Bool := bits w 127 64 != 0
/-- DEDUCED, notes/assumptions/42. -/
def effKchain (m : Dram) (b : Block) (p : Nat) (q : QCmd) (_ : Bool) : EffRes :=
  .ok (b.stage m p q.idx (.chain (bits q.w.toNat 63 16)))

end Sys2Proof.Machine
end

