-- ==== Sys2Proof/Machine/Gouge.lean ====
section
/-!
DEFINITION. The gouge engine: gathers, scatters, settles, burls and expert exchange (Chapter 6), with the gather of a
versioned table (R158 to R161).
-/
namespace Sys2Proof.Machine

/-! ### What gouge commands share -/

/-- The registers of Table 6.2. -/
def gwRegs (w : Nat) : List Nat := [bits w 63 59, bits w 58 54, bits w 53 49, bits w 48 44]

/-- A field that the command does not use is not zero; `flags` are the flag bits it uses. -/
def gwBad (w flags : Nat) (unused : List (Nat × Nat)) : Bool := !zeros w ((35, 32) :: unused) || bits w 39 36 &&& (15 ^^^ flags) != 0

def gwCount (w : Nat) : Nat := bits w 127 112
def gwAux (w : Nat) : Nat := bits w 111 96
def gwStride (w : Nat) : Nat := bits w 95 64
def gwOp (w : Nat) : Nat := bits w 43 40

/-- An effect whose steps may stop it. -/
abbrev Eff (α : Type) := Except EffRes α

def runEff (x : Eff Block) : EffRes := match x with
  | .ok b => .ok b
  | .error r => r

/-- A breach refuses the command. -/
def refuseIf (b : Block) (bad : Bool) (st : Status := .invalidField) : Eff Unit := if bad then .error (.fault b st) else .ok ()

/-- The ranges of a command, checked (R63, R100). -/
def needRanges (b : Block) (p : Nat) (q : QCmd) (reads writes : List (Nat × Nat)) : Eff Unit :=
  match rangeCheck b p .gouge q reads writes with
  | some r => .error r
  | none => .ok ()

/-- Bytes of device memory or of the host window, or how the command stops. -/
def readDev (m : Dram) (b : Block) (p : Nat) (q : QCmd) (a len : Nat) (pol : Alloc) : Eff (List Byte × Block) :=
  match b.fetch m p q a len pol with
  | .got bs b => .ok (bs, b)
  | .bad st b => .error (.fault b st)
  | .need h n => .error (.host b [(h, n)])

/-- A 128 B descriptor in HBM or the deep tier, read through the die cache (R117, R118, R143).
DESIGN CHOICE, notes/assumptions/44. -/
def readDesc (m : Dram) (b : Block) (p : Nat) (q : QCmd) (a : Nat) : Eff (Nat × Block) :=
  if a % 128 ≠ 0 then .error (.fault b .invalidField)
  else match b.engineRange a 128 with
    | .ok .host => .error (.fault b .invalidField)
    | _ => (readDev m b p q a 128 .reuse).map fun r => (leNat r.1, r.2)

/-- The peer of a remote table answers, or how the command completes (R25). -/
def needPeer (b : Block) (p peer : Nat) : Eff Unit :=
  match b.peerStatus (b.spd p).ctx peer with
  | some st => .error (.fault b st)
  | none => .ok ()

def TableDesc.idxBytes (d : TableDesc) : Nat := if d.idx64 then 8 else 4

/-- The table's home is another device: its rows are reached through Kerf, as they are on a looped connection too (R25, R118), and
its reader counts and pins are kept there. -/
def Block.tableAway (b : Block) (p : Nat) (d : TableDesc) : Bool :=
  d.remote && !((b.connOf (b.spd p).ctx d.peer).any fun k => (b.conn k).loop)

/-- The descriptor of the table at a home on this device: that of a table reached through the loop is the one registered here.
DESIGN CHOICE, notes/assumptions/51. -/
def Block.homeDesc (b : Block) (da : Nat) (d : TableDesc) : Nat :=
  if d.remote then ((tfind b.tables d.tableId).map (·.desc)).getD da else da

/-- The counts a descriptor keeps of dropped indices, as staged adds (R122). -/
def countEffects (desc missing oor : Nat) : List Effect :=
  (if missing = 0 then [] else [.memSide .add 0xD none (desc + 120) (leBytes 8 missing)])
  ++ (if oor = 0 then [] else [.memSide .add 0xD none (desc + 112) (leBytes 8 oor)])

/-! ### The sizer (R114, R115, R121) -/

/-- A sorted batch: each unique row with the positions that name it, ascending, and the dropped positions. -/
structure Sized where
  rows : List (Nat × List Nat)
  missing : List Nat
  oor : List Nat
deriving DecidableEq, Repr

def groupSorted (l : List (Nat × Nat)) : List (Nat × List Nat) :=
  l.foldr (fun x acc =>
    match acc with
    | (i, ps) :: rest => if i = x.1 then (i, x.2 :: ps) :: rest else (x.1, [x.2]) :: acc
    | [] => [(x.1, [x.2])]) []

/-- Sorts the batch of positions `k0`, `k0 + 1`, … whose indices are `idx`. -/
def sizeBatch (w numRows k0 : Nat) (idx : List Nat) : Sized :=
  let l := (List.range idx.length).map fun k => (idx.getD k 0, k0 + k)
  let sentinel := 2 ^ (8 * w) - 1
  let le (x y : Nat × Nat) : Bool := decide (x.1 < y.1) || (x.1 == y.1 && decide (x.2 ≤ y.2))
  { rows := groupSorted (sortBy le (l.filter fun x => x.1 != sentinel && decide (x.1 < numRows)))
    missing := (l.filter fun x => x.1 == sentinel).map (·.2)
    oor := (l.filter fun x => x.1 != sentinel && decide (numRows ≤ x.1)).map (·.2) }

def batchSize : Nat := 8192

/-- The indices of batch `k`, and how many there are. -/
def Block.batchIdx (b : Block) (p : Nat) (q : QCmd) (list w count k : Nat) : List Nat × Block :=
  let n := min batchSize (count - batchSize * k)
  let (bs, b) := b.engRead p q (list + w * batchSize * k) (w * n)
  let raw := leNat bs
  ((List.range n).map fun j => (raw >>> (8 * w * j)) % 2 ^ (8 * w), b)

/-- Every batch of a command that sorts them all at its beginning. -/
def Block.allBatches (b : Block) (p : Nat) (q : QCmd) (list w count numRows : Nat) : List Sized × Block :=
  iter (ceilDiv count batchSize) ([], b) fun acc k =>
    let (idx, b) := acc.2.batchIdx p q list w count k
    (acc.1 ++ [sizeBatch w numRows (batchSize * k) idx], b)

def Sized.dropped (z : Sized) : Nat := z.missing.length + z.oor.length

/-! ### Gathers (R122 to R127, R159, R160, R166) -/

/-- A registered burl table (R127). -/
def Block.burlRegistered (b : Block) (d : TableDesc) : Bool := (tfind b.tables d.tableId).any (·.burl)

/-- The epoch and policy that a blank reads a versioned table with: its registration, made now if there is none (R159). Whether the
registration needs an exchange with the table's home, whose epoch is then a free value.
DESIGN CHOICE, notes/assumptions/51. DEDUCED, notes/assumptions/61. DESIGN CHOICE, notes/assumptions/150. -/
def readerOf (m : Dram) (b : Block) (p da : Nat) (d : TableDesc) : Eff (Nat × Nat × Bool × Block) :=
  let s := b.spd p
  match s.regsns.find? fun r => r.descAddr == da with
  | some r => .ok (r.er, r.policy, false, b)
  | none =>
    if 16 ≤ s.regsns.length then .error (.fault b .invalidField)
    else
      let put (b : Block) (r : Registration) : Block := b.modSpd p fun s => { s with regsns := s.regsns ++ [r] }
      if b.tableAway p d then
        let er := (Config.peerEpoch b.freeCtr).toNat
        .ok (er, d.policy, true, put b.bumpFree { tableId := d.tableId, descAddr := da, er, policy := d.policy, remote := true })
      else
        let (bad, bs, b) := b.gougeRead m p (b.homeDesc da d) 128
        let t := tableDesc (leNat bs)
        if bad then .error (.fault b .poisonedTarget)
        else if 2 ^ 32 - 1 ≤ b.readerCount d.tableId t.epoch then .error .hold
        else .ok (t.epoch, t.policy, false, put (b.addReader d.tableId t.epoch) { tableId := d.tableId, descAddr := da, er := t.epoch, policy := t.policy })

/-- The pin in a context's slot on a table's home device (R165).
DESIGN CHOICE, notes/assumptions/150. -/
def Block.pinOf (b : Block) (c slot : Nat) (home : Option Nat) : Option Pin :=
  b.pins.find? fun x => x.owner == .local c && x.slot == slot && x.home == home

/-- The peer that is a table's home; none for this device. -/
def Block.homeOf (b : Block) (p : Nat) (d : TableDesc) : Option Nat := if b.tableAway p d then some d.peer else none

/-- The word of GGATHER, or of VREAD with its pin slot. -/
def gatherBad (pinned : Bool) (w : Nat) : Bool :=
  gwBad w 1 [if pinned then (111, 100) else (111, 96)] || gwCount w == 0 || decide (2 < gwOp w)

/-- The ranges of a gather: while it is speculative, a destination outside the prefetch region holds stage three alone (R63, R124);
whether it does. -/
def gatherRanges (b : Block) (p : Nat) (q : QCmd) (reads writes : List (Nat × Nat)) : Eff Bool := do
  let s := (b.spd p).asOf q.idx
  let held := s.isSpec q.idx && !(writes.all fun r => s.prefetchOk s.ctx (ownerOf .gouge) r.1 r.2)
  refuseIf b (writes.any fun r => r.2 != 0 && !inSpad r.1 r.2)
  needRanges b p q reads (if held then [] else writes)
  .ok held

/-- The destination and the mask bitmap of a gather. -/
def gatherDst (q : QCmd) (d : TableDesc) : List (Nat × Nat) :=
  let w := q.w.toNat
  [(q.rf 53 49, rowSpan (gwCount w) (gwStride w) (d.rowBytes * widenFactor (gwOp w))), (q.rf 48 44, if bit w 36 then ceilDiv (gwCount w) 8 else 0)]

/-- GGATHER and VREAD begin: refusals (R118, R120), the registration of a reader (R159), and stage one. -/
def effGather (pinned : Bool) (m : Dram) (b : Block) (p : Nat) (q : QCmd) (_ : Bool) : EffRes :=
  let w := q.w.toNat
  let (da, rb, rc) := (q.rf 63 59, q.rf 58 54, q.rf 53 49)
  let r : Eff Block := do
    let (x, b) ← readDesc m b p q da
    let d := tableDesc x
    let list := (rb, gwCount w * d.idxBytes)
    let dst := gatherDst q d
    refuseIf b (b.tableBad d || (gwOp w != 0 && d.fmt != 0xB) || gwStride w % 4 != 0 || decide (gwStride w < d.rowBytes * widenFactor (gwOp w))
      || rc % 4 != 0 || rb % d.idxBytes != 0 || (pinned && !d.versioned)
      || dst.any (fun r => overlap list.1 list.2 r.1 r.2)
      || (decide (0 < d.burlCount) && !b.burlRegistered d))
    let held ← gatherRanges b p q [list] dst
    if d.remote then needPeer b p d.peer
    let g : GatherRun := { idx := q.idx, desc := BitVec.ofNat 1024 x, descAddr := da, held }
    let start (b : Block) (g : GatherRun) : Eff Block := .ok (b.modSpd p fun s => { s with gouge := some (.gather g) })
    if d.versioned then
      let pin := b.pinOf (b.spd p).ctx (gwAux w) (b.homeOf p d)
      refuseIf b (pinned && !(pin.any fun x => x.desc == da))
      let (er, policy, ask, b) ← readerOf m b p da d
      let g := { g with reqs := if ask then [{ kind := .peer }] else [] }
      if pinned then start b { g with ev := (pin.map (·.epoch)).getD 0 }
      else start b { g with ev := er, perRow := policy == 0 }
    else if 0 < d.burlCount then
      if 2 ^ 32 - 1 ≤ b.burlCount d.tableId d.burlSel then .error .hold
      else start (b.addBurl d.tableId d.burlSel) { g with burlSel := some d.burlSel }
    else start b g
  match r with
  | .ok b => .run b
  | .error r => r

/-- The pieces of a range within 4 KiB granules: offset and length. -/
def granulePieces (a len : Nat) : List (Nat × Nat) :=
  if len = 0 then []
  else (List.range ((a + len - 1) / 4096 - a / 4096 + 1)).map fun j =>
    let lo := max a (4096 * (a / 4096 + j))
    (lo - a, min (a + len) (4096 * (a / 4096 + j) + 4096) - lo)

/-- One unique row's requests (R116, R126); those of a versioned row follow from its tag (R160).
DEDUCED, notes/assumptions/50. -/
def rowReqs (d : TableDesc) (burlSel : Option Nat) (row : Nat) (positions : List Nat) : List RowReq :=
  let cut (kind : RowKind) (a : Nat) : List RowReq :=
    (granulePieces a d.rowBytes).map fun x => { row, kind, addr := a + x.1, off := x.1, len := x.2, positions }
  let home := d.homeLocal + row * d.stride
  if d.versioned then
    (if d.remote then [{ row, kind := .peerTag, addr := d.tagOf row, len := 8, positions }]
     else [{ row, kind := .versioned, len := d.rowBytes, positions }])
  else match (if row < d.burlCount then burlSel else none) with
    | some s => if d.burlMode = 1 then cut .burl (d.repBase + s * d.repSetBytes + row * d.stride) else cut .burlCopy (row * d.stride)
    | none =>
      if d.remote then cut .peer home
      else if d.homeInHost then cut .host home
      else cut .home home

def Block.setGather (b : Block) (p : Nat) (g : GatherRun) : Block := b.modSpd p fun s => { s with gouge := some (.gather g) }

/-- A gather meets a fault condition: its burl registration is returned and the command ends (R120, R127). -/
def Block.gatherFault (b : Block) (p : Nat) (q : QCmd) (st : Status) : Block :=
  ((b.dropGather p).modSpd p fun s => { s with gouge := none }).cmdFault p .gouge q st

/-- A read request to the peer of a table; none when the peer cannot be reached. -/
def Block.askPeer (b : Block) (p idx peer addr len : Nat) : Option (Nat × Block) :=
  match b.connOf (b.spd p).ctx peer with
  | none => none
  | some i =>
    let k := b.conn i
    if k.state = .lost ∨ k.state = .refused then none
    else some (k.freshTag, b.queuePkt i { type := 1, src := p, addr, len, xfer := k.freshTag } (.row p idx k.freshTag) (serial := (b.spd p).serial))

/-- Sends the reads of the first 1,024 requests that go to the host or a peer (R116); the status when a peer is gone. While an
exchange that registers a reader is open, it alone is sent. -/
def Block.launchRows (b : Block) (p idx peer : Nat) (reqs : List RowReq) : Option Status × List RowReq × Block :=
  let n := if reqs.any fun r => r.kind == .peer && r.len == 0 then 1 else 1024
  let r := (reqs.take n).foldl (fun (acc : Option Status × List RowReq × Block) r =>
    let keep : Option Status × List RowReq × Block := (acc.1, acc.2.1 ++ [r], acc.2.2)
    if r.asked ∨ acc.1.isSome then keep
    else match r.kind with
      | .host =>
        if acc.2.2.hostRoom = 0 then keep
        else (none, acc.2.1 ++ [{ r with asked := true }],
          acc.2.2.windowAsk { spindle := p, engine := .gouge, idx } [(r.addr - hostBase, r.len)])
      | .peer | .peerTag =>
        match acc.2.2.askPeer p idx peer r.addr r.len with
        | none => (some .peerLost, acc.2.1 ++ [r], acc.2.2)
        | some (xfer, b) => (none, acc.2.1 ++ [{ r with asked := true, xfer }], b)
      | _ => keep) (none, [], b)
  (r.1, r.2.1 ++ reqs.drop n, r.2.2)

/-- The gather's burl registration ends with its last burl row request, and the command with its last request: its
counts, and the epoch it observed (R122, R124, R127, R161). One that holds stage three waits for its confirmation. -/
def Block.gatherCheck (m : Dram) (b : Block) (p : Nat) (q : QCmd) (g : GatherRun) : Block :=
  let d := tableDesc g.desc.toNat
  let sorted := decide (gwCount q.w.toNat ≤ batchSize * g.nextBatch)
  let burls := g.reqs.any fun r => r.kind == .burl || r.kind == .burlCopy
  let (b, g) : Block × GatherRun := match g.burlSel with
    | some s => if sorted && !burls then (b.subBurl d.tableId s, { g with burlSel := none }) else (b, g)
    | none => (b, g)
  if sorted && g.reqs.isEmpty && !g.held then
    let b := b.stageFor m p .gouge q (countEffects g.descAddr g.missing g.oor)
    let b := if d.versioned then b.modCmd p .gouge q.idx fun q => { q with obs := some g.observed } else b
    (b.modSpd p fun s => { s with gouge := none }).markDone p .gouge q.idx
  else b.setGather p g

/-- Requests leave for the host or a peer, and what follows. -/
def Block.gatherGo (m : Dram) (b : Block) (p : Nat) (q : QCmd) (g : GatherRun) : Block :=
  match b.launchRows p g.idx (tableDesc g.desc.toNat).peer g.reqs with
  | (some st, _, b) => (b.setGather p g).gatherFault p q st
  | (none, reqs, b) => b.gatherCheck m p q { g with reqs }

/-- A write of stage three, kept while it is held. -/
def Block.gatherPut (b : Block) (p : Nat) (q : QCmd) (g : GatherRun) (a : Nat) (bs : List Byte) : GatherRun × Block :=
  if g.held then ({ g with late := g.late ++ [(a, bs)] }, b) else (g, b.engWrite p .gouge q a bs)

/-- A gather that held stage three is confirmed: its destination is checked, and the writes follow (R63, R100). -/
def Block.gatherConfirmed (m : Dram) (b : Block) (p : Nat) (q : QCmd) (g : GatherRun) : Block :=
  let s := (b.spd p).asOf q.idx
  match firstBad ((gatherDst q (tableDesc g.desc.toNat)).map fun r => s.writeOk s.ctx (ownerOf .gouge) r.1 r.2) with
  | some st => b.gatherFault p q st
  | none => (g.late.foldl (fun b x => b.engWrite p .gouge q x.1 x.2) b).gatherGo m p q { g with held := false, late := [] }

/-- The sizer completes a batch: dropped positions get rows of zeros, the mask its bytes, unique rows their requests
(R115, R122). -/
def Block.sizerBatch (m : Dram) (b : Block) (p : Nat) (q : QCmd) (g : GatherRun) : Block :=
  let w := q.w.toNat
  let d := tableDesc g.desc.toNat
  let (rb, rc, rd) := (q.rf 58 54, q.rf 53 49, q.rf 48 44)
  if gwCount w ≤ batchSize * g.nextBatch then b
  else
    let (idx, b) := b.batchIdx p q rb d.idxBytes (gwCount w) g.nextBatch
    let k0 := batchSize * g.nextBatch
    let z := sizeBatch d.idxBytes d.numRows k0 idx
    let gone := z.missing ++ z.oor
    let zero := List.replicate (d.rowBytes * widenFactor (gwOp w)) (0 : Byte)
    let (g, b) := gone.foldl (fun (acc : GatherRun × Block) pos => acc.2.gatherPut p q acc.1 (rc + pos * gwStride w) zero) (g, b)
    let (g, b) := if bit w 36 then
        let x := gone.foldl (fun acc pos => acc ||| 1 <<< (pos - k0)) 0
        b.gatherPut p q g (rd + k0 / 8) (leBytes (ceilDiv idx.length 8) x)
      else (g, b)
    let b := ((b.cmdEvent p q 0x10 idx.length).cmdEvent p q 0x12 gone.length).cmdEvent p q 0x11 z.rows.length
    b.gatherGo m p q { g with
      nextBatch := g.nextBatch + 1, missing := g.missing + z.missing.length, oor := g.oor + z.oor.length
      reqs := g.reqs ++ z.rows.flatMap fun r => rowReqs d g.burlSel r.1 r.2 }

/-- The gather in progress, with its command. -/
def Spindle.gather (s : Spindle) : Option (QCmd × GatherRun) :=
  match s.gouge with
  | some (.gather g) => (s.gougeQ.find? fun q => q.idx == g.idx).map fun q => (q, g)
  | _ => none

def execSizerBatchSorted (p : Spd) (s : State) : Host.Outcome State Fault Refusal :=
  let b := s.blk
  nextOf s (if !b.clocked then b
    else match (b.spd p).gather with
      | some (q, g) => b.orWait fun b => b.sizerBatch s.dram p q g
      | none => b)

/-- Stage three: a piece of a row goes to every position that names it (R114, R122). -/
def Block.expandRow (m : Dram) (b : Block) (p : Nat) (q : QCmd) (g : GatherRun) (r : RowReq) (bs : List Byte) : Block :=
  let w := q.w.toNat
  let out := widenRow (gwOp w) bs
  let (g, b) := r.positions.foldl (fun (acc : GatherRun × Block) pos =>
    acc.2.gatherPut p q acc.1 (q.rf 53 49 + pos * gwStride w + r.off * widenFactor (gwOp w)) out) (g, b)
  let b := if r.off = 0 ∧ (r.kind = .burl ∨ r.kind = .burlCopy) then b.cmdEvent p q 0x13 1 else b
  b.gatherGo m p q { g with reqs := eraseFirst (· == r) g.reqs }

/-- Where byte `o` of the issuing tile's copy of replica set `s` lies (R125). -/
def copyAddr (m : Dram) (b : Block) (p t : Nat) (q : QCmd) (d : TableDesc) (s o : Nat) : Eff (Nat × Block) :=
  (readDev m b p q (d.repBase + 4 * ((2 * t + s) * (d.repSetBytes / 4096) + o / 4096)) 4 .none).map fun r => (leNat r.1 * 4096 + o % 4096, r.2)

/-- A piece of a versioned row's slot, read at the channel controllers (R158). -/
def slotPiece (m : Dram) (b : Block) (p : Nat) (q : QCmd) (a len : Nat) : Eff (List Byte × Block) :=
  match b.memRange a len with
  | .error st => .error (.fault b st)
  | .ok _ =>
    let (bad, bs, b) := b.gougeRead m p a len (b.specOf p q)
    if bad then .error (.fault b .poisonedTarget) else .ok (bs, b)

/-- The first request of a versioned row: its tag, then the first piece of the slot the tag leads to; the slot's other pieces are
requests of their own (R116, R160). The bytes, the epoch observed, the request as it was read, and the further requests.
DEDUCED, notes/assumptions/50. -/
def versionedRow (m : Dram) (b : Block) (p : Nat) (q : QCmd) (g : GatherRun) (d : TableDesc) (r : RowReq) :
    Eff (List Byte × Nat × RowReq × List RowReq × Block) :=
  match b.memRange (d.tagOf r.row) 8 with
  | .error st => .error (.fault b st)
  | .ok _ => do
    let (tbad, re, sel, b) := readTag m b p d r.row (b.specOf p q)
    let (slot, seen) := resolveRow g.perRow g.ev re sel
    let a := d.slotAddr slot r.row
    refuseIf b tbad .poisonedTarget
    match granulePieces a d.rowBytes with
    | [] => .ok ([], seen, r, [], b)
    | x :: rest =>
      let (bs, b) ← slotPiece m b p q (a + x.1) x.2
      .ok (bs, seen, { r with off := x.1, len := x.2 }, rest.map fun y => { r with kind := .slot, addr := a + y.1, off := y.1, len := y.2 }, b)

/-- Row request `k` returns (R116); one at a peer returns by its own packet. -/
def Block.rowReturn (m : Dram) (b : Block) (p k : Nat) : Block :=
  match (b.spd p).gather with
  | none => b
  | some (q, g) =>
    match (g.reqs.take 1024)[k]? with
    | none => b
    | some r =>
      let d := tableDesc g.desc.toNat
      let pol : Alloc := if d.stream then .none else .reuse
      let plain (x : Eff (List Byte × Block)) : Eff (List Byte × Nat × RowReq × List RowReq × Block) := x.map fun x => (x.1, 0, r, [], x.2)
      let x : Eff (List Byte × Nat × RowReq × List RowReq × Block) := match r.kind with
        | .home => plain (readDev m b p q r.addr r.len pol)
        | .burl => plain (readDev m b p q r.addr r.len .burl)
        | .burlCopy => do
          let (a, b) ← copyAddr m b p (tileOf p) q d (g.burlSel.getD 0) r.addr
          plain (readDev m b p q a r.len .none)
        | .host => plain (readDev m b p q r.addr r.len .none)
        | .versioned => versionedRow m b p q g d r
        | .slot => plain (slotPiece m b p q r.addr r.len)
        | .peer | .peerTag => .error .hold
      match x with
      | .ok (bs, seen, r', more, b) =>
        b.expandRow m p q { g with observed := max g.observed seen, reqs := more ++ g.reqs.map fun y => if y = r then r' else y } r' bs
      | .error (.fault b st) => b.gatherFault p q st
      | .error _ => b

def execRowRequestReturn (p : Spd) (k : Nat) (s : State) : Host.Outcome State Fault Refusal :=
  nextOf s (if s.blk.clocked then s.blk.orWait fun b => b.rowReturn s.dram p k else s.blk)

/-! ### Scatters (R129 to R134) -/

def opMem (op : Nat) : MemOp := match op % 4 with
  | 0 => .store
  | 1 => .add
  | 2 => .max
  | _ => .min

/-- The operations that Table 6.5 has for a format. -/
def opAllowed (op fmt : Nat) : Bool :=
  op == 0 || (op == 1 && [0, 1, 0xC, 0xD].contains fmt) || ((op == 2 || op == 3) && fmt == 0)

/-- The elements of a row; a last one that the row cuts off is filled with zeros. -/
def rowElems (fmt : Nat) (bs : List Byte) : List Nat :=
  let x := leNat bs
  (List.range (ceilDiv (8 * bs.length) (elemBits fmt))).map fun k => elemAt fmt x k

def packElems (fmt len : Nat) (xs : List Nat) : List Byte :=
  leBytes len (xs.foldr (fun x acc => x % 2 ^ elemBits fmt + acc * 2 ^ elemBits fmt) 0)

/-- One element combined over duplicates in ascending position order (R129). -/
def combineElem (op fmt : Nat) (vs : List Nat) : Nat :=
  match vs with
  | [] => 0
  | v :: rest =>
    if op = 0 then rest.getLastD v
    else if op = 1 ∧ fmt = 1 then
      encodeF bf16 .rne false (ofF32 (rest.foldl (fun s x => fadd s (toF32 (decodeF bf16 x))) (toF32 (decodeF bf16 v))))
    else rest.foldl (fun s x => memElem (opMem op) fmt s x) v

/-- A contribution: the source rows of one valid index, combined. -/
def combineRows (op fmt : Nat) (rows : List (List Byte)) : List Byte :=
  let es := rows.map (rowElems fmt)
  let first := rows.headD []
  packElems fmt first.length ((List.range (es.headD []).length).map fun k => combineElem op fmt (es.map fun e => e.getD k 0))

/-- A combine-area record (R134). -/
def laneRecord (d : TableDesc) (row pos op : Nat) (data : List Byte) : List Byte :=
  let bs := leBytes 8 row ++ leBytes 4 pos ++ leBytes 1 op ++ leBytes 3 0 ++ data
  bs ++ List.replicate (d.recBytes - bs.length) 0

def scatterBad (w : Nat) : Bool := gwBad w 0 [(111, 96)] || gwCount w == 0 || decide (3 < gwOp w)

/-- GSCATTER: duplicates combined per batch, then memory-side operations or one settled reservation, all staged
(R129 to R134, R140).
DEDUCED, notes/assumptions/47. -/
def effGscatter (m : Dram) (b : Block) (p : Nat) (q : QCmd) (_ : Bool) : EffRes :=
  let w := q.w.toNat
  let (da, rb, rc, rank) := (q.rf 63 59, q.rf 58 54, q.rf 53 49, q.rf 48 44)
  let (n, op) := (gwCount w, gwOp w)
  runEff do
    let (x, b) ← readDesc m b p q da
    let d := tableDesc x
    let settled := d.settled && (op == 0 || (op == 1 && (d.fmt == 0 || d.fmt == 1)))
    refuseIf b (b.tableBad d || d.versioned || d.homeInHost || !opAllowed op d.fmt || gwStride w % 4 != 0 || decide (gwStride w < d.rowBytes)
      || rc % 4 != 0 || rb % d.idxBytes != 0 || (d.settled && decide (d.combLanes ≤ bits rank 43 32)))
    needRanges b p q [(rb, n * d.idxBytes), (rc, rowSpan n (gwStride w) d.rowBytes)] []
    if d.remote then needPeer b p d.peer
    let (batches, b) := b.allBatches p q rb d.idxBytes n d.numRows
    let (ram, b) := (b.commitRange p rc (rowSpan n (gwStride w) d.rowBytes)).cmdSpad p q.idx
    let peer := if d.remote then some d.peer else none
    let cs := batches.flatMap fun z => z.rows.map fun r =>
      (r.1, (bits rank 31 0 + r.2.headD 0) % 2 ^ 32, combineRows op d.fmt (r.2.map fun pos => ram.read (rc + pos * gwStride w) d.rowBytes))
    let lane := d.laneAddr (if bit rank 48 then 1 else 0) (bits rank 43 32)
    let effects : List Effect :=
      if settled then (if cs = [] then [] else [.lane q.idx peer lane d.laneRecords d.recBytes (cs.map fun c => laneRecord d c.1 c.2.1 op c.2.2)])
      else cs.flatMap fun c => (linePieces (d.homeLocal + c.1 * d.stride) c.2.2).map fun x => .memSide (opMem op) d.fmt peer x.1 x.2
    let missing := (batches.map fun z => z.missing.length).sum
    let oor := (batches.map fun z => z.oor.length).sum
    let b := b.stageFor m p .gouge q effects
    .ok (((b.cmdEvent p q 0x10 n).cmdEvent p q 0x12 (missing + oor)).stageFor m p .gouge q (countEffects da missing oor))

/-! ### Settles (R135) -/

/-- A record read back from a lane.
DEDUCED, notes/assumptions/25. -/
structure LaneRec where
  row : Nat
  pos : Nat
  op : Nat
  data : List Byte
deriving DecidableEq, Repr

def laneRec (rowBytes : Nat) (bs : List Byte) : LaneRec :=
  { row := leNat (slice bs 0 8), pos := leNat (slice bs 8 4), op := leNat (slice bs 12 1), data := slice bs 16 rowBytes }

/-- A record applied to a row (Table 6.5). -/
def applyRec (fmt : Nat) (v : List Byte) (r : LaneRec) : List Byte :=
  if r.op = 0 then r.data
  else
    let c := rowElems fmt r.data
    packElems fmt v.length ((List.range c.length).map fun k => memElem (opMem r.op) fmt ((rowElems fmt v).getD k 0) (c.getD k 0))

def settleBad (w : Nat) : Bool := gwBad w 3 [(127, 112), (111, 96), (95, 64), (48, 44), (43, 40)]

/-- The records of a lane whose row is in range, by row and position.
DEDUCED, notes/assumptions/25. -/
def laneRecords (m : Dram) (b : Block) (p : Nat) (q : QCmd) (d : TableDesc) (lane lo hi : Nat) : Eff (List LaneRec × Block) := do
  let (cb, b) ← readDev m b p q lane 8 .none
  let (bs, b) ← readDev m b p q (lane + 64) (leNat cb * d.recBytes) .none
  let recs := ((List.range (leNat cb)).map fun j => laneRec d.rowBytes (slice bs (j * d.recBytes) d.recBytes)).filter
    fun r => decide (lo ≤ r.row) && decide (r.row < hi)
  .ok (sortBy (fun x y => decide (x.row < y.row) || (x.row == y.row && decide (x.pos ≤ y.pos))) recs, b)

/-- GSETTLE. The lane counts of a settle with clr = 1 that ends with COMBINE_FULL are cleared as it ends (R135).
DEDUCED, notes/assumptions/25. -/
def effGsettle (m : Dram) (b : Block) (p : Nat) (q : QCmd) (_ : Bool) : EffRes :=
  let w := q.w.toNat
  let (da, lo, hi) := (q.rf 63 59, q.rf 58 54, q.rf 53 49)
  let parity := if bit w 36 then 1 else 0
  runEff do
    let (x, b) ← readDesc m b p q da
    let d := tableDesc x
    refuseIf b (b.tableBad d || d.remote || !d.settled || d.homeInHost)
    let lanes := (List.range d.combLanes).map (d.laneAddr parity)
    let clear := if bit w 37 then lanes.map fun a => Effect.memSide .store 0xD none a (leBytes 8 0) else []
    let (full, b) ← lanes.foldlM (fun (acc : Bool × Block) a => do
      let (cb, b) ← readDev m acc.2 p q a 8 .none
      .ok (acc.1 || decide ((d.laneRecords : Int) < sext 64 (leNat cb)), b)) (false, b)
    if full then .error (.fault (clear.foldl (fun b e => b.applyEffect m (b.issuer p) e) b) .combineFull)
    else
      let (recs, b) ← lanes.foldlM (fun (acc : List LaneRec × Block) a => do
        let (l, b) ← laneRecords m acc.2 p q d a lo hi
        .ok (acc.1 ++ l, b)) ([], b)
      let rows := dedup (sortBy (fun x y => decide (x ≤ y)) (recs.map (·.row)))
      let (stores, b) ← rows.foldlM (fun (acc : List Effect × Block) row => do
        let a := d.home + row * d.stride
        let (v, b) ← readDev m acc.2 p q a d.rowBytes .none
        .ok (acc.1 ++ (linePieces a ((recs.filter (·.row == row)).foldl (applyRec d.fmt) v)).map fun x => .memSide .store d.fmt none x.1 x.2, b)) ([], b)
      .ok (b.stageFor m p .gouge q (stores ++ clear))

/-! ### Burls (R128) -/

def burlBad (w : Nat) : Bool := gwBad w 0 [(127, 112), (111, 96), (95, 64), (58, 54), (53, 49), (48, 44), (43, 40)]

def effGburl (m : Dram) (b : Block) (p : Nat) (q : QCmd) (_ : Bool) : EffRes :=
  let da := q.rf 63 59
  let r : Eff (Block × TableDesc) := do
    let (x, b) ← readDesc m b p q da
    let d := tableDesc x
    refuseIf b (b.tableBad d || (decide (0 < d.burlCount) && !b.burlRegistered d))
    if d.remote then needPeer b p d.peer
    .ok (b, d)
  match r with
  | .error r => r
  | .ok (b, d) =>
    if d.burlMode = 0 then .ok b
    else .run (b.modSpd p fun s => { s with gouge := some (.burl q.idx da (1 - d.burlSel) false []) })

/-- Lines of a range leave the burl partition of a tile. -/
def Block.burlInvalidate (b : Block) (t a n : Nat) : Block :=
  let hit (line : Nat) : Bool := decide (a / 128 ≤ line) && decide (128 * line < a + n)
  let b := b.modTile t fun tl => { tl with fills := tl.fills.filter fun g => !(g.burl && hit g.line) }
  ((b.tile t).cachedLines hit).foldl (fun b line =>
    match ((b.tile t).dcSet line).find line with
    | none => b
    | some (w, l) =>
      if (b.tile t).reuseWay w then b
      else (b.writeBack t l).modTile t fun tl => tl.modSet line fun x => { x with ways := tdel x.ways w }) b

/-- A piece of a home row is copied into the replica set: one copy in memory, or one on each tile (R125, R128). -/
def burlCopy (m : Dram) (b : Block) (p : Nat) (q : QCmd) (d : TableDesc) (s row off : Nat) (bs : List Byte) : Eff Block :=
  let put (b : Block) (a : Nat) (bs : List Byte) : Eff Block :=
    match b.engineStore m p .gouge false a bs with
    | (.success, b) => .ok b
    | (st, b) => .error (.fault b st)
  let o := row * d.stride + off
  if d.burlMode = 1 then put b (d.repBase + s * d.repSetBytes + o) bs
  else [0, 1, 2, 3].foldlM (fun b t =>
    (granulePieces o bs.length).foldlM (fun b x => do
      let (a, b) ← copyAddr m b p t q d s (o + x.1)
      put b a ((bs.drop x.1).take x.2)) b) b

/-- Step 4: the descriptor's line leaves every die cache and burl_sel's write is staged. -/
def Block.burlFinish (m : Dram) (b : Block) (p : Nat) (q : QCmd) (da s : Nat) : Block :=
  let b := [0, 1, 2, 3].foldl (fun b t => b.dcRange m t 1 da 128) b
  ((b.stage m p q.idx (.burlSel da s)).modSpd p fun x => { x with gouge := none }).markDone p .gouge q.idx

/-- GBURL goes on once the unselected set's reader count is zero: it invalidates, copies and publishes (R128). -/
def Block.burlRefresh (m : Dram) (b : Block) (p : Nat) : Block :=
  match (b.spd p).gouge with
  | some (.burl idx da s false _) =>
    match (b.spd p).gougeQ.find? fun q => q.idx == idx with
    | none => b
    | some q =>
      match readDesc m b p q da with
      | .error (.fault b st) => (b.modSpd p fun x => { x with gouge := none }).cmdFault p .gouge q st
      | .error _ => b
      | .ok (x, b0) =>
        let d := tableDesc x
        let rows := (List.range d.burlCount).map fun i => (i, d.homeLocal + i * d.stride)
        if q.hostWait ∨ b.burlCount d.tableId s ≠ 0 then b
        else
          let needs := if d.remote then [] else b.hostNeeds q (rows.map fun r => (r.2, d.rowBytes))
          if needs ≠ [] then b.askHost p .gouge q needs
          else
            let b := if d.burlMode = 1 then
                [0, 1, 2, 3].foldl (fun b t => b.burlInvalidate t (d.repBase + s * d.repSetBytes) (d.burlCount * d.stride)) b0
              else b0
            if d.remote then
              let reqs : List RowReq := rows.flatMap fun r => (granulePieces r.2 d.rowBytes).map fun x =>
                { row := r.1, kind := .peer, addr := r.2 + x.1, off := x.1, len := x.2 }
              match b.launchRows p idx d.peer reqs with
              | (some st, _, b) => (b.modSpd p fun x => { x with gouge := none }).cmdFault p .gouge q st
              | (none, reqs, b) =>
                if reqs = [] then b.burlFinish m p q da s else b.modSpd p fun x => { x with gouge := some (.burl idx da s true reqs) }
            else
              let r : Eff Block := rows.foldlM (fun b r => do
                let (bs, b) ← readDev m b p q r.2 d.rowBytes (if d.stream then .none else .reuse)
                burlCopy m b p q d s r.1 0 bs) b
              match r with
              | .ok b => b.burlFinish m p q da s
              | .error (.fault b st) => (b.modSpd p fun x => { x with gouge := none }).cmdFault p .gouge q st
              | .error _ => b
  | _ => b

def execGburlRefresh (p : Spd) (s : State) : Host.Outcome State Fault Refusal :=
  nextOf s (if s.blk.clocked then s.blk.orWait fun b => b.burlRefresh s.dram p else s.blk)

/-! ### Rows that a peer returns -/

/-- A peer answers a row request of spindle `p` (R116, R292). -/
def Block.rowAnswer (m : Dram) (b : Block) (p idx xfer : Nat) (ans : Except Status (List Byte)) : Block :=
  match (b.spd p).gouge with
  | some (.gather g) =>
    match (b.spd p).gougeQ.find? (fun q => q.idx == idx), g.reqs.find? fun r => r.asked && r.xfer == xfer && (r.kind == .peer || r.kind == .peerTag) with
    | some q, some r =>
      if g.idx ≠ idx then b
      else match ans with
        | .error st => b.gatherFault p q st
        | .ok bs =>
          if r.kind = .peer ∧ r.len = 0 then b.gatherGo m p q { g with reqs := eraseFirst (· == r) g.reqs }
          else if r.kind = .peer then b.expandRow m p q g r bs
          else
            let d := tableDesc g.desc.toNat
            let (slot, seen) := resolveRow g.perRow g.ev (leNat bs / 2) (leNat bs % 2)
            let a := d.slotAddr slot r.row
            let pieces : List RowReq := (granulePieces a d.rowBytes).map fun x => { r with kind := .peer, addr := a + x.1, off := x.1, len := x.2, asked := false }
            b.gatherGo m p q { g with observed := max g.observed seen, reqs := pieces ++ eraseFirst (· == r) g.reqs }
    | _, _ => b
  | some (.pin k xf pin release dst) =>
    match (b.spd p).gougeQ.find? fun q => q.idx == idx with
    | none => b
    | some q =>
      if k ≠ idx ∨ xf ≠ xfer then b
      else
        let b := b.modSpd p fun x => { x with gouge := none }
        match ans with
        | .error st => b.cmdFault p .gouge q st
        | .ok _ =>
          let others := b.pins.filter fun x => !(x.owner == pin.owner && x.slot == pin.slot && x.home == pin.home)
          let b := if release then b else b.engWrite p .gouge q dst (leBytes 8 pin.epoch)
          { b with pins := if release then others else others ++ [pin] }.markDone p .gouge idx
  | some (.burl k da s true reqs) =>
    match (b.spd p).gougeQ.find? (fun q => q.idx == idx), reqs.find? fun r => r.asked && r.xfer == xfer with
    | some q, some r =>
      if k ≠ idx then b
      else
        let stop (b : Block) (st : Status) : Block := (b.modSpd p fun x => { x with gouge := none }).cmdFault p .gouge q st
        match ans, readDesc m b p q da with
        | .error st, _ => stop b st
        | _, .error (.fault b st) => stop b st
        | _, .error _ => b
        | .ok bs, .ok (x, b) =>
          match burlCopy m b p q (tableDesc x) s r.row r.off bs with
          | .error (.fault b st) => stop b st
          | .error _ => b
          | .ok b =>
            match b.launchRows p idx (tableDesc x).peer (eraseFirst (· == r) reqs) with
            | (some st, _, b) => stop b st
            | (none, reqs, b) =>
              if reqs = [] then b.burlFinish m p q da s else b.modSpd p fun x => { x with gouge := some (.burl k da s true reqs) }
    | _, _ => b
  | _ => b

/-! ### Expert exchange (R136 to R139) -/

/-- A remote reference whose reserved bits are zero and whose peer answers (R24, R25). -/
def needRef (b : Block) (p ref : Nat) : Eff Unit :=
  if bits ref 51 48 ≠ 0 then .error (.fault b .invalidField) else needPeer b p (bits ref 63 52)

/-- A plain remote write of a gouge command: packets that the command waits for (R137). -/
def Block.refWrite (b : Block) (p : Nat) (q : QCmd) (ref off : Nat) (bs : List Byte) : Block :=
  let s := b.spd p
  let peer := bits ref 63 52
  (cutGranules (bits ref 47 0 + off) bs).foldl (fun (b : Block) k =>
    match b.connOf s.ctx peer with
    | none => b
    | some i => (b.modCmd p .gouge q.idx fun q => { q with outstanding := q.outstanding + 1 }).queuePkt i
        { type := 0, src := p, addr := k.1, payload := k.2 } (.engine p .gouge q.idx 0 false) (serial := s.serial)) b

/-- DEDUCED, notes/assumptions/48. -/
def exRec (rowBytes : Nat) : Nat := 16 + (rowBytes + 15) / 16 * 16
def exRowBad (rowBytes : Nat) : Bool := decide (rowBytes < 32) || decide (65536 < rowBytes) || rowBytes % 4 != 0
def exKBad (w : Nat) : Bool := gwOp w == 0 || decide (8 < gwOp w)
def exCapBad (w : Nat) : Bool := gwAux w == 0 || decide (8192 < gwAux w)

/-- DEDUCED, notes/assumptions/48. -/
def exdispBad (w : Nat) : Bool := gwBad w 0 [] || gwCount w == 0 || exKBad w || exCapBad w || decide (8192 < gwCount w * gwOp w)

/-- A choice: expert, token position, choice number, gate. -/
structure Choice where
  expert : Nat
  token : Nat
  choice : Nat
  gate : Nat
deriving DecidableEq, Repr

/-- DEDUCED, notes/assumptions/52. -/
def choicesOf (k count : Nat) (bs : List Byte) : List Choice :=
  (List.range (count * k)).map fun i =>
    let x := leNat (slice bs (8 * i) 8)
    { expert := bits x 47 32, token := i / k, choice := i % k, gate := bits x 31 0 }

/-- GEXDISP (R137). R136 gives a route record a slot, and a dropped choice has none: bytes 8 to 11 of its record are free values
(DESIGN CHOICE, notes/assumptions/158).
DEDUCED, notes/assumptions/52. -/
def effGexdisp (m : Dram) (b : Block) (p : Nat) (q : QCmd) (_ : Bool) : EffRes :=
  let w := q.w.toNat
  let (map, rb, rc, word) := (q.rf 63 59, q.rf 58 54, q.rf 53 49, q.rf 48 44)
  let (n, k, cap) := (gwCount w, gwOp w, gwAux w)
  let (route, rank, rowBytes) := (bits word 23 0, bits word 35 24, bits word 52 36)
  let list := (rb, 8 * n * k)
  let rows := (rc, rowSpan n (gwStride w) rowBytes)
  let out := (route, 16 * n * k)
  runEff do
    refuseIf b (exRowBad rowBytes || gwStride w % 4 != 0 || decide (gwStride w < rowBytes) || rc % 4 != 0
      || overlap list.1 list.2 out.1 out.2 || overlap rows.1 rows.2 out.1 out.2)
    needRanges b p q [list, rows] [out]
    let (eb, b) ← readDev m b p q map 8 .reuse
    let experts := leNat eb
    refuseIf b (experts == 0 || decide (65536 < experts))
    let (mb, b) ← readDev m b p q (map + 8) (8 * experts) .reuse
    let refs := (List.range experts).map fun x => leNat (slice mb (8 * x) 8)
    (dedup refs).foldlM (fun _ r => needRef b p r) ()
    let (cb, b) := b.engRead p q list.1 list.2
    let (ram, b) := (b.commitRange p rows.1 rows.2).cmdSpad p q.idx
    let le (x y : Choice) : Bool := decide (x.expert < y.expert) || (x.expert == y.expert && (decide (x.token < y.token) || (x.token == y.token && decide (x.choice ≤ y.choice))))
    let sorted := sortBy le (choicesOf k n cb)
    let seg := 64 + cap * exRec rowBytes
    let slotOf (c : Choice) : Nat := (sorted.filter fun y => y.expert == c.expert && y != c && le y c).length
    let kept (c : Choice) : Bool := decide (c.expert < experts) && decide (slotOf c < cap)
    let b := (sorted.filter kept).foldl (fun b c =>
      b.refWrite p q (refs.getD c.expert 0) (rank * seg + 64 + slotOf c * exRec rowBytes)
        (leBytes 4 c.token ++ leBytes 1 c.choice ++ leBytes 11 0 ++ ram.read (rc + c.token * gwStride w) rowBytes)) b
    let b := iter experts b fun b x =>
      b.refWrite p q (refs.getD x 0) (rank * seg) (leBytes 4 (sorted.filter fun c => c.expert == x && kept c).length)
    let tag := b.freshTag
    let b := b.bumpFree
    .ok (sorted.foldl (fun b c =>
      let at_ := 16 * (c.token * k + c.choice)
      let slot := if kept c then leBytes 4 (slotOf c) else (List.range 4).map fun i => Config.freeByte tag (at_ + i)
      b.engWrite p .gouge q (route + at_) (leBytes 4 c.gate ++ leBytes 2 c.expert ++ leBytes 1 (b2n (kept c)) ++ leBytes 1 0 ++ slot ++ leBytes 4 0)) b)

def exretBad (w : Nat) : Bool := gwBad w 0 [] || gwCount w == 0 || decide (4096 < gwCount w) || exKBad w || exCapBad w

/-- GEXRET (R138). A segment's count is at most cap, as R137 writes it. The source range is that of all count × cap rows, however
many records the segments hold (DESIGN CHOICE, notes/assumptions/158).
DEDUCED, notes/assumptions/52. -/
def effGexret (m : Dram) (b : Block) (p : Nat) (q : QCmd) (_ : Bool) : EffRes :=
  let w := q.w.toNat
  let (area, map, rc, word) := (q.rf 63 59, q.rf 58 54, q.rf 53 49, q.rf 48 44)
  let (n, k, cap) := (gwCount w, gwOp w, gwAux w)
  let rowBytes := bits word 16 0
  let rows := (rc, rowSpan (n * cap) (gwStride w) rowBytes)
  let seg := 64 + cap * exRec rowBytes
  runEff do
    refuseIf b (exRowBad rowBytes || gwStride w % 4 != 0 || decide (gwStride w < rowBytes) || rc % 4 != 0)
    needRanges b p q [rows] []
    let (mb, b) ← readDev m b p q map (8 * n) .reuse
    let refs := (List.range n).map fun r => leNat (slice mb (8 * r) 8)
    (dedup refs).foldlM (fun _ r => needRef b p r) ()
    let (sends, b) ← (List.range n).foldlM (fun (acc : List (Nat × Nat × Nat) × Block) r => do
      let (cb, b) ← readDev m acc.2 p q (area + r * seg) 4 .none
      let cnt := min cap (leNat cb)
      let (hs, b) ← (List.range cnt).foldlM (fun (acc : List (Nat × Nat × Nat) × Block) j => do
        let (h, b) ← readDev m acc.2 p q (area + r * seg + 64 + j * exRec rowBytes) 8 .none
        let entry := leNat (slice h 0 4) * k + leNat (slice h 4 1)
        .ok (acc.1 ++ [(refs.getD r 0, (rowBytes + 63) / 64 * 64 * entry, rc + (r * cap + j) * gwStride w)], b)) (acc.1, b)
      .ok (hs, b)) ([], b)
    let (ram, b) := (b.commitRange p rows.1 rows.2).cmdSpad p q.idx
    .ok (sends.foldl (fun b x => b.refWrite p q x.1 x.2.1 (ram.read x.2.2 rowBytes)) b)

def excombBad (w : Nat) : Bool := gwBad w 0 [(111, 96)] || gwCount w == 0 || decide (8192 < gwCount w) || exKBad w

/-- GEXCOMB (R139). Its word names no place for the scale bytes of an MX row (R42): they follow the row's elements.
DEDUCED, notes/assumptions/48. DESIGN CHOICE, notes/assumptions/53. -/
def effGexcomb (m : Dram) (b : Block) (p : Nat) (q : QCmd) (_ : Bool) : EffRes :=
  let w := q.w.toNat
  let (buf, rb, rc, word) := (q.rf 63 59, q.rf 58 54, q.rf 53 49, q.rf 48 44)
  let (n, k) := (gwCount w, gwOp w)
  let (conv, elems, src) := (bits word 31 0, bits word 48 32, bits word 52 49)
  let c := convOf conv
  let rowBytes_ := elems * (if src = 0 then 4 else 2)
  let out := rowBytes c.fmt elems + (if isMx c.fmt then elems / 32 else 0)
  let list := (rb, 16 * n * k)
  let dst := (rc, rowSpan n (gwStride w) out)
  let seed := (b.ctx (b.spd p).ctx).seed.toNat
  runEff do
    refuseIf b (convBad conv || (isMx c.fmt && elems % 32 != 0) || decide (1 < src) || exRowBad rowBytes_ || gwStride w % 4 != 0 || decide (gwStride w < out)
      || rc % 4 != 0 || overlap list.1 list.2 dst.1 dst.2)
    needRanges b p q [list] [dst]
    let (rec, b) := b.engRead p q list.1 list.2
    let b := b.cmdEvent p q 0x19 (convBlocks c 0 (n * elems))
    (List.range n).foldlM (fun b t => do
      let mine := (List.range k).filterMap fun ch =>
        let x := slice rec (16 * (t * k + ch)) 16
        if leNat (slice x 6 1) = 1 then some ({ expert := leNat (slice x 4 2), token := t, choice := ch, gate := leNat (slice x 0 4) } : Choice) else none
      let order := sortBy (fun (x y : Choice) => decide (x.expert < y.expert) || (x.expert == y.expert && decide (x.choice ≤ y.choice))) mine
      let (acc, b) ← order.foldlM (fun (acc : Option (List Nat) × Block) ch => do
        let (bs, b) ← readDev m acc.2 p q (buf + (rowBytes_ + 63) / 64 * 64 * (t * k + ch.choice)) rowBytes_ .none
        let term := (rowElems src bs).map fun y => fmul ch.gate (toF32 (decodeElem src y))
        .ok (some (match acc.1 with
          | none => term
          | some s => (List.range s.length).map fun e => fadd (s.getD e 0) (term.getD e 0)), b)) (none, b)
      let row := acc.getD (List.replicate elems 0)
      let (e, sc) := cvtRow c seed (t * elems) (row.map ofF32)
      .ok (b.engWrite p .gouge q (rc + t * gwStride w) (e ++ sc))) b

end Sys2Proof.Machine
end

