-- ==== Sys2Proof/Machine/Sampler.lean ====
section
/-!
DEFINITION. Neighbourhood sampling: GSAMPLE and GSBACK (Chapter 7).
-/
namespace Sys2Proof.Machine

/-- Table 7.1. -/
structure GraphDesc where
  raw : Nat
  weightAddr : Nat
  nbrAddr : Nat
  offsetsAddr : Nat
  numEdges : Nat
  numNodes : Nat
  stream : Bool
  weighted : Bool
  id64 : Bool
deriving DecidableEq, Repr

def graphDesc (x : Nat) : GraphDesc :=
  { raw := x, weightAddr := bits x 303 256, nbrAddr := bits x 239 192, offsetsAddr := bits x 175 128, numEdges := bits x 111 64
    numNodes := bits x 63 16, stream := bit x 2, weighted := bit x 1, id64 := bit x 0 }

def GraphDesc.idBytes (d : GraphDesc) : Nat := if d.id64 then 8 else 4
def GraphDesc.sentinel (d : GraphDesc) : Nat := 2 ^ (8 * d.idBytes) - 1
def GraphDesc.pol (d : GraphDesc) : Alloc := if d.stream then .none else .reuse

/-- The range lies in one region of Table 1.5 (R146). -/
def Block.oneRegion (b : Block) (a n : Nat) : Bool :=
  n == 0 || (match b.rangeOf a n with
    | .ok _ => true
    | .error st => st == .memoryDegraded)

/-- A breach of Table 7.1 (R146). -/
def Block.graphBad (b : Block) (d : GraphDesc) : Bool :=
  let x := d.raw
  bits x 831 304 != 0 || bits x 255 240 != 0 || bits x 191 176 != 0 || bits x 127 112 != 0 || bits x 15 3 != 0
    || d.numEdges == 0 || d.numNodes == 0 || (!d.id64 && decide (2 ^ 32 ≤ d.numNodes))
    || d.weightAddr % 4 != 0 || d.nbrAddr % d.idBytes != 0 || d.offsetsAddr % 8 != 0
    || (d.weighted == (d.weightAddr == 0))
    || !b.oneRegion d.offsetsAddr (8 * (d.numNodes + 1)) || !b.oneRegion d.nbrAddr (d.idBytes * d.numEdges)
    || (d.weighted && !b.oneRegion d.weightAddr (4 * d.numEdges))

/-- Table 7.3: fans by hop, path records, seed. -/
structure SampleParam where
  fans : List Nat
  path : Nat
  seed : Nat
deriving DecidableEq, Repr

def sampleParam (x : Nat) : SampleParam :=
  { fans := [bits x 135 128, bits x 143 136, bits x 151 144, bits x 159 152], path := bits x 111 64, seed := bits x 63 0 }

/-- A breach of Table 7.3 for a number of hops. -/
def sampleParamBad (x hops : Nat) : Bool :=
  let d := sampleParam x
  bits x 511 160 != 0 || bits x 127 112 != 0 || d.path % 16 != 0
    || (List.range 4).any fun h => let f := d.fans.getD h 0; if h < hops then f == 0 || decide (64 < f) else f != 0

/-- L_1, L_2, … for a number of seeds (R147). -/
def frontierLens (n : Nat) : List Nat → List Nat
  | [] => []
  | f :: rest => n * f :: frontierLens (n * f) rest

/-- A sampled neighbour: edge position, identifier and weight. -/
structure Pick where
  pos : Nat
  node : Nat
  weight : Nat
deriving DecidableEq, Repr

/-- Counts of a sample (R144, R148, R151). -/
structure SampleCounts where
  skip : Nat := 0
  offErr : Nat := 0
  drop : Nat := 0
  keys : Nat := 0
  blocks : Nat := 0
deriving DecidableEq, Repr

/-- An FP32 weight that is positive and finite (R148). -/
def eligible (x : Nat) : Bool :=
  match ofF32 x with
  | .fin false m _ _ => m != 0
  | _ => false

/-- The key of edge position `p` (R149): compared as an integer on an unweighted graph, as FP32 on a weighted one. -/
def sampleKey (weighted : Bool) (seed v0 draw hop p w : Nat) : Nat :=
  let r := grainWord (seed ^^^ v0) p (draw * 4 + (hop - 1)) 2
  if weighted then fsub (log2Bits w) (gumbelB r) else r

/-- R150: the higher key, or the lower position among equal keys. -/
def keyAbove (weighted : Bool) (x y : Nat × Pick) : Bool :=
  if weighted then f32Lt y.1 x.1 || (f32Eq x.1 y.1 && decide (x.2.pos < y.2.pos))
  else decide (y.1 < x.1) || (x.1 == y.1 && decide (x.2.pos < y.2.pos))

/-- The fan highest-ranked neighbours, in ascending edge position; all of them when there are no more than `fan`. -/
def choosePicks (weighted : Bool) (key : Pick → Nat) (fan : Nat) (l : List Pick) : List Pick :=
  if l.length ≤ fan then l
  else
    let top := ((sortBy (keyAbove weighted) (l.map fun x => (key x, x))).take fan).map (·.2)
    sortBy (fun (x y : Pick) => decide (x.pos ≤ y.pos)) top

/-- The eligible neighbours of node `v`, in ascending edge position (R144, R148). -/
def neighbours (m : Dram) (b : Block) (p : Nat) (q : QCmd) (d : GraphDesc) (v : Nat) (c : SampleCounts) : Eff (List Pick × SampleCounts × Block) := do
  let (ob, b) ← readDev m b p q (d.offsetsAddr + 8 * v) 16 d.pol
  let (lo, hi) := (leNat (slice ob 0 8), leNat (slice ob 8 8))
  if hi < lo ∨ d.numEdges < hi then .ok ([], { c with offErr := c.offErr + 1 }, b)
  else
    let n := hi - lo
    let (nb, b) ← readDev m b p q (d.nbrAddr + d.idBytes * lo) (d.idBytes * n) d.pol
    let (wb, b) ← if d.weighted then readDev m b p q (d.weightAddr + 4 * lo) (4 * n) d.pol else .ok ([], b)
    let all := (List.range n).map fun k =>
      ({ pos := lo + k, node := leNat (slice nb (d.idBytes * k) d.idBytes)
         weight := if d.weighted then leNat (slice wb (4 * k) 4) else 0x3F800000 } : Pick)
    let ok := all.filter fun x => eligible x.weight
    .ok (ok, { c with skip := c.skip + (all.length - ok.length) }, b)

/-- A parent slot: its identifier, whether the sampler left it empty, and the seed of its tree. -/
structure Parent where
  node : Nat
  empty : Bool
  seed : Nat
deriving DecidableEq, Repr

/-- The children of one parent at hop `h` (R147, R148, R151); an empty slot is none. -/
def sampleParent (m : Dram) (b : Block) (p : Nat) (q : QCmd) (d : GraphDesc) (x : SampleParam) (draw h fan : Nat) (par : Parent)
    (c : SampleCounts) : Eff (List (Option Pick) × SampleCounts × Block) :=
  if par.empty then .ok (List.replicate fan none, c, b)
  else if d.numNodes ≤ par.node then .ok (List.replicate fan none, { c with drop := c.drop + 1 }, b)
  else do
    let (l, c, b) ← neighbours m b p q d par.node c
    let picks := choosePicks d.weighted (fun k => sampleKey d.weighted x.seed par.seed draw h k.pos k.weight) fan l
    let drawn := if fan < l.length then l else []
    .ok (picks.map some ++ List.replicate (fan - picks.length) none,
      { c with keys := c.keys + drawn.length, blocks := c.blocks + (dedup (drawn.map fun k => k.pos / 4)).length }, b)

/-- The 16 B path record of a slot (R152). -/
def pathRecord (parent : Nat) (x : Option Pick) : List Byte :=
  leBytes 4 parent ++ (match x with
    | some k => leBytes 4 k.weight ++ leBytes 8 k.pos
    | none => leBytes 4 0 ++ leBytes 8 (2 ^ 64 - 1))

/-- One write of a sample, made now or kept for later (R153). -/
def sampleWrite (b : Block) (m : Dram) (p : Nat) (q : QCmd) (x : LateWrite) : Eff Block :=
  match x with
  | .spad a bs => .ok (b.engWrite p .gouge q a bs)
  | .mem a bs =>
    match b.engineStore m p .gouge false a bs with
    | (.success, b) => .ok b
    | (st, b) => .error (.fault b st)

/-- What a sample has gathered so far: the next hop's parents, its counts, and the writes it keeps while it holds. -/
structure Sampling where
  parents : List Parent := []
  counts : SampleCounts := {}
  late : List LateWrite := []

/-- One hop: the frontier and its path records are written, and its slots are the next hop's parents (R147, R152).
DEDUCED, notes/assumptions/55. -/
def sampleHop (m : Dram) (b : Block) (p : Nat) (q : QCmd) (held : Bool) (d : GraphDesc) (x : SampleParam) (draw h fan front path : Nat)
    (z : Sampling) : Eff (Sampling × Block) :=
  (List.range z.parents.length).foldlM (fun (acc : Sampling × Block) j => do
    let par := z.parents.getD j { node := 0, empty := true, seed := 0 }
    let (kids, c, b) ← sampleParent m acc.2 p q d x draw h fan par acc.1.counts
    let ids := kids.map fun k => (k.map (·.node)).getD d.sentinel
    let ws := [LateWrite.spad (front + d.idBytes * (j * fan)) (ids.flatMap (leBytes d.idBytes ·))]
      ++ (if x.path = 0 then [] else [.mem (path + 16 * (j * fan)) (kids.flatMap (pathRecord j))])
    let b ← if held then .ok b else ws.foldlM (fun b x => sampleWrite b m p q x) b
    let next := kids.map fun k => ({ node := (k.map (·.node)).getD d.sentinel, empty := k.isNone, seed := par.seed } : Parent)
    .ok ({ parents := acc.1.parents ++ next, counts := c, late := if held then acc.1.late ++ ws else [] }, b))
    ({ z with parents := [] }, b)

/-- The writes of a sample that held are made once it is confirmed (R63, R153). -/
def Block.sampleConfirmed (m : Dram) (b : Block) (p : Nat) (q : QCmd) (l : List LateWrite) : Block :=
  let s := (b.spd p).asOf q.idx
  let front := l.filterMap fun x => match x with
    | .spad a bs => some (s.writeOk s.ctx (ownerOf .gouge) a bs.length)
    | .mem _ _ => none
  let b := b.modSpd p fun s => { s with gouge := none }
  match firstBad front with
  | some st => b.cmdFault p .gouge q st
  | none =>
    match (l.foldlM (fun b x => sampleWrite b m p q x) b : Eff Block) with
    | .ok b => b.markDone p .gouge q.idx
    | .error (.fault b st) => b.cmdFault p .gouge q st
    | .error _ => b

def gsampleBad (w : Nat) : Bool := gwBad w 0 [(95, 64), (43, 40)] || gwCount w == 0

/-- GSAMPLE (R145 to R153): the tree, hop by hop. While it is speculative it reads and computes, and it holds its writes where it has
path records or its frontier lies outside the prefetch region; a fault that it meets beyond them is met again when it is confirmed.
DEDUCED, notes/assumptions/54. DEDUCED, notes/assumptions/55. -/
def effGsample (m : Dram) (b0 : Block) (p : Nat) (q : QCmd) (spec : Bool) : EffRes :=
  let w := q.w.toNat
  let (ga, rb, rc, rd) := (q.rf 63 59, q.rf 58 54, q.rf 53 49, q.rf 48 44)
  let (n, hops, draw) := (gwCount w, bits w 111 110 + 1, bits w 109 96)
  let b := b0
  let r : Eff (Bool × List LateWrite × Block) := do
    refuseIf b (rd % 64 != 0 || !inSpad rd 64)
    needRanges b p q [(rd, 64)] []
    let (pb, b) := b.engRead p q rd 64
    let x := sampleParam (leNat pb)
    let (y, b) ← readDesc m b p q ga
    let d := graphDesc y
    let lens := frontierLens n (x.fans.take hops)
    let total := lens.sum
    let seeds := (rb, d.idBytes * n)
    let front := (rc, d.idBytes * total)
    refuseIf b (b.graphBad d || sampleParamBad (leNat pb) hops || rb % d.idBytes != 0 || rc % d.idBytes != 0 || lens.any (fun l => decide (65535 < l))
      || (x.path != 0 && !b.oneRegion x.path (16 * total))
      || overlap seeds.1 seeds.2 front.1 front.2 || overlap seeds.1 seeds.2 rd 64 || overlap front.1 front.2 rd 64)
    let held ← gatherRanges b p q [seeds] [front]
    let held := held || (spec && x.path != 0)
    let (sb, b) := b.engRead p q seeds.1 seeds.2
    let parents := (List.range n).map fun i =>
      let v := leNat (slice sb (d.idBytes * i) d.idBytes)
      ({ node := v, empty := false, seed := v } : Parent)
    let run : Eff (Sampling × Block) := (List.range hops).foldlM (fun (acc : Sampling × Block) h =>
      let before := (lens.take h).sum
      sampleHop m acc.2 p q held d x draw (h + 1) (x.fans.getD h 0) (rc + d.idBytes * before) (x.path + 16 * before) acc.1) ({ parents }, b)
    let (z, b) ← match run with
      | .error (.fault b st) => .error (if held then .hold else .fault b st)
      | r => r
    let c := z.counts
    let add (off v : Nat) : List Effect := if v = 0 then [] else [.memSide .add 0xD none (ga + off) (leBytes 8 v)]
    .ok (held, z.late,
      ((b.cmdEvent p q 0x1A c.keys).cmdEvent p q 0x19 c.blocks).stageFor m p .gouge q (add 104 c.drop ++ add 112 c.offErr ++ add 120 c.skip))
  match r with
  | .error r => r
  | .ok (false, _, b) => .ok b
  | .ok (true, l, b) => .run (b.modSpd p fun s => { s with gouge := some (.writes q.idx l) })

def gsbackBad (w : Nat) : Bool := gwBad w 3 [(111, 96)] || gwCount w == 0 || decide (1 < gwOp w)

/-- GSBACK (R154). Bits of rd above Table 7.2's fields are ignored; path records are read without allocation, parent by parent, and an
address that cannot be read faults there, after the parents before it are written.
DESIGN CHOICE, notes/assumptions/159. -/
def effGsback (m : Dram) (b : Block) (p : Nat) (q : QCmd) (_ : Bool) : EffRes :=
  let w := q.w.toNat
  let (ra, rb, rc, word) := (q.rf 63 59, q.rf 58 54, q.rf 53 49, q.rf 48 44)
  let (n, stride, fmt) := (gwCount w, gwStride w, gwOp w)
  let (elems, fan) := (bits word 15 0, bits word 23 16)
  let len := elems * (elemBits fmt / 8)
  let kids := (rb, rowSpan (n * fan) stride len)
  let dst := (rc, rowSpan n stride len)
  runEff do
    refuseIf b (elems == 0 || decide (16384 < elems) || fan == 0 || decide (64 < fan) || decide (65535 < n * fan) || stride % 4 != 0
      || decide (stride < len) || rb % 4 != 0 || rc % 4 != 0 || overlap kids.1 kids.2 dst.1 dst.2)
    needRanges b p q (if bit w 37 then [kids, dst] else [kids]) [dst]
    let (ram, b) := ((b.commitRange p kids.1 kids.2).commitRange p dst.1 dst.2).cmdSpad p q.idx
    let row (a : Nat) : List Nat := (rowElems fmt (ram.read a len)).take elems |>.map fun v => toF32 (decodeElem fmt v)
    (List.range n).foldlM (fun b k => do
      let (rec, b) ← readDev m b p q (ra + 16 * (k * fan)) (16 * fan) .none
      let start := if bit w 37 then some (row (rc + k * stride)) else none
      let s := (List.range fan).foldl (fun (acc : Option (List Nat)) j =>
        let x := slice rec (16 * j) 16
        if leNat (slice x 8 8) = 2 ^ 64 - 1 then acc
        else
          let g := row (rb + (k * fan + j) * stride)
          let t := if bit w 36 then g.map fun v => fmul (leNat (slice x 4 4)) v else g
          match acc with
          | none => some t
          | some s => some ((List.range s.length).map fun e => fadd (s.getD e 0) (t.getD e 0))) start
      let out := s.getD (List.replicate elems 0)
      .ok (b.engWrite p .gouge q (rc + k * stride)
        (packRow fmt (out.map fun v => if fmt = 1 then encodeF bf16 .rne false (ofF32 v) else v)))) b

end Sys2Proof.Machine
end

