-- ==== Sys2Proof/Machine/LiveTables.lean ====
section
/-!
DEFINITION. Versioned tables: staged flips, advances, pins and the epoch register (R156 to R168).
-/
namespace Sys2Proof.Machine

/-! ### VSTAGE -/

def vstageBad (w : Nat) : Bool := gwBad w 0 [(111, 96), (48, 44), (43, 40)] || gwCount w == 0

/-- VSTAGE: one flip per unique row of a batch, the row at its highest position (R162). -/
def effVstage (m : Dram) (b : Block) (p : Nat) (q : QCmd) (_ : Bool) : EffRes :=
  let w := q.w.toNat
  let (da, rb, rc) := (q.rf 63 59, q.rf 58 54, q.rf 53 49)
  let n := gwCount w
  runEff do
    let (x, b) ← readDesc m b p q da
    let d := tableDesc x
    refuseIf b (b.tableBad d || !d.versioned || d.remote || gwStride w % 4 != 0 || decide (gwStride w < d.rowBytes) || rc % 4 != 0
      || rb % d.idxBytes != 0)
    let rows := (rc, rowSpan n (gwStride w) d.rowBytes)
    needRanges b p q [(rb, n * d.idxBytes), rows] []
    let (batches, b) := b.allBatches p q rb d.idxBytes n d.numRows
    let (ram, b) := (b.commitRange p rows.1 rows.2).cmdSpad p q.idx
    let flips := batches.flatMap fun z => z.rows.map fun r =>
      Effect.flip da r.1 (ram.read (rc + r.2.getLastD 0 * gwStride w) d.rowBytes)
    let missing := (batches.map fun z => z.missing.length).sum
    let oor := (batches.map fun z => z.oor.length).sum
    .ok (((b.cmdEvent p q 0x10 n).cmdEvent p q 0x12 (missing + oor)).stageFor m p .gouge q (flips ++ countEffects da missing oor))

/-- Some byte of a range has a request that its channel controller has not accepted. -/
def Block.unaccepted (b : Block) (a n : Nat) : Bool :=
  (linesOf a n).any fun l => (b.chan (b.chanOf (64 * l))).transit.any fun q => q.line == l

/-- The tag store of waiting flip `k` is issued once its slot write is accepted (R162). -/
def Block.rowTagStore (m : Dram) (b : Block) (k : Nat) : Block :=
  match b.tagStores[k]? with
  | none => b
  | some t =>
    if b.unaccepted t.slotAddr t.slotLen ∨ (b.tagStores.take k).any (fun u => u.tagAddr == t.tagAddr) then b
    else ({ b with tagStores := b.tagStores.eraseIdx k }).tileMemSide m (tileOf t.spindle) .store 0xD t.src t.tagAddr (leBytes 8 t.tag.toNat)

def execRowTagStore (k : Nat) (s : State) : Host.Outcome State Fault Refusal := nextOf s (s.blk.orWait fun b => b.rowTagStore s.dram k)

/-! ### VADVANCE -/

def vadvanceBad (w : Nat) : Bool := gwBad w 1 [(127, 112), (111, 96), (95, 64), (53, 49), (48, 44), (43, 40)]

/-- The descriptor as the channel controllers hold it (R158). -/
def descNow (m : Dram) (b : Block) (p da : Nat) : Eff (TableDesc × Block) :=
  let (bad, bs, b) := b.gougeRead m p da 128
  if bad then .error (.fault b .poisonedTarget) else .ok (tableDesc (leNat bs), b)

/-- VADVANCE, steps 1 and 2 (R163). -/
def effVadvance (m : Dram) (b : Block) (p : Nat) (q : QCmd) (_ : Bool) : EffRes :=
  let (da, t) := (q.rf 63 59, q.rf 58 54)
  let force := bit q.w.toNat 36
  let r : Eff (Bool × Block) := do
    let (x, b) ← readDesc m b p q da
    let d := tableDesc x
    refuseIf b (b.tableBad d || !d.versioned || d.remote)
    let (d, b) ← descNow m b p da
    if t ≤ d.epoch then .ok (false, b)
    else
      refuseIf b (decide (d.epoch + 1 < t) || decide (2 ^ 63 - 1 < t)
        || (b.spd p).regsns.any fun r => r.descAddr == da || (!r.remote && r.tableId == d.tableId))
      refuseIf b ((d.holdLost && !force) || b.pins.any fun x => x.home.isNone && x.tableId == d.tableId && x.epoch + 1 == d.epoch) .epochHeld
      .ok (true, b)
  match r with
  | .error r => r
  | .ok (false, b) => .ok b
  | .ok (true, b) => .run (b.modSpd p fun s => { s with gouge := some (.advance q.idx da t force) })

/-- Step 5: hold-list records whose row is now reclaimable are flipped against the new epoch, the others kept in order. A line found
poisoned stops the walk there (R120, R239).
DEDUCED, notes/assumptions/62. -/
def walkHold (m : Dram) (b : Block) (p : Nat) (src : ReqSrc) (d : TableDesc) (e : Nat) : Eff Block :=
  if d.holdCap = 0 then .ok b
  else do
    let read (b : Block) (a n : Nat) : Eff (List Byte × Block) :=
      let (bad, bs, b) := b.gougeRead m p a n
      if bad then .error (.fault b .poisonedTarget) else .ok (bs, b)
    let (cb, b) ← read b d.holdAddr 8
    let (recs, b) ← (List.range (min (leNat cb) d.holdCap)).foldlM (fun (acc : List (List Byte) × Block) j => do
      let (r, b) ← read acc.2 (d.holdAddr + 64 + j * d.recBytes) d.recBytes
      .ok (acc.1 ++ [r], b)) ([], b)
    let (kept, b) ← recs.foldlM (fun (acc : List (List Byte) × Block) r => do
      let row := leNat (slice r 0 8)
      let (bad, re, sel, b) := tagNow m acc.2 p d row
      refuseIf b bad .poisonedTarget
      if b.reclaimable d e re then .ok (acc.1, b.writeFlip m p src d e row sel (slice r 16 d.rowBytes)) else .ok (acc.1 ++ [r], b)) ([], b)
    let t := tileOf p
    let b := iter kept.length b fun b j => b.tileMemSide m t .store d.fmt src (d.holdAddr + 64 + j * d.recBytes) (kept.getD j [])
    .ok (b.tileMemSide m t .store 0xD src d.holdAddr (leBytes 8 kept.length))

/-- Steps 3 to 5: once the readers of the epoch before the last are gone, the table epoch is stored (R163). -/
def Block.vadvancePublish (m : Dram) (b : Block) (p : Nat) : Block :=
  match (b.spd p).gouge with
  | some (.advance idx da t force) =>
    let stop (b : Block) (q : QCmd) (st : Status) : Block := (b.modSpd p fun s => { s with gouge := none }).cmdFault p .gouge q st
    match (b.spd p).gougeQ.find? (fun q => q.idx == idx), descNow m b p da with
    | some q, .error (.fault b st) => stop b q st
    | some q, .ok (d, b) =>
      let finish (b : Block) : Block := (b.modSpd p fun s => { s with gouge := none }).markDone p .gouge idx
      if t ≤ d.epoch then finish b
      else if b.readerCount d.tableId (d.epoch + 1) ≠ 0 then b
      else
        let src := b.memSrc p
        let tile := tileOf p
        let b := b.tileMemSide m tile .store 0xD src (da + 104) (leBytes 8 t)
        let b := if force then b.tileMemSide m tile .store 0 src (da + 80) (slice (leBytes 128 (setBits d.raw 669 669 0)) 80 4) else b
        let b := [0, 1, 2, 3].foldl (fun b k => b.dcRange m k 1 da 128) b
        match walkHold m b p src d t with
        | .ok b => finish b
        | .error (.fault b st) => stop b q st
        | .error _ => b
    | _, _ => b
  | _ => b

def execVadvancePublish (p : Spd) (s : State) : Host.Outcome State Fault Refusal :=
  nextOf s (if s.blk.clocked then s.blk.orWait fun b => b.vadvancePublish s.dram p else s.blk)

/-! ### VPIN and VEPOCH -/

def vpinBad (w : Nat) : Bool := gwBad w 0 [(127, 112), (111, 100), (95, 64), (58, 54), (48, 44)] || decide (1 < gwOp w)

/-- VPIN (R165): a pin counts as a reader of its parity on the table's home device. A peer's table takes one exchange with the peer,
and the epoch it reports is a free value.
DESIGN CHOICE, notes/assumptions/12. DEDUCED, notes/assumptions/61. -/
def effVpin (m : Dram) (b : Block) (p : Nat) (q : QCmd) (_ : Bool) : EffRes :=
  let w := q.w.toNat
  let (da, rc, slot) := (q.rf 63 59, q.rf 53 49, gwAux w)
  let c := (b.spd p).ctx
  let r : Eff (Bool × Block) := do
    let (x, b) ← readDesc m b p q da
    let d := tableDesc x
    refuseIf b (b.tableBad d || !d.versioned)
    if gwOp w = 0 then needRanges b p q [] [(rc, 8)]
    if d.remote then needPeer b p d.peer
    let home := b.homeOf p d
    let held := b.pinOf c slot home
    refuseIf b (held.any fun x => x.desc != da)
    match home with
    | some peer =>
      let new : Pin := { owner := .local c, slot, desc := da, tableId := d.tableId, epoch := (Config.peerEpoch b.freeCtr).toNat, home }
      match b.bumpFree.askPeer p q.idx peer 0 0 with
      | none => .error (.fault b .peerLost)
      | some (xfer, b) => .ok (true, b.modSpd p fun s => { s with gouge := some (.pin q.idx xfer (held.getD new) (gwOp w != 0) rc) })
    | none =>
      let put (b : Block) (e : Nat) : Block := b.engWrite p .gouge q rc (leBytes 8 e)
      match held with
      | some pin =>
        if gwOp w = 0 then .ok (false, put b pin.epoch)
        else .ok (false, { b with pins := b.pins.filter (· ≠ pin) }.subReader pin.tableId pin.epoch)
      | none =>
        if gwOp w ≠ 0 then .ok (false, b)
        else do
          let (d, b) ← descNow m b p (b.homeDesc da d)
          if 2 ^ 32 - 1 ≤ b.readerCount d.tableId d.epoch then .error .hold
          else
            let pin : Pin := { owner := .local c, slot, desc := da, tableId := d.tableId, epoch := d.epoch }
            .ok (false, put ({ b with pins := b.pins ++ [pin] }.addReader d.tableId d.epoch) d.epoch)
  match r with
  | .error r => r
  | .ok (true, b) => .run b
  | .ok (false, b) => .ok b

def vepochBad (w : Nat) : Bool := gwBad w 1 [(127, 112), (111, 96), (95, 64), (63, 59), (58, 54), (48, 44), (43, 40)]

/-- VEPOCH (R167). -/
def effVepoch (_ : Dram) (b : Block) (p : Nat) (q : QCmd) (_ : Bool) : EffRes :=
  let rc := q.rf 53 49
  runEff do
    needRanges b p q [] [(rc, 8)]
    let b := b.engWrite p .gouge q rc (leBytes 8 (b.spd p).epochObs)
    .ok (if bit q.w.toNat 36 then b.modSpd p fun s => { s with epochObs := 0 } else b)

end Sys2Proof.Machine
end

