-- ==== Sys2Proof/Machine/OpTable.lean ====
section
/-!
DEFINITION. The engine opcodes (Table 3.1 and the tables of the engines' chapters): each with its engine, its checks and
its effect.
-/
namespace Sys2Proof.Machine

def noRegs (_ : Nat) : List Nat := []

/-- FTILE's own word (Table 9.3). -/
def ftileWordBad (w : Nat) : Bool :=
  bits w 62 60 != 0 || bits w 55 32 % 128 != 0 || (ftMarkKind w == 2 && ftMarkAddr w != 0)
    || (!ftHash w && (ftHacc w != 0 || ftPart w != 0))

def opMtile : OpSpec := { eng := .matrix, regs := noRegs, bad := tileWordBad, eff := effMtile }
def opRtile : OpSpec := { eng := .matrix, mayBeSpec := true, regs := noRegs, bad := tileWordBad, eff := effRtile }
def opFtile : OpSpec := { eng := .matrix, regs := noRegs, bad := ftileWordBad, eff := effFtile }
def opHinit : OpSpec := { eng := .matrix, regs := hwRegs, bad := fun w => hashWordBad w false, eff := effHinit }
def opHmerge : OpSpec := { eng := .matrix, regs := hwRegs, bad := fun w => hashWordBad w false, eff := effHmerge }
def opHdrain : OpSpec := { eng := .matrix, regs := hwRegs, bad := fun w => hashWordBad w true, eff := effHdrain }
def opVadd : OpSpec := { eng := .vector, mayBeSpec := true, regs := vwRegs, bad := laneBad 2, eff := effLane .add 2 }
def opVsub : OpSpec := { eng := .vector, mayBeSpec := true, regs := vwRegs, bad := laneBad 2, eff := effLane .sub 2 }
def opVmul : OpSpec := { eng := .vector, mayBeSpec := true, regs := vwRegs, bad := laneBad 2, eff := effLane .mul 2 }
def opVfma : OpSpec := { eng := .vector, mayBeSpec := true, regs := vwRegs, bad := laneBad 3, eff := effLane .fma 3 }
def opVdiv : OpSpec := { eng := .vector, mayBeSpec := true, regs := vwRegs, bad := laneBad 2, eff := effLane .div 2 }
def opVsqrt : OpSpec := { eng := .vector, mayBeSpec := true, regs := vwRegs, bad := laneBad 1, eff := effLane .sqrt 1 }
def opVexp2 : OpSpec := { eng := .vector, mayBeSpec := true, regs := vwRegs, bad := laneBad 1, eff := effLane .exp2 1 }
def opVlog2 : OpSpec := { eng := .vector, mayBeSpec := true, regs := vwRegs, bad := laneBad 1, eff := effLane .log2 1 }
def opVmin : OpSpec := { eng := .vector, mayBeSpec := true, regs := vwRegs, bad := laneBad 2, eff := effLane .min 2 }
def opVmax : OpSpec := { eng := .vector, mayBeSpec := true, regs := vwRegs, bad := laneBad 2, eff := effLane .max 2 }
def opVcvt : OpSpec := { eng := .vector, mayBeSpec := true, regs := vwRegs, bad := cvtBad, eff := effCvt }
def opVrowsum : OpSpec := { eng := .vector, mayBeSpec := true, regs := vwRegs, bad := rowOpBad, eff := effRow 4 rowSumBytes }
def opVrowmax : OpSpec := { eng := .vector, mayBeSpec := true, regs := vwRegs, bad := rowOpBad, eff := effRow 4 rowMaxBytes }
def opVrowmin : OpSpec := { eng := .vector, mayBeSpec := true, regs := vwRegs, bad := rowOpBad, eff := effRow 4 rowMinBytes }
def opVrowargmax : OpSpec := { eng := .vector, mayBeSpec := true, regs := vwRegs, bad := rowOpBad, eff := effRow 8 rowArgmaxBytes }
def opVrand : OpSpec := { eng := .vector, mayBeSpec := true, regs := vwRegs, bad := drawWordBad, eff := effDraw id }
def opVunif : OpSpec := { eng := .vector, mayBeSpec := true, regs := vwRegs, bad := drawWordBad, eff := effDraw unifOf }
def opVsmax : OpSpec := { eng := .vector, mayBeSpec := true, regs := vwRegs, bad := sampWordBad .smax, eff := effSamp .smax }
def opVssum : OpSpec := { eng := .vector, mayBeSpec := true, regs := vwRegs, bad := sampWordBad .ssum, eff := effSamp .ssum }
def opVsfin : OpSpec := { eng := .vector, mayBeSpec := true, regs := vwRegs, bad := sampWordBad .sfin, eff := effSamp .sfin }
def opVsscore : OpSpec := { eng := .vector, mayBeSpec := true, regs := vwRegs, bad := sampWordBad .sscore, eff := effSamp .sscore }
def opVmktile : OpSpec := { eng := .vector, mayBeSpec := true, regs := vwRegs, bad := vmkTileBad, eff := effVmkTile false }
def opVmktilea : OpSpec := { eng := .vector, mayBeSpec := true, regs := vwRegs, bad := vmkTileBad, eff := effVmkTile true }
def opVmkrow : OpSpec := { eng := .vector, mayBeSpec := true, regs := vwRegs, bad := vmkTileBad, eff := effVmkRow false }
def opVmkrowa : OpSpec := { eng := .vector, mayBeSpec := true, regs := vwRegs, bad := vmkTileBad, eff := effVmkRow true }
def opVmktopk : OpSpec := { eng := .vector, mayBeSpec := true, regs := vwRegs, bad := vmkTopkBad, eff := effVmkTopk }
def opVmklist : OpSpec := { eng := .vector, mayBeSpec := true, regs := vwRegs, bad := vmkListBad, eff := effVmkList }
def opVmkor : OpSpec := { eng := .vector, mayBeSpec := true, regs := vwRegs, bad := vmkOrBad, eff := effVmkOr }
def opVmkclr : OpSpec := { eng := .vector, mayBeSpec := true, regs := vwRegs, bad := vmkClrBad, eff := effVmkClr }
def opLd : OpSpec := { eng := .load, credit := true, mayBeSpec := true, regs := ldRegs, bad := ldBad, eff := effLd }
def opLdt : OpSpec := { eng := .load, credit := true, mayBeSpec := true, regs := noRegs, bad := tileWordBad, eff := effLdt }
def opHalloc : OpSpec := { eng := .load, regs := noRegs, bad := halBad, eff := effHalloc }
def opHfreeLoad : OpSpec := { eng := .load, regs := noRegs, bad := hfreeBad, eff := effHfree .load }
def opKload : OpSpec := { eng := .load, credit := true, mayBeSpec := true, regs := klRegs, bad := klBad, eff := effKload }
def opKget : OpSpec := { eng := .load, credit := true, regs := kxRegs, bad := kgetBad, eff := effKget }
def opSt : OpSpec := { eng := .store, regs := stRegs, bad := stBad, eff := effSt }
def opHfreeStore : OpSpec := { eng := .store, regs := noRegs, bad := hfreeBad, eff := effHfree .store }
def opDcmaint : OpSpec := { eng := .store, regs := dcRegs, bad := dcBad, eff := effDcmaint }
def opKsave : OpSpec := { eng := .store, regs := ksRegs, bad := ksBad, eff := effKsave }
def opRpush : OpSpec := { eng := .store, regs := rpRegs, bad := rpBad, eff := effRpush }
def opKput : OpSpec := { eng := .store, regs := kxRegs, bad := kputBad, eff := effKput }
def opKchain : OpSpec := { eng := .store, regs := noRegs, bad := kchainBad, eff := effKchain }
def opGgather : OpSpec := { eng := .gouge, mayBeSpec := true, regs := gwRegs, bad := gatherBad false, eff := effGather false }
def opGscatter : OpSpec := { eng := .gouge, regs := gwRegs, bad := scatterBad, eff := effGscatter }
def opGsettle : OpSpec := { eng := .gouge, regs := gwRegs, bad := settleBad, eff := effGsettle }
def opGburl : OpSpec := { eng := .gouge, regs := gwRegs, bad := burlBad, eff := effGburl }
def opGhfree : OpSpec := { eng := .gouge, regs := noRegs, bad := hfreeBad, eff := effHfree .gouge }
def opGexdisp : OpSpec := { eng := .gouge, regs := gwRegs, bad := exdispBad, eff := effGexdisp }
def opGexret : OpSpec := { eng := .gouge, regs := gwRegs, bad := exretBad, eff := effGexret }
def opGexcomb : OpSpec := { eng := .gouge, regs := gwRegs, bad := excombBad, eff := effGexcomb }
def opGsample : OpSpec := { eng := .gouge, mayBeSpec := true, regs := gwRegs, bad := gsampleBad, eff := effGsample }
def opGsback : OpSpec := { eng := .gouge, regs := gwRegs, bad := gsbackBad, eff := effGsback }
def opVstage : OpSpec := { eng := .gouge, regs := gwRegs, bad := vstageBad, eff := effVstage }
def opVadvance : OpSpec := { eng := .gouge, regs := gwRegs, bad := vadvanceBad, eff := effVadvance }
def opVpin : OpSpec := { eng := .gouge, regs := gwRegs, bad := vpinBad, eff := effVpin }
def opVread : OpSpec := { eng := .gouge, mayBeSpec := true, regs := gwRegs, bad := gatherBad true, eff := effGather true }
def opVepoch : OpSpec := { eng := .gouge, regs := gwRegs, bad := vepochBad, eff := effVepoch }

/-- The operation of an opcode; none where it is reserved or a sequencer word's. -/
def opSpec (op : Nat) : Option OpSpec :=
  match op with
  | 0x40 => some opMtile
  | 0x48 => some opRtile
  | 0x49 => some opFtile
  | 0x4A => some opHinit
  | 0x4B => some opHmerge
  | 0x4C => some opHdrain
  | 0x60 => some opVadd
  | 0x61 => some opVsub
  | 0x62 => some opVmul
  | 0x63 => some opVfma
  | 0x64 => some opVdiv
  | 0x65 => some opVsqrt
  | 0x66 => some opVexp2
  | 0x67 => some opVlog2
  | 0x68 => some opVmin
  | 0x69 => some opVmax
  | 0x6A => some opVcvt
  | 0x70 => some opVrowsum
  | 0x71 => some opVrowmax
  | 0x72 => some opVrowmin
  | 0x73 => some opVrowargmax
  | 0x78 => some opVrand
  | 0x79 => some opVunif
  | 0x7A => some opVsmax
  | 0x7B => some opVssum
  | 0x7C => some opVsfin
  | 0x7D => some opVsscore
  | 0x80 => some opVmktile
  | 0x81 => some opVmktilea
  | 0x82 => some opVmkrow
  | 0x83 => some opVmkrowa
  | 0x84 => some opVmktopk
  | 0x85 => some opVmklist
  | 0x86 => some opVmkor
  | 0x87 => some opVmkclr
  | 0xA0 => some opLd
  | 0xA1 => some opLdt
  | 0xA2 => some opHalloc
  | 0xA3 => some opHfreeLoad
  | 0xA4 => some opKload
  | 0xA5 => some opKget
  | 0xC0 => some opSt
  | 0xC1 => some opHfreeStore
  | 0xC2 => some opDcmaint
  | 0xC3 => some opKsave
  | 0xC4 => some opRpush
  | 0xC5 => some opKput
  | 0xC6 => some opKchain
  | 0xE0 => some opGgather
  | 0xE1 => some opGscatter
  | 0xE2 => some opGsettle
  | 0xE3 => some opGburl
  | 0xE4 => some opGhfree
  | 0xE5 => some opGexdisp
  | 0xE6 => some opGexret
  | 0xE7 => some opGexcomb
  | 0xE8 => some opGsample
  | 0xE9 => some opGsback
  | 0xF0 => some opVstage
  | 0xF1 => some opVadvance
  | 0xF2 => some opVpin
  | 0xF3 => some opVread
  | 0xF4 => some opVepoch
  | _ => none

end Sys2Proof.Machine
end

