-- ==== Sys2Proof/Machine/Engine.lean ====
section
/-!
DEFINITION. The engines' queues at work: issue, beginning, completion, confirmation and squash (R53 to R67), retirement
(R68, R259), and halting (R70).
-/
namespace Sys2Proof.Machine

/-! ### Beginning -/

/-- A rel = 1 command releases one load credit (R56). -/
def Block.creditRelease (b : Block) (p : Nat) : Block :=
  b.modSpd p fun s => if s.credit = 0 then { s with creditUnderflow := true } else { s with credit := s.credit - 1 }

/-- What a command takes as it begins: its wait flag, and a load credit (R56, R57). -/
def Block.takeBegin (b : Block) (p : Nat) (o : OpSpec) (q : QCmd) : Block :=
  let w := q.w.toNat
  let b : Block := match hdrWait w with
    | some k => b.modSpd p fun s => s.modFlag k LocalFlag.take
    | none => b
  let b := if o.credit then b.modSpd p fun s => { s with credit := s.credit + 1 } else b
  b.modCmd p o.eng q.idx fun q => { q with begun := true, flagTaken := (hdrWait w).isSome, credit := o.credit }

/-- The head command that has not begun, or that has begun and waits to go on, when every command before it is carried out. -/
def nextToBegin (l : List QCmd) : Option QCmd :=
  match l with
  | [] => none
  | q :: rest => if !q.begun || (q.resume && !q.done) then some q else if q.done then nextToBegin rest else none

/-- What a rel = 1 command does once it has begun (R56). -/
def Block.relBegin (b : Block) (p : Nat) (e : Engine) (q : QCmd) (spec : Bool) : Block :=
  if !hdrRel q.w.toNat then b
  else if spec then b.modCmd p e q.idx fun q => { q with relPending := true }
  else b.creditRelease p

/-- What the beginning of a command brings, once its operation has answered. -/
def Block.beginEnd (b0 : Block) (p : Nat) (e : Engine) (q : QCmd) (b1 : Block) : EffRes → Block
  | .hold => b0
  | .host _ reqs => (b1.modCmd p e q.idx fun q => { q with resume := true }).askHost p e q reqs
  | .ok b => b.markDone p e q.idx
  | .run b => b.modCmd p e q.idx fun q => { q with resume := false }
  | .fault b st => b.cmdFault p e q st

/-- R55: the engine begins its next command once its wait flag, load credit, confirmation and the bounds of R249 permit. A load that first needs
host-window bytes has begun when it asks for them, and goes on when they are there (R22, R56).
DEDUCED, notes/assumptions/57. DEDUCED, notes/assumptions/59. -/
def Block.tryBegin (m : Dram) (b : Block) (p : Nat) (e : Engine) : Block :=
  let s := b.spd p
  if !b.arraysRun p || s.abandoned.any (·.1 == e) then b
  else match nextToBegin (s.queue e) with
    | none => b
    | some q =>
      match opSpec (q.w.toNat % 256) with
      | none => b
      | some o =>
        let spec := s.isSpec q.idx
        if q.hostWait then b
        else if q.begun then b.beginEnd p e q b (o.eff m b p q spec)
        else
          let flagLow : Bool := match hdrWait q.w.toNat with
            | some k => (s.flag k).count == 0
            | none => false
          if (spec && !o.mayBeSpec) || flagLow || (o.credit && decide (16 ≤ s.credit)) || !b.lineRoom p (e == .store) then b
          else
            let b1 := (b.takeBegin p o q).relBegin p e q spec
            let b1 := if e = .vector then b1.cmdEvent p q 0x07 (vwLen q.w.toNat * vwRows q.w.toNat) else b1
            b.beginEnd p e q b1 (o.eff m b1 p { q with begun := true } spec)

def execEngineCmdBegin (p : Spd) (e : Engine) (s : State) : Host.Outcome State Fault Refusal :=
  nextOf s (s.blk.orWait fun b => b.tryBegin s.dram p e)

/-! ### Issue -/

/-- The sequencer writes an engine word into its queue, with the registers it reads, and the engine may begin it
(R52 to R54, R92).
DEDUCED, notes/assumptions/58. DESIGN CHOICE, notes/assumptions/60. -/
def Block.issueEng (m : Dram) (b : Block) (p op : Nat) (w : W120) : Block :=
  let w := mkWord op w
  let s := b.spd p
  match opSpec op with
  | none => b
  | some o =>
    if !b.mayIssue p w then b
    else if bits w 11 8 ≠ s.ctx then b.wordFault p op .accessDenied
    else if !zeros w [(31, 29), (15, 12)] || (o.eng == .load && hdrRel w) || o.bad w then b.wordFault p op .invalidField
    else if (o.regs w).any s.pendingReg then b
    else if queueDepth o.eng ≤ ((s.queue o.eng).filter (!·.begun)).length then b
    else if s.isSpec s.nextIdx && decide (128 ≤ s.specCmds) then b
    else
      let regs := (o.regs w).foldl (fun t r => tput 0 t r (s.reg r)) ([] : Tab Word64)
      let q : QCmd := { idx := s.nextIdx, pc := s.pc, w := BitVec.ofNat 128 w, regs }
      ((b.setSpd p (s.setQueue o.eng (s.queue o.eng ++ [q]))).advance p).orWait fun b => b.tryBegin m p o.eng

/-! ### Freed handles (R102) -/

/-- A command names a range in handle `h`: without that entry it could not begin.
DEDUCED, notes/assumptions/30. -/
def Block.namesHandle (m : Dram) (b : Block) (p h : Nat) (q : QCmd) : Bool :=
  match opSpec (q.w.toNat % 256) with
  | none => true
  | some o =>
    match o.eff m (b.modSpd p fun s => { s with handles := tdel s.handles h, job := none, gouge := none, ldt := none }) p q false with
    | .ok _ => false
    | .run _ => false
    | _ => true

/-- The commands that were issued before the HFREE and name a range in the handle have completed, and the entry becomes free.
DEDUCED, notes/assumptions/30. -/
def Block.handleFreed (m : Dram) (b : Block) (p h : Nat) : Block :=
  let s := b.spd p
  let e := tget {} s.handles h
  if e.state = .freeing ∧ !(engines.any fun g => (s.queue g).any fun q => decide (q.idx < e.freeIdx) && !q.completed && b.namesHandle m p h q) then
    b.setSpd p { s with handles := tdel s.handles h }
  else b

def execHandleFreed (p : Spd) (h : Fin 64) (s : State) : Host.Outcome State Fault Refusal := nextOf s (s.blk.handleFreed s.dram p h)

/-! ### Completion -/

/-- The status word of KPUT and KGET, or the fault of a command whose remote writes failed (R137, R296). -/
def Block.remoteEnd (b : Block) (p : Nat) (e : Engine) (q : QCmd) : Option Block :=
  let w := q.w.toNat
  let op := w % 256
  if (op = 0xA5 ∨ op = 0xC5) ∧ bits w 48 44 ≠ 0 then
    some (b.engWrite p e q (q.rf 48 44) (leBytes 8 (match q.failed with
      | some st => st.code
      | none => 0)))
  else match q.failed with
    | some _ => none
    | none => some b

/-- A confirmed command leaves its queue: what its engine wrote reaches the banks, its epoch and its slots are noted, its flag set
applied, effects that waited for it are staged, and a blank that waited for it may end (R57, R69, R97, R140, R161, R340). -/
def Block.cmdLeave (m : Dram) (b : Block) (p : Nat) (e : Engine) (q : QCmd) : Block :=
  let b := b.modGb p fun s => s.commitWhere fun g => g.engine == e
  let b := b.modSpd p fun s =>
    let s := (s.setQueue e (eraseFirst (fun x => x.idx == q.idx) (s.queue e))).addTally p (1 + engNum e) q.slots
    match q.obs with
    | some x => { s with epochObs := max s.epochObs x, epochValid := true }
    | none => s
  let b := (b.stagePump m p).lateOut m p
  let b : Block := match hdrSet q.w.toNat with
    | some k => b.setFlag m p k
    | none => b
  b.tryEnd p

/-- R55: the oldest carried-out command completes, once what it sent to peers is answered and what it wrote back is accepted (R112,
R296). -/
def Block.engComplete (m : Dram) (b : Block) (p : Nat) (e : Engine) : Block :=
  let s := b.spd p
  if !b.arraysRun p then b
  else match (s.queue e).find? (!·.completed) with
    | none => b
    | some q =>
      if !q.begun || !q.done || q.outstanding != 0 || q.deferred.isSome || b.linesWait q.awaits then b
      else match b.remoteEnd p e q with
        | none => b.blankFault p q.idx (q.failed.getD .success) (q.w.toNat % 256) (s.pcOffset q.pc)
        | some b =>
          if s.isSpec q.idx then b.modCmd p e q.idx fun q => { q with completed := true }
          else b.cmdLeave m p e q

def execEngineCmdComplete (p : Spd) (e : Engine) (s : State) : Host.Outcome State Fault Refusal := nextOf s (s.blk.orWait fun b => b.engComplete s.dram p e)

/-! ### Confirmation and squash -/

/-- A fault that a confirmed word carries: issue index, opcode, program counter, status. -/
structure DueFault where
  idx : Nat
  op : Nat
  pc : Nat
  st : Status
deriving DecidableEq, Repr

/-- The oldest deferred fault whose word is now confirmed (R64). -/
def Spindle.dueFault (s : Spindle) : Option DueFault :=
  let seq := s.deferredSeq.map fun r => ({ idx := r.1, op := r.2.2.1, pc := r.2.1, st := r.2.2.2 } : DueFault)
  let cmds := engines.flatMap fun e => (s.queue e).filterMap fun q => q.deferred.map fun st =>
    ({ idx := q.idx, op := q.w.toNat % 256, pc := q.pc, st } : DueFault)
  (sortBy (fun (x y : DueFault) => decide (x.idx ≤ y.idx)) ((seq ++ cmds).filter fun f => !s.isSpec f.idx)).head?

/-- Words confirmed since the last confirmation, older than the oldest due fault. -/
def Spindle.confirmed (s : Spindle) (idx : Nat) : Bool := !s.isSpec idx && !(s.dueFault.any fun f => decide (f.idx ≤ idx))

/-- A gather or a sample that held its writes makes them (R63, R124, R153). -/
def Block.heldConfirmed (m : Dram) (b : Block) (p : Nat) (q : QCmd) : Block :=
  match (b.spd p).gouge with
  | some (.gather g) => if g.idx = q.idx ∧ g.held then b.gatherConfirmed m p q g else b
  | some (.writes k l) => if k = q.idx then b.sampleConfirmed m p q l else b
  | _ => b

/-- What confirmation brings to one command: its credit release, the writes it held, its staged effects, and its completion (R56,
R58, R124). -/
def Block.confirmCmd (m : Dram) (b : Block) (p : Nat) (e : Engine) (q : QCmd) : Block :=
  let b := if q.relPending then b.creditRelease p else b
  let b := q.onConfirm.foldl (fun b x => b.stage m p q.idx x) b
  let b := b.modCmd p e q.idx fun q => { q with relPending := false, onConfirm := [], wrote := [] }
  let b := if e = .gouge then b.heldConfirmed m p q else b
  if q.completed then b.cmdLeave m p e q else b

/-- Every older BR of some words is confirmed: what they held back takes place, and a deferred fault is raised (R64). -/
def Block.confirm (m : Dram) (b : Block) (p : Nat) : Block :=
  let s := b.spd p
  let ev := s.specEv.filter fun r => s.confirmed r.1
  let b := ev.foldl (fun b r => b.countEvent p s.ctx r.2.1 r.2.2) (b.setSpd p { s with specEv := s.specEv.filter fun r => !s.confirmed r.1 })
  let b := b.modSpd p fun s => { s.addTally p 0 ((s.seqSlots.filter fun r => s.confirmed r.1).map (·.2)).sum with
    seqSlots := s.seqSlots.filter fun r => !s.confirmed r.1 }
  let cmds := sortBy (fun (x y : Engine × QCmd) => decide (x.2.idx ≤ y.2.idx))
    (engines.flatMap fun e => ((s.queue e).filter fun q => s.confirmed q.idx).map fun q => (e, q))
  let b := cmds.foldl (fun b x => b.confirmCmd m p x.1 x.2) b
  let free (h : HeldSet) : Bool := h.readBy.any s.confirmed
  let b := if s.held.any free then (b.modSpd p fun s => { s with held := s.held.filter fun h => !free h }).matrixPump m p else b
  let b := b.ldtPump m p
  match s.dueFault with
  | some f => b.blankFault p f.idx f.st f.op (s.pcOffset f.pc)
  | none => b

/-- BRs that are evaluated, with every older one confirmed, are confirmed in order (R61). -/
def popEvaluated : List BrEntry → List BrEntry × List BrEntry
  | r :: rest => if r.evaluated then let x := popEvaluated rest; (r :: x.1, x.2) else ([], r :: rest)
  | [] => ([], [])

/-- The condition of a BR (Table 3.4). -/
def brTaken (cond : Nat) (x y : Word64) : Bool :=
  match cond with
  | 0 => x == y
  | 1 => x != y
  | 2 => x.slt y
  | 3 => !x.slt y
  | 4 => x.ult y
  | _ => !x.ult y

/-- R61, R66: the condition of the `k`-th unconfirmed BR is evaluated; a wrong guess squashes every younger word, restores
the scalar registers and takes the other way. -/
def Block.brResolve (m : Dram) (b : Block) (p k : Nat) : Block :=
  let s := b.spd p
  if !b.runs p then b
  else match s.brs[k]? with
    | none => b
    | some r =>
      match r.va, r.vb with
      | some x, some y =>
        if r.evaluated then b
        else
          let taken := brTaken r.cond x y
          let miss := taken != r.hint
          let b := if miss then
              (b.squash p r.idx).modSpd p fun s =>
                { s with sregs := r.checkpoint, pc := if taken then branchTo r.pc r.offset else r.pc + 16 }
            else b
          let b := b.modSpd p fun s =>
            { s with brs := s.brs.map fun q => if q.idx = r.idx then { q with evaluated := true, mispred := miss } else q }
          let x := popEvaluated (b.spd p).brs
          let b := b.modSpd p fun s => { s with brs := x.2 }
          let b := (b.countEvent p s.ctx 0x17 x.1.length).countEvent p s.ctx 0x18 (x.1.filter (·.mispred)).length
          if x.1 = [] then b else b.confirm m p
      | _, _ => b

def execBrResolve (p : Spd) (k : Nat) (s : State) : Host.Outcome State Fault Refusal := nextOf s (s.blk.orWait fun b => b.brResolve s.dram p k)

/-- R66: the engine abandons a begun squashed command at its stage boundary; the work spent on it is waste, charged to the context that its word
names (R67, R340).
DEDUCED, notes/assumptions/59. DESIGN CHOICE, notes/assumptions/148. -/
def Block.engAbandon (m : Dram) (b : Block) (p : Nat) (e : Engine) (cycles bytes : Nat) : Block :=
  let s := b.spd p
  match s.abandoned.find? (·.1 == e) with
  | none => b
  | some (_, q) =>
    let c := bits q.w.toNat 11 8
    let b := b.setSpd p { s with
      abandoned := eraseFirst (· == (e, q)) s.abandoned
      credit := if q.credit then s.credit - 1 else s.credit
      wasteCycles := if b.cnt.freeze then s.wasteCycles else s.wasteCycles.add cycles
      wasteBytes := if b.cnt.freeze then s.wasteBytes else s.wasteBytes.add bytes }
    let b := (b.countCtx c 11 cycles).postSlots { spindle := p, src := 1 + engNum e, cat := 1, n := cycles, ctx := some c }
    match (if q.flagTaken then hdrWait q.w.toNat else none) with
    | some k => (b.modSpd p fun s => s.modFlag k LocalFlag.giveBack).ldtPump m p
    | none => b

def execEngineAbandon (p : Spd) (e : Engine) (cycles bytes : Nat) (s : State) : Host.Outcome State Fault Refusal :=
  nextOf s (s.blk.orWait fun b => b.engAbandon s.dram p e cycles bytes)

/-! ### FLAG -/

/-- FLAG: a wait holds until its flag is set, and is served before the word's own set (R57).
DEDUCED, notes/assumptions/24. -/
def execFlag (p : Spd) (w : W120) (s : State) : Host.Outcome State Fault Refusal :=
  let w := mkWord 0x21 w
  nextOf s (s.blk.orWait fun b => b.seqWord p w false [] (!zeros w [(15, 12), (31, 28), (127, 32)]) fun b =>
    let wf := bits w 20 16
    if bit w 21 ∧ ((b.spd p).flag wf).count = 0 then b
    else
      let b := if bit w 21 then b.modSpd p fun s => s.modFlag wf LocalFlag.take else b
      let b := if bit w 27 then b.setFlag s.dram p (bits w 26 22) else b
      b.advance p)

/-! ### Retirement -/

/-- Every word older than the sequencer's hold has completed, and no BR is unconfirmed. -/
def Spindle.drained (s : Spindle) : Bool :=
  engines.all (fun e => (s.queue e).isEmpty) && s.abandoned.isEmpty && s.brs.isEmpty && s.slds.isEmpty

/-- R68, R140, R259, R340: the blank retires, its slots are posted as retired, and its staged effects are released in order. -/
def Block.blankRetire (m : Dram) (b : Block) (p : Nat) : Block :=
  let s := b.spd p
  match s.cur with
  | none => b
  | some k =>
    if !b.runs p || s.hold != .retired || !s.drained || s.ending.isSome then b
    else
      let b := b.stagePump m p
      let o := b.issuer p
      let xs := (b.spd p).staging
      let b := ((b.postTally p 0).unregister p).modSpd p (·.clearBlank true)
      let b := xs.foldl (fun b x => b.applyEffect m o x) b
      let b := b.traceEvent k.ctx k.desc 0x05 (b.logicalOf p) 0
      let b : Block := { b with dones := b.dones ++ [{ blank := k, spindle := p, serial := s.serial }] }
      b.countCtx k.ctx 4 1

def execBlankRetire (p : Spd) (s : State) : Host.Outcome State Fault Refusal := nextOf s (s.blk.orWait fun b => b.blankRetire s.dram p)

/-- A packet of a released effect of the retired blank (R259). -/
def Done.owns (d : Done) (o : OutPkt) : Bool :=
  let mine (x : XferOwner) : Bool := match x with
    | .signal _ _ p k => p == d.spindle && k == d.blank.addr
    | .scatter _ p k n => p == d.spindle && k == d.blank.addr && n == d.serial
    | .lane _ _ _ _ _ p k n _ _ => p == d.spindle && k == d.blank.addr && n == d.serial
    | _ => false
  mine o.owner || mine o.rider

/-- A released effect of a retired blank that has not been accepted at its destination (R259): pieces and tags on their way, signals
not applied or held during a dump, and packets not yet acknowledged or answered. -/
def Block.effectWaits (b : Block) (d : Done) : Bool :=
  let mine (src : ReqSrc) : Bool := match src with
    | .memSide p _ _ serial => p == d.spindle && serial == d.serial
    | _ => false
  let sig (g : Sig) : Bool := g.src == 0x1000 + d.spindle
  b.chans.any (fun c => c.2.transit.any fun q => mine q.src) || b.tagStores.any (fun t => mine t.src)
    || b.sigs.any sig || b.frozen.any (fun z => z.held.any fun x => match x with
      | .signal g => sig g
      | _ => false)
    || b.conns.any fun c => (c.2.out ++ c.2.waiting ++ c.2.again ++ c.2.reads).any d.owns

/-- R259: the hub signals done_cell and frees the entry. -/
def Block.doneSignal (b : Block) (k : Nat) : Block :=
  match b.dones[k]? with
  | none => b
  | some d =>
    if !b.clocked || b.effectWaits d then b
    else
      let x := d.blank.desc.toNat
      let b : Block := { b with dones := b.dones.eraseIdx k }
      let b := if bit x 145 then b.signal (bits x 144 128) 1 (0x3000 + d.spindle) else b
      b.subUsed d.blank.ctx 1

def execDoneCellSignal (k : Nat) (s : State) : Host.Outcome State Fault Refusal := nextOf s (s.blk.doneSignal k)

/-! ### Halting and debug (R70) -/

/-- DESIGN CHOICE, notes/assumptions/141. DESIGN CHOICE, notes/assumptions/143. -/
def Block.answer (b : Block) (st : Status) (data : List Byte := []) : Block := { b with resp := { status := st, data } }

/-- JTAG makes no access: its logic is held in reset, or the fuses do not enable debug (R397). -/
def Block.jtagOff (b : Block) : Bool := b.jtagReset || !Config.debugFuse

/-- An access to a window that answers the headstock and JTAG alone (R18).
DESIGN CHOICE, notes/assumptions/143. -/
def Block.asAdmin (b : Block) (who : Initiator) (f : Block → Block) : Block :=
  if !b.hubUp then b
  else match who with
    | .headstock => f b
    | .jtag => if b.jtagOff then b else f b
    | _ => b.answer .accessDenied

/-- Such an access at a local address: to an address outside every region nobody has access, and the status says so (R16,
R18). -/
def Block.asAdminAt (b : Block) (who : Initiator) (a size : Nat) (f : Block → Block) : Block :=
  match who with
  | .headstock | .jtag => b.asAdmin who f
  | _ =>
    if !b.hubUp then b
    else match b.rangeOf a size with
      | .error st => b.answer st
      | .ok _ => b.answer .accessDenied

/-- An access to a tile's registers; a tile that is off answers nothing (R368). -/
def Block.asTile (b : Block) (who : Initiator) (t : Nat) (f : Block → Block) : Block :=
  b.asAdmin who fun b => if (b.tile t).powered then f b else b.answer .domainOff

/-- A write of SPD_CTL by `who`. -/
def Block.ctlWrite (b : Block) (who : Initiator) (p : Nat) (f : Spindle → Spindle) : Block :=
  b.asTile who (tileOf p) fun b => (b.modSpd p f).answer .success

def execHaltReq (who : Initiator) (p : Spd) (s : State) : Host.Outcome State Fault Refusal :=
  nextOf s (s.blk.ctlWrite who p fun x => { x with haltReq := true })

/-- Older words are complete, a FENCE among them, and the sequencer halts; a wait stops polling and its SWAIT will issue again. -/
def Block.seqHalt (b : Block) (p : Nat) : Block :=
  let s := b.spd p
  if !b.clocked || !s.haltReq || s.halted || !s.drained then b
  else match s.hold with
    | .swait w => b.setSpd p { s with halted := true, hold := .none, pc := w.pc }
    | .fence _ _ _ => b
    | _ => b.setSpd p { s with halted := true }

def execSequencerHalt (p : Spd) (s : State) : Host.Outcome State Fault Refusal := nextOf s (s.blk.seqHalt p)

def execHaltResume (who : Initiator) (p : Spd) (s : State) : Host.Outcome State Fault Refusal :=
  nextOf s (s.blk.ctlWrite who p fun x => { x with haltReq := false, halted := false })

def execDebugEn (who : Initiator) (p : Spd) (on : Bool) (s : State) : Host.Outcome State Fault Refusal :=
  nextOf s (s.blk.ctlWrite who p fun x => { x with debugEn := on })

/-! ### The engine words -/

def execMtile (p : Spd) (w : W120) (s : State) : Host.Outcome State Fault Refusal := nextOf s (s.blk.issueEng s.dram p 0x40 w)
def execRtile (p : Spd) (w : W120) (s : State) : Host.Outcome State Fault Refusal := nextOf s (s.blk.issueEng s.dram p 0x48 w)
def execFtile (p : Spd) (w : W120) (s : State) : Host.Outcome State Fault Refusal := nextOf s (s.blk.issueEng s.dram p 0x49 w)
def execHinit (p : Spd) (w : W120) (s : State) : Host.Outcome State Fault Refusal := nextOf s (s.blk.issueEng s.dram p 0x4A w)
def execHmerge (p : Spd) (w : W120) (s : State) : Host.Outcome State Fault Refusal := nextOf s (s.blk.issueEng s.dram p 0x4B w)
def execHdrain (p : Spd) (w : W120) (s : State) : Host.Outcome State Fault Refusal := nextOf s (s.blk.issueEng s.dram p 0x4C w)
def execVadd (p : Spd) (w : W120) (s : State) : Host.Outcome State Fault Refusal := nextOf s (s.blk.issueEng s.dram p 0x60 w)
def execVsub (p : Spd) (w : W120) (s : State) : Host.Outcome State Fault Refusal := nextOf s (s.blk.issueEng s.dram p 0x61 w)
def execVmul (p : Spd) (w : W120) (s : State) : Host.Outcome State Fault Refusal := nextOf s (s.blk.issueEng s.dram p 0x62 w)
def execVfma (p : Spd) (w : W120) (s : State) : Host.Outcome State Fault Refusal := nextOf s (s.blk.issueEng s.dram p 0x63 w)
def execVdiv (p : Spd) (w : W120) (s : State) : Host.Outcome State Fault Refusal := nextOf s (s.blk.issueEng s.dram p 0x64 w)
def execVsqrt (p : Spd) (w : W120) (s : State) : Host.Outcome State Fault Refusal := nextOf s (s.blk.issueEng s.dram p 0x65 w)
def execVexp2 (p : Spd) (w : W120) (s : State) : Host.Outcome State Fault Refusal := nextOf s (s.blk.issueEng s.dram p 0x66 w)
def execVlog2 (p : Spd) (w : W120) (s : State) : Host.Outcome State Fault Refusal := nextOf s (s.blk.issueEng s.dram p 0x67 w)
def execVmin (p : Spd) (w : W120) (s : State) : Host.Outcome State Fault Refusal := nextOf s (s.blk.issueEng s.dram p 0x68 w)
def execVmax (p : Spd) (w : W120) (s : State) : Host.Outcome State Fault Refusal := nextOf s (s.blk.issueEng s.dram p 0x69 w)
def execVcvt (p : Spd) (w : W120) (s : State) : Host.Outcome State Fault Refusal := nextOf s (s.blk.issueEng s.dram p 0x6A w)
def execVrowsum (p : Spd) (w : W120) (s : State) : Host.Outcome State Fault Refusal := nextOf s (s.blk.issueEng s.dram p 0x70 w)
def execVrowmax (p : Spd) (w : W120) (s : State) : Host.Outcome State Fault Refusal := nextOf s (s.blk.issueEng s.dram p 0x71 w)
def execVrowmin (p : Spd) (w : W120) (s : State) : Host.Outcome State Fault Refusal := nextOf s (s.blk.issueEng s.dram p 0x72 w)
def execVrowargmax (p : Spd) (w : W120) (s : State) : Host.Outcome State Fault Refusal := nextOf s (s.blk.issueEng s.dram p 0x73 w)
def execVrand (p : Spd) (w : W120) (s : State) : Host.Outcome State Fault Refusal := nextOf s (s.blk.issueEng s.dram p 0x78 w)
def execVunif (p : Spd) (w : W120) (s : State) : Host.Outcome State Fault Refusal := nextOf s (s.blk.issueEng s.dram p 0x79 w)
def execVsmax (p : Spd) (w : W120) (s : State) : Host.Outcome State Fault Refusal := nextOf s (s.blk.issueEng s.dram p 0x7A w)
def execVssum (p : Spd) (w : W120) (s : State) : Host.Outcome State Fault Refusal := nextOf s (s.blk.issueEng s.dram p 0x7B w)
def execVsfin (p : Spd) (w : W120) (s : State) : Host.Outcome State Fault Refusal := nextOf s (s.blk.issueEng s.dram p 0x7C w)
def execVsscore (p : Spd) (w : W120) (s : State) : Host.Outcome State Fault Refusal := nextOf s (s.blk.issueEng s.dram p 0x7D w)
def execVmktile (p : Spd) (w : W120) (s : State) : Host.Outcome State Fault Refusal := nextOf s (s.blk.issueEng s.dram p 0x80 w)
def execVmktilea (p : Spd) (w : W120) (s : State) : Host.Outcome State Fault Refusal := nextOf s (s.blk.issueEng s.dram p 0x81 w)
def execVmkrow (p : Spd) (w : W120) (s : State) : Host.Outcome State Fault Refusal := nextOf s (s.blk.issueEng s.dram p 0x82 w)
def execVmkrowa (p : Spd) (w : W120) (s : State) : Host.Outcome State Fault Refusal := nextOf s (s.blk.issueEng s.dram p 0x83 w)
def execVmktopk (p : Spd) (w : W120) (s : State) : Host.Outcome State Fault Refusal := nextOf s (s.blk.issueEng s.dram p 0x84 w)
def execVmklist (p : Spd) (w : W120) (s : State) : Host.Outcome State Fault Refusal := nextOf s (s.blk.issueEng s.dram p 0x85 w)
def execVmkor (p : Spd) (w : W120) (s : State) : Host.Outcome State Fault Refusal := nextOf s (s.blk.issueEng s.dram p 0x86 w)
def execVmkclr (p : Spd) (w : W120) (s : State) : Host.Outcome State Fault Refusal := nextOf s (s.blk.issueEng s.dram p 0x87 w)
def execLd (p : Spd) (w : W120) (s : State) : Host.Outcome State Fault Refusal := nextOf s (s.blk.issueEng s.dram p 0xA0 w)
def execLdt (p : Spd) (w : W120) (s : State) : Host.Outcome State Fault Refusal := nextOf s (s.blk.issueEng s.dram p 0xA1 w)
def execHalloc (p : Spd) (w : W120) (s : State) : Host.Outcome State Fault Refusal := nextOf s (s.blk.issueEng s.dram p 0xA2 w)
def execHfreeLoad (p : Spd) (w : W120) (s : State) : Host.Outcome State Fault Refusal := nextOf s (s.blk.issueEng s.dram p 0xA3 w)
def execKload (p : Spd) (w : W120) (s : State) : Host.Outcome State Fault Refusal := nextOf s (s.blk.issueEng s.dram p 0xA4 w)
def execKget (p : Spd) (w : W120) (s : State) : Host.Outcome State Fault Refusal := nextOf s (s.blk.issueEng s.dram p 0xA5 w)
def execSt (p : Spd) (w : W120) (s : State) : Host.Outcome State Fault Refusal := nextOf s (s.blk.issueEng s.dram p 0xC0 w)
def execHfreeStore (p : Spd) (w : W120) (s : State) : Host.Outcome State Fault Refusal := nextOf s (s.blk.issueEng s.dram p 0xC1 w)
def execDcmaint (p : Spd) (w : W120) (s : State) : Host.Outcome State Fault Refusal := nextOf s (s.blk.issueEng s.dram p 0xC2 w)
def execKsave (p : Spd) (w : W120) (s : State) : Host.Outcome State Fault Refusal := nextOf s (s.blk.issueEng s.dram p 0xC3 w)
def execRpush (p : Spd) (w : W120) (s : State) : Host.Outcome State Fault Refusal := nextOf s (s.blk.issueEng s.dram p 0xC4 w)
def execKput (p : Spd) (w : W120) (s : State) : Host.Outcome State Fault Refusal := nextOf s (s.blk.issueEng s.dram p 0xC5 w)
def execKchain (p : Spd) (w : W120) (s : State) : Host.Outcome State Fault Refusal := nextOf s (s.blk.issueEng s.dram p 0xC6 w)
def execGgather (p : Spd) (w : W120) (s : State) : Host.Outcome State Fault Refusal := nextOf s (s.blk.issueEng s.dram p 0xE0 w)
def execGscatter (p : Spd) (w : W120) (s : State) : Host.Outcome State Fault Refusal := nextOf s (s.blk.issueEng s.dram p 0xE1 w)
def execGsettle (p : Spd) (w : W120) (s : State) : Host.Outcome State Fault Refusal := nextOf s (s.blk.issueEng s.dram p 0xE2 w)
def execGburl (p : Spd) (w : W120) (s : State) : Host.Outcome State Fault Refusal := nextOf s (s.blk.issueEng s.dram p 0xE3 w)
def execGhfree (p : Spd) (w : W120) (s : State) : Host.Outcome State Fault Refusal := nextOf s (s.blk.issueEng s.dram p 0xE4 w)
def execGexdisp (p : Spd) (w : W120) (s : State) : Host.Outcome State Fault Refusal := nextOf s (s.blk.issueEng s.dram p 0xE5 w)
def execGexret (p : Spd) (w : W120) (s : State) : Host.Outcome State Fault Refusal := nextOf s (s.blk.issueEng s.dram p 0xE6 w)
def execGexcomb (p : Spd) (w : W120) (s : State) : Host.Outcome State Fault Refusal := nextOf s (s.blk.issueEng s.dram p 0xE7 w)
def execGsample (p : Spd) (w : W120) (s : State) : Host.Outcome State Fault Refusal := nextOf s (s.blk.issueEng s.dram p 0xE8 w)
def execGsback (p : Spd) (w : W120) (s : State) : Host.Outcome State Fault Refusal := nextOf s (s.blk.issueEng s.dram p 0xE9 w)
def execVstage (p : Spd) (w : W120) (s : State) : Host.Outcome State Fault Refusal := nextOf s (s.blk.issueEng s.dram p 0xF0 w)
def execVadvance (p : Spd) (w : W120) (s : State) : Host.Outcome State Fault Refusal := nextOf s (s.blk.issueEng s.dram p 0xF1 w)
/-- VPIN with op 0000, or with an op that Table 8.3 lacks, which is refused. -/
def execVpin (p : Spd) (w : W120) (s : State) : Host.Outcome State Fault Refusal :=
  nextOf s (if gwOp (mkWord 0xF2 w) = 1 then s.blk else s.blk.issueEng s.dram p 0xF2 w)
/-- VPIN with op 0001. -/
def execVpinRelease (p : Spd) (w : W120) (s : State) : Host.Outcome State Fault Refusal :=
  nextOf s (if gwOp (mkWord 0xF2 w) = 1 then s.blk.issueEng s.dram p 0xF2 w else s.blk)
def execVread (p : Spd) (w : W120) (s : State) : Host.Outcome State Fault Refusal := nextOf s (s.blk.issueEng s.dram p 0xF3 w)
def execVepoch (p : Spd) (w : W120) (s : State) : Host.Outcome State Fault Refusal := nextOf s (s.blk.issueEng s.dram p 0xF4 w)

end Sys2Proof.Machine
end

