-- ==== Sys2Proof/Machine/Cells.lean ====
section
/-!
DEFINITION. Synchronisation cells: the cell words, signals at their banks, polls, and sets (Chapter 15).
-/
namespace Sys2Proof.Machine

/-- The cell a word names: cell + rc, in 64 bits (R270). -/
def Spindle.cellArg (s : Spindle) (w : Nat) : Nat := (bits w 98 82 + (s.reg (bits w 46 42)).toNat) % 2 ^ 64

/-- Why a local cell is refused (R266, R271). -/
def Block.cellBad (b : Block) (c cell : Nat) : Option Status :=
  if 131072 ≤ cell then some .invalidField else if b.cellOwned c cell then none else some .accessDenied

/-! ### Cell words -/

/-- SSIG (R271, R272).
DEDUCED, notes/assumptions/70. -/
def Block.ssig (m : Dram) (b : Block) (p w : Nat) : Block :=
  let x := b.spd p
  let cell := x.cellArg w
  let peer := bits w 111 100
  let st : Option Status :=
    if 131072 ≤ cell then some .invalidField
    else if bit w 99 then (if (b.connOf x.ctx peer).isNone then some .invalidField else none)
    else if peer ≠ 0 then some .invalidField
    else b.cellBad x.ctx cell
  match st with
  | some st => b.wordFault p 0x30 st
  | none =>
    let amount := sext 64 (trunc 64 (((x.reg (bits w 41 37)).toNat : Int) + sbits w 127 112))
    (b.advance p).stage m p x.nextIdx (.signal x.nextIdx (if bit w 99 then some peer else none) cell amount)

def execSsig (p : Spd) (w : W120) (s : State) : Host.Outcome State Fault Refusal :=
  let w := mkWord 0x30 w
  nextOf s (s.blk.orWait fun b => b.seqWord p w false [bits w 46 42, bits w 41 37] (!zeros w [(81, 47), (36, 32), (31, 12)]) fun b => b.ssig s.dram p w)

/-- A peer that a wait of context `c` watches is lost (R276). -/
def Block.watchedLost (b : Block) (c : Nat) (w : Wait) : Bool :=
  b.conns.any fun e => e.2.ctx == c && e.2.state == .lost && (w.watchAll || (w.watchEn && e.2.peer == w.watchPeer))

/-- SWAIT begins its wait; the threshold is formed in 64 bits (DEDUCED, notes/assumptions/13). -/
def Block.swait (b : Block) (p w : Nat) : Block :=
  let x := b.spd p
  let cell := x.cellArg w
  let theta := ((x.reg (bits w 41 37)).toNat + bits w 127 112) % 2 ^ 64
  let peer := bits w 111 100
  let (en, all) := (bit w 99, bit w 79)
  let st : Option Status :=
    if 131072 ≤ cell ∨ theta = 0 ∨ 2 ^ 63 ≤ theta ∨ (en && all) ∨ (en = false ∧ peer ≠ 0) then some .invalidField
    else if en && (b.connOf x.ctx peer).isNone then some .invalidField
    else b.cellBad x.ctx cell
  match st with
  | some st => b.wordFault p 0x31 st
  | none =>
    let k : Wait := { cell, theta, consume := bit w 81, hot := bit w 80, watchEn := en, watchPeer := peer, watchAll := all
                      rd := bits w 36 32, started := b.time, pc := x.pc }
    let k := { k with peerLostDue := b.watchedLost x.ctx k }
    (b.advance p).modSpd p fun s => { s with hold := .swait k }

def execSwait (p : Spd) (w : W120) (s : State) : Host.Outcome State Fault Refusal :=
  let w := mkWord 0x31 w
  nextOf s (s.blk.seqWord p w false [bits w 46 42, bits w 41 37, bits w 36 32] (!zeros w [(78, 47), (31, 12)]) fun b => b.swait p w)

/-- A read at the cell's bank: the count goes to register `rd`, and the sequencer goes on (R270). -/
def Block.sreadDone (b : Block) (p cell rd : Nat) : Block :=
  b.modSpd p fun s => { s.setReg rd (BitVec.ofInt 64 (b.cell cell).count) with hold := .none }

/-- SREAD reads the count at its bank, behind what its island has sent there; during a freeze it is held there in arrival order (R13,
R269, R270, R279). -/
def Block.sread (b : Block) (p w : Nat) : Block :=
  let x := b.spd p
  let cell := x.cellArg w
  match b.cellBad x.ctx cell with
  | some st => b.wordFault p 0x32 st
  | none =>
    let rd := bits w 36 32
    let b := (b.advance p).cellMet (some p) cell
    match b.frozen with
    | none => b.sreadDone p cell rd
    | some z =>
      ({ b with frozen := some { z with held := z.held ++ [.read p x.serial cell rd] } } : Block).modSpd p fun s => { s with hold := .sread x.pc }

def execSread (p : Spd) (w : W120) (s : State) : Host.Outcome State Fault Refusal :=
  let w := mkWord 0x32 w
  nextOf s (s.blk.seqWord p w false [bits w 46 42, bits w 36 32] (!zeros w [(127, 99), (81, 47), (41, 37), (31, 12)]) fun b => b.sread p w)

/-! ### Banks -/

/-- A read of a cell through the control window (R269). -/
def Block.cellRead (b : Block) (cell size : Nat) : Block :=
  { b with resp := { status := .success, data := leBytes size (trunc 64 (b.cell cell).count) } }

/-- Cells `[base, base + n)` of tile `t` start at count 0, sat 0 and no signaller (R266). -/
def Block.zeroCells (b : Block) (t base n : Nat) : Block :=
  { b with cells := b.cells.filter fun e => decide (e.1 < 32768 * t + base) || decide (32768 * t + base + n ≤ e.1) }

/-- The headstock sets the cells of a new partition to zero, behind what the hub has sent to the tile; a freeze holds the
sets (R13, R266, R279). -/
def Block.zeroPart (b : Block) (t base n : Nat) : Block :=
  let b := (b.cellFirst none (32768 * t)).countRoute none (some t) 0 (64 * n)
  match b.frozen with
  | some z => { b with frozen := some { z with held := z.held ++ [.zero t base n] } }
  | none => b.zeroCells t base n

/-- A held operation takes effect at its cell once the stores have resumed (R279). -/
def Block.cellOp (b : Block) : CellOp → Block
  | .signal g => b.cellArrive g
  | .read p serial cell rd =>
    match (b.spd p).hold with
    | .sread _ => if (b.spd p).serial = serial then b.sreadDone p cell rd else b
    | _ => b
  | .ctl cell size => b.cellRead cell size
  | .zero t base n => b.zeroCells t base n

/-- The oldest signal on its way to tile `t` arrives (R267, R269). Cell stores stay powered in A2 (R368). -/
def Block.signalApply (b : Block) (t : Nat) : Block :=
  if !b.hubUp || b.thermtripPin then b
  else match b.sigs.find? fun g => cellTile g.cell == t && b.sigReady g with
    | none => b
    | some g =>
      let b : Block := { b with sigs := eraseFirst (· == g) b.sigs }
      b.cellArrive g

def execCellSignalApply (t : TileId) (s : State) : Host.Outcome State Fault Refusal := nextOf s (s.blk.signalApply t)

/-- One poll of a wait at its cell's bank, with the conditional subtract of consume (R268). -/
def Block.pollCell (b : Block) (w : Wait) : Bool × Block :=
  let c := b.cell w.cell
  if c.count < w.theta then (false, b)
  else (true, if w.consume then { b with cells := tput {} b.cells w.cell { c with count := c.count - w.theta } } else b)

/-- SWAIT completes (R277). -/
def Block.waitDone (b : Block) (p : Nat) (w : Wait) (st : Status) : Block :=
  let s := b.spd p
  if st = .success ∨ w.rd ≠ 0 then b.setSpd p { s.setReg w.rd (BitVec.ofNat 64 st.code) with hold := .none }
  else b.blankFault p (s.nextIdx - 1) st 0x31 (s.pcOffset w.pc)

/-- A poll by spindle `p`, behind what its island has sent to the cell's tile (R13, R269); `final` is the poll of a timeout (R276, R278). -/
def Block.pollSpindle (m : Dram) (b : Block) (p : Nat) (final : Bool) : Block :=
  match (b.spd p).hold with
  | .swait w =>
    if !b.runs p || b.frozen.isSome then b
    else
      let b := b.cellMet (some p) w.cell
      let r := b.pollCell w
      if r.1 then
        let b := if w.consume then r.2.stage m p ((r.2.spd p).nextIdx - 1) (.receipt w.cell w.theta) else r.2
        b.waitDone p w .success
      else if w.peerLostDue then b.waitDone p w .peerLost
      else if final then b.waitDone p w .timeout else b
  | _ => b

/-! ### Sets by the headstock and JTAG -/

def cellBase : Nat := 0xF02000000000

/-- R269, R400: a write of 8 B in the cell window sets the count and clears sat.
DEDUCED, notes/assumptions/69. -/
def Block.adminCellSet (b : Block) (addr size : Nat) (val : Word64) : Block :=
  if addr < cellBase ∨ cellBase + 0x100000 ≤ addr then b
  else if size ≠ 8 ∨ addr % 8 ≠ 0 then b.answer .invalidField
  else (b.cellSet ((addr - cellBase) / 8) val.toInt).answer .success

def execHeadstockCellSet (who : Initiator) (addr : Word64) (size : Nat) (val : Word64) (s : State) : Host.Outcome State Fault Refusal :=
  nextOf s (s.blk.asAdminAt who addr.toNat size fun b => b.adminCellSet addr.toNat size val)

end Sys2Proof.Machine
end

