-- ==== Sys2Proof/Machine/Counters.lean ====
section
/-!
DEFINITION. Counters: snapshots, windows, controls, and the passing of device time (Chapter 19).
-/
namespace Sys2Proof.Machine

/-! ### Snapshots (R345 to R347) -/

/-- Sources of a trigger, as bits of the header. -/
inductive SnapSource where
  | command | pps | sweep (part : Bool)
deriving DecidableEq, Repr

def SnapSource.bit : SnapSource → Nat
  | .command => 0
  | .pps => 1
  | .sweep _ => 2

def SnapSource.bits : SnapSource → Nat
  | .command => 1
  | .pps => 2
  | .sweep p => 4 + (if p then 8 else 0)

/-- A trigger joins another of the same snapshot; a sweep's number becomes the tag (R347). -/
def Snap.join (a x : Snap) : Snap :=
  { a with triggers := a.triggers ||| x.triggers
           tag := if bit x.triggers 2 || !bit a.triggers 0 then x.tag else a.tag
           waiters := a.waiters ++ x.waiters }

/-- A trigger: it shares the snapshot that is due, is queued behind an image being written, or is dropped (R347). The
flag says that it was not dropped. -/
def Block.snapTrigger (b : Block) (src : SnapSource) (tag : Nat) (waiters : List (Nat × Entry)) : Bool × Block :=
  let x : Snap := { triggers := src.bits, tag, instant := b.time + 2000, waiters }
  let c := b.cnt
  match c.trigger, c.writing with
  | some t, _ => (true, { b with cnt := { c with trigger := some (t.join x) } })
  | none, none => (true, { b with cnt := { c with trigger := some x } })
  | none, some img =>
    if (tfind c.queued src.bit).isNone then (true, { b with cnt := { c with queued := tset c.queued src.bit x } })
    else
      (false, { b with cnt := { c with
        lost := min 255 (c.lost + 1)
        writing := some { img with snap := { img.snap with waiters := img.snap.waiters ++ waiters } } } })

/-- The words of a snapshot that are not zero, by byte offset in the image (R346). -/
def Block.imageWords (b : Block) : Tab Word64 :=
  let put (t : Tab Word64) (a : Nat) (c : Counter) : Tab Word64 := tput 0 t a (BitVec.ofNat 64 c.word)
  let t := b.spindles.foldl (fun t e =>
    let base := 0x40 + 0x110 * e.1
    let t := e.2.cntProg.foldl (fun t x => put t (base + 8 * x.1) x.2) t
    let t := e.2.cntTd.foldl (fun t x => put t (base + 64 + 8 * x.1) x.2) t
    put (put t (base + 256) e.2.wasteCycles) (base + 264) e.2.wasteBytes) []
  let port (k : Nat) (t : Tab Word64) (x : Nat × Counter) : Tab Word64 := put t (0x14000 + 0x20 * x.1 + 8 * k) x.2
  let t := b.cnt.tot.foldl (port 0) t
  let t := b.cnt.last.foldl (port 1) t
  let t := b.cnt.peak.foldl (port 2) t
  let t := b.cnt.spec.foldl (port 3) t
  let t := b.ctxs.foldl (fun t e => e.2.cnt.foldl (fun t x => put t (0x15000 + 0x80 * e.1 + 8 * x.1) x.2) t) t
  put t 0x15800 b.cnt.devIdle

/-- The slot being rewritten shows seq 0 until its image is complete.
DEDUCED, notes/assumptions/90. -/
def Counters.setSlot (c : Counters) (seq : Nat) (i : Option Image) : Counters :=
  if seq % 2 = 0 then { c with slotA := i } else { c with slotB := i }

/-- R345: at the instant every counter latches its value.
DEDUCED, notes/assumptions/90. -/
def Block.snapLatch (b : Block) : Block :=
  match b.cnt.trigger with
  | none => b
  | some t =>
    let seq := b.cnt.seq + 1
    let snap := { t with frozen := b.cnt.freeze, timeFlag := b.ptp.timeFlag }
    let c := { b.cnt with trigger := none, writing := some { seq, snap, words := b.imageWords } }
    { b with cnt := c.setSlot seq none }

/-- DESIGN CHOICE, notes/assumptions/3. -/
def execSnapshotLatch (s : State) : Host.Outcome State Fault Refusal := nextOf s s.blk.snapLatch

/-- The 64 B header of an image (R346). -/
def Image.header (i : Image) : List Byte :=
  leBytes 8 i.seq ++ leBytes 8 i.snap.instant ++ leBytes 4 i.snap.tag
    ++ leBytes 1 (i.snap.triggers + (if i.snap.timeFlag then 16 else 0) + (if i.snap.frozen then 32 else 0)) ++ leBytes 1 1 ++ leBytes 42 0

/-- Words `[a, a + 8 n)` of an image as bytes. -/
def Image.bytes (i : Image) (a n : Nat) : List Byte := (List.range n).flatMap fun k => leBytes 8 (tget 0 i.words (a + 8 * k)).toNat

/-- Copies of context records; one that fails clears its en (R349). -/
def Block.ctxCopies (b : Block) (i : Image) : Block :=
  (List.range 16).foldl (fun (b : Block) n =>
    let c := b.ctx n
    if c.dstEn ∧ c.readPerm then
      let a := c.dstAddr + 256 * (i.seq % 4)
      if b.inMemory a 192 ∧ (linesOf a 192).all (fun l => !b.failedChan (b.chanOf (64 * l))) then b.hubWrite a (i.header ++ i.bytes (0x15000 + 0x80 * n) 16)
      else b.setCtx n { c with dstEn := false }
    else b) b

/-- R346, R347: the image is complete; its commands complete, and queued triggers start the next snapshot. -/
def Block.imageWritten (b : Block) : Block :=
  match b.cnt.writing with
  | none => b
  | some i =>
    let next := match b.cnt.queued.map (·.2) with
      | [] => none
      | x :: rest => some { rest.foldl Snap.join x with instant := b.time + 2000 }
    let c := { b.cnt with writing := none, seq := i.seq, queued := [], trigger := next }
    let b : Block := { b with cnt := c.setSlot i.seq (some i) }
    let b := b.ctxCopies i
    i.snap.waiters.foldl (fun b w => b.finish w.1 w.2 .success i.seq) b

def execSnapshotImageWritten (s : State) : Host.Outcome State Fault Refusal := nextOf s s.blk.imageWritten

/-! ### Windows (R343) -/

/-- LAST takes the window's bytes, and PEAK the larger of PEAK and LAST. While frozen both hold (R348).
DEDUCED, notes/assumptions/86. -/
def Block.windowBoundary (b : Block) : Block :=
  let c := b.cnt
  if c.lenUs = 0 then b
  else
    let fresh := { c with window := [], windowFlag := b.ptp.timeFlag, restart := false }
    if c.restart ∨ c.freeze then { b with cnt := fresh }
    else
      let flag := c.windowFlag || b.ptp.timeFlag
      let one (t : Tab Counter) (p : Nat) : Tab Counter :=
        let n := tget 0 c.window p
        tput {} t p { count := n % 2 ^ 48, ovf := (tget {} t p).ovf || decide (2 ^ 48 ≤ n), tflag := flag }
      let last := (List.range 82).foldl one c.last
      let peak := (List.range 82).foldl (fun t p =>
        let l := tget {} last p
        let k := tget {} t p
        if k.count < l.count then tput {} t p { k with count := l.count, ovf := k.ovf || l.ovf } else t) c.peak
      { b with cnt := { fresh with last, peak } }

/-- DESIGN CHOICE, notes/assumptions/3. -/
def execPortWindowBoundary (s : State) : Host.Outcome State Fault Refusal := nextOf s s.blk.windowBoundary

/-! ### Controls (R348, R349) -/

/-- The counter controls answer the headstock, JTAG and the page of PF0. -/
def Block.asCounterAdmin (b : Block) (who : Initiator) (f : Block → Block) : Block :=
  match who with
  | .host fn => if fn = 0 ∧ b.hubUp ∧ (b.func 0).d3hot = false then (f b).answer .success else b
  | _ => b.asAdmin who fun b => (f b).answer .success

def execCntFreeze (who : Initiator) (on : Bool) (s : State) : Host.Outcome State Fault Refusal :=
  nextOf s (s.blk.asCounterAdmin who fun b => b.setFreeze on)

/-- A count of zero; ovf stays until it is cleared (R337).
DEDUCED, notes/assumptions/86. -/
def Counter.zero (c : Counter) : Counter := { c with count := 0 }
def Counter.clrOvf (c : Counter) : Counter := { c with ovf := false }

def mapTab (f : Counter → Counter) (t : Tab Counter) : Tab Counter := (t.map fun e => (e.1, f e.2)).filter fun e => e.2 ≠ {}

def Spindle.mapCnt (f : Counter → Counter) (s : Spindle) : Spindle :=
  { s with cntProg := mapTab f s.cntProg, cntTd := mapTab f s.cntTd, wasteCycles := f s.wasteCycles, wasteBytes := f s.wasteBytes }
def Counters.mapPorts (f : Counter → Counter) (c : Counters) : Counters :=
  { c with tot := mapTab f c.tot, last := mapTab f c.last, peak := mapTab f c.peak, spec := mapTab f c.spec }

def Block.mapSpindleCnt (f : Counter → Counter) (b : Block) : Block := { b with spindles := b.spindles.map fun e => (e.1, e.2.mapCnt f) }
def Block.mapPortCnt (f : Counter → Counter) (b : Block) : Block := { b with cnt := b.cnt.mapPorts f }
def Block.mapCtxCnt (f : Counter → Counter) (b : Block) : Block :=
  { b with ctxs := b.ctxs.map fun e => (e.1, { e.2 with cnt := mapTab f e.2.cnt }), cnt := { b.cnt with devIdle := f b.cnt.devIdle } }

def execCntClrOvf (who : Initiator) (s : State) : Host.Outcome State Fault Refusal :=
  nextOf s (s.blk.asCounterAdmin who fun b => ((b.mapSpindleCnt Counter.clrOvf).mapPortCnt Counter.clrOvf).mapCtxCnt Counter.clrOvf)
def execCntClrCtx (who : Initiator) (s : State) : Host.Outcome State Fault Refusal :=
  nextOf s (s.blk.asCounterAdmin who fun b => b.mapCtxCnt Counter.zero)
def execCntClrPort (who : Initiator) (s : State) : Host.Outcome State Fault Refusal :=
  nextOf s (s.blk.asCounterAdmin who fun b => b.mapPortCnt Counter.zero)
def execCntClrSpindle (who : Initiator) (s : State) : Host.Outcome State Fault Refusal :=
  nextOf s (s.blk.asCounterAdmin who fun b => b.mapSpindleCnt Counter.zero)

/-- CNT_WIN_CFG: changing len_us discards the window in progress (R343). -/
def Block.setWindow (b : Block) (n : Nat) : Block :=
  if b.cnt.lenUs = n then b else { b with cnt := { b.cnt with lenUs := n, window := [], restart := true } }

def execCntWinCfg (who : Initiator) (lenUs : BitVec 16) (s : State) : Host.Outcome State Fault Refusal :=
  nextOf s (s.blk.asCounterAdmin who fun b => b.setWindow lenUs.toNat)

/-- The RW fields of CNT_SEL_n (Table 19.4). -/
def selMask : Word64 := 0x1F00FF

def execCntSelBcast (who : Initiator) (n : Fin 8) (val : Word64) (s : State) : Host.Outcome State Fault Refusal :=
  nextOf s (s.blk.asCounterAdmin who fun b =>
    (List.range 272).foldl (fun (b : Block) p => b.modSpd p fun x => { x with cntSel := tput 0 x.cntSel n.val (val &&& selMask) }) b)

/-! ### Slots (R339 to R341) -/

/-- The frequencies of the operating points (Table 18.1). -/
def opMhz (i : Nat) : Nat := [800, 900, 1000, 1100, 1200, 1250, 1300, 1350, 1400, 1450, 1500, 1550, 1600, 1650, 1700, 1800].getD i 0

/-- A local-flag wait holds the engine's next command (R57). -/
def Spindle.flagHolds (s : Spindle) (e : Engine) : Bool :=
  match nextToBegin (s.queue e) with
  | some q => !q.begun && (match hdrWait q.w.toNat with
    | some k => (s.flag k).count == 0
    | none => false)
  | none => false

/-- The starved category of the sequencer in this cycle, none where it works on a word (Table 19.3).
DESIGN CHOICE, notes/assumptions/148. -/
def Spindle.seqStarved (s : Spindle) : Option Nat :=
  if s.halted then some 2
  else match s.hold with
    | .fence _ _ _ => some 3
    | .swait _ => some 2
    | .retired => some 2
    | _ => match s.wordAt s.pc with
      | none => some 2
      | some w => match opSpec (w % 256) with
        | some o => if queueDepth o.eng ≤ ((s.queue o.eng).filter (!·.begun)).length then some 3 else none
        | none => none

/-- The starved category of an engine, or the command that it works on (Table 19.3).
DESIGN CHOICE, notes/assumptions/148. -/
def Spindle.engSlot (s : Spindle) (e : Engine) : Nat ⊕ QCmd :=
  match (s.queue e).find? fun q => q.begun && !q.completed with
  | some q => .inr q
  | none => match nextToBegin (s.queue e) with
    | some q => .inl (if !s.flagHolds e && ((opSpec (q.w.toNat % 256)).any (·.credit)) && decide (16 ≤ s.credit) then 3 else 2)
    | none => .inl 2

/-- The slots of one engine over `n` cycles of a blank. -/
def Block.engCycles (b : Block) (p n : Nat) (e : Engine) : Block :=
  let s := b.spd p
  match s.engSlot e with
  | .inr q => b.modCmd p e q.idx fun q => { q with slots := q.slots + n }
  | .inl k => b.addSlots { spindle := p, src := 1 + engNum e, cat := k, n, ctx := some s.ctx }

/-- `n` cycles of spindle `p`: its slots and its cycle events. Slots on a stolen N tile belong to the victim's blank, and slots with
no blank to the device account (R339 to R341). -/
def Block.spdCycles (b : Block) (p n : Nat) : Block :=
  let s := b.spd p
  if !s.inService then b
  else
    let c := if s.cur.isSome && s.started then s.ctx else 16
    let b := b.countEvent p c 0x01 n
    let thief := s.thief.isSome
    let b := match s.thief with
      | some t => b.modSpd t.victim fun v => v.addTally p 1 n
      | none => b
    let rest := engines.filter fun e => !(thief && e == .matrix)
    if c = 16 then
      (0 :: rest.map fun e => 1 + engNum e).foldl (fun (b : Block) e => b.addSlots { spindle := p, src := e, cat := 2, n }) b
    else
      let b := match s.hold with
        | .swait _ => b.countEvent p c 0x1F n
        | _ => b
      let b := if engines.any s.flagHolds then b.countEvent p c 0x20 n else b
      let b := match s.seqStarved with
        | some k => b.addSlots { spindle := p, src := 0, cat := k, n, ctx := some c }
        | none => if s.isSpec s.nextIdx then b.modSpd p fun s => { s with seqSlots := s.seqSlots ++ [(s.nextIdx, n)] } else b.modSpd p fun s => s.addTally p 0 n
      rest.foldl (fun b e => b.engCycles p n e) b

/-- The island cycles of one nanosecond, at the operating frequency (R339, Table 18.1).
DESIGN CHOICE, notes/assumptions/148. -/
def Block.cycles (b : Block) : Block :=
  if !b.clocked || b.cnt.freeze then b
  else
    let k := b.cnt.cycle + opMhz b.cal.opNow
    let b : Block := { b with cnt := { b.cnt with cycle := k % 1000 } }
    if k / 1000 = 0 then b else (List.range 272).foldl (fun b p => b.spdCycles p (k / 1000)) b

/-! ### Device time -/

/-- A wait of context `c` watches a peer marked throttled (R304). -/
def Block.watchesThrottled (b : Block) (c : Nat) : Bool :=
  let hot (w : Wait) : Bool := b.conns.any fun e => e.2.ctx == c && e.2.throttled && (w.watchAll || (w.watchEn && e.2.peer == w.watchPeer))
  b.spindles.any (fun e => e.2.ctx == c && (match e.2.hold with
    | .swait w => hot w
    | _ => false))
  || (b.ctx c).lanes.any fun l => l.2.waiting.any hot

/-- One nanosecond passes: device time advances, and so do the throttle counter of each context it concerns and the slots of every
spindle.
DESIGN CHOICE, notes/assumptions/2. -/
def Block.tick (b : Block) : Block :=
  if b.power = .a3 ∨ b.power = .a4 then b
  else
    let b := (List.range 16).foldl (fun (b : Block) c => if b.watchesThrottled c then b.countCtx c 10 1 else b) b
    let b := b.cycles
    { b with time := (b.time + 1) % 2 ^ 64 }

end Sys2Proof.Machine
end

