-- ==== Sys2Proof/Machine/KerfRx.lean ====
section
/-!
DEFINITION. Receiving on Kerf: frames, acknowledgement, groups, the sequenced packets, and the loss of a peer (Chapter 16).
-/
namespace Sys2Proof.Machine

/-! ### Frames (R282 to R284) -/

/-- Payload bytes that a packet of a type carries; `none` leaves the length to the packet (Table 16.4). -/
def fixedPayload (type : Nat) : Option Nat :=
  match type with
  | 1 => some 0
  | 4 => some 0
  | 6 => some 0
  | 8 => some 32
  | 9 => some 0
  | 10 => some 32
  | 11 => some 64
  | 12 => some 64
  | _ => none

/-- Reserved fields of a control payload.
DEDUCED, notes/assumptions/72. -/
def payloadZero (type : Nat) (bs : List Byte) : Bool :=
  let x := beNat bs
  match type with
  | 10 => bits x 95 72 == 0 && bits x 65 0 == 0
  | 11 => bits x 407 0 == 0
  | 12 => bits x 407 0 == 0
  | _ => true

/-- The packet of a frame's bytes, when its lengths and CRC agree (Tables 16.3, 16.5). The CRC is little-endian (R5).
DEDUCED, notes/assumptions/71. DEDUCED, notes/assumptions/72. -/
def parsePacket (bytes : List Byte) : Option Packet :=
  let h := beNat (bytes.take 32)
  let sig := bit h 171
  let ext := if sig then 16 else 0
  let body := bytes.dropLast.dropLast.dropLast.dropLast
  let x := if sig then beNat ((bytes.drop 32).take 16) else 0
  let payload := body.drop (32 + ext)
  let type := bits h 251 248
  let len := bits h 47 32
  let lenOk := match fixedPayload type with
    | some n => payload.length == n && (type == 1 || len == n)
    | none => payload.length == len
  let opZero := [3, 5, 6, 9].contains type || bits h 167 164 == 0
  let fmtZero := type == 3 || bits h 163 160 == 0
  let addrZero := [0, 1, 2, 3, 5].contains type || bits h 95 48 == 0
  if bytes.length < 36 + ext ∨ crc32c body ≠ leNat (bytes.drop body.length) ∨ !lenOk ∨ 4096 < len then none
  else some {
    version := bits h 255 252, type, inc := bits h 247 240, conn := bits h 239 224, seq := bits h 223 192, src := bits h 191 180
    sgrp := bits h 179 172, sig, ev := bit h 170, op := bits h 167 164, fmt := bits h 163 160, epoch := bits h 159 97
    addr := bits h 95 48, len, xfer := bits h 31 0, amount := sbits x 127 64, npre := bits x 63 32, cell := bits x 31 15, payload
    resvZero := bits h 169 168 == 0 && bits h 96 96 == 0 && bits x 14 0 == 0 && opZero && fmtZero && addrZero && payloadZero type payload }

def Block.dropFrame (b : Block) (port : Nat) : Block := b.modPort port fun p => { p with drops := min 65535 (p.drops + 1) }

/-- A connection that is open. -/
def Conn.isOpen (c : Conn) : Bool := decide (c.ctx < 16)

/-- The connection a packet belongs to (R284): a CONNECT names none, and what a CONNECT_RESP answers has no incarnation yet. A
loopback connection takes no packet from a port.
DEDUCED, notes/assumptions/73. -/
def Block.packetConn (b : Block) (k : Packet) (looped : Bool := false) : Option Nat :=
  let c := b.conn k.conn
  if c.isOpen && c.loop == looped && (k.type == 12 || c.peerInc == k.inc) then some k.conn else none

/-- The path that a frame names (R282). -/
def framePath (f : Frame) : Nat := f.srcPort.toNat % 32

/-- A frame of a packet with header connection `conn` keeps the rules of R282: Next Header, addresses, source port and flow label of
its path.
DEDUCED, notes/assumptions/154. -/
def Block.frameOk (b : Block) (f : Frame) (conn : Nat) : Bool :=
  f.udp && f.port.val == framePath f % 8 && f.dst == b.deviceAddr + BitVec.ofNat 128 f.port.val && f.src.toNat % 8 == framePath f % 8
    && f.srcPort.toNat == pathPort conn (framePath f) && f.flow.toNat == pathFlow conn (framePath f)

/-- What arrives on a port: the event's own action on a packet that is checked, or a drop that is counted (R282, R284).
DEDUCED, notes/assumptions/73. -/
def Block.rxCheck (b : Block) (f : Frame) (act : Block → Nat → Packet → Block) : Block :=
  let p := f.port.val
  match parsePacket f.bytes with
  | none => b.dropFrame p
  | some k =>
    if !b.frameOk f k.conn || k.version != 1 || !k.resvZero then b.dropFrame p
    else if k.type = 11 then act b 0 k
    else match b.packetConn k with
      | none => b.dropFrame p
      | some i => if (b.conn i).addr + BitVec.ofNat 128 f.port.val = f.src then act b i k else b.dropFrame p

/-- Bytes in a port's receive buffer. -/
def Port.rxBytes (p : Port) : Nat := (p.rx.map fun f => f.bytes.length).sum

/-- A frame goes into its port's receive buffer of 2 MiB: with priority flow control on, a pause is sent at 1.5 MiB, and what does not
fit is dropped and counted (R281). -/
def Block.rxHold (b : Block) (f : Frame) : Block :=
  let n := f.port.val
  let p := b.port n
  let size := p.rxBytes + f.bytes.length
  if 0x200000 < size then b.dropFrame n
  else
    let b := b.modPort n fun p => { p with rx := p.rx ++ [f] }
    if p.pfcEn && decide (p.rxBytes < 0x180000) && decide (0x180000 ≤ size) then { b with pfcOut := b.pfcOut ++ [(n, p.pfcPrio)] } else b

/-- A frame is handled at once, unless frames before it wait in the receive buffer or its handling meets a full channel queue.
DESIGN CHOICE, notes/assumptions/152. -/
def Block.rxFrame (b : Block) (f : Frame) (act : Block → Block) : Block :=
  if (b.port f.port.val).rx = [] then
    let r := act b
    if r.stalled then b.rxHold f else r
  else b.rxHold f

/-- The type of a frame's packet, where it parses. -/
def frameType (f : Frame) : Option Nat := (parsePacket f.bytes).map (·.type)

/-- A frame arrives, and its bytes are counted (R342). One for another port is no Kerf packet, and one of another type than the
event's is not this event.
DEDUCED, notes/assumptions/91. -/
def Block.receive (b : Block) (f : Frame) (types : Nat → Bool) (act : Block → Nat → Packet → Block) : Block :=
  let p := f.port.val
  if b.hubLost || !(b.port p).linkUp || (f.dstPort.toNat == b.krfUdpPort && (frameType f).any fun t => !types t) then b
  else
    let b := b.countPort (66 + p) (66 + f.bytes.length)
    if f.dstPort.toNat != b.krfUdpPort then b else b.rxFrame f fun b => b.rxCheck f act

/-! ### Acknowledgement (R286, R287) -/

/-- The signed distance of a sequence number from another (serial-number arithmetic).
DESIGN CHOICE, notes/assumptions/67. -/
def serial (n base : Nat) : Int := sext 32 (n + 2 ^ 32 - base % 2 ^ 32)

/-- The cumulative number and the bitmap of an ACK. -/
def Conn.ackFields (c : Conn) : Nat × Nat :=
  let work := c.rxWork.map fun x => x.1.seq
  let low := work.foldl (fun (m : Int) s => min m (serial s c.rxBase)) 0
  let next := (((c.rxBase : Int) + low) % (2 ^ 32 : Nat)).toNat
  let seen (n : Nat) : Bool := (decide (serial n c.rxBase < 0) || c.rxSeen.contains n) && !work.contains n
  ((next + 2 ^ 32 - 1) % 2 ^ 32, (List.range 256).foldl (fun acc i => if seen ((next + i) % 2 ^ 32) then acc + 2 ^ i else acc) 0)

/-- Sends a packet that is not sequenced. -/
def Block.sendCtrl (b : Block) (k : Nat) (path : Nat) (pkt : Packet) : Block :=
  let c := b.conn k
  if c.loop || (b.port (path % 8)).linkUp then b.transmit k { pkt with inc := c.inc, conn := c.peerConn, len := pkt.payload.length } path else b

def Block.sendAck (b : Block) (k : Nat) : Block :=
  let c := b.conn k
  if c.ackPending = 0 then b
  else
    let (cum, map) := c.ackFields
    (b.setConn k { c with ackPending := 0 }).sendCtrl k c.ackPath { type := 8, seq := cum, payload := beBytes 32 map }

/-- One more number to acknowledge: an ACK leaves after 16 (R286). -/
def Block.ackOne (b : Block) (k : Nat) : Block :=
  let b := b.modConn k fun c => { c with ackPending := c.ackPending + 1 }
  if 16 ≤ (b.conn k).ackPending then b.sendAck k else b

def Block.sendNack (b : Block) (k path seq reason : Nat) : Block := b.sendCtrl k path { type := 9, seq, op := reason }

/-- Table 16.6. -/
def nackOf (st : Status) : Nat :=
  match st with
  | .accessDenied => 3
  | .addressUnmapped => 4
  | .poisonedTarget => 5
  | .epochRejected => 6
  | _ => 7

def nackStatus (reason : Nat) : Status :=
  match reason with
  | 3 => .accessDenied
  | 4 => .addressUnmapped
  | 5 => .poisonedTarget
  | 6 => .epochRejected
  | _ => .invalidField

/-- The number is received: base moves past every number received (R287). -/
def Conn.markSeen (c : Conn) (seq : Nat) : Conn :=
  iter (c.rxSeen.length + 1) { c with rxSeen := c.rxSeen ++ [seq] } fun c _ =>
    if c.rxSeen.contains c.rxBase then { c with rxSeen := c.rxSeen.filter (· ≠ c.rxBase), rxBase := (c.rxBase + 1) % 2 ^ 32 } else c

/-! ### Signal groups (R295) -/

def Conn.group (c : Conn) (src grp : Nat) : RxGroup := (c.rxGroups.find? fun g => g.src == src && g.sgrp == grp).getD { src, sgrp := grp }
def Conn.setGroup (c : Conn) (g : RxGroup) : Conn :=
  { c with rxGroups := (c.rxGroups.filter fun x => !(x.src == g.src && x.sgrp == g.sgrp)) ++ [g] }
def Conn.dropGroup (c : Conn) (src grp : Nat) : Conn :=
  { c with rxGroups := c.rxGroups.filter fun x => !(x.src == src && x.sgrp == grp) }

/-- A held signal applies once its group's packets are accepted or refused, or is discarded when one was refused. -/
def Block.groupTry (b : Block) (k src grp : Nat) : Block :=
  let c := b.conn k
  let g := c.group src grp
  match g.held with
  | none => b
  | some pkt =>
    if g.accepted < pkt.npre ∨ (pkt.type = 0 ∧ c.rxWork.any fun x => x.1.seq == pkt.seq) then b
    else
      let b := b.setConn k { c.dropGroup src grp with rxWork := if pkt.type = 4 then c.rxWork.filter fun x => x.1.seq != pkt.seq else c.rxWork }
      let b := if g.refused then b else b.signal pkt.cell pkt.amount 0x6000 c.peer
      if pkt.type = 4 then b.ackOne k else b

/-- A WRITE or ATOMIC packet of a group is accepted or refused. -/
def Block.groupCount (b : Block) (k : Nat) (pkt : Packet) (refused : Bool) : Block :=
  let b := b.modConn k fun c =>
    let g := c.group pkt.src pkt.sgrp
    c.setGroup { g with accepted := if pkt.sig then g.accepted else g.accepted + 1, refused := g.refused || refused }
  b.groupTry k pkt.src pkt.sgrp

/-- A refused packet that carries its group's signal takes the signal with it.
DEDUCED, notes/assumptions/75. -/
def Block.groupRefuse (b : Block) (k : Nat) (pkt : Packet) : Block :=
  if pkt.sig then b.modConn k fun c => c.dropGroup pkt.src pkt.sgrp
  else if pkt.type = 0 ∨ pkt.type = 3 then b.groupCount k pkt true else b

/-! ### What a failure does to a transfer (R289, R292) -/

/-- One packet of an engine's command is answered. -/
def Block.cmdAnswer (b : Block) (p : Nat) (e : Engine) (idx : Nat) (st : Status) : Block :=
  let b := b.modCmd p e idx fun q => { q with outstanding := q.outstanding - 1 }
  if st = .success then b else b.kxFail p e idx st

/-- The armed chain of a descriptor. -/
def Block.chainFind (b : Block) (ctx desc : Nat) : Option Chain := b.chains.find? fun c => c.ctx == ctx && c.descAddr == desc

/-- SWEEP_DONE (Table 17.6). -/
def Block.sweepEvent (b : Block) (ctx number : Nat) (part : Bool) : Block :=
  b.postEvent (1 + ctx) 0x2003 (number + fld (b2n part) 1 32)

/-- A packet of a source's group is still to be answered. -/
def Conn.groupOpen (c : Conn) (src grp : Nat) : Bool :=
  (c.out ++ c.again ++ c.waiting).any fun o => o.pkt.src == src && o.pkt.sgrp == grp && (o.pkt.type == 0 || o.pkt.type == 3)

/-- An acknowledged signal: applied, or, where a packet of its group was refused, discarded by its receiver and logged here (R274,
R295). -/
def Block.sigAnswered (b : Block) (k : Nat) (x : Nat × Nat × XferOwner) : Block :=
  let c := b.conn k
  match x.2.2 with
  | .signal ctx cell spindle blank =>
    if c.txRefused.contains (x.1, x.2.1) then
      (b.setConn k { c with txRefused := c.txRefused.filter (· ≠ (x.1, x.2.1)) }).deferredSignal ctx cell .accessDenied spindle blank
    else b
  | _ => b

/-- Acknowledged signals complete once every packet of their group is answered. -/
def Block.sigSettle (b : Block) (k : Nat) : Block :=
  let c := b.conn k
  let due := c.sigDue.filter fun x => !c.groupOpen x.1 x.2.1
  due.foldl (fun b x => b.sigAnswered k x) (b.setConn k { c with sigDue := c.sigDue.filter fun x => c.groupOpen x.1 x.2.1 })

/-- What a packet was sent for completes with a failure. -/
def Block.ownerFail (m : Dram) (b : Block) (k : Nat) (pkt : Packet) (owner : XferOwner) (st : Status) : Block :=
  match owner with
  | .none => b
  | .engine p e idx _ _ => b.cmdAnswer p e idx st
  | .row p idx tag => b.rowAnswer m p idx tag (.error st)
  | .signal ctx cell spindle blank => b.deferredSignal ctx cell (sigStatus st) spindle blank
  | .chain desc =>
    match b.chainFind (b.conn k).ctx desc with
    | some ch => b.chainBreakAt ch (chainDesc ch.desc.toNat).pos st.code none
    | none => b
  | .sweep s => b.sweepEvent (b.conn k).ctx s true
  | .scatter ctx spindle blank serial => b.lateFault { p := spindle, ctx, blank, serial } pkt.addr st
  | .lane ctx _ addr _ _ spindle blank serial _ _ => b.lateFault { p := spindle, ctx, blank, serial } addr st
  | .probe _ => b

/-- The transfer of a packet completes with a failure, and a signal that rides on it is not applied (R274, R289). -/
def Block.xferFail (m : Dram) (b : Block) (k : Nat) (o : OutPkt) (st : Status) : Block :=
  ((b.ownerFail m k o.pkt o.owner st).ownerFail m k o.pkt o.rider st).sigSettle k

/-- The answer that a packet still awaits besides its acknowledgement is no longer expected. -/
def Conn.dropRead (c : Conn) (o : OutPkt) : Conn :=
  { c with reads := eraseFirst (fun r => r.pkt.xfer == o.pkt.xfer && r.pkt.type == o.pkt.type && r.pkt.op == o.pkt.op) c.reads }

/-- A refused WRITE or ATOMIC packet without a signal takes its group's signal with it (R295). -/
def Conn.noteRefused (c : Conn) (o : OutPkt) : Conn :=
  if (o.pkt.type = 0 ∨ o.pkt.type = 3) ∧ o.pkt.sig = false then { c with txRefused := dedup (c.txRefused ++ [(o.pkt.src, o.pkt.sgrp)]) } else c

def Block.failAll (m : Dram) (b : Block) (k : Nat) (st : Status) : Block :=
  let c := b.conn k
  let asks (o : OutPkt) : Bool := c.reads.any fun r => r.pkt.xfer == o.pkt.xfer && r.pkt.type == o.pkt.type && r.pkt.op == o.pkt.op
  let rest := (c.out ++ c.again ++ c.waiting).filter fun o => !asks o
  let b := b.setConn k { c with out := [], again := [], waiting := [], reads := [], txRefused := [], sigDue := [] }
  let b := (rest ++ c.reads).foldl (fun b o => b.xferFail m k o st) b
  c.sigDue.foldl (fun b x => b.ownerFail m k {} x.2.2 st) b

/-- Marks PEER_LOST due on every wait of the context that watches the peer (R276). -/
def Block.watchLost (b : Block) (ctx peer : Nat) : Block :=
  let due (w : Wait) : Wait := if w.watchAll || (w.watchEn && w.watchPeer == peer) then { w with peerLostDue := true } else w
  let b : Block := { b with spindles := b.spindles.map fun e =>
    match e.2.hold with
    | .swait w => if e.2.ctx = ctx then (e.1, { e.2 with hold := .swait (due w) }) else e
    | _ => e }
  b.modCtx ctx fun c => { c with lanes := c.lanes.map fun l => (l.1, { l.2 with waiting := l.2.waiting.map due }) }

/-- The registrations and pins that this device holds for a peer are removed (R159, R165, R292). -/
def Block.dropPeer (b : Block) (k : Nat) : Block :=
  let regs := b.peerRegs.filter fun r => r.conn == k
  let pins := b.pins.filter fun x => x.owner == .peer k
  let b : Block := { b with peerRegs := b.peerRegs.filter (fun r => r.conn != k), pins := b.pins.filter fun x => x.owner != .peer k }
  let b := regs.foldl (fun b r => b.subReader r.tableId r.er) b
  pins.foldl (fun b x => b.subReader x.tableId x.epoch) b

/-- A peer is declared lost (R292): cause 1 silence, 2 give-up.
DEDUCED, notes/assumptions/79. -/
def Block.declareLost (m : Dram) (b : Block) (k cause : Nat) : Block :=
  let c := b.conn k
  if !c.isOpen || c.loop || c.state == .lost then b
  else
    let b := b.record { context := some c.ctx, severity := 1, cls := 0x09, status := Status.peerLost.code, peer := c.peer, info := cause }
    let b := (b.setConn k { c with state := .lost, rxGroups := c.rxGroups.map fun g => { g with held := none } }).publishPeer k
    let b := b.watchLost c.ctx c.peer
    let b := b.failAll m k .peerLost
    let near := b.chains.filter fun ch => ch.ctx == c.ctx &&
      (let d := chainDesc ch.desc.toNat
       (decide (0 < d.pos) && d.prevPeer == c.peer) || (!d.last && d.nextPeer == c.peer))
    let b := near.foldl (fun b ch => if b.chains.contains ch then b.chainBreakAt ch (chainDesc ch.desc.toNat).pos Status.peerLost.code none else b) b
    b.dropPeer k

/-! ### What a success does -/

/-- What a packet was sent for, once the packet is acknowledged. A read request of no bytes has no other answer. -/
def Block.ownerDone (m : Dram) (b : Block) (k : Nat) (pkt : Packet) (owner : XferOwner) : Block :=
  match owner with
  | .engine p e idx _ _ => if pkt.type = 0 ∨ pkt.type = 3 then b.cmdAnswer p e idx .success else b
  | .row p idx tag => if pkt.len = 0 then b.rowAnswer m p idx tag (.ok []) else b
  | .signal _ _ _ _ => b.modConn k fun c => { c with sigDue := c.sigDue ++ [(pkt.src, pkt.sgrp, owner)] }
  | .chain desc =>
    match b.chainFind (b.conn k).ctx desc with
    | some ch =>
      if pkt.op = 0 then
        let ch' := { ch with acked := ch.acked + 1 }
        (b.setChain ch ch').chainCheck ch'
      else b
    | none => b
  | .probe path => (b.modConn k fun c => { c with downPaths := c.downPaths.filter (· ≠ path) }).publishPeer k
  | _ => b

/-- An acknowledged packet leaves the connection. -/
def Block.xferDone (m : Dram) (b : Block) (k : Nat) (o : OutPkt) : Block :=
  let b := b.modConn k fun c => { c with expiries := tdel c.expiries o.path }
  ((b.ownerDone m k o.pkt o.owner).ownerDone m k o.pkt o.rider).sigSettle k

/-- The fetch-add of a settled reservation has answered: its records follow, or the reservation did not fit and the command fails, if
it still runs (R134). -/
def Block.laneAnswer (b : Block) (k : Nat) (o : OutPkt) (c0 : Nat) (x : Issuer) (idx addr cap recBytes : Nat) (recs : List (List Byte)) : Block :=
  let b := if b.stillRuns x then b.modCmd x.p .gouge idx fun q => { q with outstanding := q.outstanding - 1 } else b
  if c0 + recs.length ≤ cap then
    iter recs.length b fun b j =>
      (linePieces (addr + 64 + (c0 + j) * recBytes) (recs.getD j [])).foldl (fun b y =>
        b.queuePkt k { type := 0, src := o.pkt.src, ev := o.pkt.ev, epoch := o.pkt.epoch, addr := y.1, payload := y.2 }
          (.scatter x.ctx x.p x.blank x.serial) (serial := x.serial)) b
  else if b.stillRuns x then b.kxFail x.p .gouge idx .combineFull else b

/-- The data of a read, or the prior value of a fetch-add, has arrived (R134, R296); data for a spindle crosses its tile's hub link
(R12).
DEDUCED, notes/assumptions/76. -/
def Block.readDone (m : Dram) (b : Block) (k : Nat) (o : OutPkt) (bs : List Byte) : Block :=
  match o.owner with
  | .engine p e idx dst spad =>
    match ((b.spd p).queue e).find? fun q => q.idx == idx with
    | some q => ((b.hubLink (some (tileOf p)) false bs.length).kgetWrite m p q dst spad bs).cmdAnswer p e idx .success
    | none => b
  | .row p idx tag => (b.hubLink (some (tileOf p)) false bs.length).rowAnswer m p idx tag (.ok bs)
  | .lane ctx _ addr cap recBytes p blank serial idx recs => b.laneAnswer k o (leNat bs) { p, ctx, blank, serial } idx addr cap recBytes recs
  | _ => b

/-! ### Sequenced packets -/

/-- What becomes of a sequenced packet at its receiver. -/
inductive Verdict where
  /-- processed: acknowledged -/
  | done (b : Block)
  /-- acknowledged once its writes are accepted, or its signal applied or discarded -/
  | wait (b : Block)
  | refuse (b : Block) (reason : Nat)

/-- An ATOMIC that Table 16.3 and Table 6.5 know, of 4 to 64 B in one line. -/
def atomicOk (k : Packet) : Bool :=
  let n := k.payload.length
  let es := elemBits k.fmt / 8
  decide (4 ≤ n) && decide (n ≤ 64) && decide (k.addr % 64 + n ≤ 64)
    && (match k.op with
      | 0 => true
      | 1 => [0, 1, 0xC, 0xD].contains k.fmt && n % es == 0 && k.addr % es == 0
      | 2 => k.fmt == 0 && n % 4 == 0 && k.addr % 4 == 0
      | 3 => k.fmt == 0 && n % 4 == 0 && k.addr % 4 == 0
      | 4 => k.fmt == 0xD && n == 8 && k.addr % 8 == 0
      | _ => false)

/-- WRITE and ATOMIC: sent to the channel controllers; a signal they carry is held. A fetch-add answers the prior value, and is refused
on a poisoned line.
DEDUCED, notes/assumptions/76. -/
def Block.rxStore (m : Dram) (b : Block) (i : Nat) (k : Packet) : Verdict :=
  let c := b.conn i
  if k.type = 3 ∧ !atomicOk k then .refuse b 7
  else
    match b.peerCheck i c.ctx k with
    | (some st, b) => .refuse b (nackOf st)
    | (none, b) =>
      let (bad, old) := if k.type = 3 ∧ k.op = 4 then readNow m b k.addr 8 else (false, [])
      if bad then .refuse b 5 else
      let b := b.peerStore (.kerf i k.seq) k
      let b := if k.type = 3 ∧ k.op = 4 then b.queuePkt i { type := 2, addr := k.addr, xfer := k.xfer, payload := old } .none else b
      let b := if k.sig then b.modConn i fun c => c.setGroup { c.group k.src k.sgrp with held := some k } else b
      .wait b

/-- SIGNAL. -/
def Block.rxSignal (b : Block) (i : Nat) (k : Packet) : Verdict :=
  match b.peerCheck i (b.conn i).ctx k with
  | (some st, b) => .refuse b (nackOf st)
  | (none, b) => .wait (b.modConn i fun c => c.setGroup { c.group k.src k.sgrp with held := some k })

/-- READ_REQ: a path probe, or a read at the channel controllers answered by a READ_RESP. -/
def Block.rxRead (m : Dram) (b : Block) (i : Nat) (k : Packet) : Verdict :=
  if k.len = 0 then .done b
  else
    match hubRead m b k.addr k.len with
    | (.success, bs, b) => .done (b.queuePkt i { type := 2, addr := k.addr, xfer := k.xfer, payload := bs } .none)
    | (st, _, b) => .refuse b (nackOf st)

/-- READ_RESP. -/
def Block.rxReadResp (m : Dram) (b : Block) (i : Nat) (k : Packet) : Verdict :=
  let c := b.conn i
  match c.reads.find? fun o => o.pkt.xfer == k.xfer && o.pkt.addr == k.addr with
  | some o => .done ((b.setConn i { c with reads := eraseFirst (· == o) c.reads }).readDone m i o k.payload)
  | none => .done b

/-- CHAIN (R301, R302).
DEDUCED, notes/assumptions/80. -/
def Block.rxChain (m : Dram) (b : Block) (i : Nat) (k : Packet) : Verdict :=
  let c := b.conn i
  let near (ch : Chain) : Bool :=
    let d := chainDesc ch.desc.toNat
    let prev := decide (0 < d.pos) && d.prevPeer == c.peer
    let next := !d.last && d.nextPeer == c.peer
    ch.ctx == c.ctx && d.id == k.xfer && (if k.op = 0 then prev else if k.op = 1 then next else prev || next)
  match b.chains.find? near with
  | none => .refuse b 2
  | some ch =>
    let d := chainDesc ch.desc.toNat
    let j := k.addr / 4096
    if k.op = 2 then .done (b.chainBreakAt ch (bits k.addr 12 0) (bits k.addr 31 16) (some c.peer))
    else if 2 < k.op ∨ k.addr % 4096 ≠ 0 ∨ d.slices ≤ j ∨ k.payload.length ≠ 4 * d.sliceLen j ∨ (k.op = 1 ∧ d.bcast = false) then .refuse b 7
    else
      match b.epochTreat i k with
      | (false, b) => .refuse b 6
      | (true, b) =>
        let b := b.countCtx c.ctx 9 k.payload.length
        if k.op = 1 then .done (b.chainResultAt m ch j k.payload)
        else
          match b.memRange (d.recvAddr + k.addr) k.payload.length with
          | .error st => .done (b.chainBreakAt ch d.pos st.code none)
          | .ok _ => .done ((b.hubWrite (d.recvAddr + k.addr) k.payload).chainSlice m ch j (some (f32Of k.payload)))

/-- A sweep takes its snapshot here and goes on (R303, R347).
DEDUCED, notes/assumptions/78. -/
def Block.sweepAt (b : Block) (s : Sweep) (part : Bool) : Block :=
  let (kept, b) := b.snapTrigger (.sweep part) s.number []
  let part := part || !kept
  let d := chainDesc s.desc.toNat
  let b : Block := { b with sweeps := eraseFirst (· == s) b.sweeps }
  if d.last then b.sweepEvent s.ctx s.number part
  else
    match b.connOf s.ctx d.nextPeer with
    | none => b.sweepEvent s.ctx s.number true
    | some k =>
      if (b.conn k).state = .lost ∨ (b.conn k).state = .refused then b.sweepEvent s.ctx s.number true
      else b.queuePkt k { type := 6, src := 0x112, op := b2n part, xfer := s.number } (.sweep s.number)

/-- SWEEP. -/
def Block.rxSweep (b : Block) (i : Nat) (k : Packet) : Verdict :=
  let c := b.conn i
  match b.sweeps.find? fun s => s.ctx == c.ctx && s.number == k.xfer && (chainDesc s.desc.toNat).prevPeer == c.peer && decide (0 < (chainDesc s.desc.toNat).pos) with
  | none => .refuse b 2
  | some s => if 1 < k.op then .refuse b 7 else .done (b.sweepAt s (k.op == 1))

/-- A new sequenced packet acts. -/
def Block.rxApply (m : Dram) (b : Block) (i : Nat) (k : Packet) : Verdict :=
  match k.type with
  | 0 => b.rxStore m i k
  | 1 => b.rxRead m i k
  | 2 => b.rxReadResp m i k
  | 3 => b.rxStore m i k
  | 4 => b.rxSignal i k
  | 5 => b.rxChain m i k
  | _ => b.rxSweep i k

/-- A request needs the tiles: it touches device memory (R371). -/
def needsTiles (k : Packet) : Bool := k.type == 0 || k.type == 3 || (k.type == 1 && k.len != 0) || k.type == 2 || k.type == 5

/-- A request that reaches a gated tile ungates it first (R367). -/
def Block.ungate (b : Block) : Block := if b.power = .a1 then { b with power := .a0 } else b

/-- Every line of an accepted WRITE or ATOMIC is in its channel's queue: it is acknowledged, or refused when a line was
poisoned (R286, R289). -/
def Block.storeAccepted (b : Block) (i : Nat) (k : Packet) (bad : Bool) : Block :=
  let b := b.modConn i fun c => { c with rxWork := c.rxWork.filter fun x => x.1.seq != k.seq }
  if bad then (b.sendNack i (b.conn i).ackPath k.seq 5).groupRefuse i k
  else ((b.countCtx (b.conn i).ctx 9 k.payload.length).ackOne i).groupCount i k false

/-- A new packet is received and acts (R286, R287, R289). A packet refused with RETRY_LATER or NOT_ARMED is no member of
its group yet: it is to be sent again. -/
def Block.rxNew (m : Dram) (b : Block) (i path : Nat) (k : Packet) : Block :=
  let b := b.modConn i fun c => { c.markSeen k.seq with rxWork := c.rxWork ++ [(k, false)] }
  let clear (b : Block) : Block := b.modConn i fun c => { c with rxWork := c.rxWork.filter fun x => x.1.seq != k.seq }
  match (if needsTiles k ∧ b.power = .a2 then .refuse { b with wake := true } 1 else b.ungate.rxApply m i k) with
  | .done b => (clear b).ackOne i
  | .refuse b r =>
    let b := (clear b).sendNack i path k.seq r
    if r ≤ 2 then b else b.groupRefuse i k
  | .wait b =>
    if k.type = 4 then b.groupTry i k.src k.sgrp
    else if k.payload = [] then b.storeAccepted i k false else b

/-- A sequenced packet arrives on path `path`: duplicates are acknowledged again, and while a drain window is open what needs a tile
is held (R287, R371). -/
def Block.rxSequenced (m : Dram) (b : Block) (port path : Nat) (i : Nat) (k : Packet) : Block :=
  let c := b.conn i
  let d := serial k.seq c.rxBase
  let b := b.setConn i { c with ackPath := path }
  if d < 0 ∨ c.rxSeen.contains k.seq then (if c.rxWork.any fun x => x.1.seq == k.seq then b else b.ackOne i)
  else if 65535 < d then b.dropFrame port
  else if b.draining ∧ needsTiles k then
    (if b.drained.any fun x => x.1 == i && x.2.seq == k.seq then b else { b with drained := b.drained ++ [(i, k)] })
  else b.rxNew m i path k

def Block.rxSeq (m : Dram) (b : Block) (f : Frame) (types : Nat → Bool) : Block :=
  b.receive f types fun b i k => b.rxSequenced m f.port.val (framePath f) i k

def execKerfWrite (f : Frame) (s : State) : Host.Outcome State Fault Refusal := nextOf s (s.blk.rxSeq s.dram f (· == 0))
def execKerfReadReq (f : Frame) (s : State) : Host.Outcome State Fault Refusal := nextOf s (s.blk.rxSeq s.dram f (· == 1))
def execKerfReadResp (f : Frame) (s : State) : Host.Outcome State Fault Refusal := nextOf s (s.blk.rxSeq s.dram f (· == 2))
def execKerfAtomic (f : Frame) (s : State) : Host.Outcome State Fault Refusal := nextOf s (s.blk.rxSeq s.dram f (· == 3))
def execKerfSignal (f : Frame) (s : State) : Host.Outcome State Fault Refusal := nextOf s (s.blk.rxSeq s.dram f (· == 4))
def execSweep (f : Frame) (s : State) : Host.Outcome State Fault Refusal := nextOf s (s.blk.rxSeq s.dram f (· == 6))

/-- The op of a CHAIN frame; anything but result and BREAK is taken with the forward slices.
DEDUCED, notes/assumptions/91. -/
def chainFrameOp (f : Frame) : Nat := match parsePacket f.bytes with
  | some k => k.op
  | none => 0

def execChainForward (f : Frame) (s : State) : Host.Outcome State Fault Refusal :=
  nextOf s (if chainFrameOp f = 1 ∨ chainFrameOp f = 2 then s.blk else s.blk.rxSeq s.dram f (· == 5))
def execChainResult (f : Frame) (s : State) : Host.Outcome State Fault Refusal :=
  nextOf s (if chainFrameOp f = 1 then s.blk.rxSeq s.dram f (· == 5) else s.blk)
def execChainBreak (f : Frame) (s : State) : Host.Outcome State Fault Refusal :=
  nextOf s (if chainFrameOp f = 2 then s.blk.rxSeq s.dram f (· == 5) else s.blk)

/-- Types 0x7 and 0xD to 0xF are dropped and counted (R283). -/
def unknownType (t : Nat) : Bool := t == 7 || t == 13 || t == 14 || t == 15
def execKerfUnknownType (f : Frame) (s : State) : Host.Outcome State Fault Refusal :=
  let b := s.blk
  let p := f.port.val
  let t := bits (beNat (f.bytes.take 1)) 3 0
  nextOf s (if b.hubLost || !(b.port p).linkUp || f.dstPort.toNat != b.krfUdpPort || !unknownType t then b
    else (b.countPort (66 + p) (66 + f.bytes.length)).dropFrame p)

end Sys2Proof.Machine
end

