-- ==== Sys2Proof/Machine/KerfCtl.lean ====
section
/-!
DEFINITION. Kerf's control packets, timers and ports; sweeps and chains that time out; PTP (Chapter 16).
-/
namespace Sys2Proof.Machine

/-! ### ACK and NACK (R286, R289) -/

/-- The numbers that an ACK acknowledges. -/
def ackCovers (k : Packet) (seq : Nat) : Bool :=
  let d := serial seq k.seq
  decide (d ≤ 0) || (decide (d ≤ 256) && bit (beNat k.payload) (d.toNat - 1))

/-- A received ACK retires what it acknowledges, oldest first. -/
def Block.rxAck (m : Dram) (b : Block) (i : Nat) (k : Packet) : Block :=
  let c := b.conn i
  let hit := c.out.filter fun o => ackCovers k o.pkt.seq
  let b := b.setConn i { c with out := c.out.filter fun o => !ackCovers k o.pkt.seq }
  (hit.foldl (fun b o => b.xferDone m i o) b).pump i

def execKerfAck (f : Frame) (s : State) : Host.Outcome State Fault Refusal :=
  nextOf s (s.blk.receive f (· == 8) fun b i k => b.rxAck s.dram i k)

/-- A received NACK completes the refused packet's transfer, or sets it aside to be sent again. -/
def Block.rxNack (m : Dram) (b : Block) (i : Nat) (k : Packet) : Block :=
  let c := b.conn i
  match c.out.find? fun o => o.pkt.seq == k.seq with
  | none => b
  | some o =>
    let c := { c with out := c.out.filter fun o => o.pkt.seq != k.seq }
    if k.op = 1 ∨ k.op = 2 then
      (b.setConn i { c with again := c.again ++ [{ o with retryLater := if k.op = 1 then o.retryLater + 1 else o.retryLater }] }).pump i
    else
      ((b.setConn i ((c.dropRead o).noteRefused o)).xferFail m i o (nackStatus k.op)).pump i

def execKerfNack (f : Frame) (s : State) : Host.Outcome State Fault Refusal :=
  nextOf s (s.blk.receive f (· == 9) fun b i k => b.rxNack s.dram i k)

/-! ### Heartbeats and throttle notices (R291, R304) -/

/-- The lowest operating point among the throttled peers of the jobs that follow. -/
def Block.followFloor (b : Block) : Option Nat :=
  b.conns.foldl (fun acc e =>
    if e.2.throttled ∧ (b.ctx e.2.ctx).krf.jobEn ∧ (b.ctx e.2.ctx).krf.followEn then some (min (acc.getD 15) e.2.opIndex) else acc) none

def Block.followUpdate (b : Block) : Block :=
  match b.followFloor with
  | some n => { b with cal := { b.cal with followIndex := n } }
  | none => b

/-- HEARTBEAT (Table 16.8).
DEDUCED, notes/assumptions/83. -/
def Block.rxHeartbeat (b : Block) (f : Frame) (i : Nat) (k : Packet) : Block :=
  let x := beNat k.payload
  let c := b.conn i
  let echo := bits x 191 128
  let sample : Int := (b.time : Int) - echo - bits x 127 96
  let lat := if echo = 0 then c.latNs else (clampI 0 (2 ^ 24 - 1) ((c.latNs : Int) + (sample / 2 - c.latNs) / 8)).toNat
  let b := b.setConn i { c with
    hops := 255 - f.hopLimit.toNat, latNs := lat, hbTime := bits x 255 192, hbAt := b.time
    opIndex := bits x 71 68, throttled := bit x 67 }
  (b.publishPeer i).followUpdate

def execHeartbeat (f : Frame) (s : State) : Host.Outcome State Fault Refusal :=
  nextOf s (s.blk.receive f (· == 10) fun b i k => b.rxHeartbeat f i k)

/-- DEDUCED, notes/assumptions/83. -/
def Block.heartbeatPayload (b : Block) (c : Conn) : List Byte :=
  let echo := c.hbTime
  beBytes 32 (fld b.time 64 192 + fld echo 64 128 + fld (if echo = 0 then 0 else b.time - c.hbAt) 32 96
    + fld b.cal.target 4 68 + fld (b2n b.cal.throttled) 1 67 + fld (b2n b.ptp.timeFlag) 1 66)

/-- A peer whose connection index is known. -/
def Conn.known (c : Conn) : Bool := c.isOpen && !c.loop && decide (c.peerInc < 256)

/-- R291: one heartbeat to every peer of every joined context, on successive paths.
DEDUCED, notes/assumptions/83. -/
def Block.heartbeatSend (b : Block) : Block :=
  if b.hubLost then b
  else b.conns.foldl (fun b e =>
    let c := b.conn e.1
    if c.known then
      (b.setConn e.1 { c with hbPath := (c.hbPath + 1) % 32 }).sendCtrl e.1 c.hbPath { type := 10, payload := b.heartbeatPayload c }
    else b) b

def execHeartbeatSend (s : State) : Host.Outcome State Fault Refusal := nextOf s s.blk.heartbeatSend

/-- R304: the limit lifts once no peer of a following job is throttled. -/
def Block.followLift (b : Block) : Block :=
  if b.followFloor.isSome then b else { b with cal := { b.cal with followIndex := 15 } }

def execFollowLift (s : State) : Host.Outcome State Fault Refusal := nextOf s s.blk.followLift

/-! ### Connecting (R285, R293, R294) -/

/-- Table 16.9. -/
def Block.connectPayload (b : Block) (k reason : Nat) : List Byte :=
  let c := b.conn k
  let x := b.ctx c.ctx
  beBytes 64 (fld 0x0100 16 496 + fld 3 8 488 + fld (b2n x.freeMode) 2 486 + fld x.krf.formats 14 472 + fld x.krf.jobId 32 440
    + fld c.ctx 4 436 + fld k 16 420 + fld c.inc 8 412 + fld reason 4 408)

/-- CONNECT leaves on path 0. -/
def Block.sendConnect (b : Block) (k : Nat) : Block :=
  let c := b.conn k
  if (b.port 0).linkUp then b.emit c.addr { type := 11, inc := c.inc, payload := b.connectPayload k 0, len := 64 } 0 else b

/-- Paths whose local port is down. -/
def Block.portPaths (b : Block) : List Nat := (List.range 32).filter fun p => !(b.port (p % 8)).linkUp

/-- A connection opens with its next incarnation, one to the device itself at once (R25); what it has received is kept only when it reopens to the same peer.
DEDUCED, notes/assumptions/82. -/
def Block.openConn (b : Block) (k ctx peer entryAddr : Nat) (addr : Word128) (pctx : Nat) (again : Bool) : Block :=
  let old := b.conn k
  let loop := addr == b.deviceAddr && pctx == ctx
  let c : Conn := if again then { old with state := .connecting, reason := 0, nextSeq := 0, txGroups := [], txRefused := [], expiries := [], sigDue := [] }
    else { ctx, peer, entryAddr, addr, peerCtx := pctx, loop }
  let inc := (old.inc + 1) % 256
  let c : Conn := if loop then { c with inc, state := .up, peerConn := k, peerInc := inc } else { c with inc, downPaths := b.portPaths, state := .connecting }
  let b := (b.setConn k c).publishPeer k
  if loop then b else b.sendConnect k

/-- A connection closes: everything of it fails, and its incarnation stays (R285).
DEDUCED, notes/assumptions/122. -/
def Block.closeConn (m : Dram) (b : Block) (k : Nat) (st : Status) : Block :=
  let b := (b.failAll m k st).dropPeer k
  b.setConn k { ctx := 16, inc := (b.conn k).inc }

/-- A peer's index and incarnation are learnt; a new incarnation starts its numbers afresh. -/
def Conn.learn (c : Conn) (pconn pinc : Nat) : Conn :=
  if c.peerInc = pinc then { c with peerConn := pconn }
  else { c with peerConn := pconn, peerInc := pinc, rxBase := 0, rxSeen := [], rxWork := [], rxGroups := [], ackPending := 0 }

/-- What a CONNECT meets here: the first reason of R294 that applies, the connection it is for, and the joined context of its job. -/
structure ConnectFit where
  reason : Nat
  conn : Option Nat
  ctx : Option Nat

/-- The fit of a received CONNECT from device `device` (R294). -/
def Block.connectFit (b : Block) (device x : Nat) : ConnectFit :=
  let job := (List.range 16).filter fun n => (b.ctx n).krf.jobEn && (b.ctx n).krf.jobId == bits x 471 440
  let conn := (b.conns.find? fun e => job.contains e.2.ctx && e.2.addr.toNat == device && e.2.peerCtx == bits x 439 436 && !e.2.loop).map (·.1)
  let ctx := match conn with
    | some k => some (b.conn k).ctx
    | none => job.head?
  let reason := if bits x 511 496 ≠ 0x0100 then 1 else if bits x 495 488 ≠ 3 then 2
    else match ctx with
      | none => 5
      | some n =>
        if bits x 487 486 ≠ b2n (b.ctx n).freeMode then 3
        else if bits x 485 472 ≠ (b.ctx n).krf.formats then 4
        else if conn.isNone then 6 else 0
  { reason, conn, ctx }

/-- The fields of Table 16.9 that this device answers with: its connection's, or its context's; with neither, those that it has,
and zeros (R294).
DESIGN CHOICE, notes/assumptions/162. -/
def Block.answerPayload (b : Block) (x : Nat) (fit : ConnectFit) : List Byte :=
  match fit.conn, fit.ctx with
  | some k, _ => b.connectPayload k fit.reason
  | none, some n =>
    let y := b.ctx n
    beBytes 64 (fld 0x0100 16 496 + fld 3 8 488 + fld (b2n y.freeMode) 2 486 + fld y.krf.formats 14 472 + fld y.krf.jobId 32 440
      + fld n 4 436 + fld fit.reason 4 408)
  | none, none => beBytes 64 (fld 0x0100 16 496 + fld 3 8 488 + fld (bits x 471 440) 32 440 + fld fit.reason 4 408)

/-- CONNECT: answered, on the path it came by, with the first reason that applies; the sender's index and incarnation are learnt when
it is accepted. -/
def Block.rxConnect (b : Block) (f : Frame) (k : Packet) : Block :=
  let x := beNat k.payload
  let device := f.src.toNat - f.src.toNat % 8
  let fit := b.connectFit device x
  let path := framePath f
  let b : Block := match fit.conn with
    | some i => if fit.reason = 0 then b.modConn i fun c => c.learn (bits x 435 420) (bits x 419 412) else b
    | none => b
  let inc := match fit.conn with
    | some i => (b.conn i).inc
    | none => 0
  if (b.port (path % 8)).linkUp then
    b.emit (BitVec.ofNat 128 device) { type := 12, inc, conn := bits x 435 420, payload := b.answerPayload x fit, len := 64 } path
  else b

def execConnect (f : Frame) (s : State) : Host.Outcome State Fault Refusal :=
  nextOf s (s.blk.receive f (· == 11) fun b _ k => b.rxConnect f k)

/-- CONNECT_RESP: the entry comes up, is refused for reasons 1 to 4, or goes on connecting. -/
def Block.rxConnectResp (m : Dram) (b : Block) (i : Nat) (k : Packet) : Block :=
  let x := beNat k.payload
  let reason := bits x 411 408
  let c := b.conn i
  if c.state ≠ .connecting then b
  else if reason = 0 then
    ((b.setConn i { c.learn (bits x 435 420) (bits x 419 412) with state := .up, reason := 0 }).publishPeer i).pump i
  else if reason ≤ 4 then ((b.setConn i { c with state := .refused, reason }).publishPeer i).failAll m i .configMismatch
  else (b.setConn i { c with reason }).publishPeer i

def execConnectResp (f : Frame) (s : State) : Host.Outcome State Fault Refusal :=
  nextOf s (s.blk.receive f (· == 12) fun b i k => b.rxConnectResp s.dram i k)

/-- A connect that has no answer yet, or reasons 5 to 7, is tried again until timeout_ms (R294).
DEDUCED, notes/assumptions/79. -/
def Block.connectRetry (m : Dram) (b : Block) (k : Nat) (expired : Bool) : Block :=
  let c := b.conn k
  if !c.isOpen || c.loop || c.state != .connecting || b.hubLost then b
  else if expired then b.declareLost m k 1 else b.sendConnect k

def execConnectRetry (conn : Nat) (expired : Bool) (s : State) : Host.Outcome State Fault Refusal :=
  nextOf s (s.blk.connectRetry s.dram conn expired)

/-! ### Timers (R286, R288 to R291) -/

/-- DESIGN CHOICE, notes/assumptions/3. -/
def execAckTimer (conn : Nat) (s : State) : Host.Outcome State Fault Refusal :=
  let b := s.blk
  nextOf s (if b.hubLost || !(b.conn conn).isOpen then b else b.sendAck conn)

/-- An attempt on a path expired: after four in a row the path is down (R290).
DEDUCED, notes/assumptions/84. -/
def Block.pathExpiry (b : Block) (k path : Nat) : Block :=
  let c := b.conn k
  let n := tget 0 c.expiries path + 1
  let b := b.setConn k { c with expiries := tset c.expiries path n }
  if n < 4 ∨ c.downPaths.contains path then b
  else
    let b := (b.modConn k fun c => { c with downPaths := c.downPaths ++ [path] }).publishPeer k
    b.record { context := some c.ctx, severity := 0, cls := 0x0B, peer := c.peer, unitKind := 5, unit := path, info := path }

/-- Sends an outstanding packet again on the next live path after its last one. -/
def Block.resend (b : Block) (k seq : Nat) (counted : Bool) : Block :=
  let c := b.conn k
  match c.out.find? fun o => o.pkt.seq == seq with
  | none => b
  | some o =>
    let n := if counted then o.attempts + 1 else o.attempts
    match b.nextLive c (o.path + 1) with
    | none => b.setConn k { c with out := c.out.map fun x => if x.pkt.seq = seq then { x with attempts := n } else x }
    | some path =>
      let c := { c with out := c.out.map (fun x => if x.pkt.seq = seq then { x with attempts := n, path } else x), retxCount := (c.retxCount + 1) % 2 ^ 32 }
      ((b.setConn k c).publishPeer k).transmit k o.pkt path

/-- R288: the attempt timer of a packet expires. -/
def Block.retransmit (m : Dram) (b : Block) (k seq : Nat) : Block :=
  let c := b.conn k
  match c.out.find? fun o => o.pkt.seq == seq with
  | none => b
  | some o =>
    if b.hubLost || c.loop || c.state != .up then b
    else if 64 ≤ o.attempts then b.declareLost m k 2
    else (b.pathExpiry k o.path).resend k seq true

/-- DESIGN CHOICE, notes/assumptions/3. -/
def execRetransmitTimeout (conn : Nat) (seq : Word32) (s : State) : Host.Outcome State Fault Refusal :=
  nextOf s (s.blk.retransmit s.dram conn seq.toNat)

/-- A refused packet that was set aside is sent again under a number of its own, in the group it had, or its transfer
completes with `st` (R289).
DEDUCED, notes/assumptions/74. -/
def Block.sendAgain (m : Dram) (b : Block) (k seq : Nat) (give : OutPkt → Bool) (st : Status) : Block :=
  let c := b.conn k
  match c.again.find? fun o => o.pkt.seq == seq with
  | none => b
  | some o =>
    let c := { c with again := eraseFirst (· == o) c.again }
    if b.hubLost then b
    else if give o then
      (b.setConn k ((c.dropRead o).noteRefused o)).xferFail m k o st
    else (b.setConn k { c with waiting := { o with attempts := 1 } :: c.waiting }).pump k

def execRetryLaterResend (conn : Nat) (seq : Word32) (s : State) : Host.Outcome State Fault Refusal :=
  nextOf s (s.blk.sendAgain s.dram conn seq.toNat (fun o => decide (4096 ≤ o.retryLater)) .domainOff)
def execNotArmedResend (conn : Nat) (seq : Word32) (expired : Bool) (s : State) : Host.Outcome State Fault Refusal :=
  nextOf s (s.blk.sendAgain s.dram conn seq.toNat (fun _ => expired) .timeout)

/-- A probe on one down path whose port is up.
DEDUCED, notes/assumptions/84. -/
def Block.probePath (b : Block) (k path : Nat) : Block :=
  let c := b.conn k
  let pkt : Packet := { type := 1, seq := c.nextSeq, inc := c.inc, conn := c.peerConn, src := 0x112 }
  let o : OutPkt := { pkt, path, owner := .probe path, firstSent := b.time }
  if c.state = .up ∧ c.downPaths.contains path ∧ (b.port (path % 8)).linkUp ∧ c.room then
    (b.setConn k { c with out := c.out ++ [o], nextSeq := (c.nextSeq + 1) % 2 ^ 32 }).transmit k pkt path
  else b

def execPathProbe (s : State) : Host.Outcome State Fault Refusal :=
  let b := s.blk
  nextOf s (if b.hubLost then b else b.conns.foldl (fun b e => (List.range 32).foldl (fun b p => b.probePath e.1 p) b) b)

/-- DESIGN CHOICE, notes/assumptions/3. -/
def execPeerSilenceTimeout (conn : Nat) (s : State) : Host.Outcome State Fault Refusal :=
  let b := s.blk
  nextOf s (if b.hubLost || (b.conn conn).state != .up then b else b.declareLost s.dram conn 1)

/-! ### Ports (R281, R290) -/

/-- Paths through a port go down on every connection, and what was outstanding on them is sent again on others at once. -/
def Block.portDown (b : Block) (port : Nat) (lane : Bool) : Block :=
  if b.hubLost || !(b.port port).linkUp then b
  else
    let b := b.modPort port fun p => { p with linkUp := false, paused := false }
    let b := b.record { severity := 0, cls := 0x0A, unitKind := 4, unit := port, info := if lane then 1 else 2 }
    b.conns.foldl (fun b e =>
      let c := b.conn e.1
      if !c.isOpen || c.loop then b
      else
        let b := (b.setConn e.1 { c with downPaths := dedup (c.downPaths ++ (List.range 32).filter fun p => p % 8 == port) }).publishPeer e.1
        (c.out.filter fun o => o.path % 8 == port).foldl (fun b o => b.resend e.1 o.pkt.seq false) b) b

def execPortDown (port : PortId) (lane : Bool) (s : State) : Host.Outcome State Fault Refusal := nextOf s (s.blk.portDown port lane)

/-- DEDUCED, notes/assumptions/84. -/
def execPortUp (port : PortId) (s : State) : Host.Outcome State Fault Refusal :=
  let b := s.blk
  nextOf s (if b.hubLost ∨ b.power = .a3 ∨ b.power = .a4 then b else b.modPort port fun p => { p with linkUp := true })

/-- A frame of 64 B arrives: PFC pauses or releases Kerf's priority, and IEEE 802.3 PAUSE is ignored (R281, R342). -/
def Block.pfcFrame (b : Block) (port prio : Nat) (pause pause8023 : Bool) : Block :=
  let p := b.port port
  let b := if !p.linkUp || b.hubLost then b else b.countPort (66 + port) 64
  if pause8023 || !p.pfcEn || p.pfcPrio != prio || !p.linkUp || b.hubLost then b
  else
    let b := b.modPort port fun p => { p with paused := pause }
    if pause then b else b.conns.foldl (fun b e => b.pump e.1) b

def execPriorityFlowControlFrame (port : PortId) (prio : Fin 8) (pause is8023 : Bool) (s : State) : Host.Outcome State Fault Refusal :=
  nextOf s (s.blk.pfcFrame port prio.val pause is8023)

/-- R282: a next hop is resolved or updated. -/
def execNeighbourDiscovery (addr : Word128) (mac : BitVec 48) (s : State) : Host.Outcome State Fault Refusal :=
  let b := s.blk
  nextOf s (if b.hubLost then b else { b with neighbours := (b.neighbours.filter fun e => e.1 != addr) ++ [(addr, mac)] })

/-! ### What waits inside the hub (R25, R281) -/

/-- A packet that looped back reaches the engine that sent it (R25).
DEDUCED, notes/assumptions/161. -/
def Block.loopPacket (m : Dram) (b : Block) (k : Packet) : Block :=
  match b.packetConn k true with
  | none => b
  | some i => if k.type = 8 then b.rxAck m i k else if k.type = 9 then b.rxNack m i k else b.rxSequenced m 8 0 i k

/-- The oldest looped packet is delivered. -/
def Block.loopDeliver (m : Dram) (b : Block) : Block :=
  match b.loopIn with
  | [] => b
  | k :: rest => ({ b with loopIn := rest } : Block).orWait fun b => b.loopPacket m k

/-- What a packet of any type does here. -/
def Block.rxAny (m : Dram) (b : Block) (f : Frame) (i : Nat) (k : Packet) : Block :=
  match k.type with
  | 8 => b.rxAck m i k
  | 9 => b.rxNack m i k
  | 10 => b.rxHeartbeat f i k
  | 11 => b.rxConnect f k
  | 12 => b.rxConnectResp m i k
  | _ => b.rxSequenced m f.port.val (framePath f) i k

/-- The oldest frame in a port's receive buffer is handled, unless it still meets a full channel queue (R281). -/
def Block.rxDrain (m : Dram) (b : Block) (port : Nat) : Block :=
  match (b.port port).rx with
  | [] => b
  | f :: rest =>
    let r := (b.modPort port fun p => { p with rx := rest }).rxCheck f (fun b i k => b.rxAny m f i k)
    if r.stalled then b else r

/-- What the hub's Kerf engines do in a nanosecond with nothing commanded.
DESIGN CHOICE, notes/assumptions/2. -/
def Block.kerfTick (m : Dram) (b : Block) : Block :=
  if b.hubLost then b else (List.range 8).foldl (fun b p => b.rxDrain m p) (b.loopDeliver m)

/-! ### Chains and sweeps that time out (R302, R303) -/

/-- No slice has arrived at a position that expects one.
DEDUCED, notes/assumptions/81. -/
def Chain.silent (ch : Chain) : Bool :=
  let d := chainDesc ch.desc.toNat
  if 0 < d.pos then ch.formed == 0 && ch.results == 0 else d.bcast && !d.last && ch.results == 0

/-- DEDUCED, notes/assumptions/81. -/
def execChainTimeout (k : Nat) (s : State) : Host.Outcome State Fault Refusal :=
  let b := s.blk
  nextOf s (match b.chains[k]? with
    | some ch => if ch.silent && !b.hubLost then b.chainBreakAt ch (chainDesc ch.desc.toNat).pos Status.timeout.code none else b
    | none => b)

/-- DEDUCED, notes/assumptions/78. -/
def execSweepTimeout (k : Nat) (s : State) : Host.Outcome State Fault Refusal :=
  let b := s.blk
  nextOf s (match b.sweeps[k]? with
    | some x => if b.hubLost then b else b.sweepAt x true
    | none => b)

/-! ### Device time (R298, R299, R385) -/

/-- A servo update: it moves device time by a step that the manual does not give (R298).
DESIGN CHOICE, notes/assumptions/160.
DEDUCED, notes/assumptions/85. -/
def Block.servoUpdate (b : Block) (offset : Int) (locked : Bool) : Block :=
  let p := b.ptp
  let o := clampI (-(2 ^ 31)) (2 ^ 31 - 1) offset
  let mag := o.natAbs
  let good := if locked && decide (mag ≤ 500) then p.good + 1 else 0
  let flag := if !locked || decide (1000 < mag) then true else if 8 ≤ good then false else p.timeFlag
  let warn := decide (100 < mag)
  let b : Block := { b with
    ptp := { p with offsetNs := o, locked, good, timeFlag := flag, offsetWarn := p.offsetWarn || warn }
    cnt := { b.cnt with windowFlag := b.cnt.windowFlag || flag } }
  let step := Config.servoStep b.freeCtr
  let b : Block := { b.bumpFree with time := trunc 64 ((b.time : Int) + step) }
  if warn && !p.offsetWarn then b.postEvent 0 0x2002 (trunc 64 o) else b

def execPtpServoUpdate (offset : Int) (locked : Bool) (s : State) : Host.Outcome State Fault Refusal :=
  nextOf s (if s.blk.hubLost then s.blk else s.blk.servoUpdate offset locked)

/-- Firmware moves PTP off a port that is down. -/
def execPtpPortFailover (port : PortId) (s : State) : Host.Outcome State Fault Refusal :=
  let b := s.blk
  nextOf s (if b.hubLost ∨ 8 ≤ b.ptp.source ∨ (b.port b.ptp.source).linkUp ∨ (b.port port).linkUp = false then b
    else { b with ptp := { b.ptp with source := port.val } })

/-- A rising edge of 1PPS_IN: one less than 0.5 s after the last accepted one is ignored; with source 8 it sets the second boundary,
and PTP the time of day (R298).
DEDUCED, notes/assumptions/160. -/
def Block.ppsEdge (b : Block) : Block :=
  let early : Bool := match b.ptp.lastEdge with
    | some t => decide (b.time < t + 500000000)
    | none => false
  if b.hubLost || early then b
  else
    let t := if b.ptp.source = 8 then (b.time + 500000000) / 1000000000 * 1000000000 % 2 ^ 64 else b.time
    let b : Block := { b with time := t, ptp := { b.ptp with lastEdge := some t } }
    if b.cnt.ppsEn then (b.snapTrigger .pps 0 []).2 else b

def execPpsEdge (s : State) : Host.Outcome State Fault Refusal := nextOf s s.blk.ppsEdge

end Sys2Proof.Machine
end

