-- ==== Sys2Proof/Machine/Memory.lean ====
section
/-!
DEFINITION. The memory system at work: the write-combining buffer, channel queues, what a controller finds in a line,
scrubbing, and channels that leave service (Chapter 13).
-/
namespace Sys2Proof.Machine

/-! ### Buffer and die cache -/

/-- A write of an engine enters its tile's buffer (R242). -/
def Block.wcWrite (m : Dram) (b : Block) (p : Nat) (e : Engine) (a : Nat) (back : Bool) (bs : List Byte) : Block :=
  if !b.runs p || bs.isEmpty || !b.inMemory a bs.length then b else b.tileWrite m p e back a bs

def execWcWrite (p : Spd) (e : Engine) (addr : Word64) (back : Bool) (data : List Byte) (s : State) : Host.Outcome State Fault Refusal :=
  nextOf s (s.blk.orWait fun b => b.wcWrite s.dram p e addr.toNat back data)

/-- The `k`-th entry of a tile reaches its age (R243).
DESIGN CHOICE, notes/assumptions/3. -/
def execWcAgeFlush (t : TileId) (k : Nat) (s : State) : Host.Outcome State Fault Refusal :=
  let b := s.blk
  nextOf s (match (b.tile t).wc[k]? with
    | some e => if b.clocked then b.orWait fun b => b.flushWhere s.dram t (· == e) else b
    | none => b)

/-- The oldest line on its way is allocated; during a repartition a miss allocates nothing (R109, R113). -/
def Block.dieCacheFill (b : Block) (t : Nat) : Block :=
  match (b.tile t).fills with
  | [] => b
  | g :: rest =>
    if !b.clocked then b
    else
      let b := b.modTile t fun tl => { tl with fills := rest }
      if (b.tile t).repartBusy || (((b.tile t).dcSet g.line).find g.line).isSome then b
      else b.dcInstall t { line := g.line, data := g.data } g.burl

def execDieCacheFill (t : TileId) (s : State) : Host.Outcome State Fault Refusal := nextOf s (s.blk.dieCacheFill t)

/-! ### Device memory -/

/-- Stores a line. -/
def Dram.setLine (m : Dram) (key : Nat) (l : LineSt) : Dram :=
  { mem := iter 64 m.mem fun t k => tput 0 t (key * 64 + k) (BitVec.ofNat 8 (l.data >>> (8 * k)))
    poison := tput false m.poison key l.poisoned }

/-- A request covers its whole line and stores (R240).
DEDUCED, notes/assumptions/87. -/
def Req.fullStore (q : Req) : Bool :=
  q.mask.toNat == fullMask && (match q.kind with
    | .write => true
    | .memOp .store _ => true
    | _ => false)

/-- The traffic of a served request (R342, R344).
DEDUCED, notes/assumptions/88. -/
def Block.countServed (b : Block) (c : Nat) (q : Req) : Block :=
  let b := b.countPort (writePort c) 64
  let b := if q.fullStore then b else b.countPort (readPort c) 64
  let issuer : Option Nat × Option Nat := match q.src with
    | .wc p _ x _ _ => (some (tileOf p), some x)
    | .memSide p _ x _ => (some (tileOf p), some x)
    | _ => (none, none)
  let b := b.countRoute issuer.1 (some (chanTile c)) (q.line / 64) 64
  match issuer.2 with
  | some x => b.countCtx x 7 64
  | none => b

/-- A failing outcome of a spindle's write waits to be delivered (R131, R241). -/
def Block.lateOutcome (b : Block) (q : Req) : Block :=
  match q.src with
  | .wc _ _ _ _ _ => { b with outcomes := b.outcomes ++ [{ src := q.src, addr := 64 * q.line }] }
  | .memSide _ _ _ _ => { b with outcomes := b.outcomes ++ [{ src := q.src, addr := 64 * q.line }] }
  | _ => b

/-- R240, R244: a controller serves the request at the head of its queue. With none waiting, `found` is what it finds in the next line
that it reads (R237).
DESIGN CHOICE, notes/assumptions/63. DEDUCED, notes/assumptions/87. -/
def chanServe (m : Dram) (b : Block) (c : Nat) (found : LineFinding) : Dram × Block :=
  let x := b.chan c
  if x.selfRefresh then (m, b)
  else match x.queue with
  | [] => (m, b.setChan c { x with nextFind := found })
  | q :: rest =>
    let b := b.setChan c { x with queue := rest }
    if x.state = .failed then (m, b.lateOutcome q)
    else
      let key := memKey (b.place (64 * q.line)) / 64
      let l := m.line key
      if q.kind = .mark then (m.setLine key (serveLine false l q).1, b)
      else
        let r := b.findLine c q.line 1 (l.poisoned || q.fullStore) found
        let l := { l with poisoned := l.poisoned || r.1 }
        let out := serveLine false l q
        let b := r.2.countServed c q
        let b := if q.kind = .poison then b.poisonRecord c q.line 3 else b
        (m.setLine key out.1, if out.2 then b.lateOutcome q else b)

def execChannelServe (ch : Chan) (found : LineFinding) (s : State) : Host.Outcome State Fault Refusal :=
  let r := chanServe s.dram s.blk ch found
  nextOf { s with dram := r.1 } r.2

/-- A request of a peer's packet enters its queue; with the last one the packet's write is accepted (R286).
DEDUCED, notes/assumptions/77. -/
def Block.kerfAccepted (b : Block) (i seq : Nat) (bad : Bool) : Block :=
  let b := b.modConn i fun c => { c with rxWork := c.rxWork.map fun x => if x.1.seq = seq then (x.1, x.2 || bad) else x }
  if b.chans.any fun e => e.2.transit.any fun q => q.src == .kerf i seq then b
  else match (b.conn i).rxWork.find? fun x => x.1.seq == seq with
    | some x => b.storeAccepted i x.1 x.2
    | none => b

/-- R244: the next request for a channel enters its queue of 4,096; chains, stores, signals and packets that waited for it go on.
DEDUCED, notes/assumptions/77. -/
def chanAccept (m : Dram) (b : Block) (c : Nat) : Block :=
  let x := b.chan c
  match x.transit with
  | [] => b
  | q :: rest =>
    if x.selfRefresh || decide (4096 ≤ x.queue.length) then b
    else
      let b := ((b.setChan c { x with transit := rest, queue := x.queue ++ [q] }).chainsSettle).hubSettle.leaveSettle
      let b := b.conns.foldl (fun (b : Block) e => if e.2.waiting.any (fun o => o.lines != []) then b.pump e.1 else b) b
      match q.src with
      | .kerf i seq =>
        let failed := decide (x.state = .failed)
        let before := x.queue.foldl (fun l r => if r.line = q.line then (serveLine failed l r).1 else l) (m.line (memKey (b.place (64 * q.line)) / 64))
        b.kerfAccepted i seq (serveLine failed before q).2
      | _ => b

def execChannelRequestAccept (ch : Chan) (s : State) : Host.Outcome State Fault Refusal := nextOf s (chanAccept s.dram s.blk ch)

/-! ### Scrubbing and zeroing (R245, R403) -/

def chanLines (c : Nat) : Nat := if c < 256 then 2 ^ 25 else 2 ^ 29

/-- The local address over 64 of line `n` of a channel; an HBM channel out of service has none. -/
def Block.lineOf (b : Block) (c n : Nat) : Nat :=
  let (g, o) := (n / 64, n % 64)
  if c < 256 then (g * b.inservice.length + (findIdx (· == c) b.inservice).getD 0) * 64 + o
  else deepBase / 64 + (g * 128 + (c - 256)) * 64 + o

/-- The next line of the patrol scrub: read behind the requests that its controller has accepted, and marked, where it is
uncorrectable, by a request of its own in their queue (R244, R245). -/
def Block.scrubLine (m : Dram) (b : Block) (c : Nat) (found : LineFinding) : Block :=
  let x := b.chan c
  if !b.memScrubEn || b.perst || x.selfRefresh || x.state == .failed || x.state == .mappedOut || b.memoryDegraded || decide (4096 ≤ x.queue.length) then b
  else
    let line := b.lineOf c x.scrubPos
    let l := x.queue.foldl (fun l q => if q.line = line then (serveLine false l q).1 else l) (m.line (memKey (c, 64 * x.scrubPos) / 64))
    let b := (b.setChan c { x with scrubPos := (x.scrubPos + 1) % chanLines c }).countPort (readPort c) 64
    let r := b.findLine c line 2 l.poisoned found
    if r.1 then r.2.modChan c fun x => { x with queue := x.queue ++ [{ kind := .mark, line }] } else r.2

def execScrubLine (ch : Chan) (found : LineFinding) (s : State) : Host.Outcome State Fault Refusal := nextOf s (s.blk.scrubLine s.dram ch found)

/-- R403: the next line is zeroed; a line not yet zeroed reads as zeros all the same. -/
def execChannelInitZero (ch : Chan) (s : State) : Host.Outcome State Fault Refusal :=
  nextOf s (if s.blk.perst then s.blk else s.blk.modChan ch fun x => { x with zeroPos := min (chanLines ch) (x.zeroPos + 1) })

/-- R246: the link to a channel's memory is lost. -/
def execChannelFailed (ch : Chan) (s : State) : Host.Outcome State Fault Refusal :=
  let b := s.blk
  let st := (b.chan ch).state
  nextOf s (if st = .failed ∨ st = .mappedOut ∨ b.hubLost ∨ b.perst then b else b.channelState ch .failed)

/-! ### Late outcomes (R131, R241) -/

def execWriteOutcome (k : Nat) (s : State) : Host.Outcome State Fault Refusal :=
  let b := s.blk
  nextOf s (match b.outcomes[k]? with
    | none => b
    | some o =>
      let b' : Block := { b with outcomes := b.outcomes.eraseIdx k }
      match o.src with
      | .wc p blank ctx serial _ => b'.lateFault { p, ctx, blank, serial } o.addr .poisonedTarget
      | .memSide p blank ctx serial => b'.lateFault { p, ctx, blank, serial } o.addr .poisonedTarget
      | _ => b')

end Sys2Proof.Machine
end

