-- ==== Sys2Proof/Machine/Mailbox.lean ====
section
/-!
DEFINITION. The Minyx mailbox: ring pages, taking commands, starting them, their parameters, and the identity block
(Chapter 17).
-/
namespace Sys2Proof.Machine

/-! ### Functions and ring pages (R308, R309) -/

/-- A link narrower than x8 or slower than 32 GT/s is degraded (R308). -/
def linkPoor (width speed : Nat) : Bool := decide (width < 8) || decide (speed < 32)

/-- The boot has brought the PCIe link up (Table 17.10). -/
def Block.linkTrained (b : Block) : Bool := decide (3 ≤ b.bootStage)

/-- A function that answers memory requests: PF0 or an enabled virtual function, in D0, once the link has trained. -/
def Block.fnLive (b : Block) (fn : Nat) : Bool := b.hubUp && b.linkTrained && (fn == 0 || decide (fn ≤ b.numVfs)) && !(b.func fn).d3hot

/-- The ring that a page of a function's BAR0 shows (Table 17.1). -/
def Block.ringOf (b : Block) (fn page : Nat) : Option Nat :=
  if !b.fnLive fn then none
  else if fn = 0 then (if page = 0 ∨ b.numVfs < page then some page else none)
  else if page = 0 then some fn else none

/-- A host write reaches a BAR0 page: its bytes are counted and a gated module wakes (R366, R367). -/
def Block.hostTouch (b : Block) (n : Nat) : Block := (b.countPort 64 n).ungate

/-- An error stops the ring and raises its vector (R313). -/
def Block.ringStop (b : Block) (r : Nat) (f : Ring → Ring) : Block :=
  (b.modRing r fun g => { f g with stopped := true }).raiseRing r

/-- A write of MBX_CMD_PROD. -/
def Block.setProd (b : Block) (r : Nat) (val : Word32) : Block :=
  let b := b.modRing r fun g => { g with cmdProd := val }
  if 4096 < (val - (b.ring r).cmdCons).toNat then b.ringStop r fun g => { g with errIndex := true } else b

def Block.doorbell (b : Block) (r : Nat) (val : Word32) : Block := (b.hostTouch 4).setProd r val

def execDoorbell (fn : FnId) (page : RingId) (val : Word32) (s : State) : Host.Outcome State Fault Refusal :=
  nextOf s (match s.blk.ringOf fn page with
    | none => s.blk
    | some r => s.blk.doorbell r val)

/-- Setting enable: indices 0, phase 1, stopped clear; waiting events may now be delivered. -/
def Block.ringEnable (b : Block) (r : Nat) : Block :=
  if (b.ring r).enable then b
  else (b.modRing r fun g =>
    { g with enable := true, stopped := false, cmdProd := 0, cmdCons := 0, cplProd := 0, cplCons := 0, phase := true, reserved := 0 }).drainEvents r

def execRingEnable (fn : FnId) (page : RingId) (s : State) : Host.Outcome State Fault Refusal :=
  nextOf s (match s.blk.ringOf fn page with
    | none => s.blk
    | some r => (s.blk.hostTouch 8).ringEnable r)

/-- Clearing enable: completions of commands already taken will not be written. -/
def Block.ringDisable (b : Block) (r : Nat) : Block :=
  b.modRing r fun g =>
    { g with enable := false, reserved := 0, taken := g.taken.map fun x => { x with silent := true, repeats := [] } }

def execRingDisable (fn : FnId) (page : RingId) (s : State) : Host.Outcome State Fault Refusal :=
  nextOf s (match s.blk.ringOf fn page with
    | none => s.blk
    | some r => (s.blk.hostTouch 8).ringDisable r)

/-! ### The catalogue (Table 17.7) -/

/-- Column Ring. -/
inductive RingClass where
  | a | c | ac
deriving DecidableEq, Repr

/-- Opcode, ring class, and the widths of the parameters in order. -/
def catalogue : List (Nat × RingClass × List Nat) :=
  [(0x01, .ac, []), (0x02, .a, [8]), (0x03, .a, [1, 8, 8]), (0x04, .a, [1, 1, 1, 2, 1, 1, 1, 16]), (0x05, .a, [1, 2, 8]),
   (0x06, .a, [1, 1, 8]), (0x10, .a, [1, 1, 2, 8]), (0x11, .a, [1]), (0x12, .a, [1, 2, 2, 8]), (0x13, .a, [1, 1, 1, 4, 8]),
   (0x14, .a, [1, 1, 2, 2, 2, 2, 2, 2, 2, 2, 2]), (0x15, .a, [1, 1, 1, 2, 4]), (0x16, .a, [2, 2, 1, 1]), (0x17, .a, [8]),
   (0x18, .a, [2]), (0x19, .a, [])]
  ++ [(0x20, .c, [2, 8]), (0x21, .c, [2]), (0x30, .c, [4, 1]), (0x31, .c, [4, 4, 4]), (0x32, .c, [4]), (0x33, .c, [4]),
   (0x34, .c, [4]), (0x35, .c, [4]), (0x36, .c, [1, 8]), (0x40, .c, [1, 8]), (0x50, .c, [4, 2, 1, 1, 2, 8, 8]), (0x51, .c, []),
   (0x52, .c, [2]), (0x53, .c, [1, 1, 8]), (0x54, .c, [4, 1, 8])]
  ++ [(0x60, .ac, [1, 1]), (0x61, .ac, [4]), (0x62, .ac, [4, 1, 8]), (0x70, .a, [2, 2]), (0x71, .c, [1, 1]), (0x72, .c, []),
   (0x80, .a, [4, 4]), (0x81, .a, []), (0x82, .a, [1]), (0x83, .a, []), (0x84, .a, [32])]

def catRow (op : Nat) : Option (RingClass × List Nat) := (catalogue.find? fun x => x.1 == op).map (·.2)

/-- Byte offsets of parameters of the given widths, from byte `o` on (R315). -/
def paramOffsets : Nat → List Nat → List (Nat × Nat)
  | _, [] => []
  | o, w :: ws => let o := ceilDiv o w * w; (o, w) :: paramOffsets (o + w) ws

/-- The parameters of an entry; none when an unused parameter byte is not zero. -/
def entParams (e : Entry) (ws : List Nat) : Option (List Nat) :=
  let x := e.toNat
  let ps := (paramOffsets 24 ws).map fun p => (p.1, bits x (8 * (p.1 + p.2) - 1) (8 * p.1))
  if (ps.map fun p => p.2 <<< (8 * p.1)).sum = x >>> 192 <<< 192 then some (ps.map (·.2)) else none

def entCtxValid (e : Entry) : Bool := bit e.toNat 31
def entCtx (e : Entry) : Nat := bits e.toNat 27 24
def entBuf (e : Entry) : Nat := bits e.toNat 127 64
def entBufLen (e : Entry) : Nat := bits e.toNat 159 128

/-- The reserved bits of Table 17.4 are zero. -/
def entClean (e : Entry) : Bool := zeros e.toNat [(191, 160), (30, 28), (23, 17), (15, 14)]

/-- A data buffer of at least `n` bytes (R314, R320).
DEDUCED, notes/assumptions/94. -/
def bufOk (e : Entry) (n : Nat) : Bool := decide (n ≤ entBufLen e) && entBuf e != 0 && decide (entBuf e + n ≤ 2 ^ 44)

/-! ### Taking commands (R317, R318) -/

/-- Opcodes served in recovery and during a headstock restart (R320). -/
def recoveryOp (op : Nat) : Bool := [0x01, 0x80, 0x81, 0x82].contains op

/-- The headstock takes commands at all.
DEDUCED, notes/assumptions/93. -/
def Block.takes (b : Block) : Bool := b.hubUp && (b.ready || b.restarting || b.bootStage == 5)

/-- The command is answered with NOT_READY as it is taken.
DEDUCED, notes/assumptions/92. -/
def Block.notReadyOp (b : Block) (op : Nat) : Bool :=
  !b.ready && !(if b.restarting then op == 0x01 else recoveryOp op)

/-- A taken entry is matched against the tag history.
DEDUCED, notes/assumptions/92. -/
def Block.matchTag (b : Block) (r : Nat) (e : Entry) : Block :=
  let g := b.ring r
  match g.history.find? fun h => h.tag == entTag e with
  | none =>
    let h := g.history ++ [{ tag := entTag e, opcode := entOpcode e }]
    b.setRing r { g with history := h.drop (h.length - 4096), taken := g.taken ++ [{ entry := e }] }
  | some h =>
    if h.opcode ≠ entOpcode e then b.cplOne r (entTag e) (entOpcode e) .invalidField 0 (entIrq e)
    else match h.done with
      | some d =>
        let b := b.modRing r fun g => { g with reserved := g.reserved - 1 }
        let b := b.writeCpl r (entTag e + fld (entOpcode e) 14 32 + fld d.1 16 48 + fld d.2 64 64)
        if entIrq e then b.raiseRing r else b
      | none =>
        let taken := modFirst (fun x => entTag x.entry == entTag e) (fun x => { x with repeats := x.repeats ++ [entIrq e] }) g.taken
        b.setRing r { g with taken }

/-- The next command entry of a ring is read; `ok` is false when the read fails on PCIe.
DEDUCED, notes/assumptions/92. -/
def Block.commandFetch (b : Block) (r : Nat) (e : Entry) (ok : Bool) : Block :=
  let g := b.ring r
  if !b.takes || !g.enable || g.stopped || g.cmdProd == g.cmdCons || g.room == 0 then b
  else if !ok then b.ringStop r fun g => { g with errFetch := true }
  else
    let b := (b.countPort 64 64).setRing r { g with cmdCons := g.cmdCons + 1, reserved := g.reserved + 1 }
    if b.notReadyOp (entOpcode e) then b.cplOne r (entTag e) (entOpcode e) .notReady 0 (entIrq e)
    else b.matchTag r e

/-- DEDUCED, notes/assumptions/93. -/
def execCommandFetch (r : RingId) (e : Entry) (ok : Bool) (s : State) : Host.Outcome State Fault Refusal :=
  nextOf s (s.blk.commandFetch r e ok)

/-! ### Starting commands (R314, R317, R320, R321) -/

/-- A command as its handler sees it. -/
structure Cmd where
  ring : Nat
  entry : Entry
  /-- the context it acts for; none at device scope -/
  ctx : Option Nat
  par : List Nat

def Cmd.p (c : Cmd) (i : Nat) : Nat := c.par.getD i 0
def Cmd.c (c : Cmd) : Nat := c.ctx.getD 0

/-- What a command's start leads to. -/
inductive CmdRes where
  | done (st : Status) (result : Nat) (b : Block)
  | parked (b : Block)
  /-- it waits for host-window reads and is presented again with their data -/
  | again (b : Block)

/-- Commands that are executing or parked, over all rings. -/
def Block.parkedCount (b : Block) : Nat := (b.rings.map fun g => (g.2.taken.filter (·.started)).length).sum

/-- The context of a command whose parameters name one: opcodes 0x10 to 0x15. -/
def ctxParam (op : Nat) : Bool := decide (0x10 ≤ op) && decide (op ≤ 0x15)

/-- The checks that every command meets, in order; the command as its handler sees it, or the refusing status. -/
def Block.cmdCheck (b : Block) (r : Nat) (e : Entry) : Except Status Cmd :=
  let op := entOpcode e
  let row := catRow op
  if 0 < r ∧ row.any (fun x => x.1 == .a) then .error .accessDenied
  else if !entClean e then .error .invalidField
  else match row with
    | none => .error .unknownCommand
    | some (cls, ws) =>
      if b.memoryDegraded ∧ 0 < r ∧ op ≠ 0x01 then .error .memoryDegraded
      else if entBuf e % 64 ≠ 0 then .error .invalidField
      else if (0 < r ∧ entCtxValid e) ∨ (r = 0 ∧ cls = .c ∧ entCtxValid e = false) ∨ (cls = .a ∧ (entCtxValid e ∨ entCtx e ≠ 0)) then .error .invalidField
      else match entParams e ws with
        | none => .error .invalidField
        | some par =>
          let ctx : Option Nat := if 0 < r then some (r - 1) else if entCtxValid e then some (entCtx e) else if ctxParam op then some (par.getD 0 0) else none
          match ctx with
          | none => .ok { ring := r, entry := e, ctx, par }
          | some c =>
            if 15 < c then .error .invalidField
            else if op ≠ 0x01 ∧ ((b.ctx c).state = .tearing ∨ ((b.ctx c).state = .free ∧ op ≠ 0x10)) then .error .accessDenied
            else .ok { ring := r, entry := e, ctx, par }

/-- An entry that has not been started yet; a restart lets only IDENTIFY through (R376). -/
def Block.startable (b : Block) (x : Taken) : Bool := !x.started && (!b.restarting || entOpcode x.entry == 0x01)

/-- The ring whose turn it is: rings with an entry to start are served round-robin (R317). -/
def Block.nextRing (b : Block) : Option Nat :=
  ((List.range 17).map fun k => (b.ringTurn + k) % 17).find? fun r => (b.ring r).taken.any b.startable

/-- The ring's oldest entry that can start is started, and the turn passes on (R317). -/
def Block.started (b : Block) (r : Nat) : Block :=
  { b.modRing r (fun g => { g with taken := modFirst b.startable (fun x => { x with started := true }) g.taken }) with ringTurn := (r + 1) % 17 }

/-- An entry that was started waits again, and the turn with it. -/
def Block.unstarted (b : Block) (r : Nat) (e : Entry) : Block :=
  { b.modRing r (fun g => { g with taken := modFirst (fun x => x.started && x.entry == e) (fun x => { x with started := false }) g.taken }) with ringTurn := r }

/-- The headstock starts entry `e`, the oldest of ring `r` not yet started, in the ring's turn, with the opcode of its handler.
DESIGN CHOICE, notes/assumptions/1. DEDUCED, notes/assumptions/93. -/
def Block.startCmd (b : Block) (r : Nat) (e : Entry) (op : Nat) (act : Block → Cmd → CmdRes) : Block :=
  match (b.ring r).taken.find? b.startable with
  | none => b
  | some x =>
    if x.entry ≠ e ∨ entOpcode e ≠ op ∨ !b.takes ∨ 64 ≤ b.parkedCount ∨ b.nextRing ≠ some r then b
    else
      match (b.started r).cmdCheck r e with
      | .error st => (b.started r).finish r e st 0
      | .ok c =>
        match act (b.started r) c with
        | .done st result b => b.finish r e st result
        | .parked b => b
        | .again b => b.unstarted r e

/-- A refusal leaves everything as it is. -/
def CmdRes.refuse (b : Block) (st : Status) : CmdRes := .done st 0 b
def CmdRes.good (b : Block) : CmdRes := .done .success 0 b

/-- An opcode outside the catalogue (R320). -/
def execUnknownCommand (r : RingId) (e : Entry) (s : State) : Host.Outcome State Fault Refusal :=
  nextOf s (if (catRow (entOpcode e)).isSome then s.blk else s.blk.startCmd r e (entOpcode e) fun b _ => .refuse b .unknownCommand)

/-! ### Identification (R322, Table 17.9) -/

def numOf (l : List Nat) : Nat := l.foldl (fun acc k => acc + 2 ^ k) 0

/-- Physical spindles in service. -/
def Block.spindlesIn (b : Block) : List Nat := (List.range 272).filter fun p => (b.spd p).inService

/-- Bytes of ASCII text, zero-padded to `n`. -/
def asciiNat (t : List Nat) : Nat := t.foldr (fun c acc => c + 256 * acc) 0

def Block.identity (b : Block) : Nat :=
  let hbm := if b.memoryDegraded then [] else b.inservice
  let deep := (List.range 128).filter fun d => (b.chan (256 + d)).state == .failed
  asciiNat [0x54, 0x5A, 0x2D, 0x5A, 0x48, 0x56, 0x2D, 0x4D, 0x34, 0x41]
    + fld (asciiNat [0x42, 0x31]) 16 128 + fld 2 8 144 + fld 3 8 152 + fld b.fwVersion 32 160 + fld b.fwSvn 32 192
    + fld b.pcieSpeed 16 224 + fld b.pcieWidth 8 240 + fld (b2n b.memoryDegraded) 1 248 + fld (b2n b.secure) 1 249
    + fld (b2n b.fallback) 1 250 + fld (b2n b.linkDegraded) 1 251 + fld b.hbmTop 64 256 + fld hbm.length 16 320
    + fld b.spindlesIn.length 16 336 + fld Config.serial.toNat 64 384 + fld (numOf hbm) 256 512 + fld (numOf deep) 128 768
    + fld (numOf b.spindlesIn) 272 896 + fld b.deviceAddr.toNat 128 1280

def execIdentify (r : RingId) (e : Entry) (s : State) : Host.Outcome State Fault Refusal :=
  nextOf s (s.blk.startCmd r e 0x01 fun b _ =>
    if bufOk e 256 then .good (b.hostWrite (entBuf e) (leBytes 256 b.identity)) else .refuse b .invalidField)

end Sys2Proof.Machine
end

