-- ==== Sys2Proof/Machine/Streams.lean ====
section
/-!
DEFINITION. The stream block: the stream table and its cache, page pools, the stream commands, and generation steps
(Chapter 11).
-/
namespace Sys2Proof.Machine

/-! ### Memory as the stream block reaches it (R207) -/

/-- The stream block at work for requester `who`: the block so far, and the host-window reads it still needs. -/
structure Sb where
  b : Block
  who : Nat
  miss : List (Nat × Nat) := []
  /-- lines of the writes it has made -/
  lines : List Nat := []

/-- Host-window bytes that have arrived for a requester. -/
def Block.hubBytes (b : Block) (who h n : Nat) : Option (List Byte) :=
  let t := tget [] b.hubBuf who
  if (List.range n).all fun k => (tfind t (h + k)).isSome then some ((List.range n).map fun k => tget 0 t (h + k)) else none

/-- The stream block's own stores that have not left yet, over bytes read from memory. -/
def Block.overLater (b : Block) (a : Nat) (bs : List Byte) : List Byte :=
  b.hubLater.foldl (fun bs x => (List.range bs.length).map fun k =>
    if x.addr ≤ a + k ∧ a + k < x.addr + x.bytes.length then x.bytes.getD (a + k - x.addr) 0 else bs.getD k 0) bs

/-- A read at the channel controllers or over PCIe. -/
def Sb.get (m : Dram) (x : Sb) (a n : Nat) : Status × List Byte × Sb :=
  if n = 0 then (.success, [], x)
  else match x.b.rangeOf a n with
    | .ok .host =>
      match x.b.hubBytes x.who (a - hostBase) n with
      | some bs => (.success, x.b.overLater a bs, x)
      | none => (.success, leBytes n 0, { x with miss := x.miss ++ [(a - hostBase, n)] })
    | .ok _ => let r := hubRead m x.b a n; (r.1, x.b.overLater a r.2.1, { x with b := r.2.2 })
    | .error st => (st, [], x)

def Sb.num (m : Dram) (x : Sb) (a n : Nat) : Status × Nat × Sb := let r := x.get m a n; (r.1, leNat r.2.1, r.2.2)

def Sb.put (x : Sb) (a : Nat) (bs : List Byte) : Sb :=
  let x := { x with lines := x.lines ++ linesOf a bs.length }
  match x.b.rangeOf a bs.length with
  | .ok .host => { x with b := x.b.windowWrite none (a - hostBase) bs }
  | .ok .hbm => { x with b := x.b.hubWrite a bs }
  | .ok .deep => { x with b := x.b.hubWrite a bs }
  | _ => x

/-- A store that leaves once the writes of `n` bytes at `first` are accepted (R218). -/
def Sb.putAfter (x : Sb) (first n a : Nat) (bs : List Byte) : Sb :=
  let x := { x with lines := x.lines ++ linesOf a bs.length }
  { x with b := ({ x.b with hubLater := x.b.hubLater ++ [{ lines := linesOf first n, addr := a, bytes := bs }] } : Block).hubSettle }

def Sb.mod (x : Sb) (f : Block → Block) : Sb := { x with b := f x.b }

/-- Reads of a requester are outstanding.
DEDUCED, notes/assumptions/104. -/
def Block.hubAsking (b : Block) (who : Nat) : Bool := b.hostReads.any fun h => h.spindle == who

/-- The work ends: whole, or with nothing but its missing reads issued.
DEDUCED, notes/assumptions/104. -/
def Sb.close (b : Block) (x : Sb) : Bool × Block :=
  if x.miss = [] then (true, { x.b with hubBuf := tdel x.b.hubBuf x.who })
  else (false, b.windowAsk { spindle := x.who } x.miss)

/-! ### Stream entries (Table 11.1) -/

def stFree : Nat := 0
def stPaused : Nat := 1
def stActive : Nat := 2
def stParked : Nat := 3
def stDone : Nat := 4
def stFaulted : Nat := 5
def stClosing : Nat := 6

def Stream.f (s : Stream) (hi lo : Nat) : Nat := bits s.entry.toNat hi lo
def Stream.set (s : Stream) (hi lo v : Nat) : Stream := { s with entry := BitVec.ofNat 1024 (setBits s.entry.toNat hi lo v), dirty := true }

def Stream.state (s : Stream) : Nat := s.f 2 0
def Stream.setState (s : Stream) (v : Nat) : Stream := s.set 2 0 v
def Stream.inStep (s : Stream) : Bool := s.f 3 3 == 1
/-- The owning context, which the stream block remembers of an entry that lies in memory. -/
def Stream.ctx (s : Stream) : Nat := if s.cached then s.f 11 8 else s.owner
def Stream.pos (s : Stream) : Nat := s.f 671 640
def Stream.blocks (s : Stream) : Nat := s.f 439 416
def Stream.ringAddr (s : Stream) : Nat := s.f 575 528
def Stream.ringLog2 (s : Stream) : Nat := s.f 527 523
def Stream.pageList (s : Stream) : Nat := s.f 511 464
def Stream.maxPos (s : Stream) : Nat := s.f 735 704

def streamCount : Nat := 131072
def Block.entryAddr (b : Block) (id : Nat) : Nat := b.streamTable.getD 0 + 128 * id

/-- A stream that is not FREE. -/
def Block.stream (b : Block) (id : Nat) : Option Stream := tfind b.streams id

/-- The entry is written back to memory. -/
def Block.streamBack (b : Block) (id : Nat) : Block :=
  match b.stream id with
  | none => b
  | some s =>
    if s.cached = false then b
    else
      let b : Block := { b with streams := tset b.streams id { s with dirty := false } }
      b.hubWrite (b.entryAddr id) (leBytes 128 s.entry.toNat)

/-- The entry is replaced in the cache: it is written back, and lies in memory from then on (R207). -/
def Block.streamEvict (b : Block) (id : Nat) : Block :=
  match b.stream id with
  | none => b
  | some s =>
    let b := b.streamBack id
    { b with streams := tset b.streams id { s with entry := 0, dirty := false, cached := false, owner := s.ctx } }

/-- The entry is used: it moves to the end of the cache order, and the least recently used entry makes room. -/
def Block.streamTouch (b : Block) (id : Nat) : Block :=
  let rest := b.streamLru.filter (· ≠ id)
  let out := if 4096 ≤ rest.length then rest.head? else none
  let b := match out with
    | some k => b.streamEvict k
    | none => b
  { b with streamLru := (if out.isSome then rest.drop 1 else rest) ++ [id] }

def Block.setStream (b : Block) (id : Nat) (s : Stream) : Block := ({ b with streams := tset b.streams id s }).streamTouch id

def Block.modStream (b : Block) (id : Nat) (f : Stream → Stream) : Block :=
  match b.stream id with
  | none => b
  | some s => b.setStream id (f s)

/-- The entry is brought into the cache, by one memory read where it lies in memory (R207, R223).
DEDUCED, notes/assumptions/100. -/
def Sb.load (m : Dram) (x : Sb) (id : Nat) : Status × Sb :=
  match x.b.stream id with
  | none => (.success, x)
  | some s =>
    if s.cached then (.success, x)
    else
      let (st, v, x) := x.num m (x.b.entryAddr id) 128
      if st ≠ .success then (st, x)
      else (.success, x.mod fun b => b.setStream id { s with entry := BitVec.ofNat 1024 v, cached := true })

/-! ### Pages (R212 to R214) -/

def Pool.ppp (p : Pool) : Nat := 2 ^ p.pppLog2
def Pool.groups (p : Pool) : Nat := p.groupsM1 + 1
def Pool.word (p : Pool) (k : Nat) : Nat := p.base + p.pages * 65536 + 8 * k

def Block.pool (b : Block) (c : Nat) : Pool := (b.ctx c).pool
def Block.modPool (b : Block) (c : Nat) (f : Pool → Pool) : Block := b.modCtx c fun x => { x with pool := f x.pool }

/-- Takes the page at the head of the free ring, which is not empty. -/
def Sb.allocPage (m : Dram) (x : Sb) (c : Nat) : Status × Nat × Sb :=
  let p := x.b.pool c
  let (st, k, x) := x.num m (p.word p.head + 4) 4
  if st ≠ .success then (st, 0, x)
  else (.success, k, (x.put (p.word k) (leBytes 4 (c * 2 ^ 28 + 1))).mod fun b =>
    b.modPool c fun p => { p with head := (p.head + 1) % p.pages, freePages := p.freePages - 1 })

/-- Frees page `k` for context `c`.
DEDUCED, notes/assumptions/99. -/
def Sb.freePage (m : Dram) (x : Sb) (c k : Nat) : Status × Sb :=
  let p := x.b.pool c
  let bad (st : Status) (x : Sb) : Status × Sb :=
    (st, x.mod fun b => b.modPool c fun p => { p with notLive := true, notLiveCount := min 65535 (p.notLiveCount + 1) })
  if p.pages ≤ k then bad .invalidField x
  else
    let (st, w, x) := x.num m (p.word k) 4
    if st ≠ .success then (st, x)
    else if w % 65536 = 0 ∨ w / 2 ^ 28 ≠ c then bad .pageNotLive x
    else
      let x := x.put (p.word k) (leBytes 4 (w - 1))
      if w % 65536 ≠ 1 then (.success, x)
      else (.success, (x.put (p.word ((p.head + p.freePages) % p.pages) + 4) (leBytes 4 k)).mod fun b =>
        b.modPool c fun p => { p with freePages := p.freePages + 1 })

/-- Frees pages in order; the first failing status (R214).
DEDUCED, notes/assumptions/99. -/
def Sb.freePages (m : Dram) (x : Sb) (c : Nat) (l : List Nat) : Status × Sb :=
  l.foldl (fun (acc : Status × Sb) k => let r := acc.2.freePage m c k; (if acc.1 = .success then r.1 else acc.1, r.2)) (.success, x)

def words32 (bs : List Byte) : List Nat := (chunks 4 bs).map leNat

/-- Entries `[i, i + n)` of a page list.
DEDUCED, notes/assumptions/100. -/
def Sb.pageList (m : Dram) (x : Sb) (addr i n : Nat) : Status × List Nat × Sb :=
  let r := x.get m (addr + 4 * i) (4 * n)
  (r.1, words32 r.2.1, r.2.2)

/-- Frees every page of a stream.
DEDUCED, notes/assumptions/101. -/
def Sb.freeStream (m : Dram) (x : Sb) (s : Stream) : Status × Sb :=
  let (st, l, x) := x.pageList m s.pageList 0 (s.blocks * (x.b.pool s.ctx).groups)
  if st ≠ .success then (st, x) else x.freePages m s.ctx l

/-- Allocates `n` pages for list entries from `i` on; false when the pool empties, with the pages taken so far.
DEDUCED, notes/assumptions/99. -/
def Sb.allocList (m : Dram) (x : Sb) (c addr i n : Nat) : Status × List Nat × Sb :=
  iter n (.success, [], x) fun (acc : Status × List Nat × Sb) k =>
    if acc.1 ≠ .success then acc
    else if (acc.2.2.b.pool c).freePages = 0 then (.poolEmpty, acc.2.1, acc.2.2.mod fun b => b.modPool c fun p => { p with emptySeen := true })
    else
      let r := acc.2.2.allocPage m c
      if r.1 ≠ .success then (r.1, acc.2.1, r.2.2)
      else (.success, acc.2.1 ++ [r.2.1], r.2.2.put (addr + 4 * (i + k)) (leBytes 4 r.2.1))

/-! ### The end of a stream -/

/-- Parked commands with an opcode complete; the others stay parked. -/
def Block.streamAnswer (b : Block) (id op : Nat) (st : Status) : Block :=
  match b.stream id with
  | none => b
  | some s =>
    let b := b.setStream id { s with parked := s.parked.filter fun x => entOpcode x.2 != op }
    (s.parked.filter fun x => entOpcode x.2 == op).foldl (fun b x => b.finish x.1 x.2 st 0) b

/-- A pending pause is answered.
DEDUCED, notes/assumptions/102. -/
def Block.pauseAnswer (b : Block) (id : Nat) (st : Status) : Block :=
  (b.modStream id fun s => { s with pausePending := false }).streamAnswer id 0x32 st

/-- The stream enters PAUSED.
DEDUCED, notes/assumptions/102. -/
def Block.streamPaused (b : Block) (id : Nat) : Block :=
  ((b.modStream id fun s => s.setState stPaused).streamBack id).pauseAnswer id .success

/-- Close: pages freed, the entry written back, and FREE. -/
def Sb.closeStream (m : Dram) (x : Sb) (id : Nat) : Sb :=
  match x.b.stream id with
  | none => x
  | some s =>
    let (st, x) := x.freeStream m s
    x.mod fun b =>
      let s := (s.setState stFree).set 3 3 0
      let s := if st = .success then s else s.set 63 48 st.code
      let b := (b.setStream id s).streamBack id
      let b := (b.pauseAnswer id .invalidField).streamAnswer id 0x34 .success
      { b with streams := tdel b.streams id, streamLru := b.streamLru.filter (· ≠ id) }

/-! ### Stream commands (R210, R211) -/

/-- What Table 11.3 gives a command on a stream: `act` sees it once the stream table and the context are right.
DEDUCED, notes/assumptions/97. -/
def streamCmd (r : RingId) (e : Entry) (op : Nat) (s : State) (act : Sb → Cmd → Nat → CmdRes × Sb) : Host.Outcome State Fault Refusal :=
  nextOf s (if s.blk.hubAsking (272 + r.val) then s.blk else s.blk.startCmd r e op fun b c =>
    let id := c.p 0
    if b.streamTable = none ∨ streamCount ≤ id then .refuse b .invalidField
    else if (b.stream id).any fun x => x.ctx != c.c then .refuse b .accessDenied
    else
      let (st, x) := Sb.load s.dram { b, who := 272 + r.val } id
      let res := if st = .success then act x c id else (.done st 0 x.b, x)
      match Sb.close b res.2 with
      | (true, b) =>
        match res.1 with
        | .done st v _ => .done st v b
        | .parked _ => .parked b
        | .again _ => .again b
      | (false, b) => .again b)

/-- A stream's answer, with the effects that `x` gathered. -/
def Sb.done (x : Sb) (st : Status) : CmdRes × Sb := (.done st 0 x.b, x)

/-- The ring or page list of an entry lies in one region.
DEDUCED, notes/assumptions/97. -/
def Block.streamRange (b : Block) (a n : Nat) : Bool :=
  match b.rangeOf a n with
  | .ok .hbm => true
  | .ok .deep => true
  | .ok .host => true
  | _ => false

def f32One : Nat := 0x3F800000

/-- R211: open refuses the entry.
DEDUCED, notes/assumptions/97. DEDUCED, notes/assumptions/98. -/
def Block.entryBad (b : Block) (c : Nat) (s : Stream) : Bool :=
  let p := b.pool c
  !zeros s.entry.toNat [(522, 512), (415, 64), (47, 32), (13, 12), (7, 4)]
    || s.ctx != c || decide (64 < s.f 23 17)
    || s.f 895 864 == 0 || decide (f32One < s.f 895 864) || (decide (s.f 895 864 < f32One) && s.f 23 17 == 0)
    || s.f 927 896 == 0 || decide (0x7F800000 ≤ s.f 927 896)
    || decide (4 < s.f 16 14) || decide (s.ringLog2 < 6) || decide (20 < s.ringLog2)
    || decide (s.maxPos < 2) || decide (2 ^ 31 ≤ s.maxPos) || decide (s.maxPos ≤ s.pos)
    || decide (s.f 463 440 < ceilDiv s.maxPos p.ppp * p.groups)
    || s.ringAddr % 64 != 0 || s.pageList % 4 != 0
    || !b.streamRange s.ringAddr (64 + 32 * 2 ^ s.ringLog2) || !b.streamRange s.pageList (4 * s.f 463 440)

/-- The fields that the device keeps, as open leaves them.
DEDUCED, notes/assumptions/98. -/
def Stream.fresh0 (s : Stream) (blocks state : Nat) : Stream :=
  let s := ((s.set 639 577 0).set 576 576 0).set 439 416 blocks
  { ((((s.set 63 48 0).set 31 29 0).set 28 27 0).set 3 3 0).setState state with fresh := true }

/-- Open, or fork with `shared` blocks copied from list entries of a parent.
DEDUCED, notes/assumptions/98. DEDUCED, notes/assumptions/103. -/
def Sb.openStream (m : Dram) (x : Sb) (c id : Nat) (s : Stream) (hold : Bool) (shared : List Nat) : CmdRes × Sb :=
  let p := x.b.pool c
  let x := iter shared.length x fun x k =>
    let pg := shared.getD k 0
    let r := x.num m (p.word pg) 4
    (r.2.2.put (p.word pg) (leBytes 4 (r.2.1 + 1))).put (s.pageList + 4 * k) (leBytes 4 pg)
  let blocks := s.pos / p.ppp + 1
  let (st, got, x) := x.allocList m c s.pageList shared.length (blocks * p.groups - shared.length)
  if st ≠ .success then ((x.freePages m c (shared ++ got)).2).done st
  else (x.mod fun b => b.setStream id (s.fresh0 blocks (if hold then stPaused else stActive))).done .success

/-- The entry that the host driver wrote for a FREE stream. -/
def Sb.hostEntry (m : Dram) (x : Sb) (id : Nat) : Status × Stream × Sb :=
  let r := x.num m (x.b.entryAddr id) 128
  (r.1, { entry := BitVec.ofNat 1024 r.2.1 }, r.2.2)

/-- DEDUCED, notes/assumptions/104. -/
def execStreamOpen (r : RingId) (e : Entry) (s : State) : Host.Outcome State Fault Refusal :=
  streamCmd r e 0x30 s fun x c id =>
    if (x.b.stream id).isSome ∨ 1 < c.p 1 then x.done .invalidField
    else
      let (st, h, x) := x.hostEntry s.dram id
      if st ≠ .success then x.done st
      else if x.b.entryBad c.c h then x.done .invalidField
      else x.openStream s.dram c.c id h (c.p 1 == 1) []

/-- Words of a list of pages; the first failing status. -/
def Sb.pageWords (m : Dram) (x : Sb) (p : Pool) (l : List Nat) : Status × List Nat × Sb :=
  l.foldl (fun (acc : Status × List Nat × Sb) k =>
    let r := acc.2.2.num m (p.word k) 4
    (if acc.1 = .success then r.1 else acc.1, acc.2.1 ++ [r.2.1], r.2.2)) (.success, [], x)

/-- DEDUCED, notes/assumptions/103. DEDUCED, notes/assumptions/104. -/
def execStreamFork (r : RingId) (e : Entry) (s : State) : Host.Outcome State Fault Refusal :=
  streamCmd r e 0x31 s fun x c id =>
    let share := c.p 2
    let p := x.b.pool c.c
    let (st, x) := x.load s.dram (c.p 1)
    match x.b.stream (c.p 1) with
    | none => x.done .invalidField
    | some par =>
      if st ≠ .success then x.done st
      else if (x.b.stream id).isSome ∨ par.ctx ≠ c.c ∨ par.state = stClosing then x.done .invalidField
      else
        let (st, h, x) := x.hostEntry s.dram id
        if st ≠ .success then x.done st
        else if x.b.entryBad c.c h || share % p.ppp != 0 || decide (par.pos < share) || decide (h.pos < share) || decide (par.blocks < share / p.ppp) then
          x.done .invalidField
        else
          let (st, l, x) := x.pageList s.dram par.pageList 0 (share / p.ppp * p.groups)
          if st ≠ .success then x.done st
          else if x.miss = [] && l.any (fun k => decide (p.pages ≤ k)) then x.done .invalidField
          else
            let (st, ws, x) := if x.miss = [] then x.pageWords s.dram p l else (.success, [], x)
            if st ≠ .success then x.done st
            else if ws.any fun w => w % 65536 == 65535 || w % 65536 == 0 || w / 2 ^ 28 != c.c then x.done .invalidField
            else x.openStream s.dram c.c id h false l

/-- DEDUCED, notes/assumptions/102. -/
def execStreamPause (r : RingId) (e : Entry) (s : State) : Host.Outcome State Fault Refusal :=
  streamCmd r e 0x32 s fun x _ id =>
    match x.b.stream id with
    | none => x.done .invalidField
    | some t =>
      if t.state ≠ stActive ∧ t.state ≠ stParked then x.done .invalidField
      else if t.inStep then
        (.parked x.b, x.mod fun b => b.setStream id { t with pausePending := true, parked := t.parked ++ [(r.val, e)] })
      else (x.mod fun b => b.streamPaused id).done .success

def execStreamResume (r : RingId) (e : Entry) (s : State) : Host.Outcome State Fault Refusal :=
  streamCmd r e 0x33 s fun x _ id =>
    match x.b.stream id with
    | none => x.done .invalidField
    | some t => if t.state ≠ stPaused then x.done .invalidField else (x.mod fun b => b.setStream id (t.setState stActive)).done .success

def execStreamClose (r : RingId) (e : Entry) (s : State) : Host.Outcome State Fault Refusal :=
  streamCmd r e 0x34 s fun x _ id =>
    match x.b.stream id with
    | none => x.done .invalidField
    | some t =>
      if t.inStep then
        (.parked x.b, x.mod fun b => b.setStream id { t.setState stClosing with parked := t.parked ++ [(r.val, e)] })
      else (x.closeStream s.dram id).done .success

def execStreamQuery (r : RingId) (e : Entry) (s : State) : Host.Outcome State Fault Refusal :=
  streamCmd r e 0x35 s fun x _ id =>
    if !bufOk e 128 then x.done .invalidField
    else match x.b.stream id with
      | some t => (x.mod fun b => (b.streamTouch id).hostWrite (entBuf e) (leBytes 128 t.entry.toNat)).done .success
      | none =>
        let (st, h, x) := x.hostEntry s.dram id
        if st ≠ .success then x.done st else (x.mod fun b => b.hostWrite (entBuf e) (leBytes 128 h.entry.toNat)).done .success

/-! ### Step descriptors (Table 11.7) -/

def Block.lane (b : Block) (c l : Nat) : Lane := tget {} (b.ctx c).lanes l
def Block.setLane (b : Block) (c l : Nat) (x : Lane) : Block := b.modCtx c fun k => { k with lanes := tput {} k.lanes l x }

def stepF (d : BitVec 1024) (hi lo : Nat) : Nat := bits d.toNat hi lo
def stepRows (d : BitVec 1024) : Nat := stepF d 397 384

def stepReserved : List (Nat × Nat) :=
  [(941, 928), (831, 816), (767, 752), (703, 688), (639, 624), (575, 560), (511, 497), (479, 465), (447, 433), (415, 398), (383, 0)]

/-- A named cell lies outside the partition of the context. -/
def Block.stepCellsBad (b : Block) (c : Nat) (d : BitVec 1024) : Bool :=
  [(496, 480), (464, 448), (432, 416)].any fun f => !b.cellOwned c (stepF d f.1 f.2)

/-- Why a step descriptor is refused as a lane reads it.
DEDUCED, notes/assumptions/105. -/
def Block.stepBad (b : Block) (c : Nat) (d : BitVec 1024) : Option Status :=
  let n := stepRows d
  let ranges := [(stepF d 623 576, 4 * n), (stepF d 687 640, 32 * n), (stepF d 751 704, 64 * n), (stepF d 815 768, 64 * n)]
  if !zeros d.toNat stepReserved ∨ bit d.toNat 1023 ∨ n = 0 ∨ 8192 < n ∨ stepF d 863 832 = 0 then some .invalidField
  else if b.stepCellsBad c d then some .accessDenied
  else (ranges.find? fun r => !b.streamRange r.1 r.2).map fun r =>
    match b.rangeOf r.1 r.2 with
    | .error st => st
    | .ok _ => .accessDenied

/-- The device's fields phase and status of a step descriptor.
DEDUCED, notes/assumptions/105. -/
def Sb.stepPhase (x : Sb) (addr phase : Nat) (st : Status) : Sb := x.put (addr + 116) (leBytes 2 (phase <<< 14) ++ leBytes 2 st.code)

/-- DEDUCED, notes/assumptions/105. -/
def stepAddrOk (b : Block) (a : Nat) : Except Status Unit :=
  if a % 128 ≠ 0 then .error .invalidField
  else match b.memRange a 128 with
    | .error st => .error st
    | .ok _ => .ok ()

def execStepArm (r : RingId) (e : Entry) (s : State) : Host.Outcome State Fault Refusal :=
  nextOf s (s.blk.startCmd r e 0x36 fun b c =>
    let (l, a) := (c.p 0, c.p 1)
    if b.streamTable = none ∨ 3 < l ∨ (b.lane c.c l).busy then .refuse b .invalidField
    else match stepAddrOk b a with
      | .error st => .refuse b (paramStatus st)
      | .ok _ =>
        let (st, bs, b') := hubRead s.dram b a 128
        if st ≠ .success then .refuse b (paramStatus st)
        else if b.stepCellsBad c.c (BitVec.ofNat 1024 (leNat bs)) then .refuse b .accessDenied
        else .good (b'.setLane c.c l { busy := true, step := a }))

/-! ### Prepare (R217) -/

/-- The stream of this context that a row names. -/
def Block.rowStream (b : Block) (c id : Nat) : Option Stream :=
  (b.stream id).filter fun s => s.ctx == c

/-- One step row of 32 B.
DEDUCED, notes/assumptions/107. -/
def stepRow (id : Nat) (s : Stream) (active : Bool) : List Byte :=
  leBytes 4 id ++ leBytes 4 s.pos ++ leBytes 4 (s.f 703 672) ++ leBytes 4 (b2n active) ++ leBytes 8 s.pageList
    ++ leBytes 4 (s.pos + 1) ++ leBytes 4 0

/-- The row of a stream that is not the context's: the identifier, and byte 12 zero.
DESIGN CHOICE, notes/assumptions/14. -/
def strangeRow (b : Block) (id : Nat) : List Byte :=
  let v := (Config.freeStepRow b.freeCtr).toNat
  leBytes 4 id ++ leBytes 8 (bits v 95 32) ++ leBytes 4 0 ++ leBytes 12 (bits v 223 128) ++ leBytes 4 0

/-- A draw parameter block (Table 10.5). -/
def drawBlock (d : BitVec 1024) (s : Stream) : List Byte :=
  leBytes 64 (s.f 1023 960 + fld (s.f 959 928) 32 96 + fld (s.f 23 17) 7 128 + fld (s.f 24 24) 1 136 + fld (s.pos + 1) 32 192
    + fld 3 32 224 + fld (s.f 927 896) 32 256 + fld (s.f 895 864) 32 288 + fld (stepF d 863 832) 32 352)

/-- What prepare gathers: active rows with their streams, skipped and parked rows. -/
structure PrepAcc where
  x : Sb
  active : List (Nat × Nat) := []
  skipped : Nat := 0
  parked : Nat := 0

def PrepAcc.park (a : PrepAcc) (id : Nat) (s : Stream) (reason : Nat) : PrepAcc :=
  { a with parked := a.parked + 1, x := a.x.mod fun b => b.setStream id ((s.setState stParked).set 28 27 reason) }

/-- A row whose entry, ring header or pages cannot be read is inactive, and its stream stays as it is.
DEDUCED, notes/assumptions/100. DEDUCED, notes/assumptions/107. -/
def prepRow (m : Dram) (c : Nat) (d : BitVec 1024) (batch : List Nat) (a : PrepAcc) (i : Nat) : PrepAcc :=
  let id := batch.getD i 0
  let row := stepF d 687 640 + 32 * i
  let (st, x) := if (a.x.b.rowStream c id).isSome then a.x.load m id else (.success, a.x)
  let a := { a with x }
  match (a.x.b.rowStream c id).filter fun _ => st == .success with
  | none => { a with skipped := a.skipped + 1, x := (a.x.put row (strangeRow a.x.b id)).mod Block.bumpFree }
  | some s =>
    let quiet (a : PrepAcc) : PrepAcc :=
      { a with x := a.x.put row (stepRow id ((a.x.b.stream id).getD s) false) }
    if s.inStep ∨ (s.state ≠ stActive ∧ s.state ≠ stParked) then quiet { a with skipped := a.skipped + 1 }
    else
      let (st, hdr, x) := a.x.num m s.ringAddr 16
      let a := { a with x }
      let p := x.b.pool c
      let fail (a : PrepAcc) : PrepAcc := quiet { a with skipped := a.skipped + 1 }
      if st ≠ .success then fail a
      else if 2 ^ s.ringLog2 ≤ (hdr % 2 ^ 64 + 2 ^ 64 - hdr / 2 ^ 64) % 2 ^ 64 then quiet (a.park id s 2)
      else
        let more := decide (s.blocks ≤ s.pos / p.ppp)
        if more ∧ p.freePages < p.groups then
          let a := a.park id s 1
          quiet { a with x := a.x.mod fun b => b.modPool c fun p => { p with emptySeen := true } }
        else
          let (st, got, x) := if more then a.x.allocList m c s.pageList (s.blocks * p.groups) p.groups else (.success, [], a.x)
          let a := { a with x }
          if st ≠ .success then fail { a with x := (a.x.freePages m c got).2 }
          else
            let s := if more then s.set 439 416 (s.blocks + 1) else s
            let s := ((s.setState stActive).set 28 27 0).set 3 3 1
            let x := a.x.mod fun b => b.setStream id s
            { a with x := (x.put row (stepRow id s true)).put (stepF d 751 704 + 64 * i) (drawBlock d s), active := a.active ++ [(i, id)] }

/-- The lane reads its descriptor and prepares the step, or stops. -/
def Block.stepPrepare (m : Dram) (b : Block) (c l : Nat) : Block :=
  let k := b.lane c l
  let who := 289 + 4 * c + l
  if !k.busy || k.waiting.isSome || k.satisfied || k.ending.isSome || !b.hubUp || b.power == .a2 || (b.ctx c).state != .live || b.hubAsking who then b
  else
    let b := b.ungate
    let stop (x : Sb) (st : Status) (write : Bool) : Block :=
      let x := if write then x.stepPhase k.step 3 st else x
      (Sb.close b (x.mod fun b => b.setLane c l {})).2
    match stepAddrOk b k.step with
    | .error st => stop { b, who } st false
    | .ok _ =>
      let (st, v, x) := Sb.num m { b, who } k.step 128
      let d := BitVec.ofNat 1024 v
      if st ≠ .success then stop x st true
      else match x.b.stepBad c d with
        | some st => stop x st true
        | none =>
          let (st, bs, x) := x.get m (stepF d 623 576) (4 * stepRows d)
          if st ≠ .success then stop x st true
          else
            let a := iter (stepRows d) ({ x := x } : PrepAcc) (prepRow m c d (words32 bs))
            let x := a.x.stepPhase k.step 1 .success
            let w : Wait := { cell := stepF d 464 448, theta := 1, consume := true, hot := true, watchAll := true, started := b.time }
            let w := { w with peerLostDue := b.watchedLost c w }
            (Sb.close b (x.mod fun b =>
              (b.setLane c l { k with desc := d, waiting := some w, active := a.active, skipped := a.skipped, parked := a.parked }).signal
                (stepF d 432 416) 1 (0x2000 + 4 * c + l) (lines := x.lines))).2

def execStepPrepare (c : CtxId) (lane : Fin 4) (s : State) : Host.Outcome State Fault Refusal := nextOf s (s.blk.stepPrepare s.dram c lane)

/-! ### Commit (R218) -/

/-- What commit gathers. -/
structure CommitAcc where
  x : Sb
  committed : Nat := 0
  ended : Nat := 0

/-- A stream enters FAULTED with its status; a close that waits for the stream is then carried out (R209, R210).
DEDUCED, notes/assumptions/102. -/
def Sb.faultStream (m : Dram) (x : Sb) (id : Nat) (s : Stream) (st : Status) : Sb :=
  let closing := s.state = stClosing
  let x := x.mod fun b => ((b.setStream id (((s.setState stFaulted).set 63 48 st.code).set 3 3 0)).streamBack id).pauseAnswer id .invalidField
  if closing then x.closeStream m id else x

/-- The entry of a stream in a step cannot be read: what is left of it names its context and the fault.
DEDUCED, notes/assumptions/100. -/
def Sb.lostEntry (m : Dram) (x : Sb) (id : Nat) (s : Stream) (st : Status) : Sb :=
  let closing := s.parked.any fun p => entOpcode p.2 == 0x34
  let t := ({ s with entry := 0, cached := true } : Stream).set 11 8 s.ctx
  x.faultStream m id (if closing then t.setState stClosing else t) st

/-- A token record (Table 11.9). -/
def tokenRecord (b : Block) (id : Nat) (s : Stream) (res epoch reason : Nat) : List Byte :=
  leBytes 32 (id + fld (s.pos + 1) 32 32 + fld (bits res 447 416) 32 64 + fld (bits res 479 448) 32 96 + fld epoch 63 128
    + fld (b2n (reason != 0)) 1 210 + fld reason 3 211 + fld (b2n s.fresh) 1 214 + fld (bits res 1 1) 1 215
    + fld (b2n b.ptp.timeFlag) 1 216 + fld b.time 32 224)

def endReason (s : Stream) (token : Nat) : Nat :=
  let stops := (List.range (s.f 16 14)).map fun j => s.f (736 + 32 * j + 31) (736 + 32 * j)
  if token = 0xFFFFFFFF then 3 else if stops.contains token then 1 else if s.maxPos ≤ s.pos + 1 then 2 else 0

/-- DEDUCED, notes/assumptions/100. DEDUCED, notes/assumptions/101. -/
def commitRow (m : Dram) (d : BitVec 1024) (epoch : Nat) (a : CommitAcc) (row : Nat × Nat) : CommitAcc :=
  let id := row.2
  let (st, x) := a.x.load m id
  let a := { a with x }
  let faulted (a : CommitAcc) (s : Stream) (st : Status) : CommitAcc := { a with x := a.x.faultStream m id s st }
  match a.x.b.stream id with
  | none => a
  | some s =>
    if st ≠ .success then { a with x := a.x.lostEntry m id s st } else
    let (st, res, x) := a.x.num m (stepF d 815 768 + 64 * row.1) 64
    let a := { a with x }
    if st ≠ .success then faulted a s st
    else if !bit res 0 then faulted a s .invalidField
    else if s.state = stClosing then { a with x := a.x.closeStream m id }
    else
      let (st, prod, x) := a.x.num m s.ringAddr 8
      let a := { a with x }
      if st ≠ .success then faulted a s st
      else
        let token := bits res 447 416
        let reason := endReason s token
        let slot := s.ringAddr + 64 + 32 * (prod % 2 ^ s.ringLog2)
        let x := (a.x.put slot (tokenRecord a.x.b id s res epoch reason)).putAfter slot 32 s.ringAddr (leBytes 8 (prod + 1))
        let s' := if s.f 576 576 = 0 then (s.set 639 577 epoch).set 576 576 1 else s
        let s' := { ((s'.set 671 640 (s.pos + 1)).set 703 672 token).set 3 3 0 with fresh := false }
        let a := { a with x := x.mod fun b => b.setStream id s', committed := a.committed + 1 }
        if reason ≠ 0 then
          let (st, x) := if s.f 25 25 = 1 then a.x.freeStream m s' else (.success, a.x)
          let s' := s'.set 31 29 reason
          let s' := if s.f 25 25 = 1 then s'.set 439 416 0 else s'
          let s' := if st = .success then s'.setState stDone else (s'.setState stFaulted).set 63 48 st.code
          { a with
            ended := a.ended + 1
            x := x.mod fun b =>
              let b := ((b.setStream id s').streamBack id).pauseAnswer id .invalidField
              if s.f 26 26 = 1 then b.postEvent (1 + s.ctx) 0x2004 id else b }
        else if s.pausePending then { a with x := a.x.mod fun b => b.streamPaused id } else a

/-! ### Abandonment (R219) -/

/-- What a step's abandonment does to the stream of one of its rows.
DEDUCED, notes/assumptions/106. -/
def Sb.abandonRow (m : Dram) (x : Sb) (id : Nat) : Sb :=
  let (st, x) := x.load m id
  match x.b.stream id with
  | none => x
  | some s =>
    if st ≠ .success then x.lostEntry m id s st else
    let x := x.mod fun b => b.setStream id (s.set 3 3 0)
    if s.state = stClosing then x.closeStream m id
    else if s.pausePending then x.mod fun b => b.streamPaused id else x

/-- The step of a lane is abandoned with a status; the lane idles. Where it needs host-window bytes it asks for them and
goes on when they have come.
DEDUCED, notes/assumptions/104. DEDUCED, notes/assumptions/106. -/
def Block.stepAbandon (m : Dram) (b : Block) (c l : Nat) (st : Status) : Block :=
  let k := b.lane c l
  let x : Sb := { b, who := 289 + 4 * c + l }
  let x := k.active.foldl (fun x r => x.abandonRow m r.2) (x.stepPhase k.step 3 st)
  let r := Sb.close b (x.mod fun b => (b.setLane c l {}).signal (stepF k.desc 496 480) 1 (0x2000 + 4 * c + l) (lines := x.lines))
  if r.1 then r.2 else r.2.setLane c l { k with waiting := none, satisfied := false, ending := some st }

/-- The lane commits once its wait is satisfied.
DEDUCED, notes/assumptions/106. -/
def Block.stepCommit (m : Dram) (b : Block) (c l : Nat) : Block :=
  let k := b.lane c l
  let who := 289 + 4 * c + l
  let d := k.desc
  if (!k.satisfied && k.ending.isNone) || !b.hubUp || b.power == .a2 || b.hubAsking who then b
  else if let some st := k.ending then b.stepAbandon m c l st
  else
    let (st, epoch, x) := Sb.num m { b, who } (k.step + 120) 8
    if st ≠ .success then b.stepAbandon m c l st
    else
      let a := k.active.foldl (commitRow m d (epoch % 2 ^ 63)) ({ x := x } : CommitAcc)
      let counts := leBytes 2 a.committed ++ leBytes 2 k.parked ++ leBytes 2 k.skipped ++ leBytes 2 a.ended
      let x := (a.x.put (k.step + 108) counts).stepPhase k.step 2 .success
      let next := stepF d 559 512
      (Sb.close b (x.mod fun b =>
        (b.setLane c l (if next = 0 then {} else { busy := true, step := next })).signal (stepF d 496 480) 1 (0x2000 + 4 * c + l) (lines := x.lines))).2

def execStepCommit (c : CtxId) (lane : Fin 4) (s : State) : Host.Outcome State Fault Refusal := nextOf s (s.blk.stepCommit s.dram c lane)

end Sys2Proof.Machine
end

