-- ==== Sys2Proof/Machine/Waits.lean ====
section
/-!
DEFINITION. Waiters and what watches cells from the hub: polls and timeouts, CELL_NOTIFY, the host's cell views, and
the synchronisation dump (R268, R275, R276, R279, R311, R312).
-/
namespace Sys2Proof.Machine

/-! ### CELL_NOTIFY (R312) -/

/-- The vectors of a function that serve CELL_NOTIFY. -/
def notifyVec (fn vec : Nat) : Bool := if fn = 0 then decide (17 ≤ vec) && decide (vec ≤ 63) else decide (1 ≤ vec) && decide (vec ≤ 63)

/-- The hub polls an armed cell; at its threshold the vector is raised once and disarmed.
DEDUCED, notes/assumptions/108. -/
def Block.notifyPoll (b : Block) (fn vec : Nat) : Block :=
  match b.notifies.find? fun n => n.fn == fn && n.vec == vec with
  | none => b
  | some n =>
    if !b.hubUp || b.frozen.isSome then b
    else
      let b := b.cellMet none n.cell
      if (b.cell n.cell).count < n.theta then b else
      let b : Block := { b with notifies := b.notifies.filter (· ≠ n), wake := b.wake || b.power == .a2 }
      (b.raise fn vec).postEvent n.ring 0x2007 n.cell

/-- DEDUCED, notes/assumptions/111. -/
def execCellNotifyFire (fn : FnId) (vec : Fin 64) (s : State) : Host.Outcome State Fault Refusal := nextOf s (s.blk.notifyPoll fn vec)

/-- DEDUCED, notes/assumptions/108. -/
def execCellNotify (r : RingId) (e : Entry) (s : State) : Host.Outcome State Fault Refusal :=
  nextOf s (s.blk.startCmd r e 0x62 fun b c =>
    let (cell, vec, theta) := (c.p 0, c.p 1, c.p 2)
    let (fn, ring) := match c.ctx with
      | none => (0, 0)
      | some x => (b.ringFn (1 + x), 1 + x)
    if 131072 ≤ cell ∨ notifyVec fn vec = false then .refuse b .invalidField
    else if c.ctx.any fun x => !b.cellOwned x cell then .refuse b .accessDenied
    else .good { b with notifies := b.notifies.filter (fun n => !(n.fn == fn && n.vec == vec)) ++ [{ fn, vec, cell, theta, ring }] })

/-! ### Polls and timeouts -/

/-- A poll by a stream lane; `final` is the poll of a timeout (R276). -/
def Block.pollLane (m : Dram) (b : Block) (c l : Nat) (final : Bool) : Block :=
  let k := b.lane c l
  match k.waiting with
  | none => b
  | some w =>
    if !b.hubUp || b.frozen.isSome || b.hubAsking (289 + 4 * c + l) then b
    else
      let b := b.cellMet none w.cell
      let r := b.pollCell w
      if r.1 then r.2.setLane c l { k with waiting := none, satisfied := true }
      else if w.peerLostDue then b.stepAbandon m c l .peerLost
      else if final then b.stepAbandon m c l .timeout else b

def execCellPoll (x : Waiter) (s : State) : Host.Outcome State Fault Refusal :=
  nextOf s (match x with
    | .spindle p => s.blk.orWait fun b => b.pollSpindle s.dram p false
    | .lane c l => s.blk.pollLane s.dram c l false
    | .notify fn vec => s.blk.notifyPoll fn vec)

/-- A notification never times out (R312).
DESIGN CHOICE, notes/assumptions/3. -/
def execWaitTimeout (x : Waiter) (s : State) : Host.Outcome State Fault Refusal :=
  nextOf s (match x with
    | .spindle p => s.blk.orWait fun b => b.pollSpindle s.dram p true
    | .lane c l => s.blk.pollLane s.dram c l true
    | .notify _ _ => s.blk)

/-! ### The host's cell views (R311) -/

/-- A host write of a cell view: 8 B, aligned, and within the partition of a virtual function's context.
DEDUCED, notes/assumptions/110. DEDUCED, notes/assumptions/139. -/
def Block.hostCell (b : Block) (fn off size : Nat) (act : Block → Nat → Block) : Block :=
  if !b.fnLive fn then b
  else
    let b := b.hostTouch size
    let cell := off / 8
    if size ≠ 8 ∨ off % 8 ≠ 0 ∨ 131072 ≤ cell ∨ (fn ≠ 0 ∧ b.cellOwned (fn - 1) cell = false) then { b with cellErr := true }
    else act b cell

/-- A set by the host takes effect at once, or behind its function's signals to that tile that still wait (R13, R311).
DEDUCED, notes/assumptions/110. -/
def Block.hostCellSet (b : Block) (fn cell : Nat) (v : Int) : Block :=
  let b := b.cellFirst none cell
  if b.sigs.any fun g => g.after == some fn && cellTile g.cell == cellTile cell then
    ({ b with sigs := b.sigs ++ [{ cell, amount := v, isSet := true, src := 0x4000 + fn, after := some fn }] } : Block).cellTraffic none cell
  else b.cellSet cell v

def execHostCellSet (fn : FnId) (off size : Nat) (val : Word64) (s : State) : Host.Outcome State Fault Refusal :=
  nextOf s (s.blk.hostCell fn off size fun b c => b.hostCellSet fn c val.toInt)

def execHostCellSignal (fn : FnId) (off size : Nat) (val : Word64) (s : State) : Host.Outcome State Fault Refusal :=
  nextOf s (s.blk.hostCell fn off size fun b c =>
    b.signal c val.toInt (0x4000 + fn.val) (after := some fn.val))

/-! ### The synchronisation dump (R279, Tables 15.9 to 15.11) -/

/-- The context whose partition holds a cell. -/
def Block.cellOwner (b : Block) (cell : Nat) : Option Nat := (List.range 16).find? fun n => b.cellOwned n cell

def Block.cellRecord (b : Block) (cell : Nat) : List Byte :=
  let k := b.cell cell
  let own := b.cellOwner cell
  leBytes 16 (trunc 64 k.count + fld k.src 16 76 + fld k.peer 12 92 + fld (b2n k.sat) 1 105 + fld (b2n own.isSome) 1 106
    + fld (own.getD 0) 4 107 + fld cell 17 111)

/-- One wait in progress: context, waiter, object, and the wait. -/
structure WaitRec where
  ctx : Nat
  waiter : Nat
  object : Nat
  w : Wait
  lane : Bool

def Block.waits (b : Block) : List WaitRec :=
  (List.range 272).filterMap (fun p =>
    let s := b.spd p
    match s.hold with
    | .swait w => some { ctx := s.ctx, waiter := 0x1000 + p, object := s.blankAddr.toNat, w, lane := false }
    | _ => none)
  ++ (List.range 64).filterMap fun k =>
    let l := b.lane (k / 4) (k % 4)
    l.waiting.map fun w => { ctx := k / 4, waiter := 0x2000 + k, object := l.step, w, lane := true }

def Block.waitRecord (b : Block) (x : WaitRec) : List Byte :=
  let w := x.w
  leBytes 32 (fld x.object 64 0 + fld (if x.lane then 0 else w.watchPeer) 12 93 + fld (b2n (w.watchEn && !x.lane)) 1 105
    + fld (b2n w.consume) 1 106 + fld x.ctx 4 107 + fld x.waiter 16 111 + fld w.cell 17 127 + fld (b.time - w.started) 48 144
    + fld w.theta 64 192)

/-- Cells of a dump's scope. -/
def Block.dumpCells (b : Block) (scope : Option Nat) : List Nat :=
  match scope with
  | none => List.range 131072
  | some c => (List.range 4).flatMap fun t =>
    let (base, n) := tget (0, 0) (b.tile t).synPart c
    (List.range n).map (32768 * t + base + ·)

def Block.dumpBytes (b : Block) (scope : Option Nat) : List Byte :=
  let cells := b.dumpCells scope
  let waits := b.waits.filter fun x => scope.all (· == x.ctx)
  leBytes 64 (b2n scope.isSome + fld (b2n b.ptp.timeFlag) 1 3 + fld (scope.getD 0) 4 4 + fld 1 8 8 + fld waits.length 16 400
      + fld cells.length 32 416 + fld b.time 64 448)
    ++ cells.flatMap b.cellRecord ++ waits.flatMap b.waitRecord

/-- The freeze: every cell store and poller stops, and the dump is what they hold then.
DEDUCED, notes/assumptions/109. -/
def Block.freeze (b : Block) (d : Dump) : Block := { b with frozen := some { dump := d, bytes := b.dumpBytes d.scope } }

/-- The scope that the parameters give, when the ring permits it.
DEDUCED, notes/assumptions/109. -/
def dumpScope (c : Cmd) : Option (Option Nat) :=
  match c.ctx, c.p 0 with
  | none, 0 => some none
  | some x, 1 => some (some x)
  | _, _ => none

/-- DEDUCED, notes/assumptions/109. -/
def execSyncDump (r : RingId) (e : Entry) (s : State) : Host.Outcome State Fault Refusal :=
  nextOf s (s.blk.startCmd r e 0x60 fun b c =>
    match dumpScope c with
    | none => .refuse b .invalidField
    | some scope =>
      let need := 64 + 16 * (b.dumpCells scope).length + 336 * 32
      let trace := c.p 1 == 1
      if 1 < c.p 1 ∨ (trace = false ∧ bufOk e need = false)
          ∨ (trace ∧ (b.trace.logValid = false ∨ 0x400000 < entBuf e + need)) then .refuse b .invalidField
      else
        let d : Dump := { ring := r.val, entry := e, scope, toTrace := trace, dest := if trace then b.trace.base - 0x400000 + entBuf e else entBuf e }
        .parked (if b.frozen.isSome then { b with dumps := b.dumps ++ [d] } else b.freeze d))

/-- The copy is complete: the dump is written, the command completes, and the stores apply what they held. -/
def Block.dumpResume (b : Block) : Block :=
  match b.frozen with
  | none => b
  | some z =>
    let d := z.dump
    let b : Block := { b with frozen := none }
    let b := if d.toTrace then b.hubWrite d.dest z.bytes else b.hostWrite d.dest z.bytes
    let b := (z.held.foldl Block.cellOp b).finish d.ring d.entry .success 0
    match b.dumps with
    | [] => b
    | n :: rest => ({ b with dumps := rest }).freeze n

def execSyncDumpResume (s : State) : Host.Outcome State Fault Refusal := nextOf s s.blk.dumpResume

end Sys2Proof.Machine
end

