-- ==== Sys2Proof/Machine/Racks.lean ====
section
/-!
DEFINITION. The dispatcher and the chucks, and pushes by the host (Chapter 14).
-/
namespace Sys2Proof.Machine

/-! ### Choosing a blank (R255 to R257) -/

/-- Logical number `l` of a tile is in service: a spindle holds it. -/
def Block.logicalIn (b : Block) (l : Nat) : Bool := !b.removed.contains l && (b.spd (b.physOf l)).inService

/-- The logical spindle that a removed number is aliased to: the next one in service on its tile, with wrap (R359). -/
def Block.aliasOf (b : Block) (l : Nat) : Option Nat :=
  ((List.range 64).map fun j => 64 * (l / 64) + (l + j + 1) % 64).find? b.logicalIn

/-- The target of a blank admits logical spindle `l`. -/
def Block.admits (b : Block) (k : Blank) (l : Nat) : Bool :=
  let d := k.desc.toNat
  let target := bits d 119 112
  match bits d 105 104 with
  | 0 => target == l || (b.removed.contains target && b.aliasOf target == some l)
  | 1 => target == l / 64
  | _ => true

def Blank.filler (k : Blank) : Bool := bit k.desc.toNat 102

/-- The first ready entry of a rack, at most 64 deep, that spindle `l` may take.
DEDUCED, notes/assumptions/112. -/
def Block.firstReady (b : Block) (rack l : Nat) (filler : Bool) : Option RackEntry :=
  ((b.rack rack).take 64).find? fun e => e.ready && e.blank.filler == filler && b.admits e.blank l

/-- A non-filler blank of context `c` is ready and admits `l`.
DEDUCED, notes/assumptions/112. -/
def Block.hasWork (b : Block) (c l : Nat) : Bool :=
  (List.range 4).any fun prio => (b.rack (rackOf c prio)).any fun e => e.ready && !e.blank.filler && b.admits e.blank l

/-- Contexts a spindle takes blanks from: enabled, with pages in their window there. -/
def Block.mayRun (b : Block) (p c : Nat) : Bool :=
  (b.ctx c).sched.enable && (match tfind (b.spd p).windows c with
    | some w => decide (0 < w.pages)
    | none => false)

/-- Home and guest contexts of logical spindle `l` on `p`, in round-robin order from the context after the one last served.
DEDUCED, notes/assumptions/112. -/
def Block.homes (b : Block) (p l : Nat) : List Nat × List Nat :=
  let order := ((List.range 16).map fun k => ((b.spd p).lastServed + 1 + k) % 16).filter (b.mayRun p)
  match tget (false, 0) b.primary l with
  | (false, _) => (order, [])
  | (true, n) => (order.filter (· == n), order.filter fun c => c != n && bit (b.ctx n).sched.lendMask c)

/-- The first blank in the class order, and whether it is a guest's.
DEDUCED, notes/assumptions/112. -/
def Block.choose (b : Block) (p l : Nat) : Option (Nat × RackEntry × Bool) :=
  let (home, guest) := b.homes p l
  let one (filler : Bool) (prio c : Nat) : Option (Nat × RackEntry) :=
    if filler && b.hasWork c l then none else (b.firstReady (rackOf c prio) l filler).map fun e => (rackOf c prio, e)
  let cls (cs : List Nat) (filler : Bool) : Option (Nat × RackEntry) := (List.range 4).findSome? fun prio => cs.findSome? (one filler prio)
  let mine := (cls home false).or (cls home true)
  match mine with
  | some x => some (x.1, x.2, false)
  | none => ((cls guest false).or (cls guest true)).map fun x => (x.1, x.2, true)

/-- The prefetched slot is empty and nothing is on its way to it. -/
def Block.slotOpen (b : Block) (l : Nat) : Bool :=
  let s := b.spd (b.physOf l)
  b.logicalIn l && !s.faulted && !s.resetting && s.pre.isNone && s.arriving.isNone

/-- Info of a DISPATCH or REDISPATCH record (Table 14.7). -/
def dispatchInfo (p : Nat) (guest : Bool) : Nat := p % 68 + (if tileOf p % 2 = 1 then 2 ^ 8 else 0) + (if guest then 2 ^ 15 else 0)

/-- One decision of a tile's dispatcher. -/
def Block.dispatch (b : Block) (t : Nat) : Block :=
  if !b.clocked then b
  else
    let start := (b.tile t).rotate
    let b := b.modTile t fun x => { x with rotate := (x.rotate + 1) % 64 }
    let found := ((List.range 64).map fun j => 64 * t + (start + j) % 64).findSome? fun l =>
      if b.slotOpen l then (b.choose (b.physOf l) l).map fun x => (l, x) else none
    match found with
    | none => b
    | some (l, rack, e, guest) =>
      let p := b.physOf l
      let k : Blank := { e.blank with guest }
      let b := b.setRack rack (eraseFirst (· == e) (b.rack rack))
      let b := b.modSpd p fun s => { s with arriving := some k, lastServed := k.ctx }
      b.traceEvent k.ctx k.desc 0x03 l (dispatchInfo p guest)

def execDispatchDecision (t : TileId) (s : State) : Host.Outcome State Fault Refusal := nextOf s (s.blk.dispatch t)

/-! ### Chucks (R258) -/

/-- One line of a prefetch: read through the die cache, and dropped when it fails.
DEDUCED, notes/assumptions/113. -/
def Block.prefetchLine (m : Dram) (b : Block) (p line : Nat) : Option (List Byte) × Block :=
  match b.engineRange line 128 with
  | .error _ => (none, b)
  | .ok _ =>
    let (st, bs, b) := b.tileRead m p line 128 .reuse
    (if st = .success then some bs else none, b)

/-- The first code lines and the warm ranges of a blank in the prefetched slot are read, charged to that blank.
DEDUCED, notes/assumptions/113. -/
def Block.prefetch (m : Dram) (b : Block) (p : Nat) (k : Blank) : Block :=
  let d := k.desc.toNat
  let keep := (b.spd p).cur
  let b := b.modSpd p fun s => { s with cur := some k, preCode := [] }
  let code := bits d 47 0
  let b := iter (min 8 (ceilDiv (16 * bits d 87 64) 128)) b fun b j =>
    match b.prefetchLine m p (code + 128 * j) with
    | (some bs, b) => (b.modSpd p fun s => s.fillCode true (code + 128 * j) bs).countEvent p k.ctx 0x0F 1
    | (none, b) => b
  let warm (b : Block) (a n : Nat) : Block := iter (32 * n) b fun b j => (b.prefetchLine m p (a + 128 * j)).2
  let b := warm b (bits d 239 192) (bits d 250 240)
  let b := warm b (bits d 303 256) (bits d 314 304)
  b.modSpd p fun s => { s with cur := keep }

/-- A dispatched blank enters the prefetched slot. -/
def Block.chuckArrival (m : Dram) (b : Block) (p : Nat) : Block :=
  let s := b.spd p
  match s.arriving with
  | none => b
  | some k =>
    if !b.clocked || !s.inService || s.faulted || s.resetting || s.pre.isSome then b
    else (b.setSpd p { s with arriving := none, pre := some k }).prefetch m p k

def execChuckArrival (p : Spd) (s : State) : Host.Outcome State Fault Refusal := nextOf s (s.blk.orWait fun b => b.chuckArrival s.dram p)

/-! ### Pushes by the host (R254) -/

def execBlankPush (r : RingId) (e : Entry) (s : State) : Host.Outcome State Fault Refusal :=
  nextOf s (s.blk.startCmd r e 0x40 fun b c =>
    let (n, a) := (c.p 0, c.p 1)
    let x := c.c
    if n = 0 ∨ 64 < n ∨ a % 64 ≠ 0 then .refuse b .invalidField
    else
      let (st, bs, b') := hubRead s.dram b a (64 * n)
      if st ≠ .success then .refuse b (paramStatus st)
      else
        let descs := (List.range n).map fun i => leNat (slice bs (64 * i) 64)
        match firstBad (descs.map (descCheck b x)) with
        | some st => .refuse b st
        | none =>
          if b.rackFull x n then .done .rackFull (b.quotaLeft x) (b'.traceEvent x (BitVec.ofNat 512 (descs.headD 0)) 0x02 0 1)
          else
            let resv := b.nextResv
            let ks := (List.range n).map fun i => ({ desc := BitVec.ofNat 512 (descs.getD i 0), addr := BitVec.ofNat 64 (a + 64 * i) } : Blank)
            let b := (({ b'.ungate with nextResv := resv + 1 }).reserve x resv false ks).pushReady x resv
            .done .success (b.quotaLeft x) b)

end Sys2Proof.Machine
end

