-- ==== Sys2Proof/Machine/Device.lean ====
section
/-!
DEFINITION. The Minyx commands that configure the device, BAR2, and the firmware commands (R310, R325, Table 17.7).
-/
namespace Sys2Proof.Machine

/-! ### Device configuration -/

/-- A range of `n` bytes at `a` lies in HBM or the deep tier, aligned to `k`. -/
def Block.placed (b : Block) (a n k : Nat) : Bool := a % k == 0 && b.inMemory a n

def execDevConfig (r : RingId) (e : Entry) (s : State) : Host.Outcome State Fault Refusal :=
  nextOf s (s.blk.startCmd r e 0x02 fun b c =>
    if b.streams ≠ [] ∨ b.placed (c.p 0) (128 * streamCount) 128 = false then .refuse b .invalidField
    else .good { b with streamTable := some (c.p 0) })

/-- NET_CONFIG (R282, R298, R386). -/
def execNetConfig (r : RingId) (e : Entry) (s : State) : Host.Outcome State Fault Refusal :=
  nextOf s (s.blk.startCmd r e 0x04 fun b c =>
    let (mask, en, prio) := (c.p 0, c.p 1, c.p 2)
    if 1 < en ∨ 6 < prio ∨ 63 < c.p 4 ∨ 63 < c.p 5 ∨ 8 < c.p 6 ∨ c.p 7 % 8 ≠ 0 ∨ b.ctxs.any (fun x => x.2.krf.jobEn) then .refuse b .invalidField
    else
      let b : Block := { b with
        krfUdpPort := c.p 3, krfDscpData := c.p 4, krfDscpCtrl := c.p 5, deviceAddr := BitVec.ofNat 128 (c.p 7)
        ptp := { b.ptp with source := c.p 6 } }
      .good ((bitList 8 mask).foldl (fun b k => b.modPort k fun x => { x with pfcEn := en == 1, pfcPrio := prio }) b))

/-- Parameter op of MEM_ADMIN. -/
def memAdminOp (e : Entry) : Nat := bits e.toNat 199 192

/-- Op 0 writes HUB_MEM_CFG; an op above 2 is refused (R247, R384). -/
def execMemAdminCfg (r : RingId) (e : Entry) (s : State) : Host.Outcome State Fault Refusal :=
  nextOf s (if memAdminOp e = 1 ∨ memAdminOp e = 2 then s.blk else s.blk.startCmd r e 0x05 fun b c =>
    let v := c.p 2
    if c.p 0 ≠ 0 ∨ !zeros v [(63, 40), (7, 1)] then .refuse b .invalidField
    else .good { b with
      memUeThreshold := bits v 39 32, memUeWindowH := bits v 31 24, memScrubHbmH := bits v 23 16
      memScrubDeepH := bits v 15 8, memScrubEn := bit v 0 })

/-- Op 1 clears a channel's record in the configuration store; the next module reset trains the channel again (R247). -/
def execMemAdminClear (r : RingId) (e : Entry) (s : State) : Host.Outcome State Fault Refusal :=
  nextOf s (if memAdminOp e ≠ 1 then s.blk else s.blk.startCmd r e 0x05 fun b c =>
    if 383 < c.p 1 then .refuse b .invalidField
    else .good { b with store := { b.store with mapOut := b.store.mapOut.filter (· ≠ c.p 1) } })

/-- Op 2 writes HUB_DEEP_ARB (R384). -/
def execMemAdminDeepArb (r : RingId) (e : Entry) (s : State) : Host.Outcome State Fault Refusal :=
  nextOf s (if memAdminOp e ≠ 2 then s.blk else s.blk.startCmd r e 0x05 fun b c =>
    if 16 < c.p 2 then .refuse b .invalidField else .good { b with keepShare := c.p 2 })

/-! ### Tiles (R113, R181) -/

/-- The lines of ways that change role are cleaned and invalidated, and busy is set.
DEDUCED, notes/assumptions/115. -/
def Block.repartition (b : Block) (t ways : Nat) : Block :=
  let old := (b.tile t).burlWays
  let moves (w : Nat) : Bool := decide (16 - max old ways ≤ w) && decide (w < 16 - min old ways)
  let out := (b.tile t).dc.flatMap fun x => (x.2.ways.filter fun w => moves w.1).map (·.2)
  let b := out.foldl (fun b l => b.writeBack t l) b
  b.modTile t fun x =>
    { x with burlWays := ways, repartBusy := true, dc := x.dc.map fun k => (k.1, { k.2 with ways := k.2.ways.filter fun w => !moves w.1 }) }

/-- DEDUCED, notes/assumptions/115. -/
def execTileConfig (r : RingId) (e : Entry) (s : State) : Host.Outcome State Fault Refusal :=
  nextOf s (s.blk.startCmd r e 0x06 fun b c =>
    let (t, ways, steal) := (c.p 0, c.p 1, c.p 2)
    if 3 < t ∨ 12 < ways ∨ !zeros steal [(63, 32), (15, 8), (3, 1)] then .refuse b .invalidField
    else
      let b := b.modTile t fun x => { x with stealMask := bits steal 31 16, stealMinLeft := bits steal 7 4, stealEnable := bit steal 0 }
      if (b.tile t).burlWays = ways ∧ (b.tile t).repartBusy = false then .good b else .parked (b.repartition t ways))

/-- Busy clears, and the commands that wait for it complete. -/
def Block.repartDone (b : Block) (t : Nat) : Block :=
  if (b.tile t).repartBusy = false then b
  else
    let b := b.modTile t fun x => { x with repartBusy := false }
    let mine := (b.ring 0).taken.filter fun x => x.started && entOpcode x.entry == 0x06 && bits x.entry.toNat 199 192 == t
    mine.foldl (fun b x => b.finish 0 x.entry .success 0) b

def execDcRepartitionDone (t : TileId) (s : State) : Host.Outcome State Fault Refusal := nextOf s (s.blk.repartDone t)

/-! ### Scheduling, trace and calipers -/

def execSpdPrimary (r : RingId) (e : Entry) (s : State) : Host.Outcome State Fault Refusal :=
  nextOf s (s.blk.startCmd r e 0x16 fun b c =>
    let (first, n) := (c.p 0, c.p 1)
    if 256 < first + n ∨ 1 < c.p 2 ∨ 15 < c.p 3 then .refuse b .invalidField
    else .good { b with primary := iter n b.primary fun t k => tput (false, 0) t (first + k) (c.p 2 == 1, c.p 3) })

/-- HUB_TRACE_CFG takes the value `v`; a log that becomes valid or moves receives the shadow's records (R262, R362). -/
def Block.traceSet (b : Block) (v : Nat) : Block :=
  let t := b.trace
  let on := bit v 0
  let t' : Trace := { t with base := bits v 47 20 * 2 ^ 20, sizeLog2 := bits v 7 4, stopMode := bit v 2, enable := on }
  let t' : Trace := if on && !t.enable then { t' with prod := 0, cons := 0, lost := 0, lostDue := false } else t'
  let b : Block := { b with trace := t' }
  if t.base = t'.base then b else t.shadow.foldl (fun b f => b.logWrite f) b

def execTraceConfig (r : RingId) (e : Entry) (s : State) : Host.Outcome State Fault Refusal :=
  nextOf s (s.blk.startCmd r e 0x17 fun b c =>
    let v := c.p 0
    let (base, size) := (bits v 47 20 * 2 ^ 20, bits v 7 4)
    if !zeros v [(63, 48), (19, 8), (3, 3), (1, 1)] ∨ 10 < size ∨ base < 0x800000
        ∨ b.hbmTop < base + 2 ^ (20 + size) then .refuse b .invalidField
    else
      .good (b.traceSet v))

def execPowerLimits (r : RingId) (e : Entry) (s : State) : Host.Outcome State Fault Refusal :=
  nextOf s (s.blk.startCmd r e 0x70 fun b c =>
    let (long, short) := (c.p 0, c.p 1)
    if long < 1000 ∨ 3600 < long ∨ short < 1000 ∨ 4000 < short ∨ short < long then .refuse b .invalidField
    else .good { b with cal := { b.cal with longW := long, shortW := short } })

def execPhasePoint (r : RingId) (e : Entry) (s : State) : Host.Outcome State Fault Refusal :=
  nextOf s (s.blk.startCmd r e 0x71 fun b c =>
    let (phase, op) := (c.p 0, c.p 1)
    if op ≤ 0x0F ∨ op = 0xFE then .good (b.modCtx c.c fun x => { x with points := tset x.points phase op })
    else if op = 0xFF then .good (b.modCtx c.c fun x => { x with points := tdel x.points phase })
    else .refuse b .invalidField)

/-- The context's energy in whole millijoules (R336). -/
def execEnergyRead (r : RingId) (e : Entry) (s : State) : Host.Outcome State Fault Refusal :=
  nextOf s (s.blk.startCmd r e 0x72 fun b c => .done .success ((b.ctx c.c).energyUj / 1000).floor.toNat b)

/-- COUNTER_SNAPSHOT completes with its image's seq (R345, R347). -/
def execCounterSnapshot (r : RingId) (e : Entry) (s : State) : Host.Outcome State Fault Refusal :=
  nextOf s (s.blk.startCmd r e 0x61 fun b c => .parked (b.snapTrigger .command (c.p 0) [(r.val, e)]).2)

/-! ### BAR2 (R310) -/

def Block.bar2Bytes (b : Block) (fn : Nat) : Nat := if fn = 0 then (b.func 0).bar2Gib * 2 ^ 30 else 2 ^ 32

/-- The function exists. -/
def Block.fnEnabled (b : Block) (fn : Nat) : Bool := fn == 0 || decide (fn ≤ b.numVfs)

/-- DEDUCED, notes/assumptions/114. -/
def execBar2Map (r : RingId) (e : Entry) (s : State) : Host.Outcome State Fault Refusal :=
  nextOf s (s.blk.startCmd r e 0x03 fun b c =>
    let (fn, base, limit) := (c.p 0, c.p 1, c.p 2)
    if !b.fnEnabled fn ∨ (base < limit ∧ b.inMemory base (limit - base) = false) then .refuse b .invalidField
    else .good (b.modFunc fn fun f => { f with bar2Set := true, bar2Base := base, bar2Limit := limit }))

/-- The local address of bytes `[off, off + n)` of a function's BAR2, when the access is valid.
DEDUCED, notes/assumptions/114. -/
def Block.bar2Addr (b : Block) (fn off n : Nat) : Option Nat :=
  let f := b.func fn
  let a := f.bar2Base + off
  if f.bar2Set ∧ off + n ≤ b.bar2Bytes fn ∧ a + n ≤ f.bar2Limit ∧ b.inMemory a n then some a else none

/-- A read completes with data, with EP set over unspecified bytes (R239), or with Unsupported Request.
DESIGN CHOICE, notes/assumptions/64. -/
def Block.bar2Read (m : Dram) (b : Block) (fn off n : Nat) : Block :=
  if !b.fnLive fn then b
  else match b.bar2Addr fn off n with
    | none => { b with resp := { ur := true } }
    | some a =>
      let (st, bs, b) := hubRead m b.ungate a n
      let b := b.countPort 65 n
      if st = .success then { b with resp := { data := bs } }
      else { b.bumpFree with resp := { status := st, ep := true, data := (List.range n).map fun i => Config.freeBar2Byte b.freeCtr i } }

def execHostBar2Read (fn : FnId) (off len : Nat) (s : State) : Host.Outcome State Fault Refusal := nextOf s (s.blk.bar2Read s.dram fn off len)

/-- A write reaches the channel controllers, poisoning every line it touches when EP is set (R238). -/
def Block.bar2Write (b : Block) (fn off : Nat) (bs : List Byte) (ep : Bool) : Block :=
  if !b.fnLive fn || bs.isEmpty then b
  else
    let b := b.countPort 64 bs.length
    match b.bar2Addr fn off bs.length with
    | none => { b with bar2Err := true }
    | some a => b.ungate.sendBytes (if ep then .poison else .write) (.host fn) a bs

def execHostBar2Write (fn : FnId) (off : Nat) (data : List Byte) (ep : Bool) (s : State) : Host.Outcome State Fault Refusal :=
  nextOf s (s.blk.bar2Write fn off data ep)

/-! ### Firmware (R325) -/

/-- DEDUCED, notes/assumptions/116. -/
def Block.slot (b : Block) (k : Nat) : FwSlot := tget {} b.store.slots k
def Block.setSlot (b : Block) (k : Nat) (x : FwSlot) : Block := { b with store := { b.store with slots := tset b.store.slots k x } }

/-- The slot not booted. -/
def Block.inactive (b : Block) : Nat := 1 - b.runSlot

/-- Version and security version of a slot's image; a slot never staged holds the image the module left the factory with.
DEDUCED, notes/assumptions/116. -/
def FwSlot.version (x : FwSlot) : Nat := (if x.mark = 0 then Config.factoryVersion else Config.imageVersion x.image).toNat
def FwSlot.svn (x : FwSlot) : Nat := (if x.mark = 0 then Config.factorySvn else Config.imageSvn x.image).toNat
def FwSlot.verifies (x : FwSlot) : Bool := !Config.rootKeyFused || x.mark == 0 || Config.imageVerifies x.image

/-- The measurement of a boot stage of a slot's image (R324). -/
def FwSlot.measure (x : FwSlot) (stage : Nat) : BitVec 384 := Config.measurement stage (x.mark == 0) x.image

/-- The bytes that ATTEST writes: the measurements, the nonce and the signature (R325).
DESIGN CHOICE, notes/assumptions/66. -/
def Block.attestBytes (b : Block) (nonce : Nat) : List Byte :=
  b.measured.flatMap (fun x => leBytes 48 x.toNat) ++ leBytes 32 nonce ++ leBytes 96 (Config.attestSignature b.measured (leBytes 32 nonce)).toNat

/-- FW_STAGE parks until the flash is written; `data` are the bytes of its buffer. -/
def execFwStage (r : RingId) (e : Entry) (data : List Byte) (s : State) : Host.Outcome State Fault Refusal :=
  nextOf s (s.blk.startCmd r e 0x80 fun b c =>
    let (off, n) := (c.p 0, c.p 1)
    if off % 4096 ≠ 0 ∨ n % 4096 ≠ 0 ∨ n < 4096 ∨ 2 ^ 20 < n ∨ 2 ^ 25 < off + n ∨ bufOk e n = false then .refuse b .invalidField
    else .parked { b.countPort 64 n with flashWork := b.flashWork ++ [(e, slice data 0 n)] })

/-- DEDUCED, notes/assumptions/116. -/
def execFwCommit (r : RingId) (e : Entry) (s : State) : Host.Outcome State Fault Refusal :=
  nextOf s (s.blk.startCmd r e 0x81 fun b _ =>
    if (b.slot b.inactive).mark = 0 then .refuse b .invalidField
    else .parked { b with flashWork := b.flashWork ++ [(e, [])] })

def execAttest (r : RingId) (e : Entry) (s : State) : Host.Outcome State Fault Refusal :=
  nextOf s (s.blk.startCmd r e 0x84 fun b c =>
    if bufOk e (b.attestBytes (c.p 0)).length = false then .refuse b .invalidField
    else .parked { b with flashWork := b.flashWork ++ [(e, [])] })

/-- The oldest parked firmware command finishes its flash or verification work.
DESIGN CHOICE, notes/assumptions/66. -/
def Block.flashDone (b : Block) : Block :=
  match b.flashWork with
  | [] => b
  | (e, data) :: rest =>
    let b : Block := { b with flashWork := rest }
    let k := b.inactive
    let x := b.slot k
    match entOpcode e with
    | 0x80 =>
      let off := bits e.toNat 223 192
      let image := iter data.length x.image fun t i => tput 0 t (off + i) (data.getD i 0)
      (b.setSlot k { mark := 1, image }).finish 0 e .success 0
    | 0x81 =>
      if !x.verifies then b.finish 0 e .signatureInvalid 0
      else if x.svn < b.store.minSvn then b.finish 0 e .versionRollback 0
      else (b.setSlot k { x with mark := 2 }).finish 0 e .success 0
    | _ => (b.hostWrite (entBuf e) (b.attestBytes (bits e.toNat 511 256))).finish 0 e .success 0

def execFwFlashWriteDone (r : RingId) (s : State) : Host.Outcome State Fault Refusal :=
  nextOf s (if r.val = 0 ∧ s.blk.takes ∧ s.blk.restarting = false then s.blk.flashDone else s.blk)

/-- Parameter when of FW_ACTIVATE. -/
def fwWhen (e : Entry) : Nat := bits e.toNat 199 192

/-- when = 0: the committed slot boots as a trial at the next module reset; a when above 1 is refused.
DEDUCED, notes/assumptions/116. -/
def execFwActivate (r : RingId) (e : Entry) (s : State) : Host.Outcome State Fault Refusal :=
  nextOf s (if fwWhen e = 1 then s.blk else s.blk.startCmd r e 0x82 fun b c =>
    if c.p 0 ≠ 0 ∨ (b.slot b.inactive).mark ≠ 2 then .refuse b .invalidField
    else .good { b with store := { b.store with trial := some b.inactive } })

/-- The headstock firmware restarts; hardware keeps running (R376).
DEDUCED, notes/assumptions/117. -/
def Block.headstockRestart (b : Block) : Block :=
  { b with
    ready := false, restarting := true, restarts := min 255 (b.restarts + 1), flashWork := []
    rings := b.rings.map fun g => (g.1, { g.2 with events := [], eventsLost := min 255 (g.2.eventsLost + g.2.events.length) }) }

/-- when = 1: the headstock restarts into the committed slot. -/
def execFwActivateNow (r : RingId) (e : Entry) (s : State) : Host.Outcome State Fault Refusal :=
  nextOf s (if fwWhen e ≠ 1 then s.blk else
    let b := s.blk.startCmd r e 0x82 fun b _ =>
      if (b.slot b.inactive).mark ≠ 2 ∨ b.ctxs.any (fun x => x.2.state != .free) then .refuse b .invalidField
      else .good { b with
          runSlot := b.inactive, runTrial := true, ready := false, measured := b.measured.take 1 ++ [(b.slot b.inactive).measure 1] }
    if b.runSlot ≠ s.blk.runSlot then b.headstockRestart else b)

/-- The trial slot becomes the boot slot, and the fused minimum rises to its security version. -/
def execFwConfirm (r : RingId) (e : Entry) (s : State) : Host.Outcome State Fault Refusal :=
  nextOf s (s.blk.startCmd r e 0x83 fun b _ =>
    if !b.runTrial then .refuse b .invalidField
    else .good { b with
      runTrial := false
      store := { b.store with bootSlot := b.runSlot, trial := none, trialFails := 0, minSvn := max b.store.minSvn (b.slot b.runSlot).svn } })

def execHeadstockRestart (r : RingId) (e : Entry) (s : State) : Host.Outcome State Fault Refusal :=
  nextOf s (
    let b := s.blk.startCmd r e 0x19 fun b _ => .good { b with ready := false }
    if s.blk.ready ∧ b.ready = false then b.headstockRestart else b)

/-- The restart ends: what had been taken completes with NOT_READY, and the mailbox is ready again.
DEDUCED, notes/assumptions/117. -/
def Block.restartDone (b : Block) : Block :=
  if !b.restarting then b
  else
    let x := b.slot b.runSlot
    let b : Block := { b with ready := true, bootStage := 4, restarting := false, fwVersion := x.version, fwSvn := x.svn }
    (List.range 17).foldl (fun b r =>
      ((b.ring r).taken.foldl (fun (b : Block) t =>
        (b.modRing r fun g => { g with taken := modFirst (· == t) (fun x => { x with started := true }) g.taken }).finish r t.entry .notReady 0) b).drainEvents r) b

def execHeadstockRestartDone (s : State) : Host.Outcome State Fault Refusal := nextOf s (if s.blk.hubUp then s.blk.restartDone else s.blk)

end Sys2Proof.Machine
end

