-- ==== Sys2Proof/Machine/Context.lean ====
section
/-!
DEFINITION. Contexts: creation, settings and teardown, table registration, and the job commands (R98, R212, R266, R293,
R303, R321, R374).
-/
namespace Sys2Proof.Machine

/-! ### Creation and settings -/

/-- CTX_CREATE; the counters and energy of the context before it are zeroed (R321, R374).
DEDUCED, notes/assumptions/118. -/
def execCtxCreate (r : RingId) (e : Entry) (s : State) : Host.Outcome State Fault Refusal :=
  nextOf s (s.blk.startCmd r e 0x10 fun b c =>
    if (b.ctx c.c).state ≠ .free ∨ 1 < c.p 1 ∨ 1 < c.p 2 then .refuse b .invalidField
    else
      let old := b.ctx c.c
      .good (b.setCtx c.c { state := .live, freeMode := c.p 1 == 1, readPerm := c.p 2 == 1, seed := BitVec.ofNat 64 (c.p 3)
                            dstAddr := old.dstAddr, dstEn := old.dstEn }))

/-- DEDUCED, notes/assumptions/119. -/
def windowOf (v : Nat) : Window := { basePage := bits v 10 0, pages := bits v 26 16, handleLo := bits v 37 32, handleHi := bits v 43 38 }

/-- Windows of two contexts meet in pages or in handle indices; one without pages meets nothing. -/
def Window.meets (x y : Window) : Bool :=
  decide (0 < x.pages) && decide (0 < y.pages)
    && ((decide (x.basePage < y.basePage + y.pages) && decide (y.basePage < x.basePage + x.pages))
      || (decide (x.handleLo ≤ y.handleHi) && decide (y.handleLo ≤ x.handleHi)))

/-- Bytes `[lo, hi)` are written to zero. -/
def Ram.zero (r : Ram) (lo hi : Nat) : Ram :=
  { mem := r.mem.filter fun e => decide (e.1 < lo) || decide (hi ≤ e.1), undef := cutUndef lo hi r.undef }

/-- Pages `[lo, hi)` are written to zero, after the gathering-buffer entries that lie in them.
DEDUCED, notes/assumptions/119. -/
def Spindle.zeroPages (s : Spindle) (lo hi : Nat) : Spindle :=
  let s := s.commitRange (4096 * lo) (4096 * (hi - lo))
  { s with spad := s.spad.zero (4096 * lo) (4096 * hi) }

/-- Gives a context its window: pages that another context held are zeroed first (R98).
DEDUCED, notes/assumptions/119. -/
def Spindle.giveWindow (s : Spindle) (c : Nat) (w : Window) : Spindle :=
  let (lo, hi) := (w.basePage, w.basePage + w.pages)
  let others := s.pagesHeld.filter fun r => r.2.2 != c && decide (max lo r.1 < min hi r.2.1)
  let s := others.foldl (fun s r => s.zeroPages (max lo r.1) (min hi r.2.1)) s
  { s with windows := tset s.windows c w, pagesHeld := if lo < hi then (lo, hi, c) :: cutUndef lo hi s.pagesHeld else s.pagesHeld }

/-- DEDUCED, notes/assumptions/119. -/
def execCtxWindow (r : RingId) (e : Entry) (s : State) : Host.Outcome State Fault Refusal :=
  nextOf s (s.blk.startCmd r e 0x12 fun b c =>
    let (first, n) := (c.p 1, c.p 2)
    let w := windowOf (c.p 3)
    let spds := (((List.range n).map (first + ·)).filter fun l => !b.removed.contains l).map b.physOf
    if 256 < first + n ∨ !zeros (c.p 3) [(63, 44), (31, 27), (15, 11)] ∨ 1536 < w.basePage + w.pages
        ∨ spds.any (fun p => (b.spd p).windows.any fun x => x.1 != c.c && w.meets x.2) then .refuse b .invalidField
    else .good (spds.foldl (fun b p => b.modSpd p fun x => x.giveWindow c.c w) b))

/-- The metadata of a new pool: page-state words zero, and the free ring ascending (R212). -/
def poolMeta (pages : Nat) : List Byte := (List.range pages).flatMap fun k => leBytes 4 0 ++ leBytes 4 k

def execCtxPool (r : RingId) (e : Entry) (s : State) : Host.Outcome State Fault Refusal :=
  nextOf s (s.blk.startCmd r e 0x13 fun b c =>
    let (g, ppp, pages, base) := (c.p 1, c.p 2, c.p 3, c.p 4)
    let old := b.pool c.c
    if 8 < ppp ∨ 2 ^ 26 < pages ∨ base % 65536 ≠ 0 ∨ 2 ^ 48 ≤ base ∨ old.freePages ≠ old.pages
        ∨ (0 < pages ∧ b.inMemory base (pages * 65536 + 8 * pages) = false) then .refuse b .invalidField
    else
      let b := b.modPool c.c fun old => { old with base, groupsM1 := g, pppLog2 := ppp, pages, freePages := pages, head := 0 }
      .good (if pages = 0 then b else b.hubWrite (base + pages * 65536) (poolMeta pages)))

/-- A blank of the context is in a chuck, or on its way to one. -/
def Block.inChuck (b : Block) (c : Nat) : Bool :=
  b.spindles.any fun e => [e.2.cur, e.2.pre, e.2.arriving].any fun k => k.any fun (k : Blank) => k.ctx == c

/-- The shortest timeout that is at least twice the give-up time (R266, R288).
DEDUCED, notes/assumptions/120. -/
def minTimeoutMs : Nat := 31

/-- DEDUCED, notes/assumptions/120. -/
def execCtxCells (r : RingId) (e : Entry) (s : State) : Host.Outcome State Fault Refusal :=
  nextOf s (s.blk.startCmd r e 0x14 fun b c =>
    let (ack, ms) := (c.p 1, c.p 2)
    let part (t : Nat) : Nat × Nat := (c.p (3 + t), c.p (7 + t))
    let tiles := List.range 4
    let bad := tiles.any fun t =>
      let (base, n) := part t
      decide (32768 < base + n) || decide (32768 ≤ base) || (b.tile t).synPart.any fun x => x.1 != c.c && overlap base n x.2.1 x.2.2
    if 1 < ack ∨ ms < minTimeoutMs ∨ bad ∨ (tiles.map fun t => (part t).2).sum < 256 ∨ (b.ctx c.c).krf.jobEn ∨ b.inChuck c.c then .refuse b .invalidField
    else .good (tiles.foldl (fun b t =>
      let (base, n) := part t
      (b.zeroPart t base n).modTile t fun x =>
        { x with synPart := tset x.synPart c.c (base, n), synCtx := tset x.synCtx c.c { timeoutMs := ms, ackMode := ack == 1 } }) b))

def execCtxSched (r : RingId) (e : Entry) (s : State) : Host.Outcome State Fault Refusal :=
  nextOf s (s.blk.startCmd r e 0x15 fun b c =>
    if 1 < c.p 1 ∨ 1 < c.p 2 ∨ 65536 < c.p 4 then .refuse b .invalidField
    else .good (b.modCtx c.c fun x => { x with
      sched := { x.sched with enable := c.p 1 == 1, traceEn := c.p 2 == 1, lendMask := c.p 3, quota := c.p 4 } }))

/-! ### Teardown (R374, Table 21.4) -/

/-- A blank that has not started ends: its record, its trace event, its entry freed (R360). -/
def Block.slotEnd (b : Block) (p : Nat) (k : Blank) (st : Status) : Block :=
  let b := (b.dropRegs k.regsns).record { context := some k.ctx, severity := 1, cls := 0x03, status := st.code, unitKind := 1, unit := p, blank := k.addr.toNat }
  ((b.traceEvent k.ctx k.desc 0x06 (b.logicalOf p) st.code).subUsed k.ctx 1).countCtx k.ctx 5 1

/-- The blanks of a context on a spindle end: the one running, the prefetched one, and one on its way.
DEDUCED, notes/assumptions/121. -/
def Block.ctxBlanksEnd (b : Block) (p c : Nat) (st : Status) : Block :=
  let s := b.spd p
  let mine (k : Option Blank) : Bool := k.any fun k => k.ctx == c
  let b := if mine s.cur then b.blankEnd p st 0 else b
  let b := match s.pre with
    | some k => if k.ctx = c then (b.modSpd p fun s => { s with pre := none }).slotEnd p k st else b
    | none => b
  match s.arriving with
  | some k => if k.ctx = c then (b.modSpd p fun s => { s with arriving := none }).slotEnd p k st else b
  | none => b

/-- A lane stops: a step in progress is abandoned, which may wait for host-window reads.
DEDUCED, notes/assumptions/121. -/
def Block.laneTeardown (m : Dram) (b : Block) (c l : Nat) : Block :=
  let k := b.lane c l
  let b := b.dropReads fun h => h.spindle == 289 + 4 * c + l
  if !k.busy then b
  else if k.waiting.isNone && !k.satisfied && k.ending.isNone then b.setLane c l {}
  else b.stepAbandon m c l (k.ending.getD .contextTeardown)

/-- The context becomes TEARING: what it has waiting is discarded, its lanes stop, its blanks end, and its job ends.
DEDUCED, notes/assumptions/121. -/
def Block.teardown (m : Dram) (b : Block) (c : Nat) : Block :=
  let b := b.modCtx c fun x => { x with state := .tearing, sched := { x.sched with enable := false } }
  let b := (List.range 4).foldl (fun (b : Block) prio =>
    let l := b.rack (rackOf c prio)
    ((b.dropRegs (l.flatMap fun e => e.blank.regsns)).subUsed c l.length).setRack (rackOf c prio) []) b
  let b := (List.range 4).foldl (fun b l => b.laneTeardown m c l) b
  let b : Block := { b with notifies := b.notifies.filter fun n => n.ring != 1 + c }
  let b := (b.spindles.map (·.1)).foldl (fun b p => b.ctxBlanksEnd p c .contextTeardown) b
  let mine := b.chains.filter fun ch => ch.ctx == c
  let b : Block := { b with chains := b.chains.filter (fun ch => ch.ctx != c), sweeps := b.sweeps.filter fun x => x.ctx != c }
  let b := mine.foldl (fun (b : Block) ch =>
    let a := (chainDesc ch.desc.toNat).statusAddr
    if b.inMemory a 8 then b.hubWrite a (leBytes 8 Status.contextTeardown.code) else b) b
  let b := (b.connsOf c).foldl (fun b k => b.closeConn m k .contextTeardown) b
  (b.modCtx c fun x => { x with krf := { x.krf with jobEn := false } }).followLift

def execCtxTeardown (r : RingId) (e : Entry) (s : State) : Host.Outcome State Fault Refusal :=
  nextOf s (s.blk.startCmd r e 0x11 fun b c => .parked (b.teardown s.dram c.c))

/-- Something of the context is still on its way: writes, signals, reads, a spindle under reset, or released effects.
DEDUCED, notes/assumptions/121. -/
def Block.ctxInFlight (b : Block) (c : Nat) : Bool :=
  let src (x : ReqSrc) : Bool := match x with
    | .wc _ _ k _ _ => k == c
    | .memSide _ _ k _ => k == c
    | _ => false
  (b.tiles.any fun t => t.2.wc.any fun e => e.context == c)
    || (b.chans.any fun k => k.2.transit.any fun q => src q.src)
    || (b.tagStores.any fun t => src t.src)
    || (b.sigs.any fun g => b.cellOwned c g.cell)
    || b.frozen.isSome || b.hubLater != []
    || (List.range 4).any (fun l => (b.lane c l).busy)
    || (b.dones.any fun d => d.blank.ctx == c)
    || (b.outcomes.any fun o => src o.src)
    || b.spindles.any fun e => e.2.resetting && (e.2.bowlCtx == c || e.2.handles.any fun h => h.2.context == c)

/-- Pins, handles, windows, streams, pool and cells of the context go, and its registers return to their reset values.
DEDUCED, notes/assumptions/118. -/
def Block.releaseCtx (m : Dram) (b : Block) (c : Nat) : Block :=
  let pins := b.pins.filter fun x => x.owner == .local c
  let b : Block := { b with pins := b.pins.filter fun x => x.owner != .local c }
  let b := pins.foldl (fun b x => if x.home.isSome then b else b.subReader x.tableId x.epoch) b
  let ids := (b.tables.filter fun t => t.2.context == c).map (·.1)
  let b : Block := { b with tables := b.tables.map fun t => if t.2.context = c then (t.1, { t.2 with releasing := true }) else t }
  let b := ids.foldl Block.tableIdle b
  let b : Block := { b with spindles := b.spindles.map fun e =>
    let s := e.2
    let w := tget {} s.windows c
    let s := if w.pages = 0 then s else s.zeroPages w.basePage (w.basePage + w.pages)
    let held := if w.pages = 0 then s.pagesHeld else cutUndef w.basePage (w.basePage + w.pages) s.pagesHeld
    (e.1, { s with
      windows := tdel s.windows c
      handles := s.handles.filter fun h => h.2.context != c
      bowl := if s.bowlCtx = c then {} else s.bowl
      bowlCtx := if s.bowlCtx = c then 16 else s.bowlCtx
      pagesHeld := held.map fun r => if r.2.2 = c then (r.1, r.2.1, 16) else r }) }
  let gone := (b.streams.filter fun x => x.2.ctx == c).map (·.1)
  let b := gone.foldl (fun (b : Block) id =>
    let b := (Sb.load m { b, who := 0 } id).2.b
    match b.stream id with
    | none => b
    | some t =>
      let t := { t with cached := true }
      let b := (b.setStream id ((t.setState stFree).set 3 3 0)).streamBack id
      let b := (b.pauseAnswer id .invalidField).streamAnswer id 0x34 .success
      { b with streams := tdel b.streams id, streamLru := b.streamLru.filter (· ≠ id) }) b
  let b := (List.range 4).foldl (fun (b : Block) t =>
    let (base, n) := tget (0, 0) (b.tile t).synPart c
    (b.zeroCells t base n).modTile t fun x => { x with synPart := tdel x.synPart c, synCtx := tdel x.synCtx c }) b
  let x := b.ctx c
  b.setCtx c { cnt := x.cnt, energyUj := x.energyUj, dstAddr := x.dstAddr, dstEn := x.dstEn }

/-- Parked commands of ring `r` that satisfy `f` complete with `st`. -/
def Block.finishParked (b : Block) (r : Nat) (f : Entry → Bool) (st : Status) : Block :=
  ((b.ring r).taken.filter fun x => x.started && f x.entry).foldl (fun b x => b.finish r x.entry st 0) b

/-- DEDUCED, notes/assumptions/121. -/
def Block.teardownFinish (m : Dram) (b : Block) (c : Nat) : Block :=
  if (b.ctx c).state ≠ .tearing ∨ !b.hubUp ∨ b.ctxInFlight c then b
  else (b.releaseCtx m c).finishParked 0 (fun e => entOpcode e == 0x11 && bits e.toNat 199 192 == c) .success

def execTeardownFinish (c : CtxId) (s : State) : Host.Outcome State Fault Refusal := nextOf s (s.blk.teardownFinish s.dram c)

/-! ### Tables (R127, R157) -/

def execTableRegister (r : RingId) (e : Entry) (s : State) : Host.Outcome State Fault Refusal :=
  nextOf s (s.blk.startCmd r e 0x20 fun b c =>
    let (id, a) := (c.p 0, c.p 1)
    if 4096 ≤ id ∨ a % 128 ≠ 0 ∨ (tfind b.tables id).isSome then .refuse b .invalidField
    else
      let (st, bs, b') := hubRead s.dram b a 128
      if st ≠ .success then .refuse b (paramStatus st)
      else
        let d := tableDesc (leNat bs)
        if b.tableBad d ∨ d.tableId ≠ id ∨ (d.versioned = false ∧ d.burlCount = 0) then .refuse b .invalidField
        else .good { b' with tables := tset b'.tables id { burl := decide (0 < d.burlCount), context := c.c, desc := a } })

/-- A table of another context is not this one's to release (DEDUCED, notes/assumptions/95). -/
def execTableRelease (r : RingId) (e : Entry) (s : State) : Host.Outcome State Fault Refusal :=
  nextOf s (s.blk.startCmd r e 0x21 fun b c =>
    let id := c.p 0
    let busy := [0, 1].any fun k => b.readerCount id k != 0 || b.burlCount id k != 0
    match tfind b.tables id with
    | none => .refuse b .invalidField
    | some t =>
      if t.context ≠ c.c then .refuse b .accessDenied
      else if busy ∨ b.pins.any (fun x => x.home.isNone && x.tableId == id) then .refuse b .invalidField
      else .good { b with tables := tdel b.tables id })

/-! ### Jobs (R285, R293, R303) -/

/-- Connections that are open. -/
def Block.openConns (b : Block) : Nat := (b.conns.filter fun e => e.2.isOpen).length

/-- The lowest connection index that is closed.
DEDUCED, notes/assumptions/82. -/
def Block.freeConn (b : Block) : Nat := (firstBelow 16384 fun k => !(b.conn k).isOpen || (tfind b.conns k).isNone).getD 0

/-- Opens the connection of peer entry `i`, whose 64 B are `x`. -/
def Block.joinPeer (b : Block) (c base i x : Nat) : Block :=
  b.openConn b.freeConn c i (base + 64 * i) (BitVec.ofNat 128 (bits x 511 384)) (bits x 383 380) false

/-- DEDUCED, notes/assumptions/122. -/
def execJobJoin (r : RingId) (e : Entry) (s : State) : Host.Outcome State Fault Refusal :=
  nextOf s (s.blk.startCmd r e 0x50 fun b c =>
    let (peers, pol, follow, formats, base, epoch) := (c.p 1, c.p 2, c.p 3, c.p 4, c.p 5, c.p 6)
    if 4096 < peers ∨ 16384 < b.openConns + peers ∨ 2 < pol ∨ 1 < follow ∨ 2 ^ 14 ≤ formats ∨ 2 ^ 63 ≤ epoch ∨ base % 64 ≠ 0
        ∨ (b.ctx c.c).krf.jobEn ∨ b.region base ≠ .hbm ∨ b.region (base + 64 * peers - 1) ≠ .hbm then .refuse b .invalidField
    else
      let (st, bs, b) := if peers = 0 then (Status.success, [], b) else hubRead s.dram b base (64 * peers)
      if st ≠ .success then .refuse b st
      else
        let krf : KrfCtx := { jobId := c.p 0, peers, epochPolicy := pol, followEn := follow == 1, jobEn := true, formats, peerBase := base, acceptEpoch := epoch }
        let b := b.modCtx c.c fun x => { x with krf }
        .good (iter peers b fun b i => b.joinPeer c.c base i (leNat (slice bs (64 * i) 64))))

/-- Transfers of the context end as those of a lost peer do; the command parks while writes of its peers are still on their
way to their channels.
DEDUCED, notes/assumptions/122. -/
def execJobLeave (r : RingId) (e : Entry) (s : State) : Host.Outcome State Fault Refusal :=
  nextOf s (s.blk.startCmd r e 0x51 fun b c =>
    let mine := b.connsOf c.c
    let lines := b.openLines fun src => match src with
      | .kerf i _ => mine.contains i
      | _ => false
    let b := mine.foldl (fun b k => b.closeConn s.dram k .peerLost) b
    let b := (b.modCtx c.c fun x => { x with krf := { x.krf with jobEn := false } }).followLift
    if lines = [] then .good b else .parked { b with leaving := b.leaving ++ [{ ring := r.val, entry := e, lines }] })

/-- DEDUCED, notes/assumptions/123. -/
def execPeerReadmit (r : RingId) (e : Entry) (s : State) : Host.Outcome State Fault Refusal :=
  nextOf s (s.blk.startCmd r e 0x52 fun b c =>
    match b.connOf c.c (c.p 0) with
    | none => .refuse b .invalidField
    | some k =>
      let x := b.conn k
      if x.state ≠ .lost then .refuse b .invalidField
      else .good (b.openConn k x.ctx x.peer x.entryAddr x.addr x.peerCtx true))

/-- DEDUCED, notes/assumptions/122. -/
def execJobSet (r : RingId) (e : Entry) (s : State) : Host.Outcome State Fault Refusal :=
  nextOf s (s.blk.startCmd r e 0x53 fun b c =>
    let (follow, ack, epoch) := (c.p 0, c.p 1, c.p 2)
    if (b.ctx c.c).krf.jobEn = false ∨ 1 < follow ∨ (1 < ack ∧ ack ≠ 0xFF) ∨ 2 ^ 63 ≤ epoch then .refuse b .invalidField
    else
      let b := (b.modCtx c.c fun x => { x with krf := { x.krf with followEn := follow == 1, acceptEpoch := epoch } }).followLift
      .good (if ack = 0xFF then b else (List.range 4).foldl (fun (b : Block) t =>
        b.modTile t fun x => { x with synCtx := tset x.synCtx c.c { tget {} x.synCtx c.c with ackMode := ack == 1 } }) b))

/-- The sweep runs along a chain that this context has armed; only position 0 can start it.
DEDUCED, notes/assumptions/123. -/
def execSweepArm (r : RingId) (e : Entry) (s : State) : Host.Outcome State Fault Refusal :=
  nextOf s (s.blk.startCmd r e 0x54 fun b c =>
    let (n, start, a) := (c.p 0, c.p 1, c.p 2)
    match b.chains.find? fun ch => ch.ctx == c.c && ch.descAddr == a with
    | none => .refuse b .invalidField
    | some ch =>
      let first := (chainDesc ch.desc.toNat).pos == 0
      if 1 < start ∨ 4 ≤ b.sweeps.length ∨ (start = 1 ∧ first = false) then .refuse b .invalidField
      else
        let x : Sweep := { ctx := c.c, number := n, desc := ch.desc }
        let b : Block := { b with sweeps := b.sweeps ++ [x] }
        .good (if start = 1 then b.sweepAt x false else b))

end Sys2Proof.Machine
end

