-- ==== Sys2Proof/Machine/Power.lean ====
section
/-!
DEFINITION. The calipers: estimate, calibration, limits, the controller, the rail, and the temperature sensors
(Chapter 18). Quantities are exact rationals (DESIGN CHOICE, notes/assumptions/96: the manual gives no precision).
-/
namespace Sys2Proof.Machine

/-! ### Operating points (Table 18.1) -/

def opMv (i : Nat) : Nat := [620, 635, 650, 665, 680, 690, 700, 715, 725, 740, 750, 765, 780, 800, 820, 860].getD i 0

/-- The highest index at most `top` that satisfies `f`, or 0. -/
def highest (top : Nat) (f : Nat → Bool) : Nat := (((List.range (top + 1)).filter f).getLast?).getD 0

/-- The highest frequency that the rail admits and the target does not exceed (R327). -/
def opAt (railMv target : Nat) : Nat := highest target fun i => decide (opMv i ≤ railMv)

/-- A new target: a lower frequency takes effect at once, the rail slews. -/
def Calipers.setTarget (c : Calipers) (t : Nat) : Calipers :=
  { c with target := t, opNow := opAt c.railMv t, slewed := c.slewed || c.railMv != opMv t }

/-- The slewing rail reaches `mv`, on its way to the target's voltage. -/
def Calipers.railTo (c : Calipers) (mv : Nat) : Calipers :=
  let goal := opMv c.target
  if (c.railMv < mv ∧ mv ≤ goal) ∨ (goal ≤ mv ∧ mv < c.railMv) then { c with railMv := mv, opNow := opAt mv c.target, slewed := true } else c

def Block.hottest (b : Block) : Nat := (b.cal.hubTemp :: b.cal.tileTemp).foldl max 0

/-- ALERT#'s conditions: 110 °C, r_thermal, r_backstop, sensor_lost (R395).
DEDUCED, notes/assumptions/136. -/
def Block.alarms (b : Block) : List Bool := [decide (110 ≤ b.hottest), decide (b.cal.ceiling < 15), b.cal.backstop, b.cal.sensorLost]

/-- A command of the calipers, while the hub runs. ALERT# asserts at each change of its conditions that leaves one holding.
DEDUCED, notes/assumptions/136. -/
def Block.calipers (b : Block) (f : Block → Block) : Block :=
  if b.hubUp then
    let b' := f b
    if b'.alarms ≠ b.alarms ∧ b'.alarms.any (·) then { b' with alert := true } else b'
  else b

def execRailStep (mv : Nat) (s : State) : Host.Outcome State Fault Refusal :=
  nextOf s (s.blk.calipers fun b => { b with cal := b.cal.railTo mv })

/-! ### Estimate (R328, R336) -/

def regressors : Nat := 13

/-- DESIGN CHOICE, notes/assumptions/68. -/
def Calipers.w (c : Calipers) (j : Nat) : Rat := if j < c.weights.length then c.weights.getD j 0 else Config.factoryWeight j
def Calipers.wList (c : Calipers) : List Rat := (List.range regressors).map c.w

/-- V² on the activities of the spindle islands (Table 18.3). -/
def islandFactor (volts : Rat) (j : Nat) : Rat := if 3 ≤ j ∧ j ≤ 7 then volts * volts else 1

/-- A quantity of 13 regressors with its factors. -/
def scaled (volts : Rat) (x : List Rat) : List Rat := (List.range regressors).map fun j => x.getD j 0 * islandFactor volts j

def dot (x y : List Rat) : Rat := ((List.range regressors).map fun j => x.getD j 0 * y.getD j 0).sum

def addVec (x y : List Rat) : List Rat := (List.range regressors).map fun j => x.getD j 0 + y.getD j 0

/-- A millisecond enters the windows and the accounts with energy `e`, in proportion to the charges; with nothing charged
it is the device's (R330, R336).
DESIGN CHOICE, notes/assumptions/96. DEDUCED, notes/assumptions/124. -/
def Block.enterMs (b : Block) (k : Ms) (e : Rat) : Block :=
  let c := b.cal
  let sum := (k.charges.map (·.2)).sum
  let part (i : Nat) : Rat := if sum = 0 then (if i = 16 then e else 0) else tget 0 k.charges i * e / sum
  let b := (List.range 16).foldl (fun (b : Block) i =>
    if part i = 0 then b else b.modCtx i fun x => { x with energyUj := x.energyUj + part i * 1000000 }) b
  { b with cal := { c with history := (e * 1000 :: c.history).take 8000, energyDevUj := c.energyDevUj + part 16 * 1000000 } }

/-- The millisecond in progress is complete and waits for its sample; one that still waits has missed its own and enters at
its estimate (R330).
DEDUCED, notes/assumptions/124. -/
def Block.closeMs (b : Block) : Block :=
  let k := b.cal.ms
  let b := match b.cal.held with
    | some y => b.enterMs y y.est
    | none => b
  { b with cal := { b.cal with held := some k, ms := {}, msCount := 0 } }

/-- The context whose blank caused an activity; a stolen N tile is its victim's (R182, R336). -/
def Block.workCtx (b : Block) (k : Work) : Option Nat :=
  match k.stolen with
  | some (v, serial) => (tfind (b.spd v).phases serial).map (·.1)
  | none => (tfind (b.spd k.spd).phases k.serial).map (·.1)

/-- Regressors 0 to 2: elapsed time in milliseconds, and its products with V and with V(T − 25) (Table 18.3).
DESIGN CHOICE, notes/assumptions/96. -/
def leakage (volts : Rat) (temp : Nat) : List Rat := [1 / 250, volts / 250, volts * ((temp : Rat) - 25) / 250]

/-- The estimate of 4 µs, and its charges: activity to the context that caused it, the leakage to the contexts in proportion to
busy spindle cycles, and the rest to the device (R328, R336). 250 estimates make a millisecond.
DESIGN CHOICE, notes/assumptions/96. DEDUCED, notes/assumptions/125. -/
def Block.estimate (b : Block) (a : Activity) : Block :=
  let c := b.cal
  let leak := leakage a.volts (c.tempRead.getD b.hottest)
  let n := ((List.range 272).filter fun p => (b.spd p).inService).length
  let mine (k : Work) : List Rat := scaled a.volts ((leak.map fun v => if n = 0 then 0 else v * k.busy / n) ++ k.x)
  let acts := a.work.foldl (fun acc k => addVec acc ([0, 0, 0] ++ k.x)) ([0, 0, 0] ++ a.device)
  let x := scaled a.volts (addVec leak acts)
  let e := dot c.wList x
  let add (t : Tab Rat) (k : Nat) (v : Rat) : Tab Rat := tput 0 t k (tget 0 t k + v)
  let owned := a.work.filterMap fun k => (b.workCtx k).map fun i => (i, dot c.wList (mine k))
  let charges := add (owned.foldl (fun t y => add t y.1 y.2) c.ms.charges) 16 (e - (owned.map (·.2)).sum)
  let b : Block := { b with cal := { c with
    ms := { x := addVec c.ms.x x, est := c.ms.est + e, charges }, msCount := c.msCount + 1
    estSum := c.estSum + e * 250000, estCount := c.estCount + 1, tempRead := none } }
  if 250 ≤ b.cal.msCount then b.closeMs else b

def execCalipersEstimate (a : Activity) (s : State) : Host.Outcome State Fault Refusal := nextOf s (s.blk.calipers fun b => b.estimate a)

/-! ### Measured input (R330) -/

/-- A millisecond's sample: the windows take the larger of measurement and estimate; above 4.0 kW index 0 is forced.
DEDUCED, notes/assumptions/124. -/
def Block.energySample (b : Block) (microjoules : Nat) : Block :=
  let y : Rat := (microjoules : Rat) / 1000000
  let b := if b.cal.held.isNone then b.closeMs else b
  let k := b.cal.held.getD {}
  let b := b.enterMs k (max y k.est)
  let c := { b.cal with held := none, sensorLost := false, measured := some y, calX := k.x }
  { b with cal := if 4 < y then ({ c with backstop := true }).setTarget 0 else c }

def execInputEnergySample (microjoules : Nat) (s : State) : Host.Outcome State Fault Refusal :=
  nextOf s (s.blk.calipers fun b => b.energySample microjoules)

/-- 4 ms without a sample: sensor_lost, while the milliseconds go on entering at their estimate (R330). -/
def Block.sensorLost (b : Block) : Block := { b with cal := { b.cal with sensorLost := true } }

def execSensorLost (s : State) : Host.Outcome State Fault Refusal := nextOf s (s.blk.calipers Block.sensorLost)

/-- 10 ms have passed since the backstop forced index 0. -/
def execBackstopRelease (s : State) : Host.Outcome State Fault Refusal :=
  nextOf s (s.blk.calipers fun b => { b with cal := { b.cal with backstop := false } })

/-! ### Calibration (R329) -/

def Calipers.p (c : Calipers) (i j : Nat) : Rat :=
  match c.cov[i]? with
  | some r => r.getD j 0
  | none => if i = j then 10 else 0

def Calipers.pMat (c : Calipers) : List (List Rat) := (List.range regressors).map fun i => (List.range regressors).map (c.p i)

def trace (p : List (List Rat)) : Rat := ((List.range regressors).map fun i => (p.getD i []).getD i 0).sum

def pMax : Rat := 1024

/-- One step of recursive least squares on the millisecond last measured.
DESIGN CHOICE, notes/assumptions/96. -/
def Calipers.calibrate (c : Calipers) : Calipers :=
  match c.measured with
  | none => c
  | some y =>
    let x := c.calX
    let p := c.pMat
    let faded := p.map fun r => r.map fun v => v * 64 / 63
    let ill := decide (pMax < trace faded)
    let pf := if ill then p else faded
    let px := pf.map fun r => dot r x
    let xp := (List.range regressors).map fun j => ((List.range regressors).map fun i => x.getD i 0 * (pf.getD i []).getD j 0).sum
    let k := px.map fun v => v / (1 + dot x px)
    let p := (List.range regressors).map fun i => (List.range regressors).map fun j => (pf.getD i []).getD j 0 - k.getD i 0 * xp.getD j 0
    let stale := c.stale || ill
    let w := c.wList
    let w2 := (List.range regressors).map fun j => w.getD j 0 + k.getD j 0 * (y - dot x w)
    let reject := (w2.drop 3).any fun v => decide (v < 0)
    let c := { c with cov := p, measured := none }
    let c := if stale then c else if reject then { c with rejectCount := min 65535 (c.rejectCount + 1) } else { c with weights := w2 }
    let ok : Nat := if stale ∧ trace p ≤ pMax / 2 then c.staleOk + 1 else 0
    if 64 ≤ ok then { c with stale := false, staleOk := 0 } else { c with stale, staleOk := ok }

def execCalibrationUpdate (s : State) : Host.Outcome State Fault Refusal :=
  nextOf s (s.blk.calipers fun b => if b.restarting then b else { b with cal := b.cal.calibrate })

def Calipers.save (c : Calipers) (x : Store) : Store := { x with weights := c.wList }

def execConfigStoreSave (s : State) : Host.Outcome State Fault Refusal :=
  nextOf s (s.blk.calipers fun b => if b.restarting then b else { b with store := b.cal.save b.store })

/-! ### The controller (R332 to R334) -/

/-- Learnt P and R of a (context, phase) pair at index `i`: observed, scaled from the nearest observed index, or initial.
DEDUCED, notes/assumptions/125. -/
def learntAt (l : List Learnt) (i : Nat) : Rat × Rat :=
  let dist (j : Nat) : Nat := (i - j) + (j - i)
  let near := l.foldl (fun (acc : Option Learnt) x =>
    match acc with
    | none => some x
    | some y => if dist x.index < dist y.index ∨ (dist x.index = dist y.index ∧ x.index < y.index) then some x else acc) none
  match near with
  | none => (2950, Config.factoryRate)
  | some x =>
    let f : Rat := (opMhz i : Rat) / opMhz x.index
    let v : Rat := (opMv i : Rat) / opMv x.index
    if x.index = i then (x.p, x.r) else (x.p * f * v * v, x.r * f)

/-- One observation at an index: the first replaces, later ones move an eighth of the way.
DEDUCED, notes/assumptions/125. -/
def observe (l : List Learnt) (i : Nat) (p r : Rat) : List Learnt :=
  if l.any (fun x => x.index == i) then l.map fun x => if x.index = i then { x with p := x.p + (p - x.p) / 8, r := x.r + (r - x.r) / 8 } else x
  else l ++ [{ index := i, p, r }]

/-- The efficient index at or below a ceiling. -/
def efficient (l : List Learnt) (ceiling : Nat) : Nat :=
  let floor := (learntAt l ceiling).2 * 9 / 10
  let ok := (List.range (ceiling + 1)).filter fun i => decide (floor ≤ (learntAt l i).2)
  let cost (i : Nat) : Rat := (learntAt l i).1 / (learntAt l i).2
  (ok.foldl (fun (acc : Option Nat) i =>
    match acc with
    | none => some i
    | some j => if cost i ≤ cost j then some i else acc) none).getD ceiling

/-- Context and phase of the blank that held the busy cycles (R260, R332). -/
def Block.pairOf (b : Block) (x : BusyShare) : Option (Nat × Nat) := tfind (b.spd x.spd).phases x.serial

/-- Busy cycles of one pair. -/
def Block.pairTotal (b : Block) (busy : List BusyShare) (k : Nat × Nat) : Nat :=
  ((busy.filter fun x => b.pairOf x == some k).map (·.cycles)).sum

/-- The dominant pair: most busy cycles, ties to the lower context and then the lower phase. -/
def Block.dominant (b : Block) (busy : List BusyShare) : Nat × Nat :=
  ((busy.filterMap b.pairOf).foldl (fun (acc : Option (Nat × Nat)) k =>
    let n := b.pairTotal busy k
    match acc with
    | none => if n = 0 then none else some k
    | some y =>
      let m := b.pairTotal busy y
      if m < n ∨ (m = n ∧ (k.1 < y.1 ∨ (k.1 = y.1 ∧ k.2 < y.2))) then some k else acc) none).getD (0, 0)

/-- The blanks that started before the last decision are forgotten. -/
def Spindle.trimPhases (s : Spindle) : Spindle := { s with phases := s.phases.filter fun e => decide (s.phaseMark ≤ e.1), phaseMark := s.serial }

/-- Average power of the last `n` milliseconds; a millisecond before the first counts nothing. -/
def Calipers.avg (c : Calipers) (n : Nat) : Rat := (c.history.take n).sum / n

def Calipers.budget (c : Calipers) : Rat := min (2 * c.shortW - c.avg 1000) (2 * c.longW - c.avg 8000)

/-- The ceiling of R332, with or without the follow limit. -/
def Calipers.limit (c : Calipers) (follow : Bool) : Nat :=
  min (min (min 15 c.ceiling) (if follow then c.followIndex else 15)) (min (if c.backstop then 0 else 15) (if c.sensorLost then 10 else 15))

/-- The policy point of a pair under a ceiling, with an index tried for the first time in its place (R334).
DESIGN CHOICE, notes/assumptions/125. -/
def wish (x : Ctx) (phase : Nat) (ceiling : Nat) (budget : Rat) : Nat :=
  let l := tget [] x.learnt phase
  match tfind x.points phase with
  | none => ceiling
  | some 0xFE =>
    let tried := tget [] x.tried phase
    let fresh := (List.range (ceiling + 1)).filter fun i =>
      !l.any (fun y => y.index == i) && !tried.contains i && decide ((learntAt l i).1 ≤ budget)
    (fresh.getLast?).getD (efficient l ceiling)
  | some i => min i ceiling

/-- DEDUCED, notes/assumptions/125. -/
def pick (l : List Learnt) (want : Nat) (budget : Rat) : Nat := highest want fun i => decide ((learntAt l i).1 ≤ budget)

/-- R333: what the last 100 µs teach of the dominant pair. -/
def Block.learn (b : Block) (busy : List BusyShare) (ctx phase : Nat) : Block :=
  let c := b.cal
  let total := (busy.map (·.cycles)).sum
  let retired := (busy.map (·.retired)).sum
  if total = 0 ∨ 4 * b.pairTotal busy (ctx, phase) < 3 * total ∨ c.slewed ∨ c.stale ∨ c.estCount = 0 then b
  else b.modCtx ctx fun x =>
    { x with learnt := tset x.learnt phase (observe (tget [] x.learnt phase) c.opNow (c.estSum / c.estCount) ((retired : Rat) / 100)) }

/-- An interval without a slew at an index of the pair is that index's one try (R334).
DESIGN CHOICE, notes/assumptions/125. -/
def Block.tryIndex (b : Block) (ctx phase : Nat) : Block :=
  let c := b.cal
  if c.slewed ∨ tfind (b.ctx ctx).points phase ≠ some 0xFE then b
  else b.modCtx ctx fun x => { x with tried := tset x.tried phase (c.opNow :: (tget [] x.tried phase).filter (· ≠ c.opNow)) }

/-- Every 100 µs: learn, and choose the target.
DESIGN CHOICE, notes/assumptions/96. DEDUCED, notes/assumptions/125. -/
def Block.choosePoint (b : Block) (busy : List BusyShare) : Block :=
  let (ctx, phase) := b.dominant busy
  let b := (b.learn busy ctx phase).tryIndex ctx phase
  let c := b.cal
  let x := b.ctx ctx
  let l := tget [] x.learnt phase
  let want := wish x phase (c.limit true) c.budget
  let target := pick l want c.budget
  let unfollowed := pick l (wish x phase (c.limit false) c.budget) c.budget
  { b with
    spindles := b.spindles.map fun e => (e.1, e.2.trimPhases)
    cal := { ({ c with slewed := false }).setTarget target with
      phase, phaseCtx := ctx, rPower := decide (target < want), throttled := decide (unfollowed < wish x phase 15 c.budget)
      estSum := 0, estCount := 0 } }

/-- During a headstock restart the target is held (R376).
DESIGN CHOICE, notes/assumptions/3. -/
def execCalipersDecision (busy : List BusyShare) (s : State) : Host.Outcome State Fault Refusal :=
  nextOf s (s.blk.calipers fun b => if b.restarting then { b with cal := ({ b.cal with estSum := 0, estCount := 0, slewed := false } : Calipers).setTarget b.cal.target } else b.choosePoint busy)

/-! ### Temperature (R335) -/

/-- The sensors are read; any at 105 °C lowers the ceiling. -/
def Block.readSensors (b : Block) (tiles : List Nat) (hub : Nat) : Block :=
  let byte (v : Nat) : Nat := min 255 v
  let b : Block := { b with cal := { b.cal with tileTemp := (List.range 4).map fun t => byte (tiles.getD t 0), hubTemp := byte hub } }
  let b : Block := { b with cal := { b.cal with tempRead := some (max b.hottest (b.cal.tempRead.getD 0)) } }
  let c := { b.cal with maxSeen := max b.cal.maxSeen b.hottest }
  { b with cal := if 105 ≤ b.hottest then { c with ceiling := c.ceiling - 1 } else c }

def execSensorRead (tiles : List Nat) (hub : Nat) (s : State) : Host.Outcome State Fault Refusal :=
  nextOf s (s.blk.calipers fun b => b.readSensors tiles hub)

def execThermalCeilingRise (s : State) : Host.Outcome State Fault Refusal :=
  nextOf s (s.blk.calipers fun b => if b.hottest ≤ 102 then { b with cal := { b.cal with ceiling := min 15 (b.cal.ceiling + 1) } } else b)

end Sys2Proof.Machine
end

