-- ==== Sys2Proof/Machine/Faults.lean ====
section
/-!
DEFINITION. Faults: spindle resets, spindle faults and re-dispatch, on-chip storage, tiles, the hub and the regulators
(R350 to R365, R372, R373, R404).
-/
namespace Sys2Proof.Machine

/-! ### Shared steps -/

/-- The tile flushes what a stopped spindle wrote and writes back its dirty log; a stolen N tile returns (R357, R373). -/
def Block.settleSpindle (m : Dram) (b : Block) (p : Nat) : Block := (b.fenceFlush m p 0x1F).returnStolen p

/-- A blank returns to the head of its rack, to be dispatched afresh. -/
def Block.requeue (b : Block) (k : Blank) : Block :=
  b.setRack (rackOf k.ctx k.prio) ({ blank := { k with guest := false }, ready := true } :: b.rack (rackOf k.ctx k.prio))

/-! ### Spindle reset (R373) -/

/-- Steps 1 to 3: the current blank ends, and the prefetched one returns to its rack. A reset of a spindle that is being
re-dispatched waits (R372).
DEDUCED, notes/assumptions/126. -/
def Block.resetStart (m : Dram) (b : Block) (p : Nat) : Block :=
  let s := b.spd p
  if s.faulted then b.modSpd p fun s => { s with resetDue := true }
  else if s.resetting || !s.inService then b
  else
    let b := (b.modSpd p fun s => { s with resetting := true, resetDue := false }).settleSpindle m p
    let b := b.blankEnd p .spindleFault 0
    match (b.spd p).pre with
    | some k => (b.modSpd p fun s => { s with pre := none }).requeue k
    | none => b

/-- A parked SPINDLE_RESET of logical spindle `l`. -/
def resetOf (l : Nat) (e : Entry) : Bool := entOpcode e == 0x18 && bits e.toNat 207 192 == l

/-- Step 4: handles, flags, credit and the spindle's registers return to their reset values; its memories are
unspecified.
DEDUCED, notes/assumptions/126. -/
def Block.resetDone (b : Block) (p : Nat) : Block :=
  if (b.spd p).resetting = false ∨ !b.hubUp then b
  else
    let tag := b.freshTag
    let b := b.bumpFree.bumpFree.modSpd p fun s => { s with
      resetting := false, handles := [], flags := [], credit := 0, creditUnderflow := false
      faultStatus := 0, faultOpcode := 0, faultPc := 0, haltReq := false, halted := false, debugEn := false, gbuf := []
      spad := { undef := [(0, 0x600000, tag)] }, bowl := { undef := [(0, 0x100000, tag + 1)] } }
    b.finishParked 0 (resetOf (b.logicalOf p)) .success

def execSpindleResetDone (p : Spd) (s : State) : Host.Outcome State Fault Refusal := nextOf s (s.blk.resetDone p)

/-- DEDUCED, notes/assumptions/126. -/
def execSpindleReset (r : RingId) (e : Entry) (s : State) : Host.Outcome State Fault Refusal :=
  nextOf s (s.blk.startCmd r e 0x18 fun b c =>
    let l := c.p 0
    if 255 < l then .refuse b .invalidField
    else if b.logicalIn l = false then .refuse b .spindleFault
    else .parked (b.resetStart s.dram (b.physOf l)))

/-- SPD_CTL's spindle_reset.
DEDUCED, notes/assumptions/126. -/
def execSpdSpindleReset (who : Initiator) (p : Spd) (s : State) : Host.Outcome State Fault Refusal :=
  nextOf s (s.blk.asTile who (tileOf p) fun b => (b.resetStart s.dram p).answer .success)

/-! ### Spindle faults (R351, R356 to R359) -/

/-- The attempt of the current blank is abandoned; the blank keeps its registrations for a rerun. `overflow` stays as the
mark of a blank that is not replayable (R354). -/
def Block.abandonRun (b : Block) (p : Nat) : Block :=
  let s := b.spd p
  match s.cur with
  | none => b
  | some k =>
    if !s.started then b
    else
      let k : Blank := { k with faults := k.faults + 1, regsns := s.regsns }
      ((b.modSpd p fun s => { s with regsns := [] }).dropBlank p).modSpd p fun x => { x with cur := some k, overflow := s.overflow }

/-- The lowest-numbered spare of a tile whose spare bit is 1. -/
def Block.spareOf (b : Block) (t : Nat) : Option Nat := (firstBelow 68 fun s => (b.spd (68 * t + s)).spare).map (68 * t + ·)

/-- The SPINDLE_LOST record of a context (R359); `blank` is the context's current blank, when the case ends it.
DEDUCED, notes/assumptions/127. -/
def Block.lostRecord (b : Block) (t p : Nat) (c : Option Nat) (reason blank : Nat) : Block :=
  b.recordAt t { context := c, severity := 1, cls := 0x02, status := Status.spindleFault.code, info := reason, unitKind := 1, unit := p, blank }

/-- Contexts with a handle on a spindle that satisfies `f`. -/
def Spindle.ctxsWith (s : Spindle) (f : Handle → Bool) : List Nat := (List.range 16).filter fun c => s.handles.any fun h => h.2.context == c && f h.2

def Handle.isLive (h : Handle) : Bool := h.state != .free

/-- A failed spindle leaves service for good, its work already elsewhere. -/
def Block.retireSpindle (b : Block) (p : Nat) : Block :=
  let b := b.modSpd p fun s => { s with
    inService := false, faulted := false, resetDue := false, overflow := false, cur := none, pre := none, arriving := none, handles := [], windows := [] }
  { b with
    faultQueue := b.faultQueue.filter (· ≠ p)
    store := { b.store with failedSpindles := dedup (b.store.failedSpindles ++ [p]) } }

/-- Reason 1: no spare is left, and the spindle is removed.
DEDUCED, notes/assumptions/127. -/
def Block.removeSpindle (b : Block) (p : Nat) : Block :=
  let l := b.logicalOf p
  let s := b.spd p
  let live := s.ctxsWith Handle.isLive
  let holds (k : Blank) : Bool := live.contains k.ctx
  let curEnds (k : Blank) : Bool := holds k || s.overflow || decide (3 ≤ k.faults)
  let ends := match s.cur with
    | some k => if curEnds k then [k.ctx] else []
    | none => []
  let b := ({ b with removed := dedup (b.removed ++ [l]) } : Block).retireSpindle p
  let b := (dedup (live ++ ends)).foldl (fun (b : Block) c => b.lostRecord s.faultAt p (some c) 1 (if ends.contains c then s.blankAddr.toNat else 0)) b
  let place (b : Block) (k : Option Blank) (bad : Blank → Bool) : Block :=
    match k with
    | none => b
    | some k => if bad k then b.slotEnd p k .spindleFault else b.requeue k
  let b := place (place (place b s.arriving holds) s.pre holds) s.cur curEnds
  let b := b.lostRecord s.faultAt p none 1 0
  b.finishParked 0 (resetOf l) .spindleFault

/-- A spindle stops; its blank's attempt is abandoned, and a spare or its removal is awaited.
DEDUCED, notes/assumptions/127. -/
def Block.spindleFault (m : Dram) (b : Block) (p : Nat) : Block :=
  let s := b.spd p
  if !b.hubUp || !(b.tile (tileOf p)).powered || !s.inService || s.faulted then b
  else
    let b := b.modSpd p fun s => { s with faulted := true, faultAt := b.time, resetting := false, resetDue := s.resetDue || s.resetting }
    let b := (b.settleSpindle m p).abandonRun p
    let b : Block := { b with faultQueue := b.faultQueue ++ [p] }
    if (b.spareOf (tileOf p)).isNone then b.removeSpindle p else b

def execSpindleFault (p : Spd) (s : State) : Host.Outcome State Fault Refusal := nextOf s (s.blk.spindleFault s.dram p)

/-- Why a blank of the failed spindle ends instead of moving: carried handles, its third fault, or not replayable.
DEDUCED, notes/assumptions/127. -/
def endReason1 (lost : List Nat) (overflow : Bool) (k : Blank) : Option Nat :=
  if lost.contains k.ctx then some 4 else if 3 ≤ k.faults then some 5 else if overflow then some 2 else none

/-- Spare `p` takes the number, windows and handles of failed spindle `f`, and its blanks (R357, R358).
DEDUCED, notes/assumptions/127. -/
def Block.spareTakes (m : Dram) (b : Block) (f p : Nat) : Block :=
  let l := b.logicalOf f
  let s := b.spd f
  let lost := s.ctxsWith fun h => h.isLive && h.carried
  let why := s.cur.bind (endReason1 lost s.overflow)
  let stays (k : Blank) : Bool := !lost.contains k.ctx
  let cur := if why.isNone then s.cur else none
  let b := b.modSpd p fun x => { x with
    inService := true, spare := false, bowl := {}, windows := s.windows, handles := s.handles, pagesHeld := s.pagesHeld
    cur, started := false, pre := s.pre.filter stays, arriving := s.arriving.filter stays }
  let b := ({ b with spdMap := tset b.spdMap l p } : Block).retireSpindle f
  let b := lost.foldl (fun (b : Block) c => b.lostRecord s.faultAt f (some c) 4 (if s.cur.any (·.ctx == c) then s.blankAddr.toNat else 0)) b
  let b := match s.cur, why with
    | some k, some reason =>
      let b := if reason = 4 then b else b.lostRecord s.faultAt f (some k.ctx) reason k.addr.toNat
      b.slotEnd f k .spindleFault
    | _, _ => b
  let gone := (s.pre.toList ++ s.arriving.toList).filter fun k => !stays k
  let b := gone.foldl (fun b k => b.slotEnd f k .spindleFault) b
  let moved := cur.toList ++ (b.spd p).pre.toList ++ (b.spd p).arriving.toList
  let b := moved.foldl (fun b k => b.traceEvent k.ctx k.desc 0x07 l (dispatchInfo p k.guest)) b
  let b : Block := match (b.spd p).pre with
    | some k => if b.clocked then b.prefetch m p k else b
    | none => b
  let b : Block := b.recordAt s.faultAt { severity := 0, cls := 0x01, unitKind := 1, unit := f, info := p }
  if s.resetDue ∨ ((b.ring 0).taken.any fun (x : Taken) => x.started && resetOf l x.entry) = true then b.resetStart m p else b

/-- A spare that fails leaves the spares (R404): info 1 at module reset, 2 while being brought in. -/
def Block.spareFails (b : Block) (p info : Nat) : Block :=
  let b := b.modSpd p fun s => { s with spare := false, inService := false }
  let b : Block := { b with store := { b.store with failedSpindles := dedup (b.store.failedSpindles ++ [p]) } }
  b.record { severity := 0, cls := 0x10, unitKind := 1, unit := p, info }

/-- The next spare is brought in for the oldest fault of its tile. Faults for which no spare is left end in removal.
DEDUCED, notes/assumptions/127. -/
def Block.spareIn (m : Dram) (b : Block) (p : Nat) (good : Bool) : Block :=
  let t := tileOf p
  match b.faultQueue.find? fun f => tileOf f == t with
  | none => b
  | some f =>
    if !b.hubUp || !(b.tile t).powered || b.spareOf t != some p then b
    else
      let b := if good then b.spareTakes m f p else b.spareFails p 2
      if (b.spareOf t).isSome then b
      else (b.faultQueue.filter fun f => tileOf f == t).foldl (fun b f => b.removeSpindle f) b

def execSpareBroughtIn (p : Spd) (good : Bool) (s : State) : Host.Outcome State Fault Refusal :=
  nextOf s (s.blk.spareIn s.dram p good)

/-! ### Tiles, hub, regulators (R350, R352, R353) -/

/-- The fault is recorded; the manual names no other effect.
DEDUCED, notes/assumptions/128. -/
def Block.tileFault (b : Block) (t : Nat) (cause : TileFaultCause) : Block :=
  let info := match cause with
    | .sram => 1
    | .tileLink => 2
    | .hubLink => 3
  if b.hubUp then b.record { severity := 2, cls := 0x0D, unitKind := 8, unit := t, info } else b

def execTileFault (t : TileId) (cause : TileFaultCause) (s : State) : Host.Outcome State Fault Refusal := nextOf s (s.blk.tileFault t cause)

/-- The hub is lost; the cause is kept for the next boot's record (R365).
DEDUCED, notes/assumptions/134. -/
def Block.loseHub (b : Block) (cause : HubLossCause) : Block :=
  if b.hubUp then { b with hubLost := true, store := { b.store with hubLoss := b.store.hubLoss ++ [(cause, b.time)] } } else b

def execHubLoss (cause : HubLossCause) (s : State) : Host.Outcome State Fault Refusal := nextOf s (s.blk.loseHub cause)

/-- A sensor at 115 °C: THERMTRIP# is held until a cold reset, the clocks stop, and the hub is lost (R335).
DEDUCED, notes/assumptions/134. -/
def execThermtrip (s : State) : Host.Outcome State Fault Refusal :=
  let b := s.blk
  nextOf s (if b.pwrGood = false ∨ b.thermtripPin then b else
    { b with
      thermtripPin := true, hubLost := true, cal := { b.cal with thermtrip := true }
      store := { b.store with hubLoss := b.store.hubLoss ++ [(.thermtrip, b.time)] } })

/-- An uncorrectable word of a cached line: a clean line is invalidated, and a dirty one loses its dirty bytes.
DEDUCED, notes/assumptions/140. -/
def Block.cacheError (b : Block) (t line : Nat) : Block :=
  match ((b.tile t).dcSet line).find line with
  | none => b
  | some (w, l) =>
    let b := b.modTile t fun tl => tl.modSet line fun x => { x with ways := tdel x.ways w }
    if l.dirty = 0 then b else (b.unlog t line).record { severity := 2, cls := 0x08, unitKind := 8, unit := t, addr := 128 * line }

/-- Table 20.1.
DEDUCED, notes/assumptions/140. -/
def Block.sramError (m : Dram) (b : Block) (a : SramArray) (unit addr : Nat) : Block :=
  if !b.hubUp then b
  else match a with
    | .scratchpad => b.spindleFault m unit
    | .bowl => b.spindleFault m unit
    | .handleTable => b.spindleFault m unit
    | .instructionBuffer => b.spindleFault m unit
    | .engineQueues => b.spindleFault m unit
    | .sequencerState => b.spindleFault m unit
    | .localFlags => b.spindleFault m unit
    | .stagingBuffer => b.spindleFault m unit
    | .dieCache => b.cacheError (unit % 4) (addr / 128)
    | .cellStore => b.tileFault (unit % 4) .sram
    | .tileRouter => b.tileFault (unit % 4) .sram
    | .tileWcBuffer => b.tileFault (unit % 4) .sram
    | .rackEntries => b.loseHub .hubSram
    | .streamCache => b.loseHub .hubSram
    | .headstockMemory => b.loseHub .hubSram
    | .hubOther => b.loseHub .hubSram

def execSramUncorrectable (a : SramArray) (unit : Nat) (addr : Word64) (s : State) : Host.Outcome State Fault Refusal :=
  nextOf s (s.blk.sramError s.dram a (unit % 272) addr.toNat)

/-- A regulator's first failed phase is absorbed; a further one on the same regulator is a device fault.
DESIGN CHOICE, notes/assumptions/15. -/
def Block.phaseFails (b : Block) (rail phase : Nat) : Block :=
  if !b.hubUp || b.vrFailed.contains (rail, phase) then b
  else
    let severity := if b.vrFailed.any fun x => x.1 == rail then 2 else 0
    ({ b with vrFailed := b.vrFailed ++ [(rail, phase)] } : Block).record
      { severity, cls := 0x0C, unitKind := 6, unit := (Config.vrUnit rail phase).toNat, info := (Config.vrInfo rail phase).toNat }

def execVrPhaseFail (rail phase : Nat) (s : State) : Host.Outcome State Fault Refusal := nextOf s (s.blk.phaseFails rail phase)

end Sys2Proof.Machine
end

