-- ==== Sys2Proof/Machine/Resets.lean ====
section
/-!
DEFINITION. Power states, supplies, resets and boot (R247, R248, R324, R365 to R378, R389, R390, R393, R404).
-/
namespace Sys2Proof.Machine

/-! ### A1 (R366, R367) -/

/-- No blank is in a chuck slot, no rack entry is ready, no lane is past arming, and no Kerf or PCIe request to a tile is
on its way. -/
def Block.quiet (b : Block) : Bool :=
  b.spindles.all (fun e => e.2.cur.isNone && e.2.pre.isNone && e.2.arriving.isNone)
    && b.racks.all (fun r => r.2.all fun e => !e.ready)
    && b.ctxs.all (fun c => c.2.lanes.all fun l => l.2.waiting.isNone && !l.2.satisfied && l.2.ending.isNone)
    && b.loopIn.isEmpty
    && b.conns.all (fun c => c.2.rxWork.isEmpty)
    && b.chans.all (fun c => c.2.transit.all fun q => match q.src with
      | .host _ => false
      | .kerf _ _ => false
      | _ => true)

/-- Every write-combining entry is flushed (R243). -/
def Block.flushAll (m : Dram) (b : Block) : Block := (List.range 4).foldl (fun b t => b.flushWhere m t fun _ => true) b

def Block.enterA1 (m : Dram) (b : Block) : Block :=
  if b.hubUp && b.power == .a0 && b.quiet then { b.flushAll m with power := .a1 } else b

def execA1Enter (s : State) : Host.Outcome State Fault Refusal := nextOf s (s.blk.enterA1 s.dram)
def execA1Exit (s : State) : Host.Outcome State Fault Refusal := nextOf s (if s.blk.hubUp then s.blk.ungate else s.blk)

/-! ### A2 (R248, R368 to R371) -/

/-- Every dirty line of the die caches goes to its channel. -/
def Block.cleanCaches (b : Block) : Block :=
  (List.range 4).foldl (fun (b : Block) t =>
    let lines := (b.tile t).dc.flatMap fun x => x.2.ways.map (·.2)
    (lines.foldl (fun b l => b.writeBack t l) b).modTile t fun x =>
      { x with dc := x.dc.map fun k => (k.1, { k.2 with ways := k.2.ways.map fun w => (w.1, { w.2 with dirty := 0 }) }) }) b

/-- Spindles on which context `c` holds a carried handle (R358, R369).
DEDUCED, notes/assumptions/129. -/
def Block.carriedOn (b : Block) (c : Nat) : Nat :=
  (b.spindles.filter fun e => e.2.handles.any fun h => h.2.context == c && h.2.isLive && h.2.carried).length

/-- Scratchpads and bowls of every spindle hold unspecified bytes, under new tags; gathering buffers and instruction buffers are empty.
DEDUCED, notes/assumptions/129. DEDUCED, notes/assumptions/130. -/
def Block.loseSpads (b : Block) : Block :=
  let tag := b.freshTag
  { b with
    freeCtr := b.freeCtr + 544, bootTag := tag
    spindles := b.spindles.map fun e => (e.1, { e.2 with
      spad := (Spindle.init tag e.1).spad, bowl := (Spindle.init tag e.1).bowl, bowlCtx := 16, gbuf := [], ibuf := [], preCode := [] }) }

/-- Tiles go off with clean, empty caches, the channels into self-refresh, and the drain window opens.
DEDUCED, notes/assumptions/129. -/
def Block.powerDown (b : Block) : Block :=
  let held := (List.range 16).foldl (fun (t : Tab Nat) c => tput 0 t c (b.carriedOn c)) []
  let b := (List.range 4).foldl (fun (b : Block) t => b.modTile t fun x => { x with powered := false, dc := [], fills := [], wc := [] }) b
  let b := (List.range 384).foldl (fun (b : Block) c => b.modChan c fun x => { x with selfRefresh := true }) b
  { b.loseSpads with power := .a2, draining := true, drained := [], a2Exiting := false, handlesLost := held, store := b.cal.save b.store }

/-- The steps of R248 in order. While a channel still has requests the entry goes no further than the write-backs, and is
commanded again once they are served.
DEDUCED, notes/assumptions/129. -/
def Block.enterA2 (m : Dram) (b : Block) : Block :=
  let down := (List.range (b.numVfs + 1)).all fun f => (b.func f).d3hot
  if !(b.hubUp && b.ready && (b.power == .a0 || b.power == .a1) && down && b.quiet && b.chains.isEmpty && b.sweeps.isEmpty) then b
  else
    let dirty := (b.streams.filter fun x => x.2.dirty).map (·.1)
    let b := dirty.foldl Block.streamBack b
    let b := (b.flushAll m).cleanCaches
    if b.chans.all fun c => c.2.transit.isEmpty && c.2.queue.isEmpty then b.powerDown else b

def execA2Enter (s : State) : Host.Outcome State Fault Refusal := nextOf s (s.blk.enterA2 s.dram)

/-- Held packets act, in their order of arrival: they are refused while the tiles are off, and served once they are on.
DEDUCED, notes/assumptions/129. -/
def Block.deliverDrained (m : Dram) (b : Block) : Block :=
  b.drained.foldl (fun (b : Block) x => b.rxNew m x.1 (b.conn x.1).ackPath x.2) { b with drained := [], draining := false }

def execDrainWindowClose (s : State) : Host.Outcome State Fault Refusal :=
  let b := s.blk
  nextOf s (if b.hubUp && b.draining && b.power == .a2 then b.deliverDrained s.dram else b)

/-- A function enters D0: WAKE# deasserts, and A2 is left (R394). -/
def Block.enterD0 (b : Block) (fn : Nat) : Block :=
  let b := b.modFunc fn fun x => { x with d3hot := false }
  { b with wake := false, a2Exiting := b.a2Exiting || b.power == .a2 }

def execA2Exit (fn : FnId) (s : State) : Host.Outcome State Fault Refusal :=
  let b := s.blk
  nextOf s (if b.hubUp && b.fnEnabled fn && (b.func fn).d3hot then b.enterD0 fn else b)

/-- Channels and tiles are back; each context that held carried handles hears how many spindles lost them. -/
def Block.leaveA2 (m : Dram) (b : Block) : Block :=
  if !(b.hubUp && b.power == .a2 && b.a2Exiting) then b
  else
    let b := (List.range 4).foldl (fun (b : Block) t => b.modTile t fun x => { x with powered := true }) b
    let b := (List.range 384).foldl (fun (b : Block) c => b.modChan c fun x => { x with selfRefresh := false }) b
    let b := b.handlesLost.foldl (fun (b : Block) e => b.postEvent (1 + e.1) 0x2008 e.2) b
    ({ b with handlesLost := [], a2Exiting := false, power := .a0 } : Block).deliverDrained m

def execA2ExitComplete (s : State) : Host.Outcome State Fault Refusal := nextOf s (s.blk.leaveA2 s.dram)

/-! ### What a module reset keeps (Table 21.5) -/

/-- Every default but what is sticky: the configuration store, thermtrip and max_seen, straps, pins and supplies. What has
left the device has left it.
DESIGN CHOICE, notes/assumptions/19. -/
def Block.defaults (b : Block) : Block :=
  { power := b.power, pwrGood := b.pwrGood, auxGood := b.auxGood, mainOn := b.mainOn, thermtripPin := b.thermtripPin
    hubLost := b.thermtripPin, straps := b.straps, jtagReset := b.jtagReset, alert := b.alert
    freeCtr := b.freeCtr + 544, bootTag := b.freshTag
    store := b.store, cal := { thermtrip := b.cal.thermtrip, maxSeen := b.cal.maxSeen }
    hostOut := b.hostOut, msix := b.msix, txOut := b.txOut, pfcOut := b.pfcOut, mctpOut := b.mctpOut, resp := b.resp }

/-! ### Supplies (R366, R370, R389, R390, R393) -/

/-- PWR_GOOD falls: A3 while auxiliary power remains, else A4. -/
def Block.mainLost (b : Block) : Block :=
  { b.defaults with mainOn := false, pwrGood := false, alert := false, power := if b.auxGood then .a3 else .a4 }

def execMainSupplyLoss (s : State) : Host.Outcome State Fault Refusal :=
  nextOf s (if s.blk.mainOn then s.blk.mainLost else s.blk)

/-- Nothing is powered: what auxiliary power held returns to its defaults. -/
def Block.allLost (b : Block) : Block :=
  { b.defaults with
    mainOn := false, auxGood := false, pwrGood := false, thermtripPin := false, hubLost := false, alert := false, power := .a4, straps := 0, cal := {} }

def execAuxSupplyLoss (s : State) : Host.Outcome State Fault Refusal := nextOf s s.blk.allLost

def execAuxPowerUp (straps : Fin 8) (s : State) : Host.Outcome State Fault Refusal :=
  let b := s.blk
  nextOf s (if b.auxGood then b else { b with auxGood := true, straps := straps.val, power := .a3 })

/-- 54 V is applied; the input switch holds it off while the auxiliary rail is out of range. -/
def execMainPowerUp (s : State) : Host.Outcome State Fault Refusal := nextOf s { s.blk with mainOn := true }

/-- PWR_GOOD rises: THERMTRIP# is released, and the memory holds no data (R403). -/
def Block.coldReset (b : Block) : Block :=
  { ({ b with thermtripPin := false } : Block).defaults with pwrGood := true, power := .a0 }

def execColdReset (s : State) : Host.Outcome State Fault Refusal :=
  let b := s.blk
  if b.mainOn && b.auxGood && !b.pwrGood then nextOf { s with dram := {} } b.coldReset else nextOf s b

/-! ### Module reset (R377) -/

/-- The requests a controller has accepted take effect.
DEDUCED, notes/assumptions/133. -/
def Block.settleChan (m : Dram) (b : Block) (c : Nat) : Dram :=
  let x := b.chan c
  if x.state = .failed then m
  else x.queue.foldl (fun m q =>
    let key := memKey (b.place (64 * q.line)) / 64
    m.setLine key (serveLine false (m.line key) q).1) m

/-- DEDUCED, notes/assumptions/133. -/
def Block.settleChans (m : Dram) (b : Block) : Dram := (b.chans.map (·.1)).foldl (fun m c => b.settleChan m c) m

/-- Channels in self-refresh, each with its zeroing position.
DEDUCED, notes/assumptions/133. -/
def Block.restChans (b : Block) : Tab Channel := (List.range 384).map fun c => (c, { selfRefresh := true, zeroPos := (b.chan c).zeroPos })

/-- DEDUCED, notes/assumptions/133. -/
def Block.moduleReset (b : Block) : Block := { b.defaults with power := .a0, chans := b.restChans }

def execPerstAssert (s : State) : Host.Outcome State Fault Refusal :=
  let b := s.blk
  if b.pwrGood && !b.perst then nextOf { s with dram := b.settleChans s.dram } b.moduleReset else nextOf s b

/-! ### Boot (R247, R324, R365, R404) -/

/-- The image of a slot passes: it verifies, and its security version reaches the fused minimum; with blank root-key fuses every
image runs (R324). -/
def Block.slotPasses (b : Block) (k : Nat) : Bool := !Config.rootKeyFused || ((b.slot k).verifies && decide (b.store.minSvn ≤ (b.slot k).svn))

/-- The loader of slot `k` is verified, measured and run. -/
def Block.runLoader (b : Block) (k : Nat) (trial : Bool) : Block :=
  { b with runSlot := k, runTrial := trial, bootStage := 1, measured := [(b.slot k).measure 0] }

/-- The slot that the boot record names, a trial's first, then the other, then recovery.
DESIGN CHOICE, notes/assumptions/131. -/
def Block.chooseSlot (b : Block) : Block :=
  let first := b.store.trial.getD b.store.bootSlot
  if b.slotPasses first then b.runLoader first b.store.trial.isSome
  else
    let b : Block := { b with store := { b.store with trial := none } }
    if b.slotPasses (1 - first) then b.runLoader (1 - first) false else { b with bootStage := 5 }

/-- The headstock firmware of the slot is measured and runs. -/
def Block.runFirmware (b : Block) : Block :=
  let x := b.slot b.runSlot
  { b with fwVersion := x.version, fwSvn := x.svn, secure := Config.rootKeyFused, bootStage := 2, measured := b.measured ++ [x.measure 1] }

/-- Channels are trained: those that fail, or that the configuration store records, are mapped out or failed. With fewer than 128
good HBM channels every channel is out of service (R247).
DEDUCED, notes/assumptions/132. -/
def Block.trainChans (b : Block) (fails : List Nat) : Block :=
  let out (c : Nat) : Bool := fails.contains c || b.store.mapOut.contains c
  let hbm := (List.range 256).filter fun c => !out c
  let chan (c : Nat) : Channel :=
    { zeroPos := (b.chan c).zeroPos, state := if out c then (if c < 256 then .mappedOut else .failed) else .inService }
  { b with
    chans := (List.range 384).map fun c => (c, if hbm.length < 128 ∧ (chan c).state = .inService then { chan c with state := .mappedOut } else chan c)
    memoryDegraded := decide (hbm.length < 128), inservice := if hbm.length < 128 then [] else hbm }

/-- Spares of tile `t` take the logical numbers whose spindles stay out of service, both ascending; numbers left over are
removed (R357, R359).
DEDUCED, notes/assumptions/127. -/
def Block.fillNumbers (b : Block) (t : Nat) : Block :=
  let vacant := ((List.range 64).filter fun i => !(b.spd (68 * t + i)).inService).map (64 * t + ·)
  let spares := ((List.range 68).map (68 * t + ·)).filter fun p => (b.spd p).spare
  let b := (vacant.zip spares).foldl (fun (b : Block) x =>
    ({ b with spdMap := tset b.spdMap x.1 x.2 } : Block).modSpd x.2 fun s => { s with inService := true, spare := false }) b
  { b with removed := b.removed ++ vacant.drop spares.length }

/-- Spindles that the configuration store records stay out of service, failing spares leave, and numbers are filled. -/
def Block.testSpindles (b : Block) (fails : List Nat) : Block :=
  let b := b.store.failedSpindles.foldl (fun (b : Block) p => b.modSpd p fun s => { s with inService := false, spare := false }) b
  let b := (fails.filter fun p => (b.spd p).spare).foldl (fun b p => if (b.spd p).spare then b.spareFails p 1 else b) b
  (List.range 4).foldl Block.fillNumbers b

/-- DEDUCED, notes/assumptions/134. -/
def hubLossInfo : HubLossCause → Nat
  | .watchdog => 1
  | .hubSram => 2
  | .thermtrip => 3
  | .islandHandshake => 4

/-- The first records of the boot: those that the configuration store kept, then one for each hub loss.
DEDUCED, notes/assumptions/134. -/
def Block.carryRecords (b : Block) : Block :=
  let b := b.store.carried.foldl (fun b f => b.enterRecord { f with carried := true }) b
  b.store.hubLoss.foldl (fun (b : Block) x =>
    let f : FaultRec := { time := x.2, timeFlag := b.ptp.timeFlag, carried := true, severity := 2, cls := 0x0E, unitKind := 7, info := hubLossInfo x.1 }
    let kept := b.store.carried ++ [f]
    { b.enterRecord f with store := { b.store with carried := kept.drop (kept.length - 64), hubLoss := [] } }) b

/-- Memory is trained and spares are tested, once the PCIe link has. -/
def Block.trainAll (b : Block) (x : BootInputs) : Block :=
  let b : Block := { b with pcieWidth := x.width, pcieSpeed := x.speed, linkDegraded := linkPoor x.width x.speed, boot := none }
  let b := ({ b with cal := { b.cal with weights := b.store.weights } } : Block).carryRecords
  (b.trainChans (x.failTraining.map (·.val))).testSpindles (x.failSpares.map (·.val))

/-- One stage of the boot (Table 17.10). The times of the table are upper bounds: an idle step takes the boot one stage on.
DESIGN CHOICE, notes/assumptions/131. -/
def Block.bootStep (b : Block) : Block :=
  if !b.hubUp then b
  else match b.bootStage with
    | 0 => b.chooseSlot
    | 1 => b.runFirmware
    | 2 =>
      match b.boot with
      | some x => { b.trainAll x with bootStage := 3 }
      | none => { b with bootStage := 3 }
    | _ => b

/-- PERST# deasserts: the ROM starts the boot chain (R324).
DESIGN CHOICE, notes/assumptions/131. -/
def execPerstDeassert (x : BootInputs) (s : State) : Host.Outcome State Fault Refusal :=
  let b := s.blk
  nextOf s (if b.pwrGood && b.perst then { b with perst := false, boot := some x, bootStage := 0 } else b)

/-- A trial boots once. -/
def execBootReady (s : State) : Host.Outcome State Fault Refusal :=
  let b := s.blk
  nextOf s (if b.hubUp && b.bootStage == 3 && !b.ready then
    { b with ready := true, bootStage := 4, store := if b.runTrial then { b.store with trial := none, trialFails := 0 } else b.store } else b)

/-- A trial image has not reached ready within 5 s: the boot chain starts again, the third time with the previous slot, and
FW_FALLBACK is raised.
DESIGN CHOICE, notes/assumptions/131. -/
def Block.trialTimeout (b : Block) : Block :=
  if !b.hubUp || !b.runTrial || b.ready || decide (3 < b.bootStage) then b
  else
    let b : Block := { b with bootStage := 0, runTrial := false, fwVersion := 0, fwSvn := 0, secure := false, measured := [] }
    if b.store.trialFails + 1 < 3 then { b with store := { b.store with trialFails := b.store.trialFails + 1 } }
    else
      ({ b with store := { b.store with trial := none, trialFails := 0 }, fallback := true } : Block).postEvent 0 0x2006 b.store.bootSlot

def execTrialBootTimeout (s : State) : Host.Outcome State Fault Refusal := nextOf s s.blk.trialTimeout

/-! ### Function resets (R375) -/

/-- Ring, tag history, MSI-X state and BAR2 mapping of a function return to their defaults; it is in D0.
DEDUCED, notes/assumptions/135. -/
def Block.resetFn (b : Block) (fn : Nat) : Block :=
  let b := (b.setRing fn {}).enterD0 fn
  { b.modFunc fn (fun _ => {}) with notifies := b.notifies.filter fun n => n.fn != fn }

def Block.tearIfLive (m : Dram) (b : Block) (c : Nat) : Block := if (b.ctx c).state = .live then b.teardown m c else b

/-- Every function and every LIVE context. -/
def Block.hotReset (m : Dram) (b : Block) : Block :=
  let b := (List.range 17).foldl Block.resetFn b
  let b : Block := { b with numVfs := 0, hostReads := [], hubBuf := [] }
  (List.range 16).foldl (fun b c => b.tearIfLive m c) b

/-- DEDUCED, notes/assumptions/135. -/
def execPcieHotReset (s : State) : Host.Outcome State Fault Refusal :=
  nextOf s (if s.blk.hubUp then s.blk.hotReset s.dram else s.blk)

/-- Function 0's reset is the hot reset of Table 21.3.
DEDUCED, notes/assumptions/135. -/
def execFunctionLevelReset (fn : FnId) (s : State) : Host.Outcome State Fault Refusal :=
  let b := s.blk
  nextOf s (if !b.hubUp || !b.fnEnabled fn then b
    else if fn.val = 0 then b.hotReset s.dram
    else (b.resetFn fn).tearIfLive s.dram (fn.val - 1))

end Sys2Proof.Machine
end

