-- ==== Sys2Proof/Machine/Registers.lean ====
section
/-!
DEFINITION. The control and debug windows: what a register reads as, what a write changes, the debug window, and the
accesses of JTAG (R7, R18, R70, R76, R309, R397, R400).
-/
namespace Sys2Proof.Machine

/-! ### Registers of the hub -/

/-- Page of a ring: the registers of Table 17.3, by offset.
DEDUCED, notes/assumptions/17. -/
def Ring.reg (g : Ring) (o : Nat) : Nat :=
  if o = 0 then g.cmdBase.toNat
  else if o = 8 then g.cplBase.toNat
  else if o = 0x10 then
    fld g.eventsLost 8 32 + fld (b2n (g.taken.any fun x => x.started)) 1 4 + fld (b2n g.errFetch) 1 3 + fld (b2n g.errIndex) 1 2
      + fld (b2n g.stopped) 1 1 + b2n g.enable
  else if o = 0x18 then g.cmdProd.toNat + fld g.cmdCons.toNat 32 32
  else if o = 0x20 then g.cplProd.toNat + fld g.cplCons.toNat 32 32
  else 0

def Block.mbxStatus (b : Block) : Nat :=
  fld b.fwVersion 32 32 + fld b.restarts 8 16 + fld b.bootStage 3 5 + fld (b2n b.fallback) 1 4 + fld (b2n b.secure) 1 3
    + fld (b2n b.bar2Err) 1 2 + fld (b2n b.cellErr) 1 1 + b2n b.ready

def Pool.reg (x : Pool) (k : Nat) : Nat :=
  match k with
  | 0 => fld (x.base / 65536) 32 16
  | 1 => fld x.groupsM1 8 32 + fld x.pppLog2 4 28 + fld x.pages 27 0
  | 2 => fld (b2n x.notLive) 1 63 + fld (b2n x.emptySeen) 1 62 + fld x.notLiveCount 16 32 + fld x.freePages 27 0
  | _ => 0

def Sched.reg (x : Sched) : Nat := fld x.used 17 47 + fld x.quota 17 30 + fld x.lendMask 16 14 + fld (b2n x.traceEn) 1 1 + b2n x.enable

def Trace.cfg (t : Trace) : Nat := fld (t.base / 2 ^ 20) 28 20 + fld t.sizeLog2 4 4 + fld (b2n t.stopMode) 1 2 + b2n t.enable

def Ptp.reg (x : Ptp) : Nat :=
  fld (b2n x.timeFlag) 1 63 + fld (b2n x.offsetWarn) 1 62 + fld (b2n x.locked) 1 61 + fld x.source 4 56
    + trunc 32 (clampI (-(2 ^ 31)) (2 ^ 31 - 1) x.offsetNs)

def Port.reg (x : Port) : Nat := fld (b2n x.linkUp) 1 63 + fld (b2n x.pfcEn) 1 62 + fld x.pfcPrio 3 59 + fld x.drops 16 32 + fld x.fecCorr 32 0

def KrfCtx.reg (x : KrfCtx) (k : Nat) : Nat :=
  match k with
  | 0 => fld x.jobId 32 32 + fld x.peers 13 19 + fld x.epochPolicy 2 17 + fld (b2n x.followEn) 1 16 + fld (b2n x.jobEn) 1 15 + fld x.formats 14 0
  | 1 => fld (x.peerBase / 64) 42 6
  | 2 => fld x.acceptEpoch 63 0
  | _ => 0

def Calipers.status (c : Calipers) : Nat :=
  fld c.target 4 60 + fld c.opNow 4 56 + fld c.phase 8 48 + fld c.phaseCtx 4 44 + fld (b2n c.throttled) 1 43 + fld (b2n c.rPower) 1 42
    + fld (b2n (decide (c.ceiling < 15))) 1 41 + fld (b2n c.backstop) 1 40 + fld (b2n (decide (c.followIndex < 15))) 1 39
    + fld c.followIndex 4 35 + fld (b2n c.stale) 1 34 + fld (b2n c.sensorLost) 1 33 + fld (b2n c.thermtrip) 1 32
    + fld c.rejectCount 16 16 + fld c.railMv 16 0

def Calipers.temps (c : Calipers) : Nat :=
  fld c.maxSeen 8 40 + fld c.hubTemp 8 32 + ((List.range 4).map fun t => fld (c.tileTemp.getD t 0) 8 (8 * t)).sum

/-- Energy in whole millijoules (Table 18.5). -/
def mj (uj : Rat) : Nat := (uj / 1000).floor.toNat % 2 ^ 64

def Counters.ctl (c : Counters) : Nat := fld (b2n c.ppsEn) 1 8 + b2n c.freeze

/-- CNT_SNAP_STAT: images of odd seq lie in slot B. -/
def Counters.snapStat (c : Counters) : Nat := fld c.seq 48 16 + fld c.lost 8 8 + fld (b2n c.writing.isSome) 1 1 + c.seq % 2

/-- The four counters of a port (R342). -/
def Counters.port (c : Counters) (p k : Nat) : Counter :=
  match k with
  | 0 => tget {} c.tot p
  | 1 => tget {} c.last p
  | 2 => tget {} c.peak p
  | _ => tget {} c.spec p

/-- Offset `o` lies in an array of `n` registers of `step` bytes at `base`. -/
def within (o base step n : Nat) : Bool := decide (base ≤ o) && decide (o < base + step * n)

/-- The 8 B at hub offset `o`, a multiple of 8. An offset that holds no register reads as zero (R400). The MBX_ registers
stand at their BAR0 offsets (DEDUCED, notes/assumptions/17). -/
def Block.hubReg (b : Block) (o : Nat) : Nat :=
  if o = 0 then 0x0302B1005A480A4D
  else if o = 8 then b.mbxStatus
  else if within o 0x1000 0x1000 17 then (b.ring (o / 0x1000 - 1)).reg (o % 0x1000)
  else if within o 0x20000 0x20 16 then (b.pool ((o - 0x20000) / 0x20)).reg (o % 0x20 / 8)
  else if o = 0x30000 then
    fld b.memUeThreshold 8 32 + fld b.memUeWindowH 8 24 + fld b.memScrubHbmH 8 16 + fld b.memScrubDeepH 8 8 + b2n b.memScrubEn
  else if o = 0x30008 then fld b.keepShare 5 0
  else if within o 0x40000 8 16 then (b.ctx ((o - 0x40000) / 8)).sched.reg
  else if within o 0x40100 8 256 then let x := tget (false, 0) b.primary ((o - 0x40100) / 8); fld (b2n x.1) 1 4 + fld x.2 4 0
  else if o = 0x40900 then b.trace.cfg
  else if o = 0x40908 then fld b.trace.lost 16 48 + fld b.trace.prod 48 0
  else if o = 0x40910 then fld b.trace.cons 48 0
  else if o = 0x50000 then fld b.krfUdpPort 16 32 + fld b.krfDscpData 6 26 + fld b.krfDscpCtrl 6 20
  else if o = 0x50008 then b.ptp.reg
  else if within o 0x50010 8 8 then (b.port ((o - 0x50010) / 8)).reg
  else if within o 0x50100 0x20 16 then (b.ctx ((o - 0x50100) / 0x20)).krf.reg (o % 0x20 / 8)
  else if o = 0x60000 then fld b.cal.shortW 12 16 + fld b.cal.longW 12 0
  else if o = 0x60008 then b.cal.status
  else if o = 0x60010 then b.cal.temps
  else if within o 0x60100 8 16 then mj (b.ctx ((o - 0x60100) / 8)).energyUj
  else if o = 0x60180 then mj b.cal.energyDevUj
  else if o = 0x70000 then b.cnt.ctl
  else if o = 0x70008 then fld b.cnt.lenUs 16 0
  else if o = 0x70010 then b.cnt.snapStat
  else if within o 0x70080 8 16 then let x := b.ctx ((o - 0x70080) / 8); fld (x.dstAddr / 256) 40 8 + b2n x.dstEn
  else if within o 0x71000 0x20 82 then (b.cnt.port ((o - 0x71000) / 0x20) (o % 0x20 / 8)).word
  else if within o 0x72000 0x80 16 then (tget {} (b.ctx ((o - 0x72000) / 0x80)).cnt (o % 0x80 / 8)).word
  else if o = 0x72800 then b.cnt.devIdle.word
  else if o = 0x80000 then fld (if b.trace.logValid then b.trace.seq else 0) 48 16 + fld b.trace.logLost 8 8 + b2n b.trace.logValid
  else if o = 0x80008 then fld (tget 0 b.sramCe 4) 12 48 + ((List.range 4).map fun t => fld (tget 0 b.sramCe t) 12 (12 * t)).sum
  else 0

/-! ### Registers of a tile and of a spindle -/

def Channel.reg (x : Channel) : Nat :=
  fld x.state.code 2 62 + fld (b2n x.ueAlert) 1 61 + fld (b2n x.linkRetry) 1 60 + fld x.ueCount 16 32 + fld x.ceCount 32 0

/-- The channel whose TILE_MC_ERR_n stands at offset `o` of tile `t` (Table 13.5). -/
def mcErrChan (t o : Nat) : Option Nat :=
  if within o 0x4000 8 64 then some (64 * t + (o - 0x4000) / 8)
  else if within o 0x4200 8 32 then some (256 + 32 * t + (o - 0x4200) / 8) else none

/-- DESIGN CHOICE, notes/assumptions/148. -/
def Spindle.cntReg (s : Spindle) (o : Nat) : Nat :=
  if o < 0x40 then (tget 0 s.cntSel (o / 8)).toNat
  else if o < 0x80 then (tget {} s.cntProg (o / 8 - 8)).word
  else if o < 0x140 then (tget {} s.cntTd (o / 8 - 16)).word
  else 0

def Block.tileReg (b : Block) (t o : Nat) : Nat :=
  let x := b.tile t
  if o = 0x1000 then fld (b2n x.repartBusy) 1 15 + fld x.burlWays 4 0
  else if o = 0x1008 then fld x.stealMask 16 16 + fld x.stealMinLeft 4 4 + b2n x.stealEnable
  else if within o 0x2000 8 16 then let y := tget (0, 0) x.synPart ((o - 0x2000) / 8); fld y.2 16 32 + fld y.1 15 0
  else if within o 0x2080 8 16 then let y := tget {} x.synCtx ((o - 0x2080) / 8); fld y.timeoutMs 16 24 + fld (b2n y.ackMode) 1 1
  else if o = 0x2100 then fld (b2n x.satAny) 1 49 + fld x.firstSat 17 32
  else if within o 0x8000 0x200 68 then (b.spd (68 * t + (o - 0x8000) / 0x200)).cntReg (o % 0x200)
  else match mcErrChan t o with
    | some c => (b.chan c).reg
    | none => 0

/-- SPD_STATUS (Table 3.8).
DEDUCED, notes/assumptions/138. -/
def Spindle.status (s : Spindle) : Nat :=
  let busy := engines.foldl (fun acc e => acc + fld (b2n ((s.queue e).any fun q => !q.completed)) 1 (3 + engNum e)) 0
  fld (b2n s.creditUnderflow) 1 56 + fld s.specCmds 8 48 + fld s.brs.length 4 44 + fld s.ctx 4 40 + fld s.credit 5 30 + busy
    + fld (b2n s.halted) 1 2 + fld (b2n s.spare) 1 1 + b2n s.cur.isSome

def LocalFlag.reg (x : LocalFlag) : Nat := fld (b2n x.sat) 1 31 + fld x.count 16 0

def Window.reg (x : Window) : Nat := fld x.handleHi 6 38 + fld x.handleLo 6 32 + fld x.pages 11 16 + fld x.basePage 11 0

def Handle.code : HandleState → Nat
  | .free => 0
  | .live => 1
  | .freeing => 2

def Handle.reg (x : Handle) : Nat :=
  fld (Handle.code x.state) 2 62 + fld x.context 4 58 + fld x.owners 6 52 + fld (b2n x.prefetch) 1 51 + fld x.sizePages 11 40 + fld x.basePage 11 0

/-- The spindle answers debug accesses (R70). -/
def Spindle.inDebug (s : Spindle) : Bool := s.debugEn && s.halted

/-- The 8 B at offset `o` of a spindle's window, a multiple of 8.
DEDUCED, notes/assumptions/138. -/
def Spindle.regAt (s : Spindle) (o : Nat) : Except Status Nat :=
  if o = 0 then .ok s.status
  else if o = 8 then .ok (fld (b2n s.haltReq) 1 1 + b2n s.debugEn)
  else if o = 0x10 then .ok s.blankAddr.toNat
  else if o = 0x18 then .ok (if s.cur.isSome && s.started then s.oldestPc else 0)
  else if within o 0x100 4 32 then .ok ((s.flag ((o - 0x100) / 4)).reg + fld (s.flag ((o - 0x100) / 4 + 1)).reg 32 32)
  else if o = 0x200 then .ok s.wasteCycles.word
  else if o = 0x208 then .ok s.wasteBytes.word
  else if o = 0x300 then .ok (fld s.faultStatus 16 48 + fld s.faultOpcode 8 40 + fld s.faultPc 32 0)
  else if within o 0x400 8 32 then (if s.inDebug then .ok (s.reg ((o - 0x400) / 8)).toNat else .error .accessDenied)
  else if within o 0x500 8 16 then .ok (tget {} s.windows ((o - 0x500) / 8)).reg
  else if within o 0x600 8 64 then .ok (tget {} s.handles ((o - 0x600) / 8)).reg
  else if o = 0x1000 then .ok (fld s.epochObs 63 0)
  else .ok 0

/-! ### Writes -/

/-- A register value with the written half, or all of it, replaced. -/
def blend (old v mask : Nat) : Nat := (old &&& ((2 ^ 64 - 1) ^^^ mask)) ||| (v &&& mask)

/-- Bit `k` is written with 1. -/
def hits (v mask k : Nat) : Bool := bit (v &&& mask) k

/-- W1C of a counter's ovf. -/
def Counter.w1c (c : Counter) (v mask : Nat) : Counter := if hits v mask 63 then c.clrOvf else c
def w1cTab (t : Tab Counter) (k v mask : Nat) : Tab Counter := tput {} t k ((tget {} t k).w1c v mask)

/-- A ring page register is written (Table 17.3); bases hold while the ring is enabled (R313). -/
def Block.ringPut (b : Block) (r o v mask : Nat) : Block :=
  let g := b.ring r
  let n := blend (g.reg o) v mask
  let page (n : Nat) : Word64 := BitVec.ofNat 64 (n / 4096 * 4096)
  if o = 0 then (if g.enable then b else b.setRing r { g with cmdBase := page n })
  else if o = 8 then (if g.enable then b else b.setRing r { g with cplBase := page n })
  else if o = 0x10 then
    let b := b.setRing r { g with errFetch := g.errFetch && !hits v mask 3, errIndex := g.errIndex && !hits v mask 2 }
    if bit mask 0 = false then b else if bit v 0 then b.ringEnable r else if g.enable then b.ringDisable r else b
  else if o = 0x18 then (if bit mask 0 then b.setProd r (BitVec.ofNat 32 v) else b)
  else if o = 0x20 then (if bit mask 32 then (b.setRing r { g with cplCons := BitVec.ofNat 32 (v / 2 ^ 32) }).drainEvents r else b)
  else b

/-- MBX_STATUS's W1C bits. -/
def Block.statusPut (b : Block) (v mask : Nat) : Block :=
  { b with bar2Err := b.bar2Err && !hits v mask 2, cellErr := b.cellErr && !hits v mask 1 }

/-- The counter controls of Table 19.8. -/
def Block.cntPut (b : Block) (o v mask : Nat) : Block :=
  if o = 0x70000 then
    let b := if hits v mask 1 then b.mapSpindleCnt Counter.zero else b
    let b := if hits v mask 2 then b.mapPortCnt Counter.zero else b
    let b := if hits v mask 3 then b.mapCtxCnt Counter.zero else b
    let b := if hits v mask 4 then ((b.mapSpindleCnt Counter.clrOvf).mapPortCnt Counter.clrOvf).mapCtxCnt Counter.clrOvf else b
    let n := blend b.cnt.ctl v mask
    ({ b with cnt := { b.cnt with ppsEn := bit n 8 } } : Block).setFreeze (bit n 0)
  else if o = 0x70008 then
    (if bit mask 0 then b.setWindow (v % 65536) else b)
  else if within o 0x70040 8 8 then
    let k := (o - 0x70040) / 8
    (List.range 272).foldl (fun (b : Block) p => b.modSpd p fun x =>
      { x with cntSel := tput 0 x.cntSel k (BitVec.ofNat 64 (blend (tget 0 x.cntSel k).toNat v mask) &&& selMask) }) b
  else if within o 0x70080 8 16 then
    b.modCtx ((o - 0x70080) / 8) fun x =>
      let n := blend (fld (x.dstAddr / 256) 40 8 + b2n x.dstEn) v mask
      { x with dstAddr := bits n 47 8 * 256, dstEn := bit n 0 }
  else b

/-- Fields of a context's pool; the base alone is the headstock's (Tables 11.4 to 11.6). -/
def Pool.put (x : Pool) (k v mask : Nat) (hs : Bool) : Pool :=
  let n := blend (x.reg k) v mask
  match k with
  | 0 => if hs then { x with base := bits n 47 16 * 65536 } else x
  | 1 => { x with groupsM1 := bits n 39 32, pppLog2 := bits n 31 28, pages := bits n 26 0 }
  | 2 => { x with notLive := x.notLive && !hits v mask 63, emptySeen := x.emptySeen && !hits v mask 62 }
  | _ => x

def Sched.put (x : Sched) (v mask : Nat) : Sched :=
  let n := blend x.reg v mask
  { x with quota := bits n 46 30, lendMask := bits n 29 14, traceEn := bit n 1, enable := bit n 0 }

/-- While job_en is 1, only accept_epoch and follow_en change (R293). -/
def KrfCtx.put (x : KrfCtx) (k v mask : Nat) : KrfCtx :=
  let n := blend (x.reg k) v mask
  match k with
  | 0 => if x.jobEn then { x with followEn := bit n 16 } else { x with jobId := bits n 63 32, peers := bits n 31 19, epochPolicy := bits n 18 17, followEn := bit n 16, jobEn := bit n 15, formats := bits n 13 0 }
  | 1 => if x.jobEn then x else { x with peerBase := bits n 47 6 * 64 }
  | 2 => { x with acceptEpoch := bits n 62 0 }
  | _ => x

/-- A write of the 8 B at hub offset `o` under `mask`. `hs` says that the headstock writes: fields that the manual gives to it
alone are read-only to JTAG. An offset without a register ignores the write (R400).
DEDUCED, notes/assumptions/137. -/
def Block.hubPut (b : Block) (o v mask : Nat) (hs : Bool) : Block :=
  let n := blend (b.hubReg o) v mask
  if o = 8 then b.statusPut v mask
  else if within o 0x1000 0x1000 17 then b.ringPut (o / 0x1000 - 1) (o % 0x1000) v mask
  else if within o 0x20000 0x20 16 then b.modPool ((o - 0x20000) / 0x20) fun x => x.put (o % 0x20 / 8) v mask hs
  else if o = 0x30000 then
    (if hs then { b with memUeThreshold := bits n 39 32, memUeWindowH := bits n 31 24, memScrubHbmH := bits n 23 16, memScrubDeepH := bits n 15 8, memScrubEn := bit n 0 } else b)
  else if o = 0x30008 then (if hs then { b with keepShare := bits n 4 0 } else b)
  else if within o 0x40000 8 16 then (if hs then b.modCtx ((o - 0x40000) / 8) fun x => { x with sched := x.sched.put v mask } else b)
  else if within o 0x40100 8 256 then (if hs then { b with primary := tput (false, 0) b.primary ((o - 0x40100) / 8) (bit n 4, bits n 3 0) } else b)
  else if o = 0x40900 then b.traceSet n
  else if o = 0x40910 then { b with trace := { b.trace with cons := bits n 47 0 } }
  else if o = 0x50000 then (if hs then { b with krfUdpPort := bits n 47 32, krfDscpData := bits n 31 26, krfDscpCtrl := bits n 25 20 } else b)
  else if o = 0x50008 then { b with ptp := { b.ptp with offsetWarn := b.ptp.offsetWarn && !hits v mask 62 } }
  else if within o 0x50010 8 8 then (if hs then b.modPort ((o - 0x50010) / 8) fun x => { x with pfcEn := bit n 62, pfcPrio := bits n 61 59 } else b)
  else if within o 0x50100 0x20 16 then (if hs then (b.modCtx ((o - 0x50100) / 0x20) fun x => { x with krf := x.krf.put (o % 0x20 / 8) v mask }).followLift else b)
  else if o = 0x60000 then (if hs then { b with cal := { b.cal with shortW := bits n 27 16, longW := bits n 11 0 } } else b)
  else if o = 0x60008 then (if hs then { b with cal := { b.cal with thermtrip := b.cal.thermtrip && !hits v mask 32 } } else b)
  else if o = 0x60010 then { b with cal := { b.cal with maxSeen := bits n 47 40 } }
  else if within o 0x71000 0x20 82 then
    let p := (o - 0x71000) / 0x20
    { b with cnt := match o % 0x20 / 8 with
      | 0 => { b.cnt with tot := w1cTab b.cnt.tot p v mask }
      | 1 => { b.cnt with last := w1cTab b.cnt.last p v mask }
      | 2 => { b.cnt with peak := w1cTab b.cnt.peak p v mask }
      | _ => { b.cnt with spec := w1cTab b.cnt.spec p v mask } }
  else if within o 0x72000 0x80 16 then b.modCtx ((o - 0x72000) / 0x80) fun x => { x with cnt := w1cTab x.cnt (o % 0x80 / 8) v mask }
  else if o = 0x72800 then { b with cnt := { b.cnt with devIdle := b.cnt.devIdle.w1c v mask } }
  else b.cntPut o v mask

/-- DEDUCED, notes/assumptions/137. -/
def Block.tilePut (b : Block) (t o v mask : Nat) (hs : Bool) : Block :=
  let n := blend (b.tileReg t o) v mask
  if o = 0x1000 then (if hs ∧ bits n 3 0 ≤ 12 ∧ bits n 3 0 ≠ (b.tile t).burlWays then b.repartition t (bits n 3 0) else b)
  else if o = 0x1008 then
    (if hs then b.modTile t fun x => { x with stealMask := bits n 31 16, stealMinLeft := bits n 7 4, stealEnable := bit n 0 } else b)
  else if within o 0x2000 8 16 then (if hs then b.modTile t fun x => { x with synPart := tset x.synPart ((o - 0x2000) / 8) (bits n 14 0, bits n 47 32) } else b)
  else if within o 0x2080 8 16 then
    b.modTile t fun x => { x with synCtx := tset x.synCtx ((o - 0x2080) / 8) { timeoutMs := bits n 39 24, ackMode := bit n 1 } }
  else if o = 0x2100 then b.modTile t fun x => { x with satAny := x.satAny && !hits v mask 49 }
  else if within o 0x8000 0x200 68 then
    b.modSpd (68 * t + (o - 0x8000) / 0x200) fun s =>
      let i := o % 0x200
      if i < 0x40 then { s with cntSel := tput 0 s.cntSel (i / 8) (BitVec.ofNat 64 n &&& selMask) }
      else if i < 0x80 then { s with cntProg := w1cTab s.cntProg (i / 8 - 8) v mask }
      else if i < 0x140 then { s with cntTd := w1cTab s.cntTd (i / 8 - 16) v mask } else s
  else match mcErrChan t o with
    | some c => b.modChan c fun x => { x with ueAlert := x.ueAlert && !hits v mask 61, linkRetry := x.linkRetry && !hits v mask 60 }
    | none => b

def LocalFlag.w1c (x : LocalFlag) (hit : Bool) : LocalFlag := { x with sat := x.sat && !hit }

/-- DEDUCED, notes/assumptions/137. -/
def Spindle.put (s : Spindle) (o v mask : Nat) (hs : Bool) : Spindle :=
  if o = 0 then { s with creditUnderflow := s.creditUnderflow && !hits v mask 56 }
  else if within o 0x100 4 32 then
    let k := (o - 0x100) / 4
    { s with flags := tput {} (tput {} s.flags k ((s.flag k).w1c (hits v mask 31))) (k + 1) ((s.flag (k + 1)).w1c (hits v mask 63)) }
  else if o = 0x200 then { s with wasteCycles := s.wasteCycles.w1c v mask }
  else if o = 0x208 then { s with wasteBytes := s.wasteBytes.w1c v mask }
  else if within o 0x500 8 16 ∧ hs then
    let k := (o - 0x500) / 8
    { s with windows := tset s.windows k (windowOf (blend (tget {} s.windows k).reg v mask)) }
  else s

/-- SPD_CTL: halt_req, debug_en, and spindle_reset. -/
def Block.spdCtlPut (m : Dram) (b : Block) (p v mask : Nat) : Block :=
  let s := b.spd p
  let n := blend (fld (b2n s.haltReq) 1 1 + b2n s.debugEn) v mask
  let b := b.modSpd p fun s => { s with haltReq := bit n 1, halted := s.halted && bit n 1, debugEn := bit n 0 }
  if hits v mask 2 then b.resetStart m p else b

/-! ### Accesses by address (R400) -/

/-- What a local address in the control windows names. -/
inductive CtlTarget where
  | hub (o : Nat)
  | tile (t o : Nat)
  | spindle (p o : Nat)
  | cell (c : Nat)
deriving DecidableEq, Repr

/-- DEDUCED, notes/assumptions/17. -/
def ctlTarget (a : Nat) : CtlTarget :=
  if a < 0xF00100000000 then .hub (a - 0xF00000000000)
  else if a < 0xF01400000000 then
    let x := a - 0xF01000000000
    let (t, o) := (x / 2 ^ 32, x % 2 ^ 32)
    if 0x40000000 ≤ o ∧ o < 0x40000000 + 68 * 0x1000000 then .spindle (68 * t + (o - 0x40000000) / 0x1000000) (o % 0x1000000) else .tile t o
  else .cell ((a - cellBase) / 8)

/-- The mask of an access of `size` bytes at `a` in its aligned 8 B. -/
def accessMask (a size : Nat) : Nat := if size = 8 then 2 ^ 64 - 1 else if a % 8 = 0 then 2 ^ 32 - 1 else (2 ^ 32 - 1) <<< 32

/-- The size and alignment that the access must have. -/
def accessOk (a size : Nat) : CtlTarget → Bool
  | .cell _ => size == 8 && a % 8 == 0
  | _ => (size == 4 || size == 8) && a % size == 0

def CtlTarget.tileOf : CtlTarget → Option Nat
  | .tile t _ => some t
  | .spindle p _ => some (Machine.tileOf p)
  | _ => none

/-- A read of a cell by the headstock or JTAG, behind what the hub has sent to its tile; a freeze holds it (R13, R269, R279). -/
def Block.cellCtl (b : Block) (c size : Nat) : Block :=
  let b := (b.cellFirst none c).cellTrip none c
  match b.frozen with
  | some z => { b with frozen := some { z with held := z.held ++ [.ctl c size] } }
  | none => b.cellRead c size

def Block.ctlRead (b : Block) (a size : Nat) : Block :=
  let x := ctlTarget a
  if !accessOk a size x then b.answer .invalidField
  else if x.tileOf.any fun t => !(b.tile t).powered then b.answer .domainOff
  else
    let give (v : Nat) : Block := b.answer .success (leBytes size (v >>> (8 * (a % 8))))
    match x with
    | .hub o => give (b.hubReg (o / 8 * 8))
    | .tile t o => give (b.tileReg t (o / 8 * 8))
    | .spindle p o => (match (b.spd p).regAt (o / 8 * 8) with
      | .ok v => give v
      | .error st => b.answer st)
    | .cell c => b.cellCtl c size

/-- DEDUCED, notes/assumptions/137. -/
def Block.ctlWriteAt (m : Dram) (b : Block) (a size : Nat) (val : Word64) (hs : Bool) : Block :=
  let x := ctlTarget a
  if !accessOk a size x then b.answer .invalidField
  else if x.tileOf.any fun t => !(b.tile t).powered then b.answer .domainOff
  else
    let v := val.toNat <<< (8 * (a % 8))
    let mask := accessMask a size
    let b := match x with
      | .hub o => b.hubPut (o / 8 * 8) v mask hs
      | .tile t o => b.tilePut t (o / 8 * 8) v mask hs
      | .spindle p o => if o / 8 * 8 = 8 then b.spdCtlPut m p v mask else b.modSpd p fun s => s.put (o / 8 * 8) v mask hs
      | .cell c => b.cellSet c val.toInt
    b.answer .success

/-- The debug window: spindle and offset within its slice (Table 1.6). -/
def debugTarget (a : Nat) : Nat × Nat :=
  let x := a - 0xF80000000000
  (68 * (x / 2 ^ 39) + x % 2 ^ 39 / 2 ^ 32, x % 2 ^ 32)

/-- R76: 4 B or 8 B, naturally aligned; the spindle must be in debug mode; an offset outside scratchpad and bowl is unmapped.
The order in which an access that breaches several of these is refused: size and alignment, then a tile that is off, then
debug mode, then the gap (DESIGN CHOICE, notes/assumptions/151: R18, R76 and R400 give no order). -/
def Block.debugAt (b : Block) (a size : Nat) (wr : Option Word64) : Block :=
  let (p, o) := debugTarget a
  let s := b.spd p
  let inBowl := decide (0x80000000 ≤ o) && decide (o + size ≤ 0x80100000)
  if b.region a ≠ .debug then b.answer .addressUnmapped
  else if !((size == 4 || size == 8) && a % size == 0) then b.answer .invalidField
  else if !(b.tile (tileOf p)).powered then b.answer .domainOff
  else if !s.inDebug then b.answer .accessDenied
  else if decide (o + size ≤ 0x600000) then
    (match wr with
    | none => let r := b.spadRead p o size; r.2.answer .success r.1
    | some v => (b.spadWrite p o (leBytes size v.toNat)).answer .success)
  else if inBowl then
    (match wr with
    | none => b.answer .success (s.bowl.read (o - 0x80000000) size)
    | some v => (b.modSpd p fun s => { s with bowl := s.bowl.write (o - 0x80000000) (leBytes size v.toNat) }).answer .success)
  else b.answer .addressUnmapped

def execDebugAccess (who : Initiator) (addr : Word64) (size : Nat) (wr : Option Word64) (s : State) : Host.Outcome State Fault Refusal :=
  nextOf s (s.blk.asAdminAt who addr.toNat size fun b => b.debugAt addr.toNat size wr)

/-- A host write to BAR0 of function `fn` at offset `a`.
DESIGN CHOICE, notes/assumptions/16. DEDUCED, notes/assumptions/139. -/
def Block.bar0Write (b : Block) (fn a size : Nat) (val : Word64) : Block :=
  let v := val.toNat <<< (8 * (a % 8))
  let mask := accessMask a size
  let o := a / 8 * 8
  if !b.fnLive fn then b
  else if within a 0x400000 1 0x100000 then b.hostCell fn (a - 0x400000) size fun b c => b.hostCellSet fn c val.toInt
  else if within a 0x500000 1 0x100000 then
    b.hostCell fn (a - 0x500000) size fun b c => b.signal c val.toInt (0x4000 + fn) (after := some fn)
  else
    let b := b.hostTouch size
    if !((size == 4 || size == 8) && a % size == 0) then b
    else if o = 8 then b.statusPut v mask
    else if within a 0x1000 0x1000 17 then (match b.ringOf fn (a / 0x1000 - 1) with
      | some r => b.ringPut r (o % 0x1000) v mask
      | none => b)
    else if fn ≠ 0 then b
    else if o = 0x20010 then b.hubPut 0x40910 v mask false
    else if within o 0x30000 0x40 272 ∧ o % 0x40 = 0 then b.modSpd ((o - 0x30000) / 0x40) fun s => s.put 0 v mask false
    else if within a 0x1FF000 1 0x1000 then b.cntPut (0x70000 + (o - 0x1FF000)) v mask
    else b

/-- The register at offset `o` of BAR0 of function `fn`, a multiple of 8, outside the cell views and the snapshot window;
offsets that Table 17.1 does not map read as zero. -/
def Block.bar0Reg (b : Block) (fn o : Nat) : Nat :=
  if o = 0 ∨ o = 8 then b.hubReg o
  else if within o 0x1000 0x1000 17 then (match b.ringOf fn (o / 0x1000 - 1) with
    | some r => (b.ring r).reg (o % 0x1000)
    | none => 0)
  else if fn ≠ 0 then 0
  else if o = 0x20000 then b.hubReg 0x40900
  else if o = 0x20008 then b.hubReg 0x40908
  else if o = 0x20010 then b.hubReg 0x40910
  else if o = 0x20018 then b.hubReg 0x50008
  else if within o 0x30000 0x40 272 then
    let s := b.spd ((o - 0x30000) / 0x40)
    let reg := match o % 0x40 with
      | 0 => s.regAt 0
      | 0x08 => s.regAt 0x10
      | 0x10 => s.regAt 0x18
      | 0x18 => s.regAt 0x300
      | _ => .ok 0
    (match reg with
    | .ok v => v
    | .error _ => 0)
  else 0

/-- Bytes of an image as a reader finds them: nothing while it is being written (R346). -/
def imageByte (i : Option Image) (a : Nat) : Byte :=
  match i with
  | none => 0
  | some i => if a < 64 then i.header.getD a 0 else (i.bytes (a / 8 * 8) 1).getD (a % 8) 0

/-- A byte of the counter snapshot window: both slots and the counter controls for PF0, and for a virtual function the header and
the record of its context in the latest complete image, while its read permission is set (R349). -/
def Block.snapByte (b : Block) (fn o : Nat) : Byte :=
  if fn = 0 then
    if o < 0x20000 then imageByte b.cnt.slotA o
    else if o < 0x40000 then imageByte b.cnt.slotB (o - 0x20000)
    else if 0xFF000 ≤ o then (leBytes 8 (b.hubReg (0x70000 + (o - 0xFF000) / 8 * 8))).getD (o % 8) 0
    else 0
  else
    let last := if b.cnt.seq = 0 then none else if b.cnt.seq % 2 = 0 then b.cnt.slotA else b.cnt.slotB
    if (b.ctx (fn - 1)).readPerm = false then 0
    else if o < 64 then imageByte last o
    else if o < 192 then imageByte last (0x15000 + 0x80 * (fn - 1) + (o - 64)) else 0

/-- What a host read of `size` bytes at offset `a` of BAR0 of function `fn` is answered with (R309, R311, R349): unmapped offsets
read as zero; a size, an alignment or a cell that the rules refuse is an Unsupported Request.
DEDUCED, notes/assumptions/139: no command of the table is such a read. -/
def Block.bar0Read (b : Block) (fn a size : Nat) : Resp :=
  let cells (base : Nat) : Resp :=
    let c := (a - base) / 8
    if size ≠ 8 ∨ a % 8 ≠ 0 ∨ (fn ≠ 0 ∧ b.cellOwned (fn - 1) c = false) then { ur := true } else { data := leBytes 8 (trunc 64 (b.cell c).count) }
  if !b.fnLive fn then { ur := true }
  else if within a 0x400000 1 0x100000 then cells 0x400000
  else if within a 0x500000 1 0x100000 then cells 0x500000
  else if within a 0x100000 1 0x100000 then { data := (List.range size).map fun i => b.snapByte fn (a - 0x100000 + i) }
  else if !((size == 4 || size == 8) && a % size == 0) && (decide (a < 0x12000) || (fn == 0 && (within a 0x20000 1 0x1000 || within a 0x30000 1 0x4400))) then { ur := true }
  else { data := leBytes size (b.bar0Reg fn (a / 8 * 8) >>> (8 * (a % 8))) }

/-- A plain write of `size` bytes at a local address that its initiator may reach, with the outcome of Table 13.2; memory in
self-refresh answers DOMAIN_OFF. -/
def Block.plainWrite (m : Dram) (b : Block) (a size : Nat) (val : Word64) : Region → Block
  | .host => (b.windowWrite none (a - hostBase) (leBytes size val.toNat)).answer .success
  | _ =>
    if b.power = .a2 then b.answer .domainOff
    else
      let bs := leBytes size val.toNat
      let st : Status := if writeBad m b .write a bs then .poisonedTarget else .success
      (b.hubWrite a bs).answer st

/-- A write by the headstock or JTAG: every region of Table 1.7. -/
def Block.adminWrite (m : Dram) (b : Block) (a size : Nat) (val : Word64) (hs : Bool) : Block :=
  match b.rangeOf a size with
  | .error st => b.answer st
  | .ok .control => b.ctlWriteAt m a size val hs
  | .ok .debug => b.debugAt a size (some val)
  | .ok r => b.plainWrite m a size val r

/-- A write by an initiator that Table 1.7 confines. -/
def Block.confinedWrite (m : Dram) (b : Block) (a size : Nat) (val : Word64) (range : Except Status Region) : Block :=
  if !b.hubUp then b
  else match range with
    | .error st => b.answer st
    | .ok r => b.plainWrite m a size val r

/-- For every initiator but a host function `addr` is the local address; for a host function it is the offset in its BAR0
(DESIGN CHOICE, notes/assumptions/16). -/
def execRegisterWrite (who : Initiator) (addr : Word64) (size : Nat) (val : Word64) (s : State) : Host.Outcome State Fault Refusal :=
  let b := s.blk
  let a := addr.toNat
  nextOf s (match who with
    | .host fn => b.bar0Write fn a size val
    | .engine => b.confinedWrite s.dram a size val (b.engineRange a size)
    | .kerf => b.confinedWrite s.dram a size val (b.memRange a size)
    | _ => b.asAdmin who fun b => b.adminWrite s.dram a size val (who == .headstock))

/-! ### JTAG (R18, R397) -/

/-- Requester number of a host-window read by JTAG.
DESIGN CHOICE, notes/assumptions/143. -/
def jtagReader : Nat := 353

/-- A read by JTAG: memory, the host window, registers, or the debug window. -/
def Block.jtagRead (m : Dram) (b : Block) (a size : Nat) : Block :=
  match b.rangeOf a size with
  | .error st => b.answer st
  | .ok .control => b.ctlRead a size
  | .ok .debug => b.debugAt a size none
  | .ok .host => b.windowAsk { spindle := jtagReader } [(a - hostBase, size)]
  | .ok _ =>
    if b.power = .a2 then b.answer .domainOff
    else
      let r := hubRead m b a size
      r.2.2.answer r.1 r.2.1

/-- BYPASS, IDCODE, SAMPLE/PRELOAD and EXTEST are always available; an access that may not be made acts as BYPASS. -/
def Block.jtag (m : Dram) (b : Block) (j : JtagInstr) : Block :=
  if b.jtagReset ∨ b.power = .a4 then b
  else match j with
    | .bypass => b
    | .idcode => b.answer .success (leBytes 4 0x1B10C8A7)
    | .samplePreload => b.bumpFree.answer .success (leBytes 8 (Config.boundaryScan b.freeCtr).toNat)
    | .extest => b.bumpFree.answer .success (leBytes 8 (Config.boundaryScan b.freeCtr).toNat)
    | .read a n => b.asAdmin .jtag fun b => b.jtagRead m a.toNat n
    | .write a n v => b.asAdmin .jtag fun b => b.adminWrite m a.toNat n v false

def execJtagInstruction (j : JtagInstr) (s : State) : Host.Outcome State Fault Refusal := nextOf s (s.blk.jtag s.dram j)

def execJtagTrst (low : Bool) (s : State) : Host.Outcome State Fault Refusal := nextOf s { s.blk with jtagReset := low }

end Sys2Proof.Machine
end

