-- ==== Sys2Proof/Machine/Links.lean ====
section
/-!
DEFINITION. PCIe beyond the mailbox (functions, BAR2's size, link changes, answers to host-window reads), and the board's
management links (R22, R23, R308, R310, R353, R366, R395).
-/
namespace Sys2Proof.Machine

/-! ### Functions (R308, R310, R366) -/

def execFunctionD3hot (fn : FnId) (s : State) : Host.Outcome State Fault Refusal :=
  let b := s.blk
  nextOf s (if b.hubUp && b.fnEnabled fn then b.modFunc fn fun x => { x with d3hot := true } else b)

/-- VF Enable is set with NumVFs from 1 to 16; each virtual function starts at its defaults, in D0.
DEDUCED, notes/assumptions/135. -/
def execVfEnable (n : Fin 17) (s : State) : Host.Outcome State Fault Refusal :=
  let b := s.blk
  nextOf s (if b.hubUp && decide (0 < n.val) && b.numVfs == 0 then
    (List.range n.val).foldl (fun (b : Block) i => b.enterD0 (1 + i)) { b with numVfs := n.val } else b)

/-- Resizable BAR takes powers of two, from 1 GiB to 64 GiB. -/
def execBar2Resize (gib : Nat) (s : State) : Host.Outcome State Fault Refusal :=
  let b := s.blk
  nextOf s (if b.hubUp && [1, 2, 4, 8, 16, 32, 64].contains gib then b.modFunc 0 fun x => { x with bar2Gib := gib } else b)

/-- The link retrains narrower or slower; below x8 or below 32 GT/s it is degraded (R308); width 0 is a link that is down (DESIGN CHOICE, notes/assumptions/18).
DESIGN CHOICE, notes/assumptions/146. -/
def Block.linkNarrowed (b : Block) (width speed : Nat) : Block :=
  if !b.hubUp || !(decide (width < b.pcieWidth) || decide (speed < b.pcieSpeed)) then b
  else
    ({ b with pcieWidth := width, pcieSpeed := speed, linkDegraded := linkPoor width speed } : Block).record
      { severity := 2, cls := 0x0F, unitKind := 9, info := if width = 0 then 2 else 1 }

/-- DESIGN CHOICE, notes/assumptions/18. -/
def execPcieLinkNarrowed (width speed : Nat) (s : State) : Host.Outcome State Fault Refusal := nextOf s (s.blk.linkNarrowed width speed)

/-! ### Host-window reads (R22, R23) -/

def storeBytes (t : Tab Byte) (a : Nat) (bs : List Byte) : Tab Byte := iter bs.length t fun t k => tset t (a + k) (bs.getD k 0)

/-- The bytes reach an engine's command; with its last outstanding read the command goes on. -/
def Block.hostReadDone (m : Dram) (b : Block) (h : HostRead) (bs : List Byte) : Block :=
  let more := b.hostReads.any fun x => x.spindle == h.spindle && x.engine == h.engine && x.idx == h.idx
  let b := b.modCmd h.spindle h.engine h.idx fun q => { q with hostBuf := storeBytes q.hostBuf h.haddr bs, hostWait := q.hostWait && more }
  if h.engine = .load ∧ more = false then b.ldtPump m h.spindle else b

/-- Bytes of a host-window read by JTAG; with the last of its requests the access answers. -/
def Block.jtagAnswer (b : Block) (h : HostRead) (bs : List Byte) : Block :=
  let got := storeBytes (tget [] b.hubBuf h.spindle) h.haddr bs
  if b.hostReads.any fun x => x.spindle == h.spindle then { b with hubBuf := tset b.hubBuf h.spindle got }
  else ({ b with hubBuf := tdel b.hubBuf h.spindle } : Block).answer .success (got.map (·.2))

/-- Read `k` of those outstanding is answered. Accesses to one 4 KiB granule complete in issue order (R23). -/
def Block.hostAnswer (m : Dram) (b : Block) (k : Nat) (data : List Byte) : Block :=
  match b.hostReads[k]? with
  | none => b
  | some h =>
    if !b.hubUp || h.wr.isSome || data.length != h.len || (b.hostReads.take k).any fun x => x.meets h then b
    else
      let b := (({ b with hostReads := b.hostReads.eraseIdx k } : Block).countPort 64 data.length).releaseWrites.hubSettle
      if h.spindle < 272 then (b.hubLink (some (tileOf h.spindle)) false data.length).hostReadDone m h data
      else if h.spindle = jtagReader then b.jtagAnswer h data
      else { b with hubBuf := tset b.hubBuf h.spindle (storeBytes (tget [] b.hubBuf h.spindle) h.haddr data) }

def execHostWindowReadResponse (k : Nat) (data : List Byte) (s : State) : Host.Outcome State Fault Refusal :=
  nextOf s (s.blk.hostAnswer s.dram k data)

/-! ### SMBus and MCTP (R395) -/

/-- A read of the SMBus Alert Response Address deasserts ALERT#.
DEDUCED, notes/assumptions/136. -/
def execSmbusAlertResponse (s : State) : Host.Outcome State Fault Refusal :=
  let b := s.blk
  nextOf s (if b.auxGood then { b with alert := false } else b)

/-- An MCTP message is answered; over PCIe only while the link is up, over SMBus in A0 to A3.
DESIGN CHOICE, notes/assumptions/65. DESIGN CHOICE, notes/assumptions/142. -/
def Block.mctp (b : Block) (overPcie : Bool) (msg : List Byte) : Block :=
  let up := if overPcie then !b.perst && (b.power == .a0 || b.power == .a1 || b.power == .a2) && b.pcieWidth != 0 else b.power != .a4
  if up then { b.bumpFree with mctpOut := b.mctpOut ++ Config.mctpAnswer b.freeCtr overPcie msg } else b

def execMctpMessage (overPcie : Bool) (msg : List Byte) (s : State) : Host.Outcome State Fault Refusal := nextOf s (s.blk.mctp overPcie msg)

end Sys2Proof.Machine
end

