-- ==== Sys2Proof/Machine/Dispatch.lean ====
section
/-!
DEFINITION. The meaning of each command: one arm per constructor of Instr, each a direct call of its meaning.
-/
namespace Sys2Proof.Machine

def exec (i : Instr) (s : State) : Host.Outcome State Fault Refusal :=
  match i with
  | .blankStart p => Sys2Proof.Machine.execBlankStart p s
  | .codeFetch p line => Sys2Proof.Machine.execCodeFetch p line s
  | .reservedOpcode p w => Sys2Proof.Machine.execReservedOpcode p w s
  | .nop p w => Sys2Proof.Machine.execNop p w s
  | .add p w => Sys2Proof.Machine.execAdd p w s
  | .sub p w => Sys2Proof.Machine.execSub p w s
  | .and p w => Sys2Proof.Machine.execAnd p w s
  | .or p w => Sys2Proof.Machine.execOr p w s
  | .xor p w => Sys2Proof.Machine.execXor p w s
  | .shl p w => Sys2Proof.Machine.execShl p w s
  | .shr p w => Sys2Proof.Machine.execShr p w s
  | .sra p w => Sys2Proof.Machine.execSra p w s
  | .mul p w => Sys2Proof.Machine.execMul p w s
  | .min p w => Sys2Proof.Machine.execMin p w s
  | .max p w => Sys2Proof.Machine.execMax p w s
  | .slt p w => Sys2Proof.Machine.execSlt p w s
  | .li p w => Sys2Proof.Machine.execLi p w s
  | .sld p w => Sys2Proof.Machine.execSld p w s
  | .sldResult p => Sys2Proof.Machine.execSldResult p s
  | .sst p w => Sys2Proof.Machine.execSst p w s
  | .br p w => Sys2Proof.Machine.execBr p w s
  | .brResolve p k => Sys2Proof.Machine.execBrResolve p k s
  | .engineAbandon p e cycles bytes => Sys2Proof.Machine.execEngineAbandon p e cycles bytes s
  | .jmp p w => Sys2Proof.Machine.execJmp p w s
  | .loop p w => Sys2Proof.Machine.execLoop p w s
  | .fence p w => Sys2Proof.Machine.execFence p w s
  | .fenceComplete p => Sys2Proof.Machine.execFenceComplete p s
  | .flag p w => Sys2Proof.Machine.execFlag p w s
  | .retire p w => Sys2Proof.Machine.execRetire p w s
  | .blankRetire p => Sys2Proof.Machine.execBlankRetire p s
  | .engineCmdBegin p e => Sys2Proof.Machine.execEngineCmdBegin p e s
  | .engineCmdComplete p e => Sys2Proof.Machine.execEngineCmdComplete p e s
  | .haltReq who p => Sys2Proof.Machine.execHaltReq who p s
  | .sequencerHalt p => Sys2Proof.Machine.execSequencerHalt p s
  | .haltResume who p => Sys2Proof.Machine.execHaltResume who p s
  | .debugEn who p on => Sys2Proof.Machine.execDebugEn who p on s
  | .spdSpindleReset who p => Sys2Proof.Machine.execSpdSpindleReset who p s
  | .registerWrite who addr size val => Sys2Proof.Machine.execRegisterWrite who addr size val s
  | .debugAccess who addr size wr => Sys2Proof.Machine.execDebugAccess who addr size wr s
  | .mtile p w => Sys2Proof.Machine.execMtile p w s
  | .weightTileLoad p => Sys2Proof.Machine.execWeightTileLoad p s
  | .bowlDrain p => Sys2Proof.Machine.execBowlDrain p s
  | .nestVisit p => Sys2Proof.Machine.execNestVisit p s
  | .vadd p w => Sys2Proof.Machine.execVadd p w s
  | .vsub p w => Sys2Proof.Machine.execVsub p w s
  | .vmul p w => Sys2Proof.Machine.execVmul p w s
  | .vfma p w => Sys2Proof.Machine.execVfma p w s
  | .vdiv p w => Sys2Proof.Machine.execVdiv p w s
  | .vsqrt p w => Sys2Proof.Machine.execVsqrt p w s
  | .vexp2 p w => Sys2Proof.Machine.execVexp2 p w s
  | .vlog2 p w => Sys2Proof.Machine.execVlog2 p w s
  | .vmin p w => Sys2Proof.Machine.execVmin p w s
  | .vmax p w => Sys2Proof.Machine.execVmax p w s
  | .vcvt p w => Sys2Proof.Machine.execVcvt p w s
  | .vrowsum p w => Sys2Proof.Machine.execVrowsum p w s
  | .vrowmax p w => Sys2Proof.Machine.execVrowmax p w s
  | .vrowmin p w => Sys2Proof.Machine.execVrowmin p w s
  | .vrowargmax p w => Sys2Proof.Machine.execVrowargmax p w s
  | .gatheringBufferFlush p e sector => Sys2Proof.Machine.execGatheringBufferFlush p e sector s
  | .ld p w => Sys2Proof.Machine.execLd p w s
  | .ldt p w => Sys2Proof.Machine.execLdt p w s
  | .halloc p w => Sys2Proof.Machine.execHalloc p w s
  | .hfreeLoad p w => Sys2Proof.Machine.execHfreeLoad p w s
  | .hfreeStore p w => Sys2Proof.Machine.execHfreeStore p w s
  | .handleFreed p h => Sys2Proof.Machine.execHandleFreed p h s
  | .kload p w => Sys2Proof.Machine.execKload p w s
  | .kget p w => Sys2Proof.Machine.execKget p w s
  | .st p w => Sys2Proof.Machine.execSt p w s
  | .dcmaint p w => Sys2Proof.Machine.execDcmaint p w s
  | .ksave p w => Sys2Proof.Machine.execKsave p w s
  | .rpush p w => Sys2Proof.Machine.execRpush p w s
  | .kput p w => Sys2Proof.Machine.execKput p w s
  | .kchain p w => Sys2Proof.Machine.execKchain p w s
  | .dieCacheFill t => Sys2Proof.Machine.execDieCacheFill t s
  | .dcRepartitionDone t => Sys2Proof.Machine.execDcRepartitionDone t s
  | .ggather p w => Sys2Proof.Machine.execGgather p w s
  | .sizerBatchSorted p => Sys2Proof.Machine.execSizerBatchSorted p s
  | .rowRequestReturn p k => Sys2Proof.Machine.execRowRequestReturn p k s
  | .gscatter p w => Sys2Proof.Machine.execGscatter p w s
  | .gsettle p w => Sys2Proof.Machine.execGsettle p w s
  | .gburl p w => Sys2Proof.Machine.execGburl p w s
  | .gburlRefresh p => Sys2Proof.Machine.execGburlRefresh p s
  | .ghfree p w => Sys2Proof.Machine.execGhfree p w s
  | .gexdisp p w => Sys2Proof.Machine.execGexdisp p w s
  | .gexret p w => Sys2Proof.Machine.execGexret p w s
  | .gexcomb p w => Sys2Proof.Machine.execGexcomb p w s
  | .gsample p w => Sys2Proof.Machine.execGsample p w s
  | .gsback p w => Sys2Proof.Machine.execGsback p w s
  | .vstage p w => Sys2Proof.Machine.execVstage p w s
  | .rowTagStore k => Sys2Proof.Machine.execRowTagStore k s
  | .vadvance p w => Sys2Proof.Machine.execVadvance p w s
  | .vadvancePublish p => Sys2Proof.Machine.execVadvancePublish p s
  | .vpin p w => Sys2Proof.Machine.execVpin p w s
  | .vpinRelease p w => Sys2Proof.Machine.execVpinRelease p w s
  | .vread p w => Sys2Proof.Machine.execVread p w s
  | .vepoch p w => Sys2Proof.Machine.execVepoch p w s
  | .rtile p w => Sys2Proof.Machine.execRtile p w s
  | .ftile p w => Sys2Proof.Machine.execFtile p w s
  | .stealTake p => Sys2Proof.Machine.execStealTake p s
  | .hinit p w => Sys2Proof.Machine.execHinit p w s
  | .hmerge p w => Sys2Proof.Machine.execHmerge p w s
  | .hdrain p w => Sys2Proof.Machine.execHdrain p w s
  | .vmktile p w => Sys2Proof.Machine.execVmktile p w s
  | .vmktilea p w => Sys2Proof.Machine.execVmktilea p w s
  | .vmkrow p w => Sys2Proof.Machine.execVmkrow p w s
  | .vmkrowa p w => Sys2Proof.Machine.execVmkrowa p w s
  | .vmktopk p w => Sys2Proof.Machine.execVmktopk p w s
  | .vmklist p w => Sys2Proof.Machine.execVmklist p w s
  | .vmkor p w => Sys2Proof.Machine.execVmkor p w s
  | .vmkclr p w => Sys2Proof.Machine.execVmkclr p w s
  | .vrand p w => Sys2Proof.Machine.execVrand p w s
  | .vunif p w => Sys2Proof.Machine.execVunif p w s
  | .vsmax p w => Sys2Proof.Machine.execVsmax p w s
  | .vssum p w => Sys2Proof.Machine.execVssum p w s
  | .vsfin p w => Sys2Proof.Machine.execVsfin p w s
  | .vsscore p w => Sys2Proof.Machine.execVsscore p w s
  | .streamOpen r e => Sys2Proof.Machine.execStreamOpen r e s
  | .streamFork r e => Sys2Proof.Machine.execStreamFork r e s
  | .streamPause r e => Sys2Proof.Machine.execStreamPause r e s
  | .streamResume r e => Sys2Proof.Machine.execStreamResume r e s
  | .streamClose r e => Sys2Proof.Machine.execStreamClose r e s
  | .streamQuery r e => Sys2Proof.Machine.execStreamQuery r e s
  | .stepArm r e => Sys2Proof.Machine.execStepArm r e s
  | .stepPrepare c lane => Sys2Proof.Machine.execStepPrepare c lane s
  | .stepCommit c lane => Sys2Proof.Machine.execStepCommit c lane s
  | .wcWrite p e addr back data => Sys2Proof.Machine.execWcWrite p e addr back data s
  | .wcAgeFlush t k => Sys2Proof.Machine.execWcAgeFlush t k s
  | .writeOutcome k => Sys2Proof.Machine.execWriteOutcome k s
  | .channelRequestAccept ch => Sys2Proof.Machine.execChannelRequestAccept ch s
  | .channelServe ch found => Sys2Proof.Machine.execChannelServe ch found s
  | .scrubLine ch found => Sys2Proof.Machine.execScrubLine ch found s
  | .channelFailed ch => Sys2Proof.Machine.execChannelFailed ch s
  | .channelInitZero ch => Sys2Proof.Machine.execChannelInitZero ch s
  | .dispatchDecision t => Sys2Proof.Machine.execDispatchDecision t s
  | .chuckArrival p => Sys2Proof.Machine.execChuckArrival p s
  | .doneCellSignal k => Sys2Proof.Machine.execDoneCellSignal k s
  | .ssig p w => Sys2Proof.Machine.execSsig p w s
  | .swait p w => Sys2Proof.Machine.execSwait p w s
  | .sread p w => Sys2Proof.Machine.execSread p w s
  | .cellSignalApply t => Sys2Proof.Machine.execCellSignalApply t s
  | .cellPoll x => Sys2Proof.Machine.execCellPoll x s
  | .waitTimeout x => Sys2Proof.Machine.execWaitTimeout x s
  | .syncDump r e => Sys2Proof.Machine.execSyncDump r e s
  | .syncDumpResume => Sys2Proof.Machine.execSyncDumpResume s
  | .headstockCellSet who addr size val => Sys2Proof.Machine.execHeadstockCellSet who addr size val s
  | .hostCellSet fn off size val => Sys2Proof.Machine.execHostCellSet fn off size val s
  | .hostCellSignal fn off size val => Sys2Proof.Machine.execHostCellSignal fn off size val s
  | .kerfWrite f => Sys2Proof.Machine.execKerfWrite f s
  | .kerfReadReq f => Sys2Proof.Machine.execKerfReadReq f s
  | .kerfReadResp f => Sys2Proof.Machine.execKerfReadResp f s
  | .kerfAtomic f => Sys2Proof.Machine.execKerfAtomic f s
  | .kerfSignal f => Sys2Proof.Machine.execKerfSignal f s
  | .chainForward f => Sys2Proof.Machine.execChainForward f s
  | .chainResult f => Sys2Proof.Machine.execChainResult f s
  | .chainBreak f => Sys2Proof.Machine.execChainBreak f s
  | .chainTimeout k => Sys2Proof.Machine.execChainTimeout k s
  | .sweep f => Sys2Proof.Machine.execSweep f s
  | .sweepTimeout k => Sys2Proof.Machine.execSweepTimeout k s
  | .kerfAck f => Sys2Proof.Machine.execKerfAck f s
  | .kerfNack f => Sys2Proof.Machine.execKerfNack f s
  | .heartbeat f => Sys2Proof.Machine.execHeartbeat f s
  | .connect f => Sys2Proof.Machine.execConnect f s
  | .connectResp f => Sys2Proof.Machine.execConnectResp f s
  | .kerfUnknownType f => Sys2Proof.Machine.execKerfUnknownType f s
  | .ackTimer conn => Sys2Proof.Machine.execAckTimer conn s
  | .retransmitTimeout conn seq => Sys2Proof.Machine.execRetransmitTimeout conn seq s
  | .retryLaterResend conn seq => Sys2Proof.Machine.execRetryLaterResend conn seq s
  | .notArmedResend conn seq expired => Sys2Proof.Machine.execNotArmedResend conn seq expired s
  | .heartbeatSend => Sys2Proof.Machine.execHeartbeatSend s
  | .pathProbe => Sys2Proof.Machine.execPathProbe s
  | .portDown port lane => Sys2Proof.Machine.execPortDown port lane s
  | .portUp port => Sys2Proof.Machine.execPortUp port s
  | .peerSilenceTimeout conn => Sys2Proof.Machine.execPeerSilenceTimeout conn s
  | .connectRetry conn expired => Sys2Proof.Machine.execConnectRetry conn expired s
  | .followLift => Sys2Proof.Machine.execFollowLift s
  | .ptpServoUpdate offset locked => Sys2Proof.Machine.execPtpServoUpdate offset locked s
  | .ptpPortFailover port => Sys2Proof.Machine.execPtpPortFailover port s
  | .ppsEdge => Sys2Proof.Machine.execPpsEdge s
  | .doorbell fn page val => Sys2Proof.Machine.execDoorbell fn page val s
  | .ringEnable fn page => Sys2Proof.Machine.execRingEnable fn page s
  | .ringDisable fn page => Sys2Proof.Machine.execRingDisable fn page s
  | .commandFetch r e ok => Sys2Proof.Machine.execCommandFetch r e ok s
  | .unknownCommand r e => Sys2Proof.Machine.execUnknownCommand r e s
  | .identify r e => Sys2Proof.Machine.execIdentify r e s
  | .devConfig r e => Sys2Proof.Machine.execDevConfig r e s
  | .bar2Map r e => Sys2Proof.Machine.execBar2Map r e s
  | .netConfig r e => Sys2Proof.Machine.execNetConfig r e s
  | .memAdminCfg r e => Sys2Proof.Machine.execMemAdminCfg r e s
  | .memAdminClear r e => Sys2Proof.Machine.execMemAdminClear r e s
  | .memAdminDeepArb r e => Sys2Proof.Machine.execMemAdminDeepArb r e s
  | .tileConfig r e => Sys2Proof.Machine.execTileConfig r e s
  | .ctxCreate r e => Sys2Proof.Machine.execCtxCreate r e s
  | .ctxTeardown r e => Sys2Proof.Machine.execCtxTeardown r e s
  | .teardownFinish c => Sys2Proof.Machine.execTeardownFinish c s
  | .ctxWindow r e => Sys2Proof.Machine.execCtxWindow r e s
  | .ctxPool r e => Sys2Proof.Machine.execCtxPool r e s
  | .ctxCells r e => Sys2Proof.Machine.execCtxCells r e s
  | .ctxSched r e => Sys2Proof.Machine.execCtxSched r e s
  | .spdPrimary r e => Sys2Proof.Machine.execSpdPrimary r e s
  | .traceConfig r e => Sys2Proof.Machine.execTraceConfig r e s
  | .spindleReset r e => Sys2Proof.Machine.execSpindleReset r e s
  | .spindleResetDone p => Sys2Proof.Machine.execSpindleResetDone p s
  | .headstockRestart r e => Sys2Proof.Machine.execHeadstockRestart r e s
  | .headstockRestartDone => Sys2Proof.Machine.execHeadstockRestartDone s
  | .tableRegister r e => Sys2Proof.Machine.execTableRegister r e s
  | .tableRelease r e => Sys2Proof.Machine.execTableRelease r e s
  | .blankPush r e => Sys2Proof.Machine.execBlankPush r e s
  | .jobJoin r e => Sys2Proof.Machine.execJobJoin r e s
  | .jobLeave r e => Sys2Proof.Machine.execJobLeave r e s
  | .peerReadmit r e => Sys2Proof.Machine.execPeerReadmit r e s
  | .jobSet r e => Sys2Proof.Machine.execJobSet r e s
  | .sweepArm r e => Sys2Proof.Machine.execSweepArm r e s
  | .counterSnapshot r e => Sys2Proof.Machine.execCounterSnapshot r e s
  | .cellNotify r e => Sys2Proof.Machine.execCellNotify r e s
  | .cellNotifyFire fn vec => Sys2Proof.Machine.execCellNotifyFire fn vec s
  | .powerLimits r e => Sys2Proof.Machine.execPowerLimits r e s
  | .phasePoint r e => Sys2Proof.Machine.execPhasePoint r e s
  | .energyRead r e => Sys2Proof.Machine.execEnergyRead r e s
  | .fwStage r e data => Sys2Proof.Machine.execFwStage r e data s
  | .fwCommit r e => Sys2Proof.Machine.execFwCommit r e s
  | .fwActivate r e => Sys2Proof.Machine.execFwActivate r e s
  | .fwActivateNow r e => Sys2Proof.Machine.execFwActivateNow r e s
  | .fwConfirm r e => Sys2Proof.Machine.execFwConfirm r e s
  | .attest r e => Sys2Proof.Machine.execAttest r e s
  | .hostBar2Read fn off len => Sys2Proof.Machine.execHostBar2Read fn off len s
  | .hostBar2Write fn off data ep => Sys2Proof.Machine.execHostBar2Write fn off data ep s
  | .bootReady => Sys2Proof.Machine.execBootReady s
  | .trialBootTimeout => Sys2Proof.Machine.execTrialBootTimeout s
  | .calipersEstimate a => Sys2Proof.Machine.execCalipersEstimate a s
  | .inputEnergySample microjoules => Sys2Proof.Machine.execInputEnergySample microjoules s
  | .calibrationUpdate => Sys2Proof.Machine.execCalibrationUpdate s
  | .sensorLost => Sys2Proof.Machine.execSensorLost s
  | .backstopRelease => Sys2Proof.Machine.execBackstopRelease s
  | .calipersDecision busy => Sys2Proof.Machine.execCalipersDecision busy s
  | .railStep mv => Sys2Proof.Machine.execRailStep mv s
  | .sensorRead tiles hub => Sys2Proof.Machine.execSensorRead tiles hub s
  | .thermalCeilingRise => Sys2Proof.Machine.execThermalCeilingRise s
  | .thermtrip => Sys2Proof.Machine.execThermtrip s
  | .configStoreSave => Sys2Proof.Machine.execConfigStoreSave s
  | .snapshotLatch => Sys2Proof.Machine.execSnapshotLatch s
  | .snapshotImageWritten => Sys2Proof.Machine.execSnapshotImageWritten s
  | .portWindowBoundary => Sys2Proof.Machine.execPortWindowBoundary s
  | .cntFreeze who on => Sys2Proof.Machine.execCntFreeze who on s
  | .cntClrOvf who => Sys2Proof.Machine.execCntClrOvf who s
  | .cntClrCtx who => Sys2Proof.Machine.execCntClrCtx who s
  | .cntClrPort who => Sys2Proof.Machine.execCntClrPort who s
  | .cntClrSpindle who => Sys2Proof.Machine.execCntClrSpindle who s
  | .cntWinCfg who lenUs => Sys2Proof.Machine.execCntWinCfg who lenUs s
  | .cntSelBcast who n val => Sys2Proof.Machine.execCntSelBcast who n val s
  | .sramUncorrectable a unit addr => Sys2Proof.Machine.execSramUncorrectable a unit addr s
  | .spindleFault p => Sys2Proof.Machine.execSpindleFault p s
  | .spareBroughtIn p good => Sys2Proof.Machine.execSpareBroughtIn p good s
  | .tileFault t cause => Sys2Proof.Machine.execTileFault t cause s
  | .hubLoss cause => Sys2Proof.Machine.execHubLoss cause s
  | .vrPhaseFail rail phase => Sys2Proof.Machine.execVrPhaseFail rail phase s
  | .a1Enter => Sys2Proof.Machine.execA1Enter s
  | .a1Exit => Sys2Proof.Machine.execA1Exit s
  | .a2Enter => Sys2Proof.Machine.execA2Enter s
  | .drainWindowClose => Sys2Proof.Machine.execDrainWindowClose s
  | .a2Exit fn => Sys2Proof.Machine.execA2Exit fn s
  | .a2ExitComplete => Sys2Proof.Machine.execA2ExitComplete s
  | .mainSupplyLoss => Sys2Proof.Machine.execMainSupplyLoss s
  | .auxSupplyLoss => Sys2Proof.Machine.execAuxSupplyLoss s
  | .auxPowerUp straps => Sys2Proof.Machine.execAuxPowerUp straps s
  | .mainPowerUp => Sys2Proof.Machine.execMainPowerUp s
  | .coldReset => Sys2Proof.Machine.execColdReset s
  | .perstAssert => Sys2Proof.Machine.execPerstAssert s
  | .perstDeassert b => Sys2Proof.Machine.execPerstDeassert b s
  | .pcieHotReset => Sys2Proof.Machine.execPcieHotReset s
  | .functionLevelReset fn => Sys2Proof.Machine.execFunctionLevelReset fn s
  | .smbusAlertResponse => Sys2Proof.Machine.execSmbusAlertResponse s
  | .mctpMessage overPcie msg => Sys2Proof.Machine.execMctpMessage overPcie msg s
  | .jtagInstruction j => Sys2Proof.Machine.execJtagInstruction j s
  | .hostWindowReadResponse k data => Sys2Proof.Machine.execHostWindowReadResponse k data s
  | .pcieLinkNarrowed width speed => Sys2Proof.Machine.execPcieLinkNarrowed width speed s
  | .functionD3hot fn => Sys2Proof.Machine.execFunctionD3hot fn s
  | .vfEnable n => Sys2Proof.Machine.execVfEnable n s
  | .bar2Resize gib => Sys2Proof.Machine.execBar2Resize gib s
  | .priorityFlowControlFrame port prio pause is8023 => Sys2Proof.Machine.execPriorityFlowControlFrame port prio pause is8023 s
  | .neighbourDiscovery addr mac => Sys2Proof.Machine.execNeighbourDiscovery addr mac s
  | .jtagTrst low => Sys2Proof.Machine.execJtagTrst low s
  | .fwFlashWriteDone r => Sys2Proof.Machine.execFwFlashWriteDone r s

end Sys2Proof.Machine
end

