-- ==== Sys2Proof/Machine/Step.lean ====
section
/-!
DEFINITION. One step: the command at the front of the queue, or, on an empty queue, one nanosecond of device time.
-/
namespace Sys2Proof.Machine

/-- DESIGN CHOICE (notes/assumptions/2): with nothing waiting, one nanosecond of device time passes (R298), and a boot in
progress goes one stage on (R324). -/
def idle (s : State) : State := { s with blk := { (s.blk.tick.kerfTick s.dram).bootStep with stalled := false } }

/-- DESIGN CHOICE, notes/assumptions/2. -/
def step (s : State) : Host.Outcome State Fault Refusal :=
  match s.pending with
  | [] => .next (idle s)
  | i :: rest => exec i { s with pending := rest }

/-- `s` with the command that the word spells at the front of its queue; `s` itself where it spells none. -/
def State.withFetchWord (s : State) (nbits w : Nat) : State :=
  match decodeTableWord nbits w with
  | some i => { s with pending := i :: s.pending }
  | none => s

end Sys2Proof.Machine
end

