-- ==== Sys2Proof/Safety.lean ====
section
/-!
DEFINITION. What a sound state is, and the words that claims are written in.
-/
namespace Sys2Proof.Machine

/-! ### Sound states -/

/-- Device memory in its one canonical form: addresses strictly rising, and no entry equal to what an unlisted
address reads as, a zero byte and a line that is not poisoned (R403). -/
def Dram.wf (m : Dram) : Bool := tabWf 0 m.mem && tabWf false m.poison

/-- The invariant that every step keeps: the memory's form, and between commands the working flag `stalled` is down. -/
def State.wf (s : State) : Bool := s.dram.wf && !s.blk.stalled

/-! ### What a command answers -/

/-- The command completes: exec answers a next state whose block is `b` with the working flag `stalled` down, and neither the
memory nor the queue changes. -/
abbrev Gives (i : Instr) (s : State) (b : Block) : Prop := exec i s = .next { s with blk := { b with stalled := false } }

/-- The command answers `b'` where what it reads and writes meets no channel queue that is full (R244). -/
abbrev Served (i : Instr) (s : State) (b' : Block) : Prop := b'.stalled = false → Gives i s b'

/-- `b'` is `b` but for spindle `p`. -/
def OnlySpd (p : Nat) (b b' : Block) : Prop :=
  { b' with spindles := b.spindles } = b ∧ ∀ q, q ≠ p → b'.spd q = b.spd q

/-! ### The sequencer -/

/-- `w` is the word at the program counter, nothing holds it, it names the blank's context, and the registers `rs` are
settled (R51 to R53). -/
def Block.canIssue (b : Block) (p w : Nat) (rs : List Nat) : Bool :=
  b.mayIssue p w && bits w 11 8 == (b.spd p).ctx && !rs.any (b.spd p).pendingReg

/-- The next word of the spindle is not speculative (R61). -/
def Block.confirmedNow (b : Block) (p : Nat) : Bool := !(b.spd p).isSpec (b.spd p).nextIdx

/-- The sequencer has issued one word and goes on with the following one. -/
def Spindle.issued (s : Spindle) : Spindle := { s with pc := s.pc + 16, nextIdx := s.nextIdx + 1 }

/-! ### The engines -/

/-- The queue entry that the sequencer writes for word `w` (R53, R92). -/
def Spindle.newCmd (s : Spindle) (o : OpSpec) (w : Nat) : QCmd :=
  { idx := s.nextIdx, pc := s.pc, w := BitVec.ofNat 128 w
    regs := (o.regs w).foldl (fun t r => tput 0 t r (s.reg r)) ([] : Tab Word64) }

/-- The block once the word has entered its engine's queue. -/
def Block.enqueued (b : Block) (p : Nat) (o : OpSpec) (w : Nat) : Block :=
  b.setSpd p (((b.spd p).setQueue o.eng ((b.spd p).queue o.eng ++ [(b.spd p).newCmd o w])).issued)

/-- The word is a sound one of operation `o` and its engine's queue has room (R52, R53, R61, Table 3.8). -/
def Block.canQueue (b : Block) (p : Nat) (o : OpSpec) (w : Nat) : Bool :=
  let s := b.spd p
  b.canIssue p w (o.regs w) && zeros w [(31, 29), (15, 12)] && !(o.eng == .load && hdrRel w) && !o.bad w
    && decide (((s.queue o.eng).filter (!·.begun)).length < queueDepth o.eng) && (!s.isSpec s.nextIdx || decide (s.specCmds < 128))

/-- The engine of operation `o` has nothing else to do, and the word waits for no flag, no load credit and no credit for a
request (R54 to R57, R249). -/
def Block.engineFree (b : Block) (p : Nat) (o : OpSpec) (w : Nat) : Bool :=
  let s := b.spd p
  b.arraysRun p && !b.stalled && !s.abandoned.any (·.1 == o.eng) && (s.queue o.eng).isEmpty && (hdrWait w).isNone
    && (!o.credit || decide (s.credit < 16)) && b.lineRoom p (o.eng == .store)

/-- A confirmed command `q` has begun: the entry marked, its wait flag and a load credit taken, rel = 1 applied, a vector
word's elements counted (R55 to R57). -/
def Block.begun (b : Block) (p : Nat) (o : OpSpec) (q : QCmd) : Block :=
  let b1 := (b.takeBegin p o q).relBegin p o.eng q false
  if o.eng = .vector then b1.cmdEvent p q 0x07 (vwLen q.w.toNat * vwRows q.w.toNat) else b1

/-- The block as the operation meets it when its word begins at once. -/
def Block.opened (b : Block) (p : Nat) (o : OpSpec) (w : Nat) : Block := (b.enqueued p o w).begun p o ((b.spd p).newCmd o w)

/-- The word begins at once when it issues. -/
def Block.startsNow (b : Block) (p : Nat) (o : OpSpec) (w : Nat) : Bool :=
  b.canQueue p o w && b.confirmedNow p && b.engineFree p o w

/-- The block once the operation is carried out: its entry marked. -/
def Block.carried (b : Block) (p : Nat) (o : OpSpec) (q : QCmd) : Block := b.markDone p o.eng q.idx

/-! ### Ring commands -/

/-- It is the turn of ring `r`, `e` is the entry it starts next, the opcode is `op`, and one of the 64 places for commands is
free (R317, R321). -/
def Block.presents (b : Block) (r : Nat) (e : Entry) (op : Nat) : Bool :=
  ((b.ring r).taken.find? b.startable).any (fun x => x.entry == e) && entOpcode e == op && b.takes && decide (b.parkedCount < 64)
    && b.nextRing == some r

/-- The command starts and passes the checks that every command meets; `c` is what its handler sees. -/
def Block.accepts (b : Block) (r : Nat) (e : Entry) (op : Nat) (c : Cmd) : Prop :=
  b.presents r e op = true ∧ (b.started r).cmdCheck r e = .ok c

/-- A ring command whose checks pass and whose parameters meet `ok` completes with SUCCESS and result `v`; the rest of the
block is what `f` makes of it. -/
abbrev CompletesWith (mk : RingId → Entry → Instr) (op : Nat) (ok : Block → Cmd → Prop) (v : Block → Cmd → Nat) (f : Block → Cmd → Block) : Prop :=
  ∀ (r : RingId) (e : Entry) (s : State) (c : Cmd), s.blk.accepts r e op c → ok (s.blk.started r) c →
    Gives (mk r e) s ((f (s.blk.started r) c).finish r e .success (v (s.blk.started r) c))
abbrev Completes (mk : RingId → Entry → Instr) (op : Nat) (ok : Block → Cmd → Prop) (f : Block → Cmd → Block) : Prop :=
  CompletesWith mk op ok (fun _ _ => 0) f

/-- Such a command does its work and stays parked. -/
abbrev Parks (mk : RingId → Entry → Instr) (op : Nat) (ok : Block → Cmd → Prop) (f : Block → Cmd → Block) : Prop :=
  ∀ (r : RingId) (e : Entry) (s : State) (c : Cmd), s.blk.accepts r e op c → ok (s.blk.started r) c →
    Gives (mk r e) s (f (s.blk.started r) c)

/-- Such a command is refused with a status, and nothing else happens. -/
abbrev Refuses (mk : RingId → Entry → Instr) (op : Nat) (bad : Block → Cmd → Prop) (st : Status) : Prop :=
  ∀ (r : RingId) (e : Entry) (s : State) (c : Cmd), s.blk.accepts r e op c → bad (s.blk.started r) c →
    Gives (mk r e) s ((s.blk.started r).finish r e st 0)

/-- The requester's host-window bytes are used up. -/
def Block.hubDone (b : Block) (who : Nat) : Block := { b with hubBuf := tdel b.hubBuf who }

/-! ### Kerf frames -/

/-- The block once a frame is counted at its port (R281). -/
def Block.framed (b : Block) (f : Frame) : Block := b.countPort (66 + f.port.val) (66 + f.bytes.length)

/-- A frame arrives whole and sound, with nothing before it in its port's receive buffer, and carries packet `k` (R281 to R284). -/
def Block.hears (b : Block) (f : Frame) (k : Packet) : Prop :=
  b.hubLost = false ∧ (b.port f.port).linkUp = true ∧ (b.port f.port).rx = [] ∧ f.dstPort.toNat = b.krfUdpPort
    ∧ parsePacket f.bytes = some k ∧ b.frameOk f k.conn = true ∧ k.version = 1 ∧ k.resvZero = true

/-- Packet `k` of frame `f` belongs to connection `i`, and comes from its peer's device (R284). -/
def Block.belongs (b : Block) (f : Frame) (i : Nat) (k : Packet) : Prop :=
  k.conn = i ∧ (b.conn i).isOpen = true ∧ (b.conn i).loop = false ∧ ((b.conn i).peerInc = k.inc ∨ k.type = 12)
    ∧ (b.conn i).addr + BitVec.ofNat 128 f.port.val = f.src

/-- A sequenced packet that is new, while tiles are on and no drain window is open (R287, R371). -/
def Block.newHere (b : Block) (i : Nat) (k : Packet) : Prop :=
  0 ≤ serial k.seq (b.conn i).rxBase ∧ serial k.seq (b.conn i).rxBase ≤ 65535 ∧ k.seq ∉ (b.conn i).rxSeen
    ∧ b.draining = false ∧ b.power = .a0

/-- The number is received and its packet acts. -/
def Block.taken (b : Block) (f : Frame) (i : Nat) (k : Packet) : Block :=
  ((b.framed f).setConn i { b.conn i with ackPath := framePath f }).modConn i fun c => { c.markSeen k.seq with rxWork := c.rxWork ++ [(k, false)] }

/-- A packet that has acted is to be acknowledged. -/
def Block.acted (b : Block) (i : Nat) (k : Packet) : Block :=
  (b.modConn i fun c => { c with rxWork := c.rxWork.filter fun x => x.1.seq != k.seq }).ackOne i

/-- A packet is refused with a reason. -/
def Block.nacked (b : Block) (f : Frame) (i : Nat) (k : Packet) (reason : Nat) : Block :=
  (b.modConn i fun c => { c with rxWork := c.rxWork.filter fun x => x.1.seq != k.seq }).sendNack i (framePath f) k.seq reason

end Sys2Proof.Machine
end

