-- ==== Sys2Proof/Certificates/Slice0/Obligations.lean ====
section
/-!
DEFINITION. The statements for the provers, each with the rules of the manual it comes from.
-/
namespace Sys2Proof.Claims
open Sys2Proof.Machine

/-! ### Tables that statements range over -/

/-- The scalar words of Table 3.3 with their opcodes and what each writes to sd (R402). -/
def scalarRows : List ((Spd → W120 → Instr) × Nat × (Word64 → Word64 → Word64)) :=
  [(.add, 0x01, fun x y => x + y), (.sub, 0x02, fun x y => x - y), (.and, 0x03, fun x y => x &&& y),
   (.or, 0x04, fun x y => x ||| y), (.xor, 0x05, fun x y => x ^^^ y), (.shl, 0x06, fun x y => x <<< (y.toNat % 64)),
   (.shr, 0x07, fun x y => x >>> (y.toNat % 64)), (.sra, 0x08, fun x y => BitVec.ofInt 64 (x.toInt / (2 ^ (y.toNat % 64) : Nat))),
   (.mul, 0x09, fun x y => BitVec.ofInt 64 (x.toInt * y.toInt)), (.min, 0x0A, fun x y => if x.toInt < y.toInt then x else y),
   (.max, 0x0B, fun x y => if x.toInt < y.toInt then y else x), (.slt, 0x0C, fun x y => if x.toInt < y.toInt then 1 else 0)]

/-- The engine words with their opcodes (Table 3.1 and the tables of the engines' chapters); VPIN_RELEASE, which shares
VPIN's opcode, is stated on its own. -/
def engineRows : List ((Spd → W120 → Instr) × Nat) :=
  [(.mtile, 0x40), (.rtile, 0x48), (.ftile, 0x49), (.hinit, 0x4A), (.hmerge, 0x4B), (.hdrain, 0x4C), (.vadd, 0x60), (.vsub, 0x61), (.vmul, 0x62), (.vfma, 0x63)]
  ++ [(.vdiv, 0x64), (.vsqrt, 0x65), (.vexp2, 0x66), (.vlog2, 0x67), (.vmin, 0x68), (.vmax, 0x69), (.vcvt, 0x6A), (.vrowsum, 0x70), (.vrowmax, 0x71), (.vrowmin, 0x72)]
  ++ [(.vrowargmax, 0x73), (.vrand, 0x78), (.vunif, 0x79), (.vsmax, 0x7A), (.vssum, 0x7B), (.vsfin, 0x7C), (.vsscore, 0x7D), (.vmktile, 0x80), (.vmktilea, 0x81), (.vmkrow, 0x82)]
  ++ [(.vmkrowa, 0x83), (.vmktopk, 0x84), (.vmklist, 0x85), (.vmkor, 0x86), (.vmkclr, 0x87), (.ld, 0xA0), (.ldt, 0xA1), (.halloc, 0xA2), (.hfreeLoad, 0xA3), (.kload, 0xA4)]
  ++ [(.kget, 0xA5), (.st, 0xC0), (.hfreeStore, 0xC1), (.dcmaint, 0xC2), (.ksave, 0xC3), (.rpush, 0xC4), (.kput, 0xC5), (.kchain, 0xC6), (.ggather, 0xE0), (.gscatter, 0xE1)]
  ++ [(.gsettle, 0xE2), (.gburl, 0xE3), (.ghfree, 0xE4), (.gexdisp, 0xE5), (.gexret, 0xE6), (.gexcomb, 0xE7), (.gsample, 0xE8), (.gsback, 0xE9), (.vstage, 0xF0), (.vadvance, 0xF1)]
  ++ [(.vpin, 0xF2), (.vread, 0xF3), (.vepoch, 0xF4)]

/-- The element-wise words: opcode, operation, number of operands (Table 4.8). -/
def laneRows : List ((Spd → W120 → Instr) × Nat × FOp × Nat) :=
  [(.vadd, 0x60, .add, 2), (.vsub, 0x61, .sub, 2), (.vmul, 0x62, .mul, 2), (.vfma, 0x63, .fma, 3), (.vdiv, 0x64, .div, 2),
   (.vsqrt, 0x65, .sqrt, 1), (.vexp2, 0x66, .exp2, 1), (.vlog2, 0x67, .log2, 1), (.vmin, 0x68, .min, 2), (.vmax, 0x69, .max, 2)]

/-- The row words: opcode, bytes of a result, and the result of one row (Table 4.9). -/
def rowRows : List ((Spd → W120 → Instr) × Nat × Nat × (List Val → List Byte)) :=
  [(.vrowsum, 0x70, 4, rowSumBytes), (.vrowmax, 0x71, 4, rowMaxBytes), (.vrowmin, 0x72, 4, rowMinBytes), (.vrowargmax, 0x73, 8, rowArgmaxBytes)]

/-- The block once the condition of BR `r` is known: a wrong guess has squashed every younger word, restored the scalar registers and
taken the other way (R59, R66). -/
def resolved (b : Block) (p : Nat) (r : BrEntry) (taken : Bool) : Block :=
  if taken = r.hint then b
  else (b.squash p r.idx).modSpd p fun s =>
    { s with sregs := r.checkpoint, pc := if taken then ((r.pc : Int) + 16 * r.offset).toNat else r.pc + 16 }

/-- The spindle `x` as the start of blank `k` leaves it (R51, R75): its sequencer, its flags and its bowl; scratchpad, handles and
gathering buffer are those of `spd`. -/
def StartedAs (b : Block) (spd x : Spindle) (k : Blank) : Prop :=
  x.cur = some { k with regsns := [] } ∧ x.started = true ∧ x.pc = bits k.desc.toNat 47 0
    ∧ x.reg 1 = BitVec.ofNat 64 (bits k.desc.toNat 447 384) ∧ (∀ r, r ≠ 1 → x.reg r = 0) ∧ (∀ f, x.flag f = {}) ∧ x.credit = 0
    ∧ x.hold = .none ∧ x.nextIdx = 1 ∧ x.regsns = k.regsns ∧ x.bowl = spd.bowl.forget 0 0x100000 b.freshTag
    ∧ x.spad = spd.spad ∧ x.handles = spd.handles ∧ x.gbuf = spd.gbuf ∧ x.windows = spd.windows

/-- The block once the drained blank of spindle `p` has retired: what it staged has entered staging in issue order, its slots are posted
as retired and its registrations returned, the spindle has forgotten it, its staged effects have taken place in order, and its
entry waits for done_cell (R68, R140, R259, R340). -/
def retiredOf (m : Dram) (b : Block) (p : Nat) (k : Blank) : Block :=
  let b1 := b.stagePump m p
  let b2 := ((b1.postTally p 0).unregister p).modSpd p (·.clearBlank true)
  let b3 := (b1.spd p).staging.foldl (fun b x => b.applyEffect m (b1.issuer p) x) b2
  let b4 := b3.traceEvent k.ctx k.desc 0x05 (b3.logicalOf p) 0
  let b5 : Block := { b4 with dones := b4.dones ++ [{ blank := k, spindle := p, serial := (b.spd p).serial }] }
  b5.countCtx k.ctx 4 1

/-- An initiator that may access registers: the headstock, and JTAG where nothing holds it off (R18, R397). -/
def mayAccess (b : Block) (who : Initiator) : Prop := who = .headstock ∨ who = .jtag ∧ b.jtagOff = false

/-- What an initiator gets that may not write SPD_CTL of spindle `p`, or meets a tile that is off: the status, and nothing else
happens; a hub that is down and a JTAG port that is held off answer nothing (R18, R368, R397). -/
def ctlRefusal (b : Block) (who : Initiator) (p : Nat) : Option Block :=
  if b.hubUp = false ∨ who = .jtag ∧ b.jtagOff = true then some b
  else if who ≠ .headstock ∧ who ≠ .jtag then some { b with resp := { status := .accessDenied } }
  else if (b.tile (tileOf p)).powered = false then some { b with resp := { status := .domainOff } } else none

/-- A cell with a signal applied: its count, held at the 64-bit bounds, its sticky flag, and its last signaller (R267). -/
def signalled (v : Cell) (g : Sig) : Cell :=
  { count := max (-(2 ^ 63)) (min (2 ^ 63 - 1) (v.count + g.amount))
    sat := v.sat || decide (2 ^ 63 - 1 < v.count + g.amount) || decide (v.count + g.amount < -(2 ^ 63))
    src := g.src, peer := g.peer }

/-- The ring commands that have one handler each, with their opcodes (Table 17.7). -/
def ringRows : List ((RingId → Entry → Instr) × Nat) :=
  [(.identify, 0x01), (.devConfig, 0x02), (.bar2Map, 0x03), (.netConfig, 0x04), (.tileConfig, 0x06), (.ctxCreate, 0x10), (.ctxTeardown, 0x11), (.ctxWindow, 0x12)]
  ++ [(.ctxPool, 0x13), (.ctxCells, 0x14), (.ctxSched, 0x15), (.spdPrimary, 0x16), (.traceConfig, 0x17), (.spindleReset, 0x18), (.headstockRestart, 0x19), (.tableRegister, 0x20)]
  ++ [(.tableRelease, 0x21), (.streamOpen, 0x30), (.streamFork, 0x31), (.streamPause, 0x32), (.streamResume, 0x33), (.streamClose, 0x34), (.streamQuery, 0x35), (.stepArm, 0x36)]
  ++ [(.blankPush, 0x40), (.jobJoin, 0x50), (.jobLeave, 0x51), (.peerReadmit, 0x52), (.jobSet, 0x53), (.sweepArm, 0x54), (.syncDump, 0x60), (.counterSnapshot, 0x61)]
  ++ [(.cellNotify, 0x62), (.powerLimits, 0x70), (.phasePoint, 0x71), (.energyRead, 0x72), (.fwCommit, 0x81), (.fwConfirm, 0x83), (.attest, 0x84)]

/-- The commands for frames, with their packet types (Table 16.4); a CHAIN frame with op 0 is a forward slice. -/
def frameRows : List ((Frame → Instr) × Nat) :=
  [(.kerfWrite, 0), (.kerfReadReq, 1), (.kerfReadResp, 2), (.kerfAtomic, 3), (.kerfSignal, 4), (.chainForward, 5), (.sweep, 6)]
  ++ [(.kerfAck, 8), (.kerfNack, 9), (.heartbeat, 10), (.connect, 11), (.connectResp, 12)]

end Sys2Proof.Claims
open Sys2Proof Sys2Proof.Machine Sys2Proof.Claims

/-! ### The queue and the memory -/

/-- A step takes the command at the front of the queue and answers what exec answers with the rest of the queue.
Readings of the model: notes/assumptions/1, 2. -/
def Obligations.StepRunsFrontCommand : Prop :=
  ∀ (c : Instr) (rest : List Instr) (m : Dram) (b : Block),
    step { pending := c :: rest, dram := m, blk := b } = exec c { pending := rest, dram := m, blk := b }

/-! ### Sequencer words -/

/-- R402, whole, with Table 3.3: each arithmetic word writes the result that R402 gives to sd and advances, and BR's ltu and
geu compare unsigned values. s0 reads as zero and discards writes; a written register reads what was written, and no
other changes. -/
def Obligations.ScalarWordsAndRegisters : Prop :=
  (∀ r ∈ scalarRows, ∀ (p : Spd) (w : W120) (s : State),
     let x := mkWord r.2.1 w
     let sd := bits x 36 32
     let spd := s.blk.spd p
     s.blk.canIssue p x [sd, bits x 41 37, bits x 46 42] = true → zeros x [(31, 12), (127, 47)] = true →
     Gives (r.1 p w) s (s.blk.setSpd p ((spd.setReg sd (r.2.2 (spd.reg (bits x 41 37)) (spd.reg (bits x 46 42)))).issued))) ∧
  (∀ (s : Spindle) (r : Nat) (v : Word64), tabWf 0 s.sregs = true →
     (∀ k, (s.setReg r v).reg k = if k = r ∧ r ≠ 0 then v else s.reg k) ∧ tabWf 0 (s.setReg r v).sregs = true
     ∧ (s.setReg 0 v) = s ∧ s.reg 0 = 0) ∧
  (∀ x y : Word64, brTaken 4 x y = decide (x.toNat < y.toNat) ∧ brTaken 5 x y = decide (y.toNat ≤ x.toNat))

/-- R60, R68, R401: NOP and LI advance, LI with its 64-bit immediate in sd; JMP goes to its target. LOOP subtracts 1 from sd and goes to
its target where sd then reads non-zero, and on to the next word where it reads zero. A confirmed RETIRE advances, and no word issues
after it; a speculative one waits. Readings of the model: notes/assumptions/23. -/
def Obligations.ControlWordsAdvance : Prop :=
  (∀ (p : Spd) (w : W120) (s : State),
     (s.blk.canIssue p (mkWord 0x00 w) [] = true → zeros (mkWord 0x00 w) [(31, 12), (127, 32)] = true →
       Gives (.nop p w) s (s.blk.setSpd p (s.blk.spd p).issued)) ∧
     (s.blk.canIssue p (mkWord 0x10 w) [bits (mkWord 0x10 w) 36 32] = true → zeros (mkWord 0x10 w) [(31, 12), (63, 37)] = true →
       Gives (.li p w) s (s.blk.setSpd p
         ((s.blk.spd p).setReg (bits (mkWord 0x10 w) 36 32) (BitVec.ofNat 64 (bits (mkWord 0x10 w) 127 64))).issued))) ∧
  (∀ (p : Spd) (w : W120) (s : State),
     let spd := s.blk.spd p
     (let x := mkWord 0x19 w
      s.blk.canIssue p x [] = true → zeros x [(31, 12), (127, 64)] = true →
      Gives (.jmp p w) s (s.blk.setSpd p { spd with pc := ((spd.pc : Int) + 16 * sbits x 63 32).toNat, nextIdx := spd.nextIdx + 1 })) ∧
     (let x := mkWord 0x1A w
      let sd := bits x 68 64
      let less := spd.setReg sd (spd.reg sd - 1)
      s.blk.canIssue p x [sd] = true → zeros x [(31, 12), (127, 69)] = true →
      (less.reg sd ≠ 0 → Gives (.loop p w) s (s.blk.setSpd p { less with
        pc := ((spd.pc : Int) + 16 * sbits x 63 32).toNat, nextIdx := spd.nextIdx + 1 })) ∧
      (less.reg sd = 0 → Gives (.loop p w) s (s.blk.setSpd p less.issued)))) ∧
  (∀ (p : Spd) (w : W120) (s : State),
     let x := mkWord 0x2F w
     let after := s.blk.setSpd p { (s.blk.spd p).issued with hold := .retired }
     s.blk.canIssue p x [] = true → zeros x [(31, 12), (127, 32)] = true →
     (s.blk.confirmedNow p = true → Gives (.retire p w) s after ∧ ∀ v, after.mayIssue p v = false) ∧
     (s.blk.confirmedNow p = false → Gives (.retire p w) s s.blk))

/-- R401: SLD reads when it issues and its register is written when the data returns; SST writes at once. Readings of
the model: notes/assumptions/29. -/
def Obligations.ScalarLoadsAndStores : Prop :=
  (∀ (p : Spd) (w : W120) (s : State),
     let spd := s.blk.spd p
     (let x := mkWord 0x11 w
      let (rd, a) := (bits x 36 32, bits x 95 64)
      s.blk.canIssue p x [rd] = true → zeros x [(31, 12), (63, 37), (127, 96)] = true → a % 8 = 0 → a + 8 ≤ 0x600000 →
      (spd.asOf spd.nextIdx).readOk spd.ctx a 8 = none →
      ∃ b, Gives (.sld p w) s b ∧ OnlySpd p s.blk b ∧ (b.spd p).pc = spd.pc + 16 ∧ (b.spd p).nextIdx = spd.nextIdx + 1
        ∧ (b.spd p).sregs = spd.sregs ∧ (b.spd p).flags = spd.flags ∧ (b.spd p).handles = spd.handles
        ∧ (b.spd p).slds = spd.slds ++ [{ idx := spd.nextIdx, rd, val := BitVec.ofNat 64 (leNat (spd.peek a 8)) }]) ∧
     (let x := mkWord 0x12 w
      let (ra, a) := (bits x 36 32, bits x 95 64)
      s.blk.canIssue p x [ra] = true → s.blk.confirmedNow p = true → zeros x [(31, 12), (63, 37), (127, 96)] = true →
      a % 8 = 0 → a + 8 ≤ 0x600000 → (spd.asOf spd.nextIdx).writeOk spd.ctx ownerSeq a 8 = none →
      ∃ b, Gives (.sst p w) s b ∧ OnlySpd p s.blk b ∧ (b.spd p).pc = spd.pc + 16 ∧ (b.spd p).nextIdx = spd.nextIdx + 1
        ∧ (b.spd p).sregs = spd.sregs ∧ (b.spd p).flags = spd.flags ∧ (b.spd p).bowl = spd.bowl
        ∧ (b.spd p).spad = (spd.commitRange a 8).spad.write a (leBytes 8 (spd.reg ra).toNat))) ∧
  (∀ (p : Spd) (s : State) (r : PendingSld) (rest : List PendingSld),
     let spd := s.blk.spd p
     s.blk.runs p = true → spd.slds = r :: rest →
     Gives (.sldResult p) s (s.blk.setSpd p { spd.setReg r.rd r.val with
       slds := rest
       brs := spd.brs.map fun k => if r.idx < k.idx ∧ r.rd ≠ 0 then
           { k with checkpoint := tput 0 k.checkpoint r.rd r.val
                    va := if k.sa = r.rd ∧ k.va = none then some r.val else k.va
                    vb := if k.sb = r.rd ∧ k.vb = none then some r.val else k.vb }
         else k }))

/-- R59, R61, R66: a BR goes on along its hint and keeps a checkpoint; a ninth waits. Where an older BR is still open, a right guess
marks the BR and changes nothing else, and a wrong one restores the checkpoint, takes the other way and removes every younger
word. The oldest BR is confirmed, with the evaluated ones behind it, and what they held back takes place; where nothing is held
back, only the BR leaves. -/
def Obligations.BranchesFollowHintAndResolve : Prop :=
  (∀ (p : Spd) (w : W120) (s : State),
     let x := mkWord 0x18 w
     let spd := s.blk.spd p
     s.blk.canIssue p x [] = true → zeros x [(31, 12), (127, 78)] = true → bits x 76 74 < 6 →
     (spd.brs.length < 8 → ∃ e : BrEntry, Gives (.br p w) s (s.blk.setSpd p { spd with
         brs := spd.brs ++ [e], nextIdx := spd.nextIdx + 1
         pc := if bit x 77 then ((spd.pc : Int) + 16 * sbits x 63 32).toNat else spd.pc + 16 })
       ∧ e.idx = spd.nextIdx ∧ e.pc = spd.pc ∧ e.offset = sbits x 63 32 ∧ e.hint = bit x 77 ∧ e.cond = bits x 76 74
       ∧ e.checkpoint = spd.sregs ∧ e.evaluated = false
       ∧ e.va = (if spd.pendingReg (bits x 68 64) then none else some (spd.reg (bits x 68 64)))
       ∧ e.vb = (if spd.pendingReg (bits x 73 69) then none else some (spd.reg (bits x 73 69)))) ∧
     (8 ≤ spd.brs.length → Gives (.br p w) s s.blk)) ∧
  (∀ (p : Spd) (k : Nat) (s : State) (r first : BrEntry) (x y : Word64),
     let spd := s.blk.spd p
     s.blk.runs p = true → s.blk.stalled = false → spd.brs[k]? = some r → r.va = some x → r.vb = some y → r.evaluated = false →
     spd.brs.head? = some first → first.idx < r.idx → first.evaluated = false →
     let taken := brTaken r.cond x y
     (taken = r.hint → Gives (.brResolve p k) s (s.blk.setSpd p { spd with
         brs := spd.brs.map fun q => if q.idx = r.idx then { q with evaluated := true, mispred := false } else q })) ∧
     (taken ≠ r.hint → ∃ b, Gives (.brResolve p k) s b ∧ (b.spd p).sregs = r.checkpoint
       ∧ (b.spd p).pc = (if taken then ((r.pc : Int) + 16 * r.offset).toNat else r.pc + 16)
       ∧ (∀ e, ∀ q ∈ (b.spd p).queue e, q.idx ≤ r.idx) ∧ (∀ q ∈ (b.spd p).brs, q.idx ≤ r.idx)
       ∧ (b.spd p).flags = spd.flags ∧ (b.spd p).credit = spd.credit
       ∧ b.cells = s.blk.cells ∧ b.racks = s.blk.racks ∧ b.chans = s.blk.chans ∧ b.tiles = s.blk.tiles)) ∧
  (∀ (p : Spd) (s : State) (r : BrEntry) (rest : List BrEntry) (x y : Word64),
     let spd := s.blk.spd p
     s.blk.runs p = true → spd.brs = r :: rest → (∀ q ∈ rest, r.idx < q.idx) → r.va = some x → r.vb = some y → r.evaluated = false →
     let taken := brTaken r.cond x y
     let left := popEvaluated (if taken = r.hint then rest else [])
     let gone := ((resolved s.blk p r taken).modSpd p fun z => { z with brs := left.2 }).countEvent p spd.ctx 0x17 (1 + left.1.length)
     let counted := gone.countEvent p spd.ctx 0x18 ((if taken = r.hint then 0 else 1) + (left.1.filter (·.mispred)).length)
     Served (.brResolve p 0) s (counted.confirm s.dram p)) ∧
  (∀ (p : Spd) (s : State) (r : BrEntry) (x y : Word64),
     let spd := s.blk.spd p
     s.blk.runs p = true → s.blk.stalled = false → spd.brs = [r] → r.va = some x → r.vb = some y → r.evaluated = false →
     brTaken r.cond x y = r.hint →
     (∀ e, spd.queue e = []) → spd.deferredSeq = [] → spd.specEv = [] → spd.seqSlots = [] → spd.held = [] → spd.ldt = none →
     ∃ b, Gives (.brResolve p 0) s b ∧ OnlySpd p s.blk b ∧ (b.spd p).brs = [] ∧ (b.spd p).pc = spd.pc ∧ (b.spd p).sregs = spd.sregs)

/-- R60, R97, R110, R243: a FENCE writes its engines' gathering buffers to the banks and holds the sequencer; one of memory scope also
starts the writes that it waits for towards memory. It resumes once no older command of its engines is incomplete and, in memory
scope, no such write is still waiting, and not before. -/
def Obligations.FencesHoldAndResume : Prop :=
  (∀ (p : Spd) (w : W120) (s : State),
     let x := mkWord 0x20 w
     let spd := s.blk.spd p
     let mask := bits x 36 32
     s.blk.canIssue p x [] = true → zeros x [(31, 12), (39, 37), (127, 41)] = true → mask ≠ 0 →
     (bit x 40 = false → s.blk.stalled = false → ∃ b, Gives (.fence p w) s b
         ∧ (b.spd p).hold = .fence mask false spd.nextIdx ∧ OnlySpd p s.blk b ∧ (b.spd p).pc = spd.pc + 16
         ∧ (b.spd p).nextIdx = spd.nextIdx + 1 ∧ (b.spd p).sregs = spd.sregs ∧ (b.spd p).flags = spd.flags
         ∧ (∀ e, (b.spd p).queue e = spd.queue e) ∧ ∀ g ∈ (b.spd p).gbuf, g.engine ∉ maskEngines mask) ∧
     (bit x 40 = true →
       let written := s.blk.modGb p (fun z => z.commitWhere fun g => (maskEngines mask).contains g.engine) 0 (s.blk.specNext p)
       let sent := written.fenceFlush s.dram p mask
       Served (.fence p w) s (sent.setSpd p { (sent.spd p).issued with hold := .fence mask true (sent.spd p).nextIdx }))) ∧
  (∀ (p : Spd) (s : State) (mask idx : Nat) (memory : Bool),
     let spd := s.blk.spd p
     s.blk.runs p = true → spd.hold = .fence mask memory idx →
     (∀ e ∈ maskEngines mask, ∀ q ∈ spd.queue e, q.idx < idx → q.completed = false → Gives (.fenceComplete p) s s.blk) ∧
     ((∀ e ∈ maskEngines mask, ∀ q ∈ spd.queue e, idx ≤ q.idx ∨ q.completed = true) →
       (memory = false → s.blk.stalled = false →
         Gives (.fenceComplete p) s (s.blk.setSpd p { spd with hold := .none, fenceLines := [] })) ∧
       (memory = true →
         let sent := s.blk.fenceFlush s.dram p mask
         (sent.fencePending p mask = true → Served (.fenceComplete p) s sent) ∧
         (sent.fencePending p mask = false →
           Served (.fenceComplete p) s (sent.setSpd p { sent.spd p with hold := .none, fenceLines := [] })))))

/-- R57: a FLAG word that waits for a flag at zero changes nothing; otherwise it takes 1 from the flag it waits for,
adds 1 to the flag it sets, where 65,535 stays and sets sat, and advances. Readings of the model:
notes/assumptions/24. -/
def Obligations.FlagWaitsThenSets : Prop :=
  ∀ (p : Spd) (w : W120) (s : State),
    let x := mkWord 0x21 w
    let spd := s.blk.spd p
    s.blk.canIssue p x [] = true → s.blk.confirmedNow p = true → zeros x [(15, 12), (31, 28), (127, 32)] = true → spd.ldt = none →
    s.blk.stalled = false →
    (bit x 21 = true → (spd.flag (bits x 20 16)).count = 0 → Gives (.flag p w) s s.blk) ∧
    ((bit x 21 = true → (spd.flag (bits x 20 16)).count ≠ 0) →
      let waited := if bit x 21 then spd.modFlag (bits x 20 16) (fun f => { f with count := f.count - 1 }) else spd
      let done := if bit x 27 then waited.modFlag (bits x 26 22)
          (fun f => if f.count = 65535 then { f with sat := true } else { f with count := f.count + 1 }) else waited
      Gives (.flag p w) s (s.blk.setSpd p done.issued))

/-! ### Blanks -/

/-- R51, R75, R258: what a blank's start sets, for the blank of the prefetched slot, which brings the code lines read for it, and for a
re-dispatched blank of the current slot; its scratchpad, handles, gathering buffer and windows stay. A code line that is read
goes to the instruction buffer and is counted; a confirmed program counter outside the code range ends the blank with
INVALID_FIELD. Readings of the model: notes/assumptions/11, 144, 156. -/
def Obligations.BlankStartAndCodeFetch : Prop :=
  (∀ (p : Spd) (s : State) (k : Blank),
     let spd := s.blk.spd p
     s.blk.clocked = true → spd.inService = true → spd.faulted = false → spd.resetting = false → spd.thief = none →
     s.blk.trace.enable = false →
     (spd.cur = none → spd.pre = some k →
       ∃ x : Spindle, Gives (.blankStart p) s (s.blk.bumpFree.setSpd p x) ∧ StartedAs s.blk spd x k ∧ x.pre = none ∧ x.ibuf = spd.preCode) ∧
     (spd.cur = some k → spd.started = false →
       ∃ x : Spindle, Gives (.blankStart p) s (s.blk.bumpFree.setSpd p x) ∧ StartedAs s.blk spd x k ∧ x.pre = spd.pre ∧ x.ibuf = [])) ∧
  (∀ (p : Spd) (line : BitVec 48) (s : State),
     let b := s.blk
     let spd := b.spd p
     let (code, n) := spd.code
     line.toNat % 128 = 0 → b.runs p = true → spd.ending = none →
     (spd.inCode spd.pc = true → code < line.toNat + 128 → line.toNat < code + 16 * n →
       ∀ (r : Region) (bs : List Byte) (b' : Block), b.engineRange line.toNat 128 = .ok r →
       b.tileRead s.dram p line.toNat 128 .reuse (b.specNext p) = (.success, bs, b') →
       Served (.codeFetch p line) s ((b'.modSpd p fun x => x.fillCode false line.toNat bs).countFor p 0x0F 1 (b.specNext p))) ∧
     (spd.inCode spd.pc = false → line.toNat ≤ spd.pc → spd.pc < line.toNat + 128 → spd.hold = .none → spd.haltReq = false →
       spd.isSpec spd.nextIdx = false →
       Served (.codeFetch p line) s
         (b.bumpFree.blankFault p spd.nextIdx .invalidField (Config.freeOpcode b.freeCtr).toNat (spd.pcOffset spd.pc))))

/-- R52, R53, R64, R69: a word of another context faults with ACCESS_DENIED, and a reserved opcode of the blank's own context with
INVALID_FIELD. Either ends the blank when confirmed; while speculative its fault is deferred and the sequencer goes on. A fault
frees the spindle once no older command is left in its engines, and SPD_FAULT names the status, the opcode and the word; until
then the blank is ending, and only older commands are left. Readings of the model: notes/assumptions/164. -/
def Obligations.BlankFaults : Prop :=
  (∀ (p : Spd) (w : Word128) (s : State),
     let b := s.blk
     let spd := b.spd p
     let op := w.toNat % 256
     let st := if bits w.toNat 11 8 = spd.ctx then Status.invalidField else Status.accessDenied
     reservedOp op = true → b.mayIssue p w.toNat = true →
     (b.confirmedNow p = true → Gives (.reservedOpcode p w) s (b.blankFault p spd.nextIdx st op (spd.pcOffset spd.pc))) ∧
     (b.confirmedNow p = false → Gives (.reservedOpcode p w) s (b.setSpd p { spd.issued with
         deferredSeq := spd.deferredSeq ++ [(spd.nextIdx, spd.pc, op, st)] }))) ∧
  (∀ (b : Block) (p idx : Nat) (st : Status) (op off : Nat) (k : Blank),
     let spd := b.spd p
     spd.cur = some k → spd.ending = none →
     let b' := b.blankFault p idx st op off
     ((∀ e, ∀ q ∈ spd.queue e, idx ≤ q.idx) →
       (b'.spd p).cur = none ∧ (b'.spd p).started = false ∧ (b'.spd p).faultStatus = st.code ∧ (b'.spd p).faultOpcode = op
         ∧ (b'.spd p).faultPc = off ∧ (b'.spd p).ending = none ∧ (∀ e, (b'.spd p).queue e = []) ∧ (b'.spd p).staging = []
         ∧ (b'.spd p).brs = []) ∧
     (∀ e, ∀ q ∈ spd.queue e, q.idx < idx →
       (b'.spd p).cur = some k ∧ (b'.spd p).ending = some { status := st, opcode := op, pcOffset := off, idx }
         ∧ (b'.spd p).faultStatus = spd.faultStatus ∧ ∀ g, ∀ z ∈ (b'.spd p).queue g, z.idx < idx))

/-- R68, R140, R259, R340, R358: a drained blank retires: what it staged is released in order, its registrations are returned, its slots
are posted as retired, and its entry waits for done_cell. The spindle is free of it, and what it wrote stays: the handles it
wrote are carried. done_cell is signalled by 1 and the entry returned once every effect is accepted, and not before. -/
def Obligations.BlankRetirement : Prop :=
  (∀ (p : Spd) (s : State) (k : Blank),
     let b := s.blk
     let spd := b.spd p
     b.runs p = true → spd.cur = some k → spd.hold = .retired → spd.drained = true → spd.ending = none →
     Served (.blankRetire p) s (retiredOf s.dram b p k)) ∧
  (∀ (p : Spd) (s : State) (k : Blank),
     let b := s.blk
     let spd := b.spd p
     b.runs p = true → b.stalled = false → spd.cur = some k → spd.hold = .retired → spd.drained = true → spd.ending = none →
     spd.staging = [] → spd.stageWait = [] → spd.tally = [] → spd.regsns = [] → b.trace.enable = false →
     ∃ b', Gives (.blankRetire p) s b' ∧ (b'.spd p).cur = none ∧ (b'.spd p).started = false ∧ (b'.spd p).hold = .none
       ∧ b'.dones = b.dones ++ [{ blank := k, spindle := p, serial := spd.serial }]
       ∧ (b'.spd p).handles = spd.handles.map (fun h => (h.1, { h.2 with written := false, carried := h.2.carried || h.2.written, freeIdx := 0 }))
       ∧ (b'.spd p).spad = spd.spad ∧ (b'.spd p).bowl = spd.bowl ∧ b'.chans = b.chans ∧ b'.cells = b.cells
       ∧ ∀ q : Nat, q ≠ p → b'.spd q = b.spd q) ∧
  (∀ (k : Nat) (s : State) (d : Done),
     let b := s.blk
     b.dones[k]? = some d → b.clocked = true →
     (b.effectWaits d = false →
       let x := d.blank.desc.toNat
       let b' : Block := { b with dones := b.dones.eraseIdx k }
       Gives (.doneCellSignal k) s
         ((if bit x 145 then b'.signal (bits x 144 128) 1 (0x3000 + d.spindle) else b').subUsed d.blank.ctx 1)) ∧
     (b.effectWaits d = true → Gives (.doneCellSignal k) s b))

/-- R255 to R258: the dispatcher of a tile gives the first open spindle in rotation its first blank in the class
order; a dispatched blank enters the empty prefetched slot, and its first code lines and warm ranges are read. Readings of the model: notes/assumptions/112. -/
def Obligations.DispatchAndArrival : Prop :=
  (∀ (t : TileId) (s : State) (l rack : Nat) (e : RackEntry) (guest : Bool),
     let b := s.blk
     let b1 := b.modTile t fun x => { x with rotate := (x.rotate + 1) % 64 }
     b.clocked = true → b.trace.enable = false → tabWf [] b.racks = true → b.slotOpen l = true →
     l = 64 * t + (b.tile t).rotate % 64 → b1.choose (b1.physOf l) l = some (rack, e, guest) →
     ∃ b', Gives (.dispatchDecision t) s b'
       ∧ b'.rack rack = eraseFirst (fun x => x == e) (b.rack rack)
       ∧ (b'.spd (b.physOf l)).arriving = some { e.blank with guest } ∧ (b'.spd (b.physOf l)).pre = none
       ∧ (b'.spd (b.physOf l)).cur = (b.spd (b.physOf l)).cur
       ∧ (b'.tile t).rotate = ((b.tile t).rotate + 1) % 64
       ∧ b'.cells = b.cells ∧ b'.chans = b.chans ∧ b'.ctxs = b.ctxs ∧ (∀ r, r ≠ rack → b'.rack r = b.rack r)
       ∧ ∀ q, q ≠ b.physOf l → b'.spd q = b.spd q) ∧
  (∀ (p : Spd) (s : State) (k : Blank),
     let spd := s.blk.spd p
     spd.arriving = some k → s.blk.clocked = true → spd.inService = true → spd.faulted = false → spd.resetting = false →
     spd.pre = none →
     Served (.chuckArrival p) s ((s.blk.setSpd p { spd with arriving := none, pre := some k }).prefetch s.dram p k))

/-! ### Engine words -/

/-- R52 to R54: a sound engine word leaves the sequencer for its engine's queue, behind what is there. Its engine is
busy here, so that nothing begins. Readings of the model: notes/assumptions/58. -/
def Obligations.EngineWordsEnterQueue : Prop :=
  ∀ r ∈ engineRows, ∀ (p : Spd) (w : W120) (s : State) (o : OpSpec) (q : QCmd),
    let x := mkWord r.2 w
    opSpec r.2 = some o → (r.2 = 0xF2 → gwOp x ≠ 1) → s.blk.canQueue p o x = true →
    q ∈ (s.blk.spd p).queue o.eng → q.begun = true → q.done = false → nextToBegin ((s.blk.spd p).queue o.eng) = none →
    Gives (r.1 p w) s (s.blk.enqueued p o x)

/-- R22, R55, R56: into a free engine, a confirmed word begins at once: its wait flag and load credit are taken and rel = 1 applied. What
follows is what its operation answers: it is carried out; it goes on through later events; it faults; it cannot begin yet, and
only enters its queue; or it asks for host-window bytes and waits for them. VPIN_RELEASE is VPIN's word with op 0001. Readings
of the model: notes/assumptions/60. -/
def Obligations.EngineWordsBegin : Prop :=
  (∀ r ∈ engineRows, ∀ (p : Spd) (w : W120) (s : State) (o : OpSpec) (b' : Block),
     let x := mkWord r.2 w
     let q := (s.blk.spd p).newCmd o x
     let b1 := s.blk.opened p o x
     opSpec r.2 = some o → (r.2 = 0xF2 → gwOp x ≠ 1) → s.blk.startsNow p o x = true →
     (o.eff s.dram b1 p { q with begun := true } false = .ok b' → Served (r.1 p w) s (b'.carried p o q)) ∧
     (o.eff s.dram b1 p { q with begun := true } false = .run b' →
       Served (r.1 p w) s (b'.modCmd p o.eng q.idx fun z => { z with resume := false })) ∧
     (∀ st, o.eff s.dram b1 p { q with begun := true } false = .fault b' st → Served (r.1 p w) s (b'.cmdFault p o.eng q st)) ∧
     (o.eff s.dram b1 p { q with begun := true } false = .hold → Gives (r.1 p w) s (s.blk.enqueued p o x)) ∧
     (∀ rs, o.eff s.dram b1 p { q with begun := true } false = .host b' rs →
       Served (r.1 p w) s ((b1.modCmd p o.eng q.idx fun z => { z with resume := true }).askHost p o.eng q rs))) ∧
  (∀ (p : Spd) (w : W120) (s : State) (b' : Block),
     let x := mkWord 0xF2 w
     let q := (s.blk.spd p).newCmd opVpin x
     gwOp x = 1 → s.blk.startsNow p opVpin x = true →
     (effVpin s.dram (s.blk.opened p opVpin x) p { q with begun := true } false = .ok b' →
       Served (.vpinRelease p w) s (b'.carried p opVpin q)) ∧
     Gives (.vpin p w) s s.blk)

/-- R54 to R57, R63, R64, R66, R67, R249: a queued command begins once every older one is carried out, its flag is set, a credit is
free, its requests are within their bounds and, where Table 3.6 asks for it, it is confirmed; its operation's answer has the
outcomes of EngineWordsBegin, and one that has begun goes on when its host-window bytes are there. A carried-out command completes
when what it sent is answered and accepted: a confirmed one leaves its queue and sets its flag, a speculative one waits for
confirmation; one whose remote writes failed faults, but KPUT and KGET with a status address write their status there. An abandoned
command gives back its flag and its credit, and its work is counted as waste. Readings of the model: notes/assumptions/59, 163. -/
def Obligations.EngineCommandsRunInOrder : Prop :=
  (∀ (p : Spd) (e : Engine) (s : State) (q : QCmd) (o : OpSpec),
     let b := s.blk
     let spd := b.spd p
     let w := q.w.toNat
     b.arraysRun p = true → (∀ a ∈ spd.abandoned, a.1 ≠ e) → nextToBegin (spd.queue e) = some q →
     opSpec (w % 256) = some o → o.eng = e →
     (q.hostWait = true → Gives (.engineCmdBegin p e) s b) ∧
     (q.hostWait = false → q.begun = true →
       Served (.engineCmdBegin p e) s (b.beginEnd p e q b (o.eff s.dram b p q (spd.isSpec q.idx)))) ∧
     (q.hostWait = false → q.begun = false →
       (spd.isSpec q.idx = true → o.mayBeSpec = false → Gives (.engineCmdBegin p e) s b) ∧
       (∀ k, hdrWait w = some k → (spd.flag k).count = 0 → Gives (.engineCmdBegin p e) s b) ∧
       (o.credit = true → 16 ≤ spd.credit → Gives (.engineCmdBegin p e) s b) ∧
       (b.lineRoom p (e == .store) = false → Gives (.engineCmdBegin p e) s b) ∧
       (spd.isSpec q.idx = false → (∀ k, hdrWait w = some k → (spd.flag k).count ≠ 0) → (o.credit = true → spd.credit < 16) →
         b.lineRoom p (e == .store) = true →
         Served (.engineCmdBegin p e) s (b.beginEnd p e q (b.begun p o q) (o.eff s.dram (b.begun p o q) p { q with begun := true } false))))) ∧
  (∀ (p : Spd) (e : Engine) (s : State) (q : QCmd),
     let b := s.blk
     let spd := b.spd p
     let w := q.w.toNat
     b.arraysRun p = true → (spd.queue e).find? (!·.completed) = some q →
     (q.begun = false ∨ q.done = false ∨ q.outstanding ≠ 0 ∨ q.deferred ≠ none ∨ b.linesWait q.awaits = true →
       Gives (.engineCmdComplete p e) s b) ∧
     (q.begun = true → q.done = true → q.outstanding = 0 → q.deferred = none → b.linesWait q.awaits = false →
       let status := (w % 256 = 0xA5 ∨ w % 256 = 0xC5) ∧ bits w 48 44 ≠ 0
       let told := if status then b.engWrite p e q (q.rf 48 44) (leBytes 8 ((q.failed.map Status.code).getD 0)) else b
       (∀ st, ¬ status → q.failed = some st →
         Served (.engineCmdComplete p e) s (b.blankFault p q.idx st (w % 256) (spd.pcOffset q.pc))) ∧
       (status ∨ q.failed = none →
         (spd.isSpec q.idx = true → Served (.engineCmdComplete p e) s (told.modCmd p e q.idx fun z => { z with completed := true })) ∧
         (spd.isSpec q.idx = false → Served (.engineCmdComplete p e) s (told.cmdLeave s.dram p e q))))) ∧
  (∀ (p : Spd) (e : Engine) (b : Block) (m : Dram) (q : QCmd) (rest : List QCmd),
     let spd := b.spd p
     spd.queue e = q :: rest → q.obs = none → q.slots = 0 → (∀ g ∈ spd.gbuf, g.engine ≠ e) → spd.stageWait = [] → spd.lateSigs = [] →
     spd.ldt = none → spd.ending = none →
     b.cmdLeave m p e q = b.setSpd p (match hdrSet q.w.toNat with
       | some k => (spd.setQueue e rest).modFlag k LocalFlag.set
       | none => spd.setQueue e rest)) ∧
  (∀ (p : Spd) (e : Engine) (cycles bytes : Nat) (s : State) (q : QCmd),
     let spd := s.blk.spd p
     spd.abandoned.find? (fun a => a.1 == e) = some (e, q) → spd.ldt = none → s.blk.stalled = false →
     ∃ b, Gives (.engineAbandon p e cycles bytes) s b ∧ (b.spd p).abandoned = eraseFirst (fun a => a == (e, q)) spd.abandoned
       ∧ (b.spd p).credit = (if q.credit then spd.credit - 1 else spd.credit)
       ∧ (b.spd p).flags = (match (if q.flagTaken then hdrWait q.w.toNat else none) with
           | some k => (spd.modFlag k fun f => { f with count := min 65535 (f.count + 1) }).flags
           | none => spd.flags)
       ∧ (s.blk.cnt.freeze = false → (b.spd p).wasteCycles = spd.wasteCycles.add cycles ∧ (b.spd p).wasteBytes = spd.wasteBytes.add bytes)
       ∧ (b.spd p).sregs = spd.sregs ∧ (b.spd p).pc = spd.pc ∧ b.cells = s.blk.cells ∧ b.chans = s.blk.chans)

/-! ### What engine words compute -/

/-- R38, R39, R92, R93: an element-wise word reads its operands, applies its operation to each lane and writes the
results; the row words reduce each row to its sum, maximum, minimum, or position of the maximum. Readings of the
model: notes/assumptions/5. -/
def Obligations.LaneAndRowWords : Prop :=
  (∀ r ∈ laneRows, ∀ (p : Spd) (w : W120) (s : State),
     let (mk, opc, op, ops) := r
     let x := mkWord opc w
     let o : OpSpec := { eng := .vector, mayBeSpec := true, regs := vwRegs, bad := laneBad ops, eff := effLane op ops }
     let q := (s.blk.spd p).newCmd o x
     let b := s.blk.opened p o x
     let es := if vwFmt x = 1 then 2 else 4
     let n := vwLen x * vwRows x
     let two := 2 ≤ ops ∧ vwBsc x = false
     let srcs := [(q.ra, n * es)] ++ (if two then [(q.rb, n * es)] else []) ++ (if 3 ≤ ops then [(q.rc, n * es)] else [])
     s.blk.startsNow p o x = true → (∀ a ∈ (q.rd, n * es) :: srcs, a.1 % es = 0) →
     (∀ a ∈ srcs, overlapBad (q.rd, n * es) a es es = false) →
     rangeCheck b p .vector { q with begun := true } srcs [(q.rd, n * es)] = none →
     let ra := b.engRead p { q with begun := true } q.ra (n * es)
     let rb := if two then ra.2.engRead p { q with begun := true } q.rb (n * es) else ([], ra.2)
     let rc := if 3 ≤ ops then rb.2.engRead p { q with begun := true } q.rc (n * es) else ([], rb.2)
     let bro := decodeElem (vwFmt x) (q.rb % 2 ^ (8 * es))
     Gives (mk p w) s ((rc.2.engWrite p .vector { q with begun := true } q.rd (packRow (vwFmt x) ((List.range n).map fun k =>
       fopLane op (vwFmt x == 1) ((unpackRow (vwFmt x) n ra.1).getD k .nan)
         (if vwBsc x then bro else (unpackRow (vwFmt x) n rb.1).getD k .nan) ((unpackRow (vwFmt x) n rc.1).getD k .nan)))).carried p o q)) ∧
  (∀ r ∈ rowRows, ∀ (p : Spd) (w : W120) (s : State),
     let (mk, opc, size, f) := r
     let x := mkWord opc w
     let o : OpSpec := { eng := .vector, mayBeSpec := true, regs := vwRegs, bad := rowOpBad, eff := effRow size f }
     let q := (s.blk.spd p).newCmd o x
     let b := s.blk.opened p o x
     let es := elemBits (vwFmt x) / 8
     let src := (q.ra, vwRows x * vwLen x * es)
     let dst := (q.rd, vwRows x * size)
     s.blk.startsNow p o x = true → q.ra % es = 0 → q.rd % size = 0 → overlapBad dst src size es = false →
     rangeCheck b p .vector { q with begun := true } [src] [dst] = none →
     let rd := b.engRead p { q with begun := true } src.1 src.2
     Gives (mk p w) s ((rd.2.engWrite p .vector { q with begun := true } q.rd ((List.range (vwRows x)).flatMap fun r =>
       f (unpackRow (vwFmt x) (vwLen x) (slice rd.1 (r * vwLen x * es) (vwLen x * es))))).carried p o q))

/-- VCVT to a format that is not block-scaled, the two draws, and the OR and clear of mark bytes write their results (R41, R93, R176,
R197). Readings of the model: notes/assumptions/37. -/
def Obligations.ConversionDrawAndMarkWords : Prop :=
  ∀ (p : Spd) (w : W120) (s : State),
    let spd := s.blk.spd p
    (let x := mkWord 0x6A w
     let q := spd.newCmd opVcvt x
     let b := s.blk.opened p opVcvt x
     let c := convOf (vwConv x)
     let ses := elemBits (vwFmt x) / 8
     let src := (q.ra, vwRows x * vwLen x * ses)
     let dst := (q.rd, vwRows x * rowBytes c.fmt (vwLen x))
     let seed := (s.blk.ctx spd.ctx).seed.toNat
     s.blk.startsNow p opVcvt x = true → isMx c.fmt = false → q.ra % ses = 0 → q.rd % elemAlign c.fmt = 0 →
     overlapBad dst src (elemBits c.fmt) (elemBits (vwFmt x)) = false → overlapBad (q.rb, 0) src 8 (elemBits (vwFmt x)) = false →
     rangeCheck b p .vector { q with begun := true } [src] [dst, (q.rb, 0)] = none →
     let rd := b.engRead p { q with begun := true } src.1 src.2
     Gives (.vcvt p w) s (((rd.2.cmdEvent p { q with begun := true } 0x19 (convBlocks c q.rc (vwRows x * vwLen x))).engWrite p .vector { q with begun := true } q.rd
       ((List.range (vwRows x)).flatMap fun r => packRow c.fmt ((List.range (vwLen x)).map fun j =>
         convAt c seed ((q.rc + r * vwLen x + j) % 2 ^ 64) ((unpackRow (vwFmt x) (vwLen x) (slice rd.1 (r * vwLen x * ses) (vwLen x * ses))).getD j .nan)))).carried p opVcvt q)) ∧
    (∀ d ∈ [(Instr.vrand, 0x78, opVrand, (id : Nat → Nat)), (Instr.vunif, 0x79, opVunif, unifOf)],
     let x := mkWord d.2.1 w
     let q := spd.newCmd d.2.2.1 x
     let b := s.blk.opened p d.2.2.1 x
     let n := vwLen x * vwRows x
     let rd := b.engRead p { q with begun := true } q.rb 64
     s.blk.startsNow p d.2.2.1 x = true → q.rb % 64 = 0 → q.rd % 4 = 0 → overlapBad (q.rd, 4 * n) (q.rb, 64) 4 64 = false →
     rangeCheck b p .vector { q with begun := true } [(q.rb, 64)] [(q.rd, 4 * n)] = none →
     bits (leNat rd.1) 511 256 = 0 → bits (leNat rd.1) 191 128 = 0 →
     Gives (d.1 p w) s (((rd.2.cmdEvent p { q with begun := true } 0x19 (grainBlocks (drawParam (leNat rd.1)).elemBase n)).engWrite p .vector { q with begun := true } q.rd
       ((List.range n).flatMap fun k => leBytes 4 (d.2.2.2 (grainWord (bits (leNat rd.1) 63 0)
         ((bits (leNat rd.1) 127 64 + k) % 2 ^ 64) (bits (leNat rd.1) 223 192) (bits (leNat rd.1) 255 224))))).carried p d.2.2.1 q)) ∧
    (let x := mkWord 0x86 w
     let q := spd.newCmd opVmkor x
     let b := s.blk.opened p opVmkor x
     let n := vwLen x
     s.blk.startsNow p opVmkor x = true → vwBsc x = false → overlapBad (q.rd, n) (q.ra, n) 1 1 = false →
     overlapBad (q.rd, n) (q.rb, n) 1 1 = false → rangeCheck b p .vector { q with begun := true } [(q.ra, n), (q.rb, n)] [(q.rd, n)] = none →
     let ra := b.engRead p { q with begun := true } q.ra n
     let rb := ra.2.engRead p { q with begun := true } q.rb n
     Gives (.vmkor p w) s ((rb.2.engWrite p .vector { q with begun := true } q.rd
       ((List.range n).map fun k => ra.1.getD k 0 ||| rb.1.getD k 0)).carried p opVmkor q)) ∧
    (let x := mkWord 0x87 w
     let q := spd.newCmd opVmkclr x
     let b := s.blk.opened p opVmkclr x
     s.blk.startsNow p opVmkclr x = true → rangeCheck b p .vector { q with begun := true } [] [(q.rd, vwLen x)] = none →
     Gives (.vmkclr p w) s ((b.engWrite p .vector { q with begun := true } q.rd (List.replicate (vwLen x) 0)).carried p opVmkclr q))

/-- R101, R102: HALLOC makes its entry live over pages whose contents become unspecified; a free waits until the
commands before it that name a range in the handle have completed. Readings of the model: notes/assumptions/30, 46. -/
def Obligations.HandleWords : Prop :=
  ∀ (p : Spd) (w : W120) (s : State),
    let spd := s.blk.spd p
    (let x := mkWord 0xA2 w
     let q := spd.newCmd opHalloc x
     let b := s.blk.opened p opHalloc x
     let (base, h, owners, size) := (bits x 74 64, bits x 63 58, bits x 57 52, bits x 50 40)
     let win := tget {} spd.windows spd.ctx
     s.blk.startsNow p opHalloc x = true → win.handleLo ≤ h → h ≤ win.handleHi → win.basePage ≤ base →
     base + size ≤ win.basePage + win.pages → 0 < size → 8 ≤ owners → (tget {} spd.handles h).state = .free →
     (∀ k ∈ spd.handles, k.2.state = .free ∨ pagesMeet base size k.2.basePage k.2.sizePages = false) →
     Gives (.halloc p w) s (((b.forgetRange p (base * 4096, size * 4096)).modSpd p fun z => { z with
       handles := tset z.handles h { state := .live, context := spd.ctx, owners, prefetch := bit x 51, sizePages := size, basePage := base } }).carried p opHalloc q)) ∧
    (∀ f ∈ [(Instr.hfreeLoad, 0xA3, opHfreeLoad), (Instr.hfreeStore, 0xC1, opHfreeStore), (Instr.ghfree, 0xE4, opGhfree)],
     let x := mkWord f.2.1 w
     let q := spd.newCmd f.2.2 x
     let b := s.blk.opened p f.2.2 x
     let e := tget {} spd.handles (bits x 63 58)
     s.blk.startsNow p f.2.2 x = true → e.state = .live → e.context = spd.ctx → bit e.owners (ownerOf f.2.2.eng) = true →
     Gives (f.1 p w) s ((b.modSpd p fun z => { z with
       handles := tset z.handles (bits x 63 58) { e with state := .freeing, freeIdx := spd.nextIdx } }).carried p f.2.2 q)) ∧
    (∀ h : Fin 64, (tget {} spd.handles h).state = .freeing →
      ((∀ e, ∀ q ∈ spd.queue e, (tget {} spd.handles h).freeIdx ≤ q.idx ∨ q.completed = true ∨ s.blk.namesHandle s.dram p h q = false) →
        Gives (.handleFreed p h) s (s.blk.setSpd p { spd with handles := tdel spd.handles h })) ∧
      (∀ e, ∀ q ∈ spd.queue e, q.idx < (tget {} spd.handles h).freeIdx → q.completed = false →
        s.blk.namesHandle s.dram p h q = true → Gives (.handleFreed p h) s s.blk))

/-- R103 to R107, R112: LD copies rows into scratchpad; ST converts rows and writes them to memory, each MX row with its scale bytes;
DCMAINT works on the lines of its range in the die cache and waits until its write-backs are accepted, and does nothing in the
host window. -/
def Obligations.LoadStoreWordsCopy : Prop :=
  ∀ (p : Spd) (w : W120) (s : State),
    let spd := s.blk.spd p
    (let x := mkWord 0xA0 w
     let q := { spd.newCmd opLd x with begun := true }
     let b := s.blk.opened p opLd x
     let (rows, n, mode) := (bits x 127 112, bits x 111 96, bits x 65 64)
     let (rs, rd, rt) := (q.rf 63 59, q.rf 58 54, q.rf 53 49)
     let cs := copyRows rows rs (bits rt 31 0) rd (bits rt 63 32) n
     ∀ b', s.blk.startsNow p opLd x = true → rd % 4 = 0 →
     rangeCheck b p .load q [] [(rd, rowSpan rows (bits rt 63 32) (n * widenFactor mode))] = none →
     b.hostNeeds q (cs.map fun c => (c.src, c.len)) = [] →
     b.loadRows s.dram p q mode (if bits x 45 44 = 0 then .reuse else .none) cs = (none, b') →
     Served (.ld p w) s (b'.carried p opLd (spd.newCmd opLd x))) ∧
    (let x := mkWord 0xC0 w
     let q := { spd.newCmd opSt x with begun := true }
     let b := s.blk.opened p opSt x
     let (rows, len, src) := (bits x 95 80, bits x 79 64, bits x 35 32)
     let c := convOf (bits x 127 96)
     let (rd, rs, rt) := (q.rf 63 59, q.rf 58 54, q.rf 53 49)
     let (re, rsc, ses) := (q.rf 48 44, q.rf 43 39, elemBits src / 8)
     let span := rowSpan rows (bits rt 31 0) (len * ses)
     let read := ((b.cmdEvent p q 0x19 (convBlocks c re (rows * len))).commitRange p rs span).cmdSpad p q.idx
     let seed := (read.2.ctx (read.2.spd p).ctx).seed.toNat
     let row (r : Nat) := cvtRow c seed (re + r * len) (unpackRow src len (read.1.read (rs + r * bits rt 31 0) (len * ses)))
     let out := (List.range rows).flatMap fun r =>
       if isMx c.fmt then [(rd + r * bits rt 63 32, (row r).1), (rsc + r * (len / 32), (row r).2)] else [(rd + r * bits rt 63 32, (row r).1)]
     ∀ b', s.blk.startsNow p opSt x = true → rs % ses = 0 → rd % elemAlign c.fmt = 0 →
     rangeCheck b p .store q [(rs, span)] [] = none → read.2.storeAll s.dram p .store (bits x 38 37 == 1) out = (none, b') →
     Served (.st p w) s (b'.carried p opSt (spd.newCmd opSt x))) ∧
    (let x := mkWord 0xC2 w
     let q := spd.newCmd opDcmaint x
     let b := s.blk.opened p opDcmaint x
     let (a, n) := (q.rf 63 59, q.rf 58 54)
     s.blk.startsNow p opDcmaint x = true → a % 128 = 0 → n ≠ 0 → n % 128 = 0 →
     (b.rangeOf a n = .ok .hbm ∨ b.rangeOf a n = .ok .deep →
       ∃ lines : List Nat, (∀ l ∈ lines, a ≤ 64 * l ∧ 64 * l < a + n) ∧
         Served (.dcmaint p w) s (((b.dcRange s.dram (tileOf p) (bits x 65 64) a n).modCmd p .store q.idx fun z =>
           { z with awaits := lines }).carried p opDcmaint q)) ∧
     (b.rangeOf a n = .ok .host → Gives (.dcmaint p w) s (b.carried p opDcmaint q)))

/-- R81, R83, R105, R107, R174, R178: a tile word with a sound descriptor starts its job, and LDT its visits. Readings of the model:
notes/assumptions/33, 36. -/
def Obligations.TileWordsStartJobs : Prop :=
  ∀ (p : Spd) (w : W120) (s : State) (d : TDesc) (n : Nest),
    let spd := s.blk.spd p
    let going (b : Block) (o : OpSpec) (q : QCmd) : Block := b.modCmd p o.eng q.idx fun z => { z with resume := false }
    (let x := mkWord 0x40 w
     let q := { spd.newCmd opMtile x with begun := true }
     let b := s.blk.opened p opMtile x
     s.blk.startsNow p opMtile x = true → loadTile b p q.idx (bits x 55 32) (fun _ _ => []) (fun _ => false) = .ok (d, n) →
     Served (.mtile p w) s (going (b.startJob s.dram p q 0 d n []) opMtile q)) ∧
    (let x := mkWord 0x48 w
     let q := { spd.newCmd opRtile x with begun := true }
     let b := s.blk.opened p opRtile x
     let a := bits x 55 32
     let v := (b.spd p).asOf q.idx
     let d := tileDescOf (leNat (v.peek a 128))
     s.blk.startsNow p opRtile x = true → inSpad a 128 = true → v.readOk v.ctx a 128 = none → rtileBad d = false →
     tileBad { d with drainMode := drainNowhere } (nestOf 0) = false →
     firstBad ((operandRanges d 0 ++ maskRange d 0 d.k d.n).map fun r => v.readOk v.ctx r.addr r.len) = none →
     Served (.rtile p w) s (going (b.startJob s.dram p q 1 d (nestOf 0) []) opRtile q)) ∧
    (let x := mkWord 0x49 w
     let q := { spd.newCmd opFtile x with begun := true }
     let b := s.blk.opened p opFtile x
     let h := leNat ((b.spd p).peek (ftHacc x) 64)
     let ms := b.engRead p q (ftMarkAddr x) (markBytes d n x)
     s.blk.startsNow p opFtile x = true →
     (ftHash x = true → haccOpen (b.spd p) h = true ∧ bit h 1 = false ∧ bits h 319 304 ≤ ftPart x) →
     loadTile b p q.idx (bits x 55 32) (ftileRanges x) (ftileBad x) (hashView x) = .ok (d, n) →
     Served (.ftile p w) s (going (ms.2.startJob s.dram p q 2 d n ms.1) opFtile q)) ∧
    (let x := mkWord 0xA1 w
     let q := { spd.newCmd opLdt x with begun := true }
     let b := s.blk.opened p opLdt x
     let a := bits x 55 32
     let v := (b.spd p).asOf q.idx
     let ws := [0, n.bufOffset].flatMap fun o => (operandRanges d o).map fun r => (r.addr, r.len)
     let ds := b.engRead p q a 128
     let ns := ds.2.engRead p q d.nestAddr 128
     s.blk.startsNow p opLdt x = true → loadTile b p q.idx a (fun _ _ => []) (fun d => !d.nestEn) = .ok (d, n) →
     (∀ r ∈ ws, overlap r.1 r.2 a 128 = false ∧ overlap r.1 r.2 d.nestAddr 128 = false) →
     firstBad (ws.map fun r => v.writeOk v.ctx (ownerOf .load) r.1 r.2) = none →
     Served (.ldt p w) s (going ((ns.2.modSpd p fun z => { z with ldt := some { idx := q.idx, desc := BitVec.ofNat 1024 (leNat ds.1)
                                                                                nest := BitVec.ofNat 1024 (leNat ns.1), visit := 0 } }).ldtPump s.dram p) opLdt q))

/-! ### Halting, registers and the debug window -/

/-- R18, R70, R368, R373: halt request, resume, debug enable and spindle reset act for the headstock and JTAG; another initiator gets
ACCESS_DENIED and a tile that is off DOMAIN_OFF, and nothing else happens. A sequencer that is drained and asked to halts, a wait
giving up its polls, and one that is not drained, or is held by a FENCE, does not. SPINDLE_RESET and SPD_CTL's spindle_reset
start a reset, by which the spindle's blank ends and its prefetched slot empties; a spindle that awaits a spare is reset later.
When the reset is done, handles, flags, credit and SPD_FAULT are cleared, SPD_CTL is back at its reset value, the memories are
unspecified, and a parked SPINDLE_RESET completes. Readings of the model: notes/assumptions/126, 143. -/
def Obligations.HaltingAndSpindleReset : Prop :=
  (∀ (who : Initiator) (p : Spd) (on : Bool) (s : State),
     let b := s.blk
     let spd := b.spd p
     let ok (x : Spindle) : Block := (b.setSpd p x).answer .success
     (b.hubUp = true → (b.tile (tileOf p)).powered = true → mayAccess b who →
       Gives (.haltReq who p) s (ok { spd with haltReq := true }) ∧
       Gives (.haltResume who p) s (ok { spd with haltReq := false, halted := false }) ∧
       Gives (.debugEn who p on) s (ok { spd with debugEn := on }) ∧
       Gives (.spdSpindleReset who p) s ((b.resetStart s.dram p).answer .success)) ∧
     (∀ b', ctlRefusal b who p = some b' →
       Gives (.haltReq who p) s b' ∧ Gives (.haltResume who p) s b' ∧ Gives (.debugEn who p on) s b' ∧ Gives (.spdSpindleReset who p) s b')) ∧
  (∀ (p : Spd) (s : State),
     let b := s.blk
     let spd := b.spd p
     b.clocked = true → spd.haltReq = true → spd.halted = false →
     (spd.drained = true →
       (∀ w, spd.hold = .swait w → Gives (.sequencerHalt p) s (b.setSpd p { spd with halted := true, hold := .none, pc := w.pc })) ∧
       (∀ mask memory idx, spd.hold = .fence mask memory idx → Gives (.sequencerHalt p) s b) ∧
       ((∀ w, spd.hold ≠ .swait w) → (∀ mask memory idx, spd.hold ≠ .fence mask memory idx) →
         Gives (.sequencerHalt p) s (b.setSpd p { spd with halted := true }))) ∧
     (spd.drained = false → Gives (.sequencerHalt p) s b)) ∧
  (∀ (r : RingId) (e : Entry) (s : State) (c : Cmd), s.blk.accepts r e 0x18 c →
     let b1 := s.blk.started r
     (255 < c.p 0 → Gives (.spindleReset r e) s (b1.finish r e .invalidField 0)) ∧
     (c.p 0 ≤ 255 → b1.logicalIn (c.p 0) = false → Gives (.spindleReset r e) s (b1.finish r e .spindleFault 0)) ∧
     (c.p 0 ≤ 255 → b1.logicalIn (c.p 0) = true → Gives (.spindleReset r e) s (b1.resetStart s.dram (b1.physOf (c.p 0))))) ∧
  (∀ (p : Spd) (m : Dram) (b : Block),
     let spd := b.spd p
     let b' := b.resetStart m p
     (spd.faulted = true → b' = b.setSpd p { spd with resetDue := true }) ∧
     (spd.faulted = false → spd.resetting = true → b' = b) ∧
     (spd.faulted = false → spd.resetting = false → spd.inService = true → (b'.spd p).cur = none ∧ (b'.spd p).pre = none)) ∧
  (∀ (p : Spd) (s : State),
     let b := s.blk
     let spd := b.spd p
     spd.resetting = true → b.hubUp = true →
     ∃ x : Spindle,
       Gives (.spindleResetDone p) s ((b.bumpFree.bumpFree.setSpd p x).finishParked 0 (resetOf ((b.bumpFree.bumpFree.setSpd p x).logicalOf p)) .success)
       ∧ x.resetting = false ∧ x.handles = [] ∧ x.flags = [] ∧ x.credit = 0 ∧ x.creditUnderflow = false ∧ x.haltReq = false
       ∧ x.halted = false ∧ x.debugEn = false ∧ x.gbuf = [] ∧ x.faultStatus = 0 ∧ x.faultOpcode = 0 ∧ x.faultPc = 0
       ∧ (∀ a, a < 0x600000 → x.spad.byte a = Config.freeByte b.freshTag a)
       ∧ (∀ a, a < 0x100000 → x.bowl.byte a = Config.freeByte (b.freshTag + 1) a)
       ∧ x.windows = spd.windows ∧ x.inService = spd.inService ∧ x.spare = spd.spare ∧ x.wasteCycles = spd.wasteCycles
       ∧ x.wasteBytes = spd.wasteBytes ∧ x.cntProg = spd.cntProg)

/-- R16, R18, R70, R76, R368, R400, Table 5.3, Table 3.8: the headstock writes SPD_SPAD_WIN_n, and a one written there clears the sticky
credit_underflow; its write of device memory goes to the channels. An engine or a peer gets ACCESS_DENIED at a register, and any
initiator the status of an address outside every region. In debug mode 8 B of scratchpad or bowl are written or read; a spindle
that is not in debug mode, a tile that is off, an unaligned access and an offset that is neither scratchpad nor bowl are
refused. Readings of the model: notes/assumptions/16, 137, 151. -/
def Obligations.RegisterAndDebugAccess : Prop :=
  (∀ (p : Spd) (n : CtxId) (val : Word64) (s : State),
     let b := s.blk
     let spd := b.spd p
     let base := 0xF01000000000 + 2 ^ 32 * (p.val / 68) + 0x40000000 + 0x1000000 * (p.val % 68)
     let v := val.toNat
     let win : Window := { basePage := bits v 10 0, pages := bits v 26 16, handleLo := bits v 37 32, handleHi := bits v 43 38 }
     b.hubUp = true →
     ((b.tile (tileOf p)).powered = true →
       Gives (.registerWrite .headstock (BitVec.ofNat 64 (base + 0x500 + 8 * n)) 8 val) s
         ((b.setSpd p { spd with windows := tset spd.windows n win }).answer .success) ∧
       Gives (.registerWrite .headstock (BitVec.ofNat 64 base) 8 val) s
         ((b.setSpd p { spd with creditUnderflow := spd.creditUnderflow && !bit v 56 }).answer .success)) ∧
     ((b.tile (tileOf p)).powered = false →
       Gives (.registerWrite .headstock (BitVec.ofNat 64 base) 8 val) s { b with resp := { status := .domainOff } }) ∧
     (∀ who ∈ [Initiator.engine, .kerf], ∀ a : Word64,
       b.rangeOf a.toNat 8 = .ok .control ∨ b.rangeOf a.toNat 8 = .ok .debug →
       Gives (.registerWrite who a 8 val) s { b with resp := { status := .accessDenied } }) ∧
     (∀ who ∈ [Initiator.headstock, .engine, .kerf], ∀ (a : Word64) (st : Status), b.rangeOf a.toNat 8 = .error st →
       Gives (.registerWrite who a 8 val) s { b with resp := { status := st } }) ∧
     (∀ a : Word64, b.rangeOf a.toNat 8 = .ok .hbm ∨ b.rangeOf a.toNat 8 = .ok .deep → b.power ≠ .a2 →
       let bs := leBytes 8 v
       Gives (.registerWrite .headstock a 8 val) s
         ((b.hubWrite a.toNat bs).answer (if writeBad s.dram b .write a.toNat bs then .poisonedTarget else .success)))) ∧
  (∀ (p : Spd) (o : Nat) (val : Word64) (s : State),
     let b := s.blk
     let spd := b.spd p
     let a := BitVec.ofNat 64 (0xF80000000000 + 2 ^ 39 * (p.val / 68) + 2 ^ 32 * (p.val % 68) + o)
     b.hubUp = true → o < 2 ^ 32 →
     ((b.tile (tileOf p)).powered = true → o % 8 = 0 → spd.debugEn = true → spd.halted = true →
       (o < 0x600000 →
         Gives (.debugAccess .headstock a 8 (some val)) s ((b.spadWrite p o (leBytes 8 val.toNat)).answer .success) ∧
         Gives (.debugAccess .headstock a 8 none) s ((b.spadRead p o 8).2.answer .success (spd.peek o 8))) ∧
       (0x80000000 ≤ o → o < 0x80100000 →
         Gives (.debugAccess .headstock a 8 (some val)) s
           ((b.setSpd p { spd with bowl := spd.bowl.write (o - 0x80000000) (leBytes 8 val.toNat) }).answer .success) ∧
         Gives (.debugAccess .headstock a 8 none) s (b.answer .success (spd.bowl.read (o - 0x80000000) 8))) ∧
       (0x600000 ≤ o → (o < 0x80000000 ∨ 0x80100000 ≤ o) →
         Gives (.debugAccess .headstock a 8 none) s { b with resp := { status := .addressUnmapped } })) ∧
     (o % 8 ≠ 0 → Gives (.debugAccess .headstock a 8 none) s { b with resp := { status := .invalidField } }) ∧
     (o % 8 = 0 → (b.tile (tileOf p)).powered = false →
       Gives (.debugAccess .headstock a 8 none) s { b with resp := { status := .domainOff } }) ∧
     (o % 8 = 0 → (b.tile (tileOf p)).powered = true → spd.inDebug = false →
       Gives (.debugAccess .headstock a 8 none) s { b with resp := { status := .accessDenied } }))

/-- R395, R397: a read of the Alert Response Address releases ALERT#; a management message is answered while its
transport is up. IDCODE answers, BYPASS changes nothing, and TRST# holds the JTAG logic in reset. Readings of the
model: notes/assumptions/65, 136, 143. -/
def Obligations.ManagementAndJtag : Prop :=
  (∀ (s : State) (msg : List Byte),
     let b := s.blk
     let answered (pcie : Bool) : Block := { b.bumpFree with mctpOut := b.mctpOut ++ Config.mctpAnswer b.freeCtr pcie msg }
     (b.auxGood = true → Gives .smbusAlertResponse s { b with alert := false }) ∧ (b.auxGood = false → Gives .smbusAlertResponse s b) ∧
     (b.power ≠ .a4 → Gives (.mctpMessage false msg) s (answered false)) ∧ (b.power = .a4 → Gives (.mctpMessage false msg) s b) ∧
     (b.perst = false → b.power = .a0 ∨ b.power = .a1 ∨ b.power = .a2 → b.pcieWidth ≠ 0 → Gives (.mctpMessage true msg) s (answered true)) ∧
     (b.perst = true ∨ b.pcieWidth = 0 → Gives (.mctpMessage true msg) s b)) ∧
  (∀ (s : State) (j : JtagInstr) (low : Bool),
     Gives (.jtagTrst low) s { s.blk with jtagReset := low } ∧
     (s.blk.jtagReset = true → Gives (.jtagInstruction j) s s.blk) ∧
     (s.blk.jtagReset = false → s.blk.power ≠ .a4 →
       Gives (.jtagInstruction .bypass) s s.blk ∧
       Gives (.jtagInstruction .idcode) s { s.blk with resp := { data := [0xA7, 0xC8, 0x10, 0x1B] } }))

/-! ### Matrix array, bowl and stolen tiles -/

/-- R73, R81, R84, R91, R171, R182, R183: a weight tile in place lets the spindle's job, or the N tile that it stole, accumulate the next
K chunk; a finished N tile drains, a stolen one through the thief; a nest visit takes its ready flag, and waits while that is zero.
A breach met on the way faults the job. The job stands where nothing but this event can move it. An idle spindle takes the highest
unbegun N tile of the spindle of its tile that has most of them, the lowest on a tie, and none where there is none. Readings of
the model: notes/assumptions/35. -/
def Obligations.MatrixEventsAndStealing : Prop :=
  (∀ (p : Spd) (s : State) (j : TileJob) (q : QCmd),
     let b := s.blk
     let spd := b.spd p
     let t := j.ctx p
     let sp := if spd.isSpec j.idx then some j.idx else none
     b.arraysRun p = true → spd.thief = none → spd.job = some j →
     (∀ nt, j.visiting = true → j.curNt = some nt → b.jobMove s.dram p = none → j.kc < t.chunks →
       let o := b.operands t
       (t.nibbleBad o.1 nt j.kc = true → Served (.weightTileLoad p) s (o.2.jobFault p j.idx .invalidField)) ∧
       (t.nibbleBad o.1 nt j.kc = false →
         let counted := (o.2.countFor p 0x04 1 sp).countFor p (t.rowEvent nt).1 (t.rowEvent nt).2 sp
         Served (.weightTileLoad p) s
           (((counted.accumulate p o.1 t j.set nt j.kc false).modJob p fun j => { j with kc := j.kc + 1 }).matrixPump s.dram p))) ∧
     (∀ nt set rest b', b.lineRoom p true = true → b.jobMove s.dram p = none → j.toDrain = (nt, set) :: rest → (spd.matrixQ.find? fun q => q.idx == j.idx) = some q →
       (b.drainTile s.dram p q t set nt = (none, b') →
         Served (.bowlDrain p) s ((b'.modJob p fun j => { j with toDrain := rest }).matrixPump s.dram p)) ∧
       (∀ st, b.drainTile s.dram p q t set nt = (some st, b') → Served (.bowlDrain p) s (b'.jobFault p j.idx st))) ∧
     (j.visiting = false → t.d.nestEn = true →
       ((spd.flag t.x.ready).count = 0 → Gives (.nestVisit p) s b) ∧
       ((spd.flag t.x.ready).count ≠ 0 →
         let taken := spd.modFlag t.x.ready LocalFlag.take
         (tensorScaleBad taken t.d t.off = true → Served (.nestVisit p) s ((b.setSpd p taken).jobFault p j.idx .invalidField)) ∧
         (tensorScaleBad taken t.d t.off = false →
           let j' := { j with visiting := true, nextNt := 0, ntEnd := t.d.n / 64, curNt := none, kc := 0 }
           Served (.nestVisit p) s ((b.setSpd p { taken with job := some j' }).matrixPump s.dram p))))) ∧
  (∀ (p : Spd) (s : State) (x : Stolen) (j : TileJob) (q : QCmd),
     let b := s.blk
     let t := j.ctx x.victim
     b.arraysRun p = true → (b.spd p).thief = some x → (b.spd x.victim).job = some j →
     (x.full = false → x.kc < t.chunks → t.rows x.nt ≠ [] →
       let o := b.operands t
       let skip := t.skipped o.1 x.nt x.kc
       let counted := if skip then o.2
         else (o.2.countEvent p o.1.ctx 0x04 1).countEvent p o.1.ctx (t.rowEvent x.nt).1 (t.rowEvent x.nt).2
       t.nibbleBad o.1 x.nt x.kc = false →
       Served (.weightTileLoad p) s ((counted.accumulate p o.1 t x.set x.nt x.kc skip).modSpd p fun z =>
         { z with thief := some { x with kc := x.kc + 1, full := decide (t.chunks ≤ x.kc + 1) } })) ∧
     (∀ b', b.lineRoom p true = true → x.full = true ∨ t.rows x.nt = [] → ((b.spd x.victim).matrixQ.find? fun q => q.idx == j.idx) = some q →
       b.drainTile s.dram p q t x.set x.nt = (none, b') →
       Served (.bowlDrain p) s (((b'.modSpd p fun z => { z with thief := none }).modJob x.victim fun j =>
         { j with stolen := j.stolen.filter (· ≠ x.nt) }).matrixPump s.dram x.victim))) ∧
  (∀ (p : Spd) (s : State),
     let b := s.blk
     b.arraysRun p = true → (b.spd p).cur = none → (b.spd p).thief = none →
     ((∀ u : Nat, tileOf u = tileOf p → u ≠ p → b.stealable (tileOf p) u = 0) → Gives (.stealTake p) s b) ∧
     (∀ (v : Spd) (j : TileJob), tileOf v = tileOf p → v ≠ p → (b.spd v).job = some j → b.stealable (tileOf p) v ≠ 0 →
       (∀ u : Nat, tileOf u = tileOf p → u ≠ p → u ≠ v → b.stealable (tileOf p) u < b.stealable (tileOf p) v
         ∨ b.stealable (tileOf p) u = b.stealable (tileOf p) v ∧ v < u) →
       ∃ b', Gives (.stealTake p) s b'
         ∧ (b'.spd p).thief = some { victim := v, idx := j.idx, nt := j.ntEnd - 1 } ∧ (b'.spd p).bowlCtx = (b.spd v).ctx
         ∧ (b'.spd v).job = some { j with ntEnd := j.ntEnd - 1, stolen := j.stolen ++ [j.ntEnd - 1] }
         ∧ (b'.spd v).matrixQ = (b.spd v).matrixQ ∧ (b'.spd v).bowl = (b.spd v).bowl ∧ (b'.spd p).bowl = (b.spd p).bowl
         ∧ ∀ u : Nat, u ≠ p → u ≠ v → b'.spd u = b.spd u))

/-! ### Gathering buffer, write-combining buffer, die cache -/

/-- R97, R109, R113, R242, R243: an idle gathering-buffer entry goes to its bank, byte by byte of its mask, and leaves
the buffer; an engine's write enters the tile's write-combining buffer, and an entry of age leaves it; the oldest
die-cache fill is installed unless a repartition is running or the line is already there, and a repartition that ends
is no longer busy and its TILE_CONFIG completes. Readings of the model: notes/assumptions/3, 8. -/
def Obligations.BuffersAndDieCache : Prop :=
  (∀ (p : Spd) (e : Engine) (sector : Nat) (s : State),
     let spd := s.blk.spd p
     let idle (g : GatherEntry) : Bool := g.engine == e && g.sector == sector
     s.blk.arraysRun p = true →
     ∃ b, Gives (.gatheringBufferFlush p e sector) s b ∧ OnlySpd p s.blk b ∧ (b.spd p).gbuf = spd.gbuf.filter (fun g => !idle g)
       ∧ (b.spd p).spad = (spd.gbuf.filter idle).foldl GatherEntry.commit spd.spad ∧ (b.spd p).handles = spd.handles ∧ (b.spd p).sregs = spd.sregs) ∧
  (∀ (p : Spd) (t : TileId) (e : Engine) (a : Word64) (back : Bool) (data : List Byte) (k : Nat) (s : State),
     let b := s.blk
     (b.runs p = true → data ≠ [] → b.inMemory a.toNat data.length = true →
       Served (.wcWrite p e a back data) s (b.tileWrite s.dram p e back a.toNat data)) ∧
     (b.runs p = true → b.inMemory a.toNat data.length = false → Gives (.wcWrite p e a back data) s b) ∧
     (∀ x, b.clocked = true → (b.tile t).wc[k]? = some x → Served (.wcAgeFlush t k) s (b.flushWhere s.dram t (· == x)))) ∧
  (∀ (t : TileId) (s : State) (g : Fill) (rest : List Fill),
     let b := s.blk
     let b1 := b.modTile t fun tl => { tl with fills := rest }
     (b.tile t).fills = g :: rest → b.clocked = true →
     ((b.tile t).repartBusy = true ∨ (((b1.tile t).dcSet g.line).find g.line).isSome = true → Gives (.dieCacheFill t) s b1) ∧
     ((b.tile t).repartBusy = false → (((b1.tile t).dcSet g.line).find g.line).isNone = true →
       Gives (.dieCacheFill t) s (b1.dcInstall t { line := g.line, data := g.data } g.burl))) ∧
  (∀ (t : TileId) (s : State), (s.blk.tile t).repartBusy = true →
     Gives (.dcRepartitionDone t) s ((s.blk.setTile t { s.blk.tile t with repartBusy := false }).finishParked 0
       (fun e => entOpcode e == 0x06 && bits e.toNat 199 192 == t) .success))

/-- R94, R97: a write to a Ram is what later reads of those bytes see, and no other byte changes. -/
def Obligations.ScratchpadReadsLastWrite : Prop :=
  ∀ (r : Ram) (a : Nat) (bs : List Byte), tabWf 0 r.mem = true →
    (∀ x, (r.write a bs).byte x = if a ≤ x ∧ x < a + bs.length then bs.getD (x - a) 0 else r.byte x) ∧ tabWf 0 (r.write a bs).mem = true

/-! ### Device memory and its channels -/

/-- R403: every step keeps device memory in its canonical form, in which an unlisted byte is zero, and leaves the working flag
`stalled` down. Readings of the model: notes/assumptions/152. -/
def Obligations.EveryStepKeepsMemoryForm : Prop :=
  ∀ s t : State, s.wf = true → step s = .next t → t.wf = true

/-- R377, R401, R403, Tables 3.8, 5.11, 9.4, 13.4, 14.3, 14.5, 15.2, 16.2, 17.2, 17.3, 18.4 to 18.6, 19.4, 20.5:
memory and queue are empty at reset, and the registers hold the values that the manual's tables give. Readings of the
model: notes/assumptions/19, 20, 21. -/
def Obligations.ResetState : Prop :=
  (State.reset.wf = true ∧ State.reset.pending = [] ∧ (∀ k, tget 0 State.reset.dram.mem k = 0) ∧ (∀ k, tget false State.reset.dram.poison k = false)) ∧
  (let b := State.reset.blk
   b.power = .a0 ∧ b.perst = true ∧ b.ready = false ∧ b.bootStage = 0 ∧ b.restarts = 0 ∧ b.bar2Err = false ∧ b.cellErr = false ∧
   b.krfUdpPort = 0xB80A ∧ b.krfDscpData = 0x1A ∧ b.krfDscpCtrl = 0x30 ∧ b.ptp.timeFlag = true ∧ b.ptp.offsetNs = 0 ∧
   b.memUeThreshold = 4 ∧ b.memUeWindowH = 0x18 ∧ b.memScrubHbmH = 0x18 ∧ b.memScrubDeepH = 0x30 ∧ b.memScrubEn = true ∧ b.keepShare = 4 ∧
   b.cal.longW = 0xC80 ∧ b.cal.shortW = 0xE10 ∧ b.cal.target = 10 ∧ b.cal.opNow = 10 ∧ b.cal.railMv = 0x2EE ∧ b.cal.followIndex = 15 ∧
   b.cnt.lenUs = 0x3E8 ∧ b.cnt.freeze = false ∧ b.cnt.seq = 0 ∧ b.trace.sizeLog2 = 5 ∧ b.trace.enable = false ∧
   (∀ p : Nat, p < 272 → (∀ r, (b.spd p).reg r = 0) ∧ (∀ f, (b.spd p).flag f = {}) ∧ (b.spd p).credit = 0 ∧ (b.spd p).pc = 0 ∧ (b.spd p).faultStatus = 0
     ∧ (b.spd p).handles = [] ∧ (b.spd p).windows = [] ∧ (b.spd p).cur = none ∧ (b.spd p).debugEn = false
     ∧ ((b.spd p).inService = true ↔ p % 68 < 64) ∧ ((b.spd p).spare = true ↔ 64 ≤ p % 68)) ∧
   (∀ t : Nat, (b.tile t).burlWays = 0 ∧ (b.tile t).stealEnable = false ∧ (b.tile t).stealMinLeft = 2 ∧ (b.tile t).stealMask = 0) ∧
   (∀ c : Nat, b.cell c = {} ∧ (b.ctx c).state = .free ∧ (b.ctx c).sched.quota = 0x1000 ∧ (b.ctx c).sched.enable = false ∧ (b.ctx c).krf.jobEn = false) ∧
   (∀ r : Nat, (b.ring r).enable = false ∧ (b.ring r).cmdProd = 0 ∧ (b.ring r).phase = true ∧ (b.ring r).taken = []) ∧
   (∀ q : Nat, (b.port q).linkUp = false ∧ (b.port q).pfcPrio = 3 ∧ (b.port q).drops = 0))

/-- Every command completes, and leaves the waiting commands as they are. Readings of the model: notes/assumptions/1,
147. -/
def Obligations.EveryCommandCompletes : Prop :=
  ∀ (i : Instr) (s : State), ∃ t, exec i s = .next t ∧ t.pending = s.pending

/-- R236, R244: bytes of device memory change only where a channel serves, or memory is reset. -/
def Obligations.OnlyChannelsWriteMemory : Prop :=
  ∀ (i : Instr) (s t : State), exec i s = .next t →
    (∀ ch found, i ≠ .channelServe ch found) → i ≠ .coldReset → i ≠ .perstAssert →
    t.dram = s.dram

/-- R240, R244: a served write stores the bytes of its mask in its line, and no other byte; the line's poison follows.
Readings of the model: notes/assumptions/63, 87. -/
def Obligations.ServedWriteStoresMaskedBytes : Prop :=
  ∀ (ch : Chan) (s t : State) (q : Req) (rest : List Req),
    let b := s.blk
    let line := memKey (b.place (64 * q.line)) / 64
    s.wf = true → (b.chan ch).queue = q :: rest → (b.chan ch).selfRefresh = false → (b.chan ch).state ≠ .failed → q.kind = .write →
    exec (.channelServe ch .clean) s = .next t →
    (∀ k, k / 64 ≠ line → tget 0 t.dram.mem k = tget 0 s.dram.mem k) ∧
    (∀ j, j < 64 → tget 0 t.dram.mem (64 * line + j) =
      if bit q.mask.toNat j then BitVec.ofNat 8 (q.data.toNat >>> (8 * j)) else tget 0 s.dram.mem (64 * line + j)) ∧
    (∀ l, l ≠ line → tget false t.dram.poison l = tget false s.dram.poison l) ∧
    (tget false t.dram.poison line = (tget false s.dram.poison line && q.mask.toNat != 2 ^ 64 - 1))

/-- R131, R218, R237, R241, R244: a controller takes the next request into its queue of 4,096, in order, and what waited for that goes
on; a full queue and a channel in self-refresh take none. An empty queue serves nothing, and what the controller finds waits for
the next line that it reads; a served request is gone from its channel's queue whatever the controller finds, and a clean write
touches no other channel. A POISONED_TARGET outcome of a blank that still runs ends it; of one that is gone it is a DEFERRED_WRITE
record. Readings of the model: notes/assumptions/28, 63, 87, 89. -/
def Obligations.ChannelsServeInOrder : Prop :=
  (∀ (ch : Chan) (found : LineFinding) (s : State),
     let b := s.blk
     (b.chan ch).selfRefresh = false →
     ((b.chan ch).queue = [] → Gives (.channelServe ch found) s (b.setChan ch { b.chan ch with nextFind := found })) ∧
     (∀ q rest, (b.chan ch).queue = q :: rest →
       ∃ t, exec (.channelServe ch found) s = .next t ∧ (t.blk.chan ch).queue = rest
         ∧ ((b.chan ch).state = .failed → t.dram = s.dram)
         ∧ (found = .clean → q.kind ≠ .poison → (t.blk.chan ch).transit = (b.chan ch).transit
           ∧ (∀ c : Nat, c ≠ ch → t.blk.chan c = b.chan c) ∧ t.blk.cells = b.cells ∧ t.blk.spindles = b.spindles))) ∧
  (∀ (ch : Chan) (s : State) (q : Req) (rest : List Req),
     let b := s.blk
     let x := b.chan ch
     let took := b.setChan ch { x with transit := rest, queue := x.queue ++ [q] }
     let on := took.chainsSettle.hubSettle.leaveSettle
     x.transit = q :: rest →
     (x.selfRefresh = false → x.queue.length < 4096 → (∀ i n, q.src ≠ .kerf i n) →
       Gives (.channelRequestAccept ch) s
         (on.conns.foldl (fun b e => if e.2.waiting.any (fun o => o.lines != []) then b.pump e.1 else b) on) ∧
       (b.chains = [] → b.hubLater = [] → b.leaving = [] → (∀ e ∈ b.conns, ∀ o ∈ e.2.waiting, o.lines = []) →
         Gives (.channelRequestAccept ch) s took)) ∧
     (x.selfRefresh = true ∨ 4096 ≤ x.queue.length → Gives (.channelRequestAccept ch) s b)) ∧
  (∀ (k : Nat) (s : State) (o : LateOutcome) (p c serial e : Nat) (blank : Word64),
     let b := s.blk
     let b' : Block := { b with outcomes := b.outcomes.eraseIdx k }
     let spd := b.spd p
     let off := spd.pcOffset spd.oldestPc
     b.outcomes[k]? = some o → o.src = .memSide p blank c serial ∨ o.src = .wc p blank c serial e →
     (spd.cur.isSome = true → spd.started = true → spd.serial = serial →
       Gives (.writeOutcome k) s ((b'.setSpd p { spd with faultStatus := 0x04, faultOpcode := 0, faultPc := off }).blankEnd p .poisonedTarget (off % 2 ^ 24))) ∧
     (spd.cur = none ∨ spd.started = false ∨ spd.serial ≠ serial → Gives (.writeOutcome k) s (b'.record
       { context := some c, severity := 1, cls := 0x04, status := 0x04, unitKind := 1, unit := p, addr := o.addr, blank := blank.toNat })))

/-- R237, R238, R244 to R246, R403: the scrub takes its place behind the requests that its controller has accepted and goes on to the
next line; what it finds is counted, and an uncorrectable line is marked by a request of its own, which poisons the line and keeps
its bytes. A channel whose link is lost fails, and is mapped out at the next reset; zeroing goes on line by line. Readings of the
model: notes/assumptions/63, 132. -/
def Obligations.ScrubbingAndChannelLoss : Prop :=
  (∀ (ch : Chan) (s : State),
     let b := s.blk
     let x := b.chan ch
     let line := b.lineOf ch x.scrubPos
     let l := x.queue.foldl (fun l q => if q.line = line then (serveLine false l q).1 else l) (s.dram.line (memKey (ch.val, 64 * x.scrubPos) / 64))
     b.perst = false → x.selfRefresh = false → (x.state = .inService ∨ x.state = .pendingOut) → b.memoryDegraded = false → x.queue.length < 4096 →
     (b.memScrubEn = false → ∀ found, Gives (.scrubLine ch found) s b) ∧
     (b.memScrubEn = true → l.poisoned = false →
       (∃ t, exec (.scrubLine ch .clean) s = .next t ∧ t.dram = s.dram ∧ (t.blk.chan ch).scrubPos = (x.scrubPos + 1) % chanLines ch
         ∧ (t.blk.chan ch).ceCount = x.ceCount ∧ (t.blk.chan ch).ueCount = x.ueCount ∧ (t.blk.chan ch).queue = x.queue) ∧
       (∃ t, exec (.scrubLine ch .correctable) s = .next t ∧ t.dram = s.dram ∧ (t.blk.chan ch).ceCount = min (2 ^ 32 - 1) (x.ceCount + 1)
         ∧ (t.blk.chan ch).queue = x.queue) ∧
       (∃ t, exec (.scrubLine ch .uncorrectable) s = .next t ∧ t.dram = s.dram ∧ (t.blk.chan ch).ueCount = min 65535 (x.ueCount + 1)
         ∧ (t.blk.chan ch).scrubPos = (x.scrubPos + 1) % chanLines ch ∧ (t.blk.chan ch).queue = x.queue ++ [{ kind := .mark, line }]))) ∧
  (∀ (ch : Chan) (found : LineFinding) (s t : State) (q : Req) (rest : List Req),
     let b := s.blk
     let key := memKey (b.place (64 * q.line)) / 64
     s.wf = true → (b.chan ch).queue = q :: rest → q.kind = .mark → (b.chan ch).selfRefresh = false → (b.chan ch).state ≠ .failed →
     exec (.channelServe ch found) s = .next t →
     tget false t.dram.poison key = true ∧ (∀ k, tget 0 t.dram.mem k = tget 0 s.dram.mem k)
       ∧ ∀ l, l ≠ key → tget false t.dram.poison l = tget false s.dram.poison l) ∧
  (∀ (ch : Chan) (s : State),
     let b := s.blk
     let x := b.chan ch
     ((x.state = .inService ∨ x.state = .pendingOut) → b.hubLost = false → b.perst = false →
       Gives (.channelFailed ch) s (b.channelState ch .failed) ∧
       ((b.channelState ch .failed).chan ch).state = .failed ∧ ch.val ∈ (b.channelState ch .failed).store.mapOut) ∧
     (b.perst = false → Gives (.channelInitZero ch) s (b.setChan ch { x with zeroPos := min (chanLines ch) (x.zeroPos + 1) })))

/-! ### Synchronisation cells -/

/-- R270 to R272, R140, R13, R53: SSIG stages a signal of its amount, in its place in issue order: at once where no older command may
still stage an effect, else behind that command; once the buffer has overflowed it applies without staging. SREAD reads the
count its cell has after what its island sent before it; in a freeze it is held there. SWAIT holds the sequencer with its
wait. A cell outside the context's partition ends the blank with ACCESS_DENIED, any other breach with INVALID_FIELD, and a
speculative cell word waits. Readings of the model: notes/assumptions/13, 47, 70. -/
def Obligations.CellWords : Prop :=
  (∀ (p : Spd) (w : W120) (s : State),
    let b := s.blk
    let spd := b.spd p
    let x := mkWord 0x30 w
    let cell := (bits x 98 82 + (spd.reg (bits x 46 42)).toNat) % 2 ^ 64
    let dst : Option Nat := if bit x 99 then some (bits x 111 100) else none
    let amount := sext 64 (trunc 64 (((spd.reg (bits x 41 37)).toNat : Int) + sbits x 127 112))
    let sound := if bit x 99 then cell < 131072 ∧ (b.connOf spd.ctx (bits x 111 100)).isSome else bits x 111 100 = 0 ∧ b.cellBad spd.ctx cell = none
    let breach := 131072 ≤ cell ∨ (bit x 99 = true ∧ b.connOf spd.ctx (bits x 111 100) = none) ∨ (bit x 99 = false ∧ bits x 111 100 ≠ 0)
    b.canIssue p x [bits x 46 42, bits x 41 37] = true → b.stalled = false →
    (b.confirmedNow p = true → zeros x [(81, 47), (36, 32), (31, 12)] = true →
      (sound → spd.stageWait = [] → spd.stagesBefore spd.nextIdx = false → spd.overflow = false → spd.stagingUsed + 16 ≤ 0x40000 →
        ∃ t, Gives (.ssig p w) s (b.setSpd p { spd.issued with
          stagingUsed := spd.stagingUsed + 16, cntProg := t
          staging := spd.staging ++ [.signal spd.nextIdx dst cell amount] })) ∧
      (sound → spd.stageWait = [] → spd.stagesBefore spd.nextIdx = true →
        Gives (.ssig p w) s (b.setSpd p { spd.issued with stageWait := [(spd.nextIdx, .signal spd.nextIdx dst cell amount)] })) ∧
      (sound → spd.stageWait = [] → spd.stagesBefore spd.nextIdx = false → spd.overflow = true →
        let a := b.setSpd p spd.issued
        Served (.ssig p w) s (a.applyEffect s.dram (a.issuer p) (.signal spd.nextIdx dst cell amount))) ∧
      (breach → Served (.ssig p w) s (b.blankFault p spd.nextIdx .invalidField 0x30 (spd.pcOffset spd.pc))) ∧
      (bit x 99 = false → bits x 111 100 = 0 → cell < 131072 → b.cellOwned spd.ctx cell = false →
        Served (.ssig p w) s (b.blankFault p spd.nextIdx .accessDenied 0x30 (spd.pcOffset spd.pc)))) ∧
    (b.confirmedNow p = false → Gives (.ssig p w) s b)) ∧
  (∀ (p : Spd) (w : W120) (s : State),
    let b := s.blk
    let spd := b.spd p
    let x := mkWord 0x32 w
    let cell := (bits x 98 82 + (spd.reg (bits x 46 42)).toNat) % 2 ^ 64
    let rd := bits x 36 32
    let m := (b.setSpd p spd.issued).cellMet (some p) cell
    b.canIssue p x [bits x 46 42, rd] = true →
    (b.confirmedNow p = true → zeros x [(127, 99), (81, 47), (41, 37), (31, 12)] = true →
      (b.cellBad spd.ctx cell = none → b.frozen = none →
        Gives (.sread p w) s (m.setSpd p (spd.issued.setReg rd (BitVec.ofInt 64 (m.cell cell).count)))
        ∧ (m.cell cell).count = ((b.cellFirst (some p.val) cell).cell cell).count) ∧
      (b.cellBad spd.ctx cell = none → ∀ z : Freeze, m.frozen = some z →
        Gives (.sread p w) s ({ m with frozen := some { z with held := z.held ++ [CellOp.read p spd.serial cell rd] } }.setSpd p
          { spd.issued with hold := .sread spd.pc })) ∧
      (131072 ≤ cell → Gives (.sread p w) s (b.blankFault p spd.nextIdx .invalidField 0x32 (spd.pcOffset spd.pc))) ∧
      (cell < 131072 → b.cellOwned spd.ctx cell = false →
        Gives (.sread p w) s (b.blankFault p spd.nextIdx .accessDenied 0x32 (spd.pcOffset spd.pc)))) ∧
    (b.confirmedNow p = false → Gives (.sread p w) s b)) ∧
  (∀ (p : Spd) (w : W120) (s : State),
    let b := s.blk
    let spd := b.spd p
    let x := mkWord 0x31 w
    let cell := (bits x 98 82 + (spd.reg (bits x 46 42)).toNat) % 2 ^ 64
    let theta := ((spd.reg (bits x 41 37)).toNat + bits x 127 112) % 2 ^ 64
    let k : Wait :=
      { cell, theta, consume := bit x 81, hot := bit x 80, watchEn := bit x 99, watchPeer := bits x 111 100, watchAll := bit x 79
        rd := bits x 36 32, started := b.time, pc := spd.pc }
    let breach := 131072 ≤ cell ∨ theta = 0 ∨ 2 ^ 63 ≤ theta ∨ (k.watchEn = true ∧ k.watchAll = true) ∨ (k.watchEn = false ∧ k.watchPeer ≠ 0)
      ∨ (k.watchEn = true ∧ b.connOf spd.ctx k.watchPeer = none)
    b.canIssue p x [bits x 46 42, bits x 41 37, bits x 36 32] = true →
    (b.confirmedNow p = true → zeros x [(78, 47), (31, 12)] = true →
      (¬breach → b.cellOwned spd.ctx cell = true →
        Gives (.swait p w) s (b.setSpd p { spd.issued with hold := .swait { k with peerLostDue := b.watchedLost spd.ctx k } })) ∧
      (breach → Gives (.swait p w) s (b.blankFault p spd.nextIdx .invalidField 0x31 (spd.pcOffset spd.pc))) ∧
      (¬breach → b.cellOwned spd.ctx cell = false →
        Gives (.swait p w) s (b.blankFault p spd.nextIdx .accessDenied 0x31 (spd.pcOffset spd.pc)))) ∧
    (b.confirmedNow p = false → Gives (.swait p w) s b))

/-- R267, R269, R272, R279: the oldest signal of the tile that has left its source is applied at its cell: the count saturates at the
64-bit bounds, and the signaller becomes the last one; a host's set that waited behind signals sets its cell. A signal whose
source's writes are not all accepted yet is passed over, and with none ready nothing changes. In a freeze the operation is held
at its bank. Readings of the model: notes/assumptions/69, 110, 111. -/
def Obligations.SignalAddsToCell : Prop :=
  (∀ (t : TileId) (s : State) (g : Sig) (older rest : List Sig),
    let b := s.blk
    b.sigs = older ++ g :: rest → (∀ x ∈ older, cellTile x.cell ≠ t ∨ b.sigReady x = false) → cellTile g.cell = t → b.sigReady g = true →
    g ∉ older → b.hubUp = true → b.thermtripPin = false →
    (b.frozen = none →
      ∃ b', Gives (.cellSignalApply t) s b' ∧ b'.sigs = older ++ rest
        ∧ (tabWf {} b.cells = true →
          b'.cell g.cell = (if g.isSet then { count := g.amount } else signalled (b.cell g.cell) g)
          ∧ ∀ c, c ≠ g.cell → b'.cell c = b.cell c)
        ∧ b'.spindles = b.spindles ∧ b'.chans = b.chans) ∧
    (∀ z, b.frozen = some z →
      Gives (.cellSignalApply t) s { b with sigs := older ++ rest, frozen := some { z with held := z.held ++ [.signal g] } })) ∧
  (∀ (t : TileId) (s : State),
    (∀ g ∈ s.blk.sigs, cellTile g.cell = t → s.blk.linesWait g.lines = true) → Gives (.cellSignalApply t) s s.blk)

/-- R268, R276 to R278, R13: a poll meets its cell behind what its island, or the hub, has sent there. Below the threshold the wait goes
on; at it, the wait ends with SUCCESS in rd, a consuming one with its threshold taken and staged as a receipt. A timeout is a
last poll: it ends the wait with TIMEOUT in rd, and with rd = 0 it ends the blank; a wait whose watched peer is lost ends with
PEER_LOST. A stream lane's wait lets its step commit, or abandons it. A notification never times out, and in a freeze no poll
acts. Readings of the model: notes/assumptions/3. -/
def Obligations.PollsAndTimeoutsEndWaits : Prop :=
  (∀ (p : Spd) (s : State) (w : Wait) (mk : Waiter → Instr) (final : Bool),
     let b := s.blk
     let spd := b.spd p
     let m := b.cellMet (some p) w.cell
     (mk, final) ∈ [(Instr.cellPoll, false), (Instr.waitTimeout, true)] → b.runs p = true → b.stalled = false → spd.hold = .swait w →
     (b.frozen = none →
       (w.theta ≤ (m.cell w.cell).count → w.consume = false →
         Gives (mk (.spindle p)) s (m.setSpd p { spd.setReg w.rd 0 with hold := .none })) ∧
       (w.theta ≤ (m.cell w.cell).count → w.consume = true → spd.overflow = false → spd.stagingUsed + 16 ≤ 0x40000 → spd.stageWait = [] →
         spd.stagesBefore (spd.nextIdx - 1) = false → tabWf {} b.cells = true →
         ∃ b', Gives (mk (.spindle p)) s b' ∧ (b'.cell w.cell).count = (m.cell w.cell).count - w.theta
           ∧ (b'.spd p).hold = .none ∧ (b'.spd p).staging = spd.staging ++ [.receipt w.cell w.theta]
           ∧ (∀ c, c ≠ w.cell → b'.cell c = m.cell c) ∧ ∀ q : Nat, q ≠ p → b'.spd q = b.spd q) ∧
       ((m.cell w.cell).count < w.theta → w.peerLostDue = true →
         (w.rd ≠ 0 → Gives (mk (.spindle p)) s (m.setSpd p { spd.setReg w.rd (BitVec.ofNat 64 Status.peerLost.code) with hold := .none })) ∧
         (w.rd = 0 → Served (mk (.spindle p)) s (m.blankFault p (spd.nextIdx - 1) .peerLost 0x31 (spd.pcOffset w.pc)))) ∧
       ((m.cell w.cell).count < w.theta → w.peerLostDue = false → final = true →
         (w.rd ≠ 0 → Gives (mk (.spindle p)) s (m.setSpd p { spd.setReg w.rd 0x0E with hold := .none })) ∧
         (w.rd = 0 → Served (mk (.spindle p)) s (m.blankFault p (spd.nextIdx - 1) .timeout 0x31 (spd.pcOffset w.pc)))) ∧
       ((m.cell w.cell).count < w.theta → w.peerLostDue = false → final = false →
         Gives (mk (.spindle p)) s m ∧ m.spindles = b.spindles)) ∧
     (b.frozen ≠ none → Gives (mk (.spindle p)) s b)) ∧
  (∀ (c l : Nat) (hc : c < 16) (hl : l < 4) (s : State) (w : Wait) (mk : Waiter → Instr) (final : Bool),
     let b := s.blk
     let k := b.lane c l
     let m := b.cellMet none w.cell
     (mk, final) ∈ [(Instr.cellPoll, false), (Instr.waitTimeout, true)] → k.waiting = some w → b.hubUp = true → b.frozen = none →
     b.hubAsking (289 + 4 * c + l) = false →
     let i := mk (.lane ⟨c, hc⟩ ⟨l, hl⟩)
     (w.theta ≤ (m.cell w.cell).count → w.consume = false → Gives i s (m.setLane c l { k with waiting := none, satisfied := true })) ∧
     (w.theta ≤ (m.cell w.cell).count → w.consume = true →
       let v := m.cell w.cell
       Gives i s (({ m with cells := tput {} m.cells w.cell { v with count := v.count - w.theta } } : Block).setLane c l
         { k with waiting := none, satisfied := true })) ∧
     ((m.cell w.cell).count < w.theta → w.peerLostDue = true → Gives i s (m.stepAbandon s.dram c l .peerLost)) ∧
     ((m.cell w.cell).count < w.theta → w.peerLostDue = false →
       Gives i s (if final then m.stepAbandon s.dram c l .timeout else m))) ∧
  (∀ (s : State) (fn : FnId) (vec : Fin 64), Gives (.waitTimeout (.notify fn vec)) s s.blk) ∧
  (∀ (b : Block) (p : Option Nat) (cell : Nat), (∀ g ∈ b.sigs, g.island = p → cellTile g.cell = cellTile cell → b.sigReady g = false) →
     ∀ c, (b.cellMet p cell).cell c = b.cell c)

/-- R13, R18, R269, R279, R311, R400: the headstock, JTAG and a host function in its partition set a cell's count and clear its flag, behind
what the hub has sent to the tile; a set of a function whose signals to the tile still wait for its writes goes behind them, and
in a freeze a set is held. A host's signal leaves behind its function's writes. A host write that is not 8 B or lies outside the
partition has no effect but cell_err; another initiator gets ACCESS_DENIED. Readings of the model: notes/assumptions/69, 110,
139, 143. -/
def Obligations.CellSets : Prop :=
  ∀ (fn : FnId) (cell : Nat) (val : Word64) (who : Initiator) (s : State),
    let b := s.blk
    let set (b : Block) : Block := ((b.cellFirst none cell).cellTraffic none cell).cellArrive { cell, amount := val.toInt, isSet := true }
    let a := BitVec.ofNat 64 (0xF02000000000 + 8 * cell)
    let touched := (b.countPort 64 8).ungate
    cell < 131072 →
    (b.hubUp = true →
      (mayAccess b who → Gives (.headstockCellSet who a 8 val) s ((set b).answer .success)
        ∧ ∀ size, size ≠ 8 → Gives (.headstockCellSet who a size val) s (b.answer .invalidField)) ∧
      (who ≠ .headstock → who ≠ .jtag → Gives (.headstockCellSet who a 8 val) s (b.answer .accessDenied))) ∧
    (b.frozen = none → tabWf {} b.cells = true → (set b).cell cell = { count := val.toInt }
      ∧ ∀ c, c ≠ cell → (set b).cell c = (b.cellFirst none cell).cell c) ∧
    (b.fnLive fn = true → (fn = 0 ∨ b.cellOwned (fn.val - 1) cell = true) →
      (let seen := touched.cellFirst none cell
       (seen.sigs.all (fun g => g.after != some fn.val || cellTile g.cell != cellTile cell) = true →
         Gives (.hostCellSet fn (8 * cell) 8 val) s (set seen)) ∧
       (seen.sigs.any (fun g => g.after == some fn.val && cellTile g.cell == cellTile cell) = true →
         let g : Sig := { cell, amount := val.toInt, isSet := true, src := 0x4000 + fn.val, after := some fn.val }
         Gives (.hostCellSet fn (8 * cell) 8 val) s (({ seen with sigs := seen.sigs ++ [g] } : Block).cellTraffic none cell))) ∧
      let g : Sig := { cell, amount := val.toInt, src := 0x4000 + fn.val, after := some fn.val }
      Gives (.hostCellSignal fn (8 * cell) 8 val) s (({ touched with sigs := touched.sigs ++ [g] } : Block).cellTraffic none cell)) ∧
    (b.fnLive fn = true → ∀ size, size ≠ 8 ∨ (fn ≠ 0 ∧ b.cellOwned (fn.val - 1) cell = false) →
      let err : Block := { (b.countPort 64 size).ungate with cellErr := true }
      Gives (.hostCellSet fn (8 * cell) size val) s err ∧ Gives (.hostCellSignal fn (8 * cell) size val) s err) ∧
    (b.fnLive fn = false → Gives (.hostCellSet fn (8 * cell) 8 val) s b ∧ Gives (.hostCellSignal fn (8 * cell) 8 val) s b)

/-- R279, R312: a synchronisation dump freezes the cells while it is copied, one at a time; then it is written to its buffer or the trace
region, what was held takes effect in order, the command completes, and the next dump begins; with none in progress the resume
does nothing. CELL_NOTIFY arms its vector for its ring's function; the poll that finds the threshold raises it once, posts its
event and wakes a gated module; a cell or vector out of range is refused. Readings of the model: notes/assumptions/108, 109,
111. -/
def Obligations.DumpsAndNotifications : Prop :=
  (∀ (r : RingId) (e : Entry) (s : State) (c : Cmd),
     let b := s.blk
     b.accepts r e 0x60 c →
     (∀ scope, dumpScope c = some scope →
       let need := 64 + 16 * ((b.started r).dumpCells scope).length + 336 * 32
       let d : Dump := { ring := r.val, entry := e, scope, toTrace := c.p 1 == 1
                         dest := if c.p 1 = 1 then b.trace.base - 0x400000 + entBuf e else entBuf e }
       (c.p 1 = 0 ∧ bufOk e need = true ∨ c.p 1 = 1 ∧ b.trace.logValid = true ∧ entBuf e + need ≤ 0x400000) →
       (b.frozen = none → Gives (.syncDump r e) s { b.started r with frozen := some { dump := d, bytes := (b.started r).dumpBytes scope } }) ∧
       (b.frozen ≠ none → Gives (.syncDump r e) s { b.started r with dumps := b.dumps ++ [d] })) ∧
     (dumpScope c = none → Gives (.syncDump r e) s ((b.started r).finish r e .invalidField 0))) ∧
  (∀ (s : State) (z : Freeze),
     let b := s.blk
     (b.frozen = some z →
       let copied : Block := if z.dump.toTrace then ({ b with frozen := none } : Block).hubWrite z.dump.dest z.bytes
         else ({ b with frozen := none } : Block).hostWrite z.dump.dest z.bytes
       let done := (z.held.foldl Block.cellOp copied).finish z.dump.ring z.dump.entry .success 0
       (done.dumps = [] → Gives .syncDumpResume s done) ∧
       (∀ d rest, done.dumps = d :: rest →
         Gives .syncDumpResume s { done with dumps := rest, frozen := some { dump := d, bytes := done.dumpBytes d.scope } })) ∧
     (b.frozen = none → Gives .syncDumpResume s b)) ∧
  (∀ (r : RingId) (e : Entry) (s : State) (c : Cmd),
     let b := s.blk
     let fn := match c.ctx with | none => 0 | some x => b.ringFn (1 + x)
     let arm : Notify := { fn, vec := c.p 1, cell := c.p 0, theta := c.p 2, ring := match c.ctx with | none => 0 | some x => 1 + x }
     let kept := b.notifies.filter fun x => !(x.fn == fn && x.vec == c.p 1)
     b.accepts r e 0x62 c →
     (c.p 0 < 131072 → (if fn = 0 then 17 else 1) ≤ c.p 1 → c.p 1 ≤ 63 → (∀ x, c.ctx = some x → b.cellOwned x (c.p 0) = true) →
       Gives (.cellNotify r e) s (({ b.started r with notifies := kept ++ [arm] } : Block).finish r e .success 0)) ∧
     ((131072 ≤ c.p 0 ∨ c.p 1 < (if fn = 0 then 17 else 1) ∨ 63 < c.p 1) →
       Gives (.cellNotify r e) s ((b.started r).finish r e .invalidField 0))) ∧
  (∀ (s : State) (fn : FnId) (vec : Fin 64) (n : Notify) (mk : Instr),
     let b := s.blk
     mk ∈ [Instr.cellNotifyFire fn vec, .cellPoll (.notify fn vec)] →
     b.notifies.find? (fun x => x.fn == fn.val && x.vec == vec.val) = some n → b.hubUp = true → b.frozen = none →
     let m := b.cellMet none n.cell
     (n.theta ≤ (m.cell n.cell).count →
       let fired : Block := { m with notifies := b.notifies.filter (· ≠ n), wake := b.wake || b.power == .a2 }
       Gives mk s ((fired.raise fn vec).postEvent n.ring 0x2007 n.cell)) ∧
     ((m.cell n.cell).count < n.theta → Gives mk s m))

/-! ### The Minyx mailbox -/

/-- R313, R317, R318: a doorbell writes the producer index of the ring its page shows, and an index more than 4,096
ahead stops the ring; enabling sets indices to 0 and phase to 1; disabling keeps commands already taken from
completing visibly. A command entry is fetched into the ring's tag history; a failed fetch stops the ring; outside
recovery's catalogue it completes with NOT_READY. A repeat of a command that is still open completes with it, one whose
command is complete gets its completion again, and a tag of another opcode is refused. Nothing is fetched from a ring that is
off, stopped, empty or without room for the completion. Readings of the model: notes/assumptions/92, 93. -/
def Obligations.RingPagesAndFetch : Prop :=
  (∀ (fn : FnId) (page : RingId) (val : Word32) (s : State) (r : Nat),
    let b := s.blk
    let g := b.ring r
    let put (n : Nat) (g : Ring) : Block := (b.hostTouch n).setRing r g
    (b.ringOf fn page = none → Gives (.doorbell fn page val) s b ∧ Gives (.ringEnable fn page) s b ∧ Gives (.ringDisable fn page) s b) ∧
    (b.ringOf fn page = some r → (val - g.cmdCons).toNat ≤ 4096 →
      Gives (.doorbell fn page val) s (put 4 { g with cmdProd := val })) ∧
    (b.ringOf fn page = some r → 4096 < (val - g.cmdCons).toNat →
      ∃ b', Gives (.doorbell fn page val) s b' ∧ (b'.ring r).stopped = true ∧ (b'.ring r).errIndex = true ∧ (b'.ring r).cmdProd = val
        ∧ (b'.ring r).taken = g.taken ∧ b'.msix = b.msix ++ [(b.ringFn r, b.ringVec r)]) ∧
    (b.ringOf fn page = some r → g.enable = false →
      Gives (.ringEnable fn page) s ((put 8 { g with
        enable := true, stopped := false, cmdProd := 0, cmdCons := 0, cplProd := 0, cplCons := 0, phase := true, reserved := 0 }).drainEvents r)) ∧
    (b.ringOf fn page = some r →
      Gives (.ringDisable fn page) s (put 8 { g with
        enable := false, reserved := 0, taken := g.taken.map fun x => { x with silent := true, repeats := [] } }))) ∧
  (∀ (r : RingId) (e : Entry) (s : State),
    let b := s.blk
    let g := b.ring r
    (b.takes = false ∨ g.enable = false ∨ g.stopped = true ∨ g.cmdProd = g.cmdCons ∨ g.room = 0 → ∀ ok, Gives (.commandFetch r e ok) s b) ∧
    (b.takes = true → g.enable = true → g.stopped = false → g.cmdProd ≠ g.cmdCons → g.room ≠ 0 →
    let got := (b.countPort 64 64).setRing r { g with cmdCons := g.cmdCons + 1, reserved := g.reserved + 1 }
    (∃ b', Gives (.commandFetch r e false) s b' ∧ (b'.ring r) = { g with errFetch := true, stopped := true }
      ∧ b'.msix = b.msix ++ [(b.ringFn r, b.ringVec r)]) ∧
    (b.ready = true → (∀ h ∈ g.history, h.tag ≠ entTag e) →
      ∃ b', Gives (.commandFetch r e true) s b' ∧ (b'.ring r).cmdCons = g.cmdCons + 1 ∧ (b'.ring r).reserved = g.reserved + 1
        ∧ (b'.ring r).taken = g.taken ++ [{ entry := e }] ∧ (∀ k : Nat, k ≠ r → b'.ring k = b.ring k)
        ∧ b'.ctxs = b.ctxs ∧ b'.cells = b.cells ∧ b'.chans = b.chans ∧ b'.hostOut = b.hostOut) ∧
    (b.ready = false → b.restarting = false → recoveryOp (entOpcode e) = false →
      Gives (.commandFetch r e true) s (got.cplOne r (entTag e) (entOpcode e) .notReady 0 (entIrq e))) ∧
    (∀ h, b.ready = true → g.history.find? (fun h => h.tag == entTag e) = some h →
      (h.opcode ≠ entOpcode e → Gives (.commandFetch r e true) s (got.cplOne r (entTag e) (entOpcode e) .invalidField 0 (entIrq e))) ∧
      (h.opcode = entOpcode e → h.done = none →
        ∃ b', Gives (.commandFetch r e true) s b' ∧ (b'.ring r).history = g.history
          ∧ (b'.ring r).taken = modFirst (fun x => entTag x.entry == entTag e) (fun x => { x with repeats := x.repeats ++ [entIrq e] }) g.taken
          ∧ b'.hostOut = b.hostOut ∧ b'.msix = b.msix) ∧
      (h.opcode = entOpcode e → ∀ d, h.done = some d →
        let once := (got.setRing r { got.ring r with reserved := g.reserved }).writeCpl r
          (entTag e + fld (entOpcode e) 14 32 + fld d.1 16 48 + fld d.2 64 64)
        Gives (.commandFetch r e true) s (if entIrq e then once.raiseRing r else once)))))

/-- R314, R320, R322, R336, R345: a command that one of the common checks refuses completes with that check's status
and does nothing else; an administrative command on a context's ring is refused with ACCESS_DENIED, and an unknown
opcode with UNKNOWN_COMMAND. IDENTIFY writes its 256 B block, ENERGY_READ answers the context's whole millijoules, and
COUNTER_SNAPSHOT waits for the image it triggers. Readings of the model: notes/assumptions/94. -/
def Obligations.QueriesAndRefusals : Prop :=
  (∀ (r : RingId) (e : Entry) (s : State) (st : Status),
     let b := s.blk
     let ended (st : Status) : Block := (b.started r).finish r e st 0
     (∀ m ∈ ringRows, b.presents r e m.2 = true → b.hubAsking (272 + r.val) = false →
       ((b.started r).cmdCheck r e = .error st → Gives (m.1 r e) s (ended st)) ∧
       (0 < r.val → (catRow m.2).any (fun x => x.1 == .a) = true → Gives (m.1 r e) s (ended .accessDenied))) ∧
     (∀ data, b.presents r e 0x80 = true → (b.started r).cmdCheck r e = .error st → Gives (.fwStage r e data) s (ended st)) ∧
     (b.presents r e 0x05 = true → (b.started r).cmdCheck r e = .error st →
       (memAdminOp e ≠ 1 → memAdminOp e ≠ 2 → Gives (.memAdminCfg r e) s (ended st)) ∧
       (memAdminOp e = 1 → Gives (.memAdminClear r e) s (ended st)) ∧ (memAdminOp e = 2 → Gives (.memAdminDeepArb r e) s (ended st))) ∧
     (b.presents r e 0x82 = true → (b.started r).cmdCheck r e = .error st → fwWhen e ≠ 1 → Gives (.fwActivate r e) s (ended st)) ∧
     (catRow (entOpcode e) = none → entClean e = true → b.presents r e (entOpcode e) = true →
       Gives (.unknownCommand r e) s (ended .unknownCommand))) ∧
  (Completes Instr.identify 0x01 (fun _ c => bufOk c.entry 256 = true)
     (fun b c => b.hostWrite (entBuf c.entry) (leBytes 256 b.identity)) ∧
   Refuses Instr.identify 0x01 (fun _ c => bufOk c.entry 256 = false) .invalidField ∧
   CompletesWith Instr.energyRead 0x72 (fun _ _ => True) (fun b c => ((b.ctx c.c).energyUj / 1000).floor.toNat) (fun b _ => b) ∧
   Parks Instr.counterSnapshot 0x61 (fun b _ => b.cnt.trigger = none ∧ b.cnt.writing = none) (fun b c =>
     { b with cnt := { b.cnt with trigger := some { triggers := 1, tag := c.p 0, instant := b.time + 2000, waiters := [(c.ring, c.entry)] } } }))

/-- R181, R247, R282, R310, R326, R362, R384: each configuration command writes the fields it names, when its
parameters are within their ranges, and is refused with INVALID_FIELD when they are not. Readings of the model:
notes/assumptions/114, 115. -/
def Obligations.ConfigurationCommandsSetFields : Prop :=
  Completes Instr.devConfig 0x02 (fun b c => b.streams = [] ∧ b.placed (c.p 0) (128 * streamCount) 128 = true)
    (fun b c => { b with streamTable := some (c.p 0) }) ∧
  Refuses Instr.devConfig 0x02 (fun b c => b.streams ≠ [] ∨ c.p 0 % 128 ≠ 0) .invalidField ∧
  Completes Instr.bar2Map 0x03 (fun b c => b.fnEnabled (c.p 0) = true ∧ (c.p 2 ≤ c.p 1 ∨ b.inMemory (c.p 1) (c.p 2 - c.p 1) = true))
    (fun b c => b.modFunc (c.p 0) fun f => { f with bar2Set := true, bar2Base := c.p 1, bar2Limit := c.p 2 }) ∧
  Completes Instr.netConfig 0x04 (fun b c => c.p 1 ≤ 1 ∧ c.p 2 ≤ 6 ∧ c.p 4 ≤ 63 ∧ c.p 5 ≤ 63 ∧ c.p 6 ≤ 8 ∧ c.p 7 % 8 = 0
      ∧ ∀ x ∈ b.ctxs, x.2.krf.jobEn = false)
    (fun b c => (bitList 8 (c.p 0)).foldl (fun b k => b.modPort k fun x => { x with pfcEn := c.p 1 == 1, pfcPrio := c.p 2 })
      ({ b with
        krfUdpPort := c.p 3, krfDscpData := c.p 4, krfDscpCtrl := c.p 5, deviceAddr := BitVec.ofNat 128 (c.p 7)
        ptp := { b.ptp with source := c.p 6 } } : Block)) ∧
  Refuses Instr.netConfig 0x04 (fun b c => 1 < c.p 1 ∨ 6 < c.p 2 ∨ 63 < c.p 4 ∨ 63 < c.p 5 ∨ 8 < c.p 6 ∨ c.p 7 % 8 ≠ 0
      ∨ b.ctxs.any (fun x => x.2.krf.jobEn) = true) .invalidField ∧
  Completes Instr.memAdminCfg 0x05 (fun _ c => memAdminOp c.entry = 0 ∧ c.p 0 = 0 ∧ zeros (c.p 2) [(63, 40), (7, 1)] = true)
    (fun b c => { b with
      memUeThreshold := bits (c.p 2) 39 32, memUeWindowH := bits (c.p 2) 31 24, memScrubHbmH := bits (c.p 2) 23 16
      memScrubDeepH := bits (c.p 2) 15 8, memScrubEn := bit (c.p 2) 0 }) ∧
  Refuses Instr.memAdminCfg 0x05 (fun _ c => memAdminOp c.entry ≠ 1 ∧ memAdminOp c.entry ≠ 2 ∧ 2 < c.p 0) .invalidField ∧
  Completes Instr.memAdminClear 0x05 (fun _ c => memAdminOp c.entry = 1 ∧ c.p 1 ≤ 383)
    (fun b c => { b with store := { b.store with mapOut := b.store.mapOut.filter (· ≠ c.p 1) } }) ∧
  Completes Instr.memAdminDeepArb 0x05 (fun _ c => memAdminOp c.entry = 2 ∧ c.p 2 ≤ 16) (fun b c => { b with keepShare := c.p 2 }) ∧
  Parks Instr.tileConfig 0x06 (fun b c => c.p 0 ≤ 3 ∧ c.p 1 ≤ 12 ∧ zeros (c.p 2) [(63, 32), (15, 8), (3, 1)] = true
      ∧ ((b.tile (c.p 0)).burlWays ≠ c.p 1 ∨ (b.tile (c.p 0)).repartBusy = true))
    (fun b c => (b.modTile (c.p 0) fun x =>
      { x with stealMask := bits (c.p 2) 31 16, stealMinLeft := bits (c.p 2) 7 4, stealEnable := bit (c.p 2) 0 }).repartition (c.p 0) (c.p 1)) ∧
  Completes Instr.tileConfig 0x06 (fun b c => c.p 0 ≤ 3 ∧ c.p 1 ≤ 12 ∧ zeros (c.p 2) [(63, 32), (15, 8), (3, 1)] = true
      ∧ (b.tile (c.p 0)).burlWays = c.p 1 ∧ (b.tile (c.p 0)).repartBusy = false)
    (fun b c => b.modTile (c.p 0) fun x =>
      { x with stealMask := bits (c.p 2) 31 16, stealMinLeft := bits (c.p 2) 7 4, stealEnable := bit (c.p 2) 0 }) ∧
  Completes Instr.spdPrimary 0x16 (fun _ c => c.p 0 + c.p 1 ≤ 256 ∧ c.p 2 ≤ 1 ∧ c.p 3 ≤ 15)
    (fun b c => { b with primary := iter (c.p 1) b.primary fun t k => tput (false, 0) t (c.p 0 + k) (c.p 2 == 1, c.p 3) }) ∧
  Completes Instr.traceConfig 0x17 (fun b c =>
      zeros (c.p 0) [(63, 48), (19, 8), (3, 3), (1, 1)] = true ∧ bits (c.p 0) 7 4 ≤ 10 ∧ 0x800000 ≤ bits (c.p 0) 47 20 * 2 ^ 20
      ∧ bits (c.p 0) 47 20 * 2 ^ 20 + 2 ^ (20 + bits (c.p 0) 7 4) ≤ b.hbmTop)
    (fun b c => b.traceSet (c.p 0)) ∧
  (∀ (b : Block) (v : Nat), bit v 0 = false → b.trace.shadow = [] →
    b.traceSet v = { b with trace := { b.trace with
      base := bits v 47 20 * 2 ^ 20, sizeLog2 := bits v 7 4, stopMode := bit v 2, enable := false } }) ∧
  Completes Instr.powerLimits 0x70 (fun _ c => 1000 ≤ c.p 0 ∧ c.p 0 ≤ 3600 ∧ c.p 0 ≤ c.p 1 ∧ c.p 1 ≤ 4000)
    (fun b c => { b with cal := { b.cal with longW := c.p 0, shortW := c.p 1 } }) ∧
  Refuses Instr.powerLimits 0x70 (fun _ c => c.p 0 < 1000 ∨ 3600 < c.p 0 ∨ c.p 1 < 1000 ∨ 4000 < c.p 1 ∨ c.p 1 < c.p 0) .invalidField ∧
  Completes Instr.phasePoint 0x71 (fun _ c => c.p 1 ≤ 0x0F ∨ c.p 1 = 0xFE)
    (fun b c => b.modCtx c.c fun x => { x with points := tset x.points (c.p 0) (c.p 1) }) ∧
  Completes Instr.phasePoint 0x71 (fun _ c => c.p 1 = 0xFF)
    (fun b c => b.modCtx c.c fun x => { x with points := tdel x.points (c.p 0) }) ∧
  Refuses Instr.phasePoint 0x71 (fun _ c => 0x0F < c.p 1 ∧ c.p 1 < 0xFE) .invalidField

/-- R324, R325, R376: staging and committing park until the flash is written; activation marks the committed slot for a trial at the
next module reset, or restarts the headstock into it and measures it; confirmation moves the boot slot and the fused minimum.
ATTEST answers with what the boot measured. A headstock restart keeps what hardware runs. Readings of the model:
notes/assumptions/66, 116, 117. -/
def Obligations.FirmwareCommands : Prop :=
  (∀ (r : RingId) (e : Entry) (data : List Byte) (s : State) (c : Cmd),
    let b := s.blk.started r
    s.blk.accepts r e 0x80 c →
    (c.p 0 % 4096 = 0 → c.p 1 % 4096 = 0 → 4096 ≤ c.p 1 → c.p 1 ≤ 2 ^ 20 → c.p 0 + c.p 1 ≤ 2 ^ 25 → bufOk e (c.p 1) = true →
      Gives (.fwStage r e data) s { b.countPort 64 (c.p 1) with flashWork := b.flashWork ++ [(e, slice data 0 (c.p 1))] }) ∧
    (c.p 0 % 4096 ≠ 0 ∨ c.p 1 % 4096 ≠ 0 ∨ c.p 1 < 4096 ∨ 2 ^ 20 < c.p 1 ∨ 2 ^ 25 < c.p 0 + c.p 1 ∨ bufOk e (c.p 1) = false →
      Gives (.fwStage r e data) s (b.finish r e .invalidField 0))) ∧
  Parks Instr.fwCommit 0x81 (fun b _ => (b.slot b.inactive).mark ≠ 0) (fun b c => { b with flashWork := b.flashWork ++ [(c.entry, [])] }) ∧
  Refuses Instr.fwCommit 0x81 (fun b _ => (b.slot b.inactive).mark = 0) .invalidField ∧
  Completes Instr.fwActivate 0x82 (fun b c => fwWhen c.entry = 0 ∧ c.p 0 = 0 ∧ (b.slot b.inactive).mark = 2)
    (fun b _ => { b with store := { b.store with trial := some b.inactive } }) ∧
  Refuses Instr.fwActivate 0x82 (fun b c => fwWhen c.entry ≠ 1 ∧ (1 < fwWhen c.entry ∨ (b.slot b.inactive).mark ≠ 2)) .invalidField ∧
  (∀ (r : RingId) (e : Entry) (s : State) (c : Cmd),
    let b := s.blk.started r
    s.blk.accepts r e 0x82 c → fwWhen e = 1 → s.blk.restarting = false → s.blk.runSlot ≤ 1 →
    ((b.slot b.inactive).mark = 2 → (∀ x ∈ b.ctxs, x.2.state = .free) →
      let b1 : Block := { b with
        runSlot := b.inactive, runTrial := true, ready := false, measured := b.measured.take 1 ++ [(b.slot b.inactive).measure 1] }
      Gives (.fwActivateNow r e) s ((b1.finish r e .success 0).headstockRestart)) ∧
    ((b.slot b.inactive).mark ≠ 2 ∨ (∃ x ∈ b.ctxs, x.2.state ≠ .free) → Gives (.fwActivateNow r e) s (b.finish r e .invalidField 0))) ∧
  Completes Instr.fwConfirm 0x83 (fun b _ => b.runTrial = true) (fun b _ => { b with
    runTrial := false
    store := { b.store with bootSlot := b.runSlot, trial := none, trialFails := 0, minSvn := max b.store.minSvn (b.slot b.runSlot).svn } }) ∧
  Refuses Instr.fwConfirm 0x83 (fun b _ => b.runTrial = false) .invalidField ∧
  Parks Instr.attest 0x84 (fun b c => bufOk c.entry (b.attestBytes (c.p 0)).length = true)
    (fun b c => { b with flashWork := b.flashWork ++ [(c.entry, [])] }) ∧
  Refuses Instr.attest 0x84 (fun b c => bufOk c.entry (b.attestBytes (c.p 0)).length = false) .invalidField ∧
  (∀ (b : Block) (nonce : Nat), b.attestBytes nonce = b.measured.flatMap (fun x => leBytes 48 x.toNat) ++ leBytes 32 nonce
    ++ leBytes 96 (Config.attestSignature b.measured (leBytes 32 nonce)).toNat) ∧
  (∀ (r : RingId) (s : State) (e : Entry) (data : List Byte) (rest : List (Entry × List Byte)),
    let b := s.blk
    let b1 : Block := { b with flashWork := rest }
    let x := b.slot b.inactive
    r.val = 0 → b.takes = true → b.restarting = false → b.flashWork = (e, data) :: rest →
    (entOpcode e = 0x80 → Gives (.fwFlashWriteDone r) s ((b1.setSlot b.inactive
      { mark := 1, image := iter data.length x.image fun t i => tput 0 t (bits e.toNat 223 192 + i) (data.getD i 0) }).finish 0 e .success 0)) ∧
    (entOpcode e = 0x81 → Gives (.fwFlashWriteDone r) s
      (if x.verifies = false then b1.finish 0 e .signatureInvalid 0 else if x.svn < b.store.minSvn then b1.finish 0 e .versionRollback 0
      else (b1.setSlot b.inactive { x with mark := 2 }).finish 0 e .success 0)) ∧
    (entOpcode e = 0x84 → Gives (.fwFlashWriteDone r) s
      ((b1.hostWrite (entBuf e) (b.attestBytes (bits e.toNat 511 256))).finish 0 e .success 0))) ∧
  (∀ (r : RingId) (e : Entry) (s : State) (c : Cmd),
    s.blk.accepts r e 0x19 c → s.blk.ready = true → s.blk.restarting = false →
    ∃ b', Gives (.headstockRestart r e) s b' ∧ b'.ready = false ∧ b'.restarting = true ∧ b'.restarts = min 255 (s.blk.restarts + 1)
      ∧ b'.flashWork = [] ∧ (∀ k, (b'.ring k).events = []) ∧ b'.spindles = s.blk.spindles ∧ b'.cells = s.blk.cells ∧ b'.chans = s.blk.chans
      ∧ b'.ctxs = s.blk.ctxs ∧ b'.conns = s.blk.conns ∧ b'.racks = s.blk.racks) ∧
  (∀ (s : State),
    let b := s.blk
    b.hubUp = true → b.restarting = true → (∀ r, r < 17 → (b.ring r).taken = [] ∧ (b.ring r).events = []) →
    Gives .headstockRestartDone s { b with
      ready := true, bootStage := 4, restarting := false, fwVersion := (b.slot b.runSlot).version, fwSvn := (b.slot b.runSlot).svn })

/-! ### Contexts, tables, jobs and streams -/

/-- R98, R212, R254, R266, R321, R374: creation makes a FREE context LIVE with zeroed counters; windows, cells and
scheduling write the fields they name; a pool comes up with all its pages free; teardown makes the context TEARING and
ends when nothing of it is in flight: its registers return to their reset values and the command completes. Readings of the model: notes/assumptions/118, 119, 120, 121. -/
def Obligations.ContextCommands : Prop :=
  Completes Instr.ctxCreate 0x10 (fun b c => (b.ctx c.c).state = .free ∧ c.p 1 ≤ 1 ∧ c.p 2 ≤ 1)
    (fun b c => b.setCtx c.c { state := .live, freeMode := c.p 1 == 1, readPerm := c.p 2 == 1, seed := BitVec.ofNat 64 (c.p 3)
                               dstAddr := (b.ctx c.c).dstAddr, dstEn := (b.ctx c.c).dstEn }) ∧
  Refuses Instr.ctxCreate 0x10 (fun b c => (b.ctx c.c).state = .live ∨ 1 < c.p 1 ∨ 1 < c.p 2) .invalidField ∧
  Completes Instr.ctxWindow 0x12 (fun b c => c.p 1 + c.p 2 ≤ 256 ∧ zeros (c.p 3) [(63, 44), (31, 27), (15, 11)] = true
      ∧ bits (c.p 3) 10 0 + bits (c.p 3) 26 16 ≤ 1536 ∧ ∀ p : Nat, ∀ x ∈ (b.spd p).windows, x.1 ≠ c.c → (windowOf (c.p 3)).meets x.2 = false)
    (fun b c => ((((List.range (c.p 2)).map (c.p 1 + ·)).filter fun l => !b.removed.contains l).map b.physOf).foldl (fun b p => b.modSpd p fun x =>
      x.giveWindow c.c { basePage := bits (c.p 3) 10 0, pages := bits (c.p 3) 26 16, handleLo := bits (c.p 3) 37 32, handleHi := bits (c.p 3) 43 38 }) b) ∧
  Refuses Instr.ctxWindow 0x12 (fun _ c => 256 < c.p 1 + c.p 2 ∨ zeros (c.p 3) [(63, 44), (31, 27), (15, 11)] = false
      ∨ 1536 < bits (c.p 3) 10 0 + bits (c.p 3) 26 16) .invalidField ∧
  Completes Instr.ctxPool 0x13 (fun b c => c.p 2 ≤ 8 ∧ c.p 3 ≤ 2 ^ 26 ∧ c.p 4 % 65536 = 0 ∧ c.p 4 < 2 ^ 48
      ∧ (b.pool c.c).freePages = (b.pool c.c).pages ∧ 0 < c.p 3 ∧ b.inMemory (c.p 4) (c.p 3 * 65536 + 8 * c.p 3) = true)
    (fun b c => (b.modPool c.c fun x =>
        { x with base := c.p 4, groupsM1 := c.p 1, pppLog2 := c.p 2, pages := c.p 3, freePages := c.p 3, head := 0 }).hubWrite
      (c.p 4 + c.p 3 * 65536) ((List.range (c.p 3)).flatMap fun k => leBytes 4 0 ++ leBytes 4 k)) ∧
  Completes Instr.ctxPool 0x13 (fun b c => c.p 2 ≤ 8 ∧ c.p 3 = 0 ∧ c.p 4 % 65536 = 0 ∧ c.p 4 < 2 ^ 48 ∧ (b.pool c.c).freePages = (b.pool c.c).pages)
    (fun b c => b.modPool c.c fun x =>
      { x with base := c.p 4, groupsM1 := c.p 1, pppLog2 := c.p 2, pages := 0, freePages := 0, head := 0 }) ∧
  Refuses Instr.ctxPool 0x13 (fun b c => 8 < c.p 2 ∨ 2 ^ 26 < c.p 3 ∨ c.p 4 % 65536 ≠ 0 ∨ 2 ^ 48 ≤ c.p 4 ∨ (b.pool c.c).freePages ≠ (b.pool c.c).pages) .invalidField ∧
  Completes Instr.ctxCells 0x14 (fun b c => c.p 1 ≤ 1 ∧ 31 ≤ c.p 2 ∧ (b.ctx c.c).krf.jobEn = false ∧ b.inChuck c.c = false
      ∧ (∀ t : Nat, t < 4 → c.p (3 + t) < 32768 ∧ c.p (3 + t) + c.p (7 + t) ≤ 32768 ∧ ∀ x ∈ (b.tile t).synPart, x.1 ≠ c.c → overlap (c.p (3 + t)) (c.p (7 + t)) x.2.1 x.2.2 = false)
      ∧ 256 ≤ c.p 7 + c.p 8 + c.p 9 + c.p 10)
    (fun b c => [0, 1, 2, 3].foldl (fun b t => (b.zeroPart t (c.p (3 + t)) (c.p (7 + t))).modTile t fun x =>
      { x with synPart := tset x.synPart c.c (c.p (3 + t), c.p (7 + t)), synCtx := tset x.synCtx c.c { timeoutMs := c.p 2, ackMode := c.p 1 == 1 } }) b) ∧
  Refuses Instr.ctxCells 0x14 (fun b c => 1 < c.p 1 ∨ c.p 2 < 31 ∨ (b.ctx c.c).krf.jobEn = true ∨ b.inChuck c.c = true
      ∨ c.p 7 + c.p 8 + c.p 9 + c.p 10 < 256 ∨ ∃ t : Nat, t < 4 ∧ 32768 < c.p (3 + t) + c.p (7 + t)) .invalidField ∧
  Completes Instr.ctxSched 0x15 (fun _ c => c.p 1 ≤ 1 ∧ c.p 2 ≤ 1 ∧ c.p 4 ≤ 65536)
    (fun b c => b.modCtx c.c fun x => { x with
      sched := { x.sched with enable := c.p 1 == 1, traceEn := c.p 2 == 1, lendMask := c.p 3, quota := c.p 4 } }) ∧
  Refuses Instr.ctxSched 0x15 (fun _ c => 1 < c.p 1 ∨ 1 < c.p 2 ∨ 65536 < c.p 4) .invalidField ∧
  (∀ (r : RingId) (e : Entry) (s : State) (c : Cmd),
    let b := s.blk.started r
    s.blk.accepts r e 0x11 c → Gives (.ctxTeardown r e) s (b.teardown s.dram c.c) ∧ ((∀ p, p ∈ [0, 1, 2, 3] → b.rack (rackOf c.c p) = [] ∧ (b.lane c.c p).busy = false) → b.spindles = [] →
    b.chains = [] → b.conns = [] →
    ∃ b', Gives (.ctxTeardown r e) s b' ∧ (b'.ctx c.c).state = .tearing ∧ (b'.ctx c.c).sched.enable = false ∧ (b'.ctx c.c).krf.jobEn = false
      ∧ (∀ k, k ≠ c.c → b'.ctx k = b.ctx k) ∧ b'.cells = b.cells ∧ b'.streams = b.streams ∧ b'.tables = b.tables
      ∧ b'.notifies = b.notifies.filter fun n => n.ring != 1 + c.c)) ∧
  (∀ (c : CtxId) (s : State),
    let b := s.blk
    (b.ctx c).state = .tearing → b.hubUp = true →
    (b.ctxInFlight c = true → Gives (.teardownFinish c) s b) ∧
    (b.ctxInFlight c = false →
      let b1 := b.releaseCtx s.dram c
      Gives (.teardownFinish c) s (((b1.ring 0).taken.filter fun x => x.started && entOpcode x.entry == 0x11 && bits x.entry.toNat 199 192 == c.val).foldl
        (fun b x => b.finish 0 x.entry .success 0) b1)) ∧
    (b.ctxInFlight c = false → (b.ring 0).taken = [] → b.spindles = [] → b.streams = [] → b.tables = [] → b.pins = [] →
      ∃ b', Gives (.teardownFinish c) s b' ∧ b'.ctx c = { cnt := (b.ctx c).cnt, energyUj := (b.ctx c).energyUj, dstAddr := (b.ctx c).dstAddr, dstEn := (b.ctx c).dstEn }
        ∧ (∀ k : Nat, k ≠ c → b'.ctx k = b.ctx k) ∧ (∀ t : Nat, t < 4 → (b'.tile t).synPart = tdel (b.tile t).synPart c)))

/-- R127, R157, R254: registering a table enters it for its context, releasing an idle one removes it; a push reserves
its blanks and makes them ready when every descriptor passes and the rack has room, and answers the quota that is left; a full rack is answered with RACK_FULL,
and a descriptor that breaks a check with its status. Readings of the model:
notes/assumptions/44, 95. -/
def Obligations.TablesAndPushes : Prop :=
  (∀ (r : RingId) (e : Entry) (s : State) (c : Cmd) (bs : List Byte) (b' : Block),
    let b := s.blk.started r
    s.blk.accepts r e 0x20 c →
    (c.p 0 < 4096 → c.p 1 % 128 = 0 → tfind b.tables (c.p 0) = none → hubRead s.dram b (c.p 1) 128 = (.success, bs, b') →
      b.tableBad (tableDesc (leNat bs)) = false → (tableDesc (leNat bs)).tableId = c.p 0 →
      (tableDesc (leNat bs)).versioned = true ∨ 0 < (tableDesc (leNat bs)).burlCount →
      Gives (.tableRegister r e) s (({ b' with tables := tset b'.tables (c.p 0) { burl := decide (0 < (tableDesc (leNat bs)).burlCount), context := c.c, desc := c.p 1 } } : Block).finish r e .success 0)) ∧
    (4096 ≤ c.p 0 ∨ c.p 1 % 128 ≠ 0 ∨ (tfind b.tables (c.p 0)).isSome = true → Gives (.tableRegister r e) s (b.finish r e .invalidField 0))) ∧
  Completes Instr.tableRelease 0x21 (fun b c => (tfind b.tables (c.p 0)).any (fun t => t.context == c.c) = true
      ∧ (∀ k, k < 2 → b.readerCount (c.p 0) k = 0 ∧ b.burlCount (c.p 0) k = 0) ∧ ∀ x ∈ b.pins, x.home.isSome = true ∨ x.tableId ≠ c.p 0)
    (fun b c => { b with tables := tdel b.tables (c.p 0) }) ∧
  Refuses Instr.tableRelease 0x21 (fun b c => tfind b.tables (c.p 0) = none) .invalidField ∧
  Refuses Instr.tableRelease 0x21 (fun b c => (tfind b.tables (c.p 0)).any (fun t => t.context != c.c) = true) .accessDenied ∧
  Refuses Instr.tableRelease 0x21 (fun b c => (tfind b.tables (c.p 0)).any (fun t => t.context == c.c) = true
      ∧ ((∃ k, k < 2 ∧ (b.readerCount (c.p 0) k ≠ 0 ∨ b.burlCount (c.p 0) k ≠ 0)) ∨ ∃ x ∈ b.pins, x.home = none ∧ x.tableId = c.p 0)) .invalidField ∧
  (∀ (r : RingId) (e : Entry) (s : State) (c : Cmd) (bs : List Byte) (b' : Block),
    let b := s.blk.started r
    let n := c.p 0
    let descs := (List.range n).map fun i => leNat (slice bs (64 * i) 64)
    let ks := (List.range n).map fun i => ({ desc := BitVec.ofNat 512 (descs.getD i 0), addr := BitVec.ofNat 64 (c.p 1 + 64 * i) } : Blank)
    s.blk.accepts r e 0x40 c → 0 < n → n ≤ 64 → c.p 1 % 64 = 0 → hubRead s.dram b (c.p 1) (64 * n) = (.success, bs, b') →
    ((∀ d ∈ descs, descCheck b c.c d = none) → b.rackFull c.c n = false →
      let b2 := (({ b'.ungate with nextResv := b.nextResv + 1 } : Block).reserve c.c b.nextResv false ks).pushReady c.c b.nextResv
      Gives (.blankPush r e) s (b2.finish r e .success (b.quotaLeft c.c))) ∧
    ((∀ d ∈ descs, descCheck b c.c d = none) → b.rackFull c.c n = true →
      Gives (.blankPush r e) s ((b'.traceEvent c.c (BitVec.ofNat 512 (descs.headD 0)) 0x02 0 1).finish r e .rackFull (b.quotaLeft c.c))) ∧
    (∀ st, firstBad (descs.map (descCheck b c.c)) = some st → Gives (.blankPush r e) s (b.finish r e st 0))) ∧
  Refuses Instr.blankPush 0x40 (fun _ c => c.p 0 = 0 ∨ 64 < c.p 0 ∨ c.p 1 % 64 ≠ 0) .invalidField

/-- R285, R293, R303, R317: joining opens a connection for each peer of the table; settings take effect at once; leaving
closes the connections, and completes once the writes of the peers are accepted; a lost peer is readmitted under its next incarnation; a sweep is armed on a chain of the
context. Readings of the model: notes/assumptions/82, 122, 123. -/
def Obligations.JobCommands : Prop :=
  (∀ (r : RingId) (e : Entry) (s : State) (c : Cmd) (bs : List Byte) (b' : Block),
    let b := s.blk.started r
    let n := c.p 1
    s.blk.accepts r e 0x50 c → n ≤ 4096 → b.openConns + n ≤ 16384 → c.p 2 ≤ 2 → c.p 3 ≤ 1 → c.p 4 < 2 ^ 14 → c.p 6 < 2 ^ 63 → c.p 5 % 64 = 0 →
    (b.ctx c.c).krf.jobEn = false → b.region (c.p 5) = .hbm → b.region (c.p 5 + 64 * n - 1) = .hbm →
    (if n = 0 then (Status.success, ([] : List Byte), b) else hubRead s.dram b (c.p 5) (64 * n)) = (.success, bs, b') →
    Gives (.jobJoin r e) s ((iter n (b'.modCtx c.c fun x => { x with
        krf := { jobId := c.p 0, peers := n, epochPolicy := c.p 2, followEn := c.p 3 == 1, jobEn := true, formats := c.p 4, peerBase := c.p 5, acceptEpoch := c.p 6 } })
      fun b i => b.joinPeer c.c (c.p 5) i (leNat (slice bs (64 * i) 64))).finish r e .success 0)) ∧
  Refuses Instr.jobJoin 0x50 (fun b c => (b.ctx c.c).krf.jobEn = true ∨ 4096 < c.p 1 ∨ 16384 < b.openConns + c.p 1 ∨ 2 < c.p 2
      ∨ 1 < c.p 3 ∨ 2 ^ 14 ≤ c.p 4 ∨ 2 ^ 63 ≤ c.p 6 ∨ c.p 5 % 64 ≠ 0 ∨ b.region (c.p 5) ≠ .hbm) .invalidField ∧
  (∀ (r : RingId) (e : Entry) (s : State) (c : Cmd),
    let b := s.blk.started r
    s.blk.accepts r e 0x51 c →
    let lines := b.openLines fun src => match src with
      | .kerf i _ => (b.connsOf c.c).contains i
      | _ => false
    let left := (((b.connsOf c.c).foldl (fun b k => b.closeConn s.dram k .peerLost) b).modCtx c.c fun x =>
      { x with krf := { x.krf with jobEn := false } }).followLift
    (lines = [] → Gives (.jobLeave r e) s (left.finish r e .success 0)) ∧
    (lines ≠ [] → Gives (.jobLeave r e) s { left with leaving := left.leaving ++ [{ ring := r.val, entry := e, lines }] })) ∧
  (∀ (r : RingId) (e : Entry) (s : State) (c : Cmd) (k : Nat),
    let b := s.blk.started r
    s.blk.accepts r e 0x52 c → b.connOf c.c (c.p 0) = some k →
    ((b.conn k).state = .lost → Gives (.peerReadmit r e) s
      ((b.openConn k (b.conn k).ctx (b.conn k).peer (b.conn k).entryAddr (b.conn k).addr (b.conn k).peerCtx true).finish r e .success 0)) ∧
    ((b.conn k).state ≠ .lost → Gives (.peerReadmit r e) s (b.finish r e .invalidField 0))) ∧
  Completes Instr.jobSet 0x53 (fun b c => (b.ctx c.c).krf.jobEn = true ∧ c.p 0 ≤ 1 ∧ c.p 1 = 0xFF ∧ c.p 2 < 2 ^ 63)
    (fun b c => (b.modCtx c.c fun x => { x with krf := { x.krf with followEn := c.p 0 == 1, acceptEpoch := c.p 2 } }).followLift) ∧
  Completes Instr.jobSet 0x53 (fun b c => (b.ctx c.c).krf.jobEn = true ∧ c.p 0 ≤ 1 ∧ c.p 1 ≤ 1 ∧ c.p 2 < 2 ^ 63)
    (fun b c => [0, 1, 2, 3].foldl (fun (b : Block) t => b.modTile t fun x =>
        { x with synCtx := tset x.synCtx c.c { tget {} x.synCtx c.c with ackMode := c.p 1 == 1 } })
      ((b.modCtx c.c fun x => { x with krf := { x.krf with followEn := c.p 0 == 1, acceptEpoch := c.p 2 } }).followLift)) ∧
  Refuses Instr.jobSet 0x53 (fun b c => (b.ctx c.c).krf.jobEn = false ∨ 1 < c.p 0 ∨ (1 < c.p 1 ∧ c.p 1 ≠ 0xFF) ∨ 2 ^ 63 ≤ c.p 2) .invalidField ∧
  (∀ (r : RingId) (e : Entry) (s : State) (c : Cmd) (ch : Chain),
    let b := s.blk.started r
    let x : Sweep := { ctx := c.c, number := c.p 0, desc := ch.desc }
    let b1 : Block := { b with sweeps := b.sweeps ++ [x] }
    s.blk.accepts r e 0x54 c → b.chains.find? (fun ch => ch.ctx == c.c && ch.descAddr == c.p 2) = some ch →
    (c.p 1 = 0 → b.sweeps.length < 4 → Gives (.sweepArm r e) s (b1.finish r e .success 0)) ∧
    (c.p 1 = 1 → b.sweeps.length < 4 → (chainDesc ch.desc.toNat).pos = 0 → Gives (.sweepArm r e) s ((b1.sweepAt x false).finish r e .success 0)) ∧
    (1 < c.p 1 ∨ 4 ≤ b.sweeps.length ∨ (c.p 1 = 1 ∧ (chainDesc ch.desc.toNat).pos ≠ 0) → Gives (.sweepArm r e) s (b.finish r e .invalidField 0))) ∧
  Refuses Instr.sweepArm 0x54 (fun b c => (b.chains.find? fun ch => ch.ctx == c.c && ch.descAddr == c.p 2) = none) .invalidField

/-- R207, R210 to R214: what each stream command does to the stream it names, once its entry is in the cache; the states in which it is
refused; a stream of another context is refused with ACCESS_DENIED; opening takes pages from the pool, gives them back when it
empties, and a fork shares its parent's. A command that lacks bytes of the host window asks for them and comes again. Readings
of the model: notes/assumptions/97, 98, 99, 100, 102, 103, 104. -/
def Obligations.StreamCommands : Prop :=
  ∀ (r : RingId) (e : Entry) (s : State) (c : Cmd),
    let b := s.blk.started r
    let id := c.p 0
    let who := 272 + r.val
    let ended (b : Block) (st : Status) : Block := (b.hubDone who).finish r e st 0
    let rows := [(Instr.streamOpen r e, 0x30), (.streamFork r e, 0x31), (.streamPause r e, 0x32), (.streamResume r e, 0x33), (.streamClose r e, 0x34), (.streamQuery r e, 0x35)]
    s.blk.hubAsking who = false →
    (∀ i ∈ rows, s.blk.accepts r e i.2 c →
      (b.streamTable = none ∨ 131072 ≤ id → Gives i.1 s (b.finish r e .invalidField 0)) ∧
      (b.streamTable.isSome = true → id < 131072 → (∃ t, b.stream id = some t ∧ t.ctx ≠ c.c) → Gives i.1 s (b.finish r e .accessDenied 0))) ∧
    (b.streamTable.isSome = true → id < 131072 → (∀ t, b.stream id = some t → t.ctx = c.c) → ∀ x : Sb,
      Sb.load s.dram { b, who } id = (.success, x) → x.miss = [] → x.who = who →
      (s.blk.accepts r e 0x30 c → x.b.stream id = none → c.p 1 ≤ 1 → ∀ h x1 got x2 st,
        x.hostEntry s.dram id = (.success, h, x1) → x1.b.entryBad c.c h = false →
        x1.allocList s.dram c.c h.pageList 0 ((h.pos / (x1.b.pool c.c).ppp + 1) * (x1.b.pool c.c).groups) = (st, got, x2) →
        (st = .success → x2.miss = [] → x2.who = who →
          Gives (.streamOpen r e) s (ended (x2.b.setStream id (h.fresh0 (h.pos / (x1.b.pool c.c).ppp + 1) (if c.p 1 = 1 then 1 else 2))) .success)) ∧
        (st ≠ .success → let x3 := (x2.freePages s.dram c.c got).2
          x3.miss = [] → x3.who = who → Gives (.streamOpen r e) s (ended x3.b st))) ∧
      (s.blk.accepts r e 0x30 c → (x.b.stream id).isSome = true ∨ 1 < c.p 1 → Gives (.streamOpen r e) s (ended x.b .invalidField)) ∧
      (s.blk.accepts r e 0x30 c → x.b.stream id = none → c.p 1 ≤ 1 → ∀ h x1, x.hostEntry s.dram id = (.success, h, x1) → x1.b.entryBad c.c h = true →
        x1.miss = [] → x1.who = who → Gives (.streamOpen r e) s (ended x1.b .invalidField)) ∧
      (s.blk.accepts r e 0x31 c → ∀ st x1, x.load s.dram (c.p 1) = (st, x1) → x1.miss = [] → x1.who = who →
        (x1.b.stream (c.p 1) = none → Gives (.streamFork r e) s (ended x1.b .invalidField)) ∧
        (∀ par h x2 l x3 ws x4 x5 st' v b',
          let p := x.b.pool c.c
          st = .success → x1.b.stream (c.p 1) = some par → x1.b.stream id = none → par.ctx = c.c → par.state ≠ 6 →
          x1.hostEntry s.dram id = (.success, h, x2) → x2.b.entryBad c.c h = false → c.p 2 % p.ppp = 0 → c.p 2 ≤ par.pos → c.p 2 ≤ h.pos →
          c.p 2 / p.ppp ≤ par.blocks → x2.pageList s.dram par.pageList 0 (c.p 2 / p.ppp * p.groups) = (.success, l, x3) → x3.miss = [] →
          (∀ k ∈ l, k < p.pages) → x3.pageWords s.dram p l = (.success, ws, x4) →
          (∀ w ∈ ws, w % 65536 ≠ 65535 ∧ w % 65536 ≠ 0 ∧ w / 2 ^ 28 = c.c) →
          x4.openStream s.dram c.c id h false l = (.done st' v b', x5) → x5.miss = [] → x5.who = who →
          Gives (.streamFork r e) s ((x5.b.hubDone who).finish r e st' v)) ∧
        (∀ par, st = .success → x1.b.stream (c.p 1) = some par → (x1.b.stream id).isSome = true ∨ par.ctx ≠ c.c ∨ par.state = 6 →
          Gives (.streamFork r e) s (ended x1.b .invalidField))) ∧
      (∀ t, x.b.stream id = some t →
        (s.blk.accepts r e 0x32 c → (t.state = 2 ∨ t.state = 3) → t.inStep = false → Gives (.streamPause r e) s (ended (x.b.streamPaused id) .success)) ∧
        (s.blk.accepts r e 0x32 c → (t.state = 2 ∨ t.state = 3) → t.inStep = true →
          Gives (.streamPause r e) s ((x.b.setStream id { t with pausePending := true, parked := t.parked ++ [(r.val, e)] }).hubDone who)) ∧
        (s.blk.accepts r e 0x32 c → t.state ≠ 2 → t.state ≠ 3 → Gives (.streamPause r e) s (ended x.b .invalidField)) ∧
        (s.blk.accepts r e 0x33 c → t.state = 1 → Gives (.streamResume r e) s (ended (x.b.setStream id (t.setState 2)) .success)) ∧
        (s.blk.accepts r e 0x33 c → t.state ≠ 1 → Gives (.streamResume r e) s (ended x.b .invalidField)) ∧
        (s.blk.accepts r e 0x34 c → t.inStep = false → (x.closeStream s.dram id).who = who →
          ((x.closeStream s.dram id).miss = [] → Gives (.streamClose r e) s (ended (x.closeStream s.dram id).b .success)) ∧
          ((x.closeStream s.dram id).miss ≠ [] →
            Gives (.streamClose r e) s ((b.windowAsk { spindle := who } (x.closeStream s.dram id).miss).unstarted r e))) ∧
        (s.blk.accepts r e 0x34 c → t.inStep = true →
          Gives (.streamClose r e) s ((x.b.setStream id { t.setState 6 with parked := t.parked ++ [(r.val, e)] }).hubDone who)) ∧
        (s.blk.accepts r e 0x35 c → bufOk e 128 = true →
          Gives (.streamQuery r e) s (ended ((x.b.streamTouch id).hostWrite (entBuf e) (leBytes 128 t.entry.toNat)) .success))) ∧
      (x.b.stream id = none → ∀ i ∈ [(Instr.streamPause r e, 0x32), (.streamResume r e, 0x33), (.streamClose r e, 0x34)],
        s.blk.accepts r e i.2 c → Gives i.1 s (ended x.b .invalidField)) ∧
      (s.blk.accepts r e 0x35 c → bufOk e 128 = false → Gives (.streamQuery r e) s (ended x.b .invalidField)))

/-- R215 to R219, R272: a lane is armed with one descriptor; it prepares by preparing each row and signalling its ready cell behind its
writes, and stops where the descriptor is unsound; it commits by committing each row, writing its counts, and signalling its done
cell behind its writes; a lane whose step is to be abandoned abandons it. Readings of the model: notes/assumptions/104, 105,
106, 107. -/
def Obligations.GenerationSteps : Prop :=
  (∀ (r : RingId) (e : Entry) (s : State) (c : Cmd) (bs : List Byte) (b' : Block),
    let b := s.blk.started r
    s.blk.accepts r e 0x36 c → b.streamTable.isSome = true →
    (c.p 0 ≤ 3 → (b.lane c.c (c.p 0)).busy = false → c.p 1 % 128 = 0 → (b.memRange (c.p 1) 128).toOption.isSome = true →
      hubRead s.dram b (c.p 1) 128 = (.success, bs, b') →
      (b.stepCellsBad c.c (BitVec.ofNat 1024 (leNat bs)) = false →
        Gives (.stepArm r e) s ((b'.setLane c.c (c.p 0) { busy := true, step := c.p 1 }).finish r e .success 0)) ∧
      (b.stepCellsBad c.c (BitVec.ofNat 1024 (leNat bs)) = true → Gives (.stepArm r e) s (b.finish r e .accessDenied 0))) ∧
    (3 < c.p 0 ∨ (b.lane c.c (c.p 0)).busy = true ∨ c.p 1 % 128 ≠ 0 → Gives (.stepArm r e) s (b.finish r e .invalidField 0))) ∧
  (∀ (c : CtxId) (lane : Fin 4) (s : State) (v : Nat) (bs : List Byte) (x1 x2 : Sb),
    let b := s.blk.ungate
    let k := b.lane c lane
    let who := 289 + 4 * c.val + lane.val
    let d := BitVec.ofNat 1024 v
    k.busy = true → k.waiting = none → k.satisfied = false → k.ending = none → b.hubUp = true → b.power ≠ .a2 → (b.ctx c).state = .live →
    b.hubAsking who = false → k.step % 128 = 0 → (b.memRange k.step 128).toOption.isSome = true →
    Sb.num s.dram { b, who } k.step 128 = (.success, v, x1) →
    (x1.b.stepBad c d = none → x1.get s.dram (stepF d 623 576) (4 * stepRows d) = (.success, bs, x2) →
      let a := iter (stepRows d) ({ x := x2 } : PrepAcc) (prepRow s.dram c d (words32 bs))
      let x := a.x.stepPhase k.step 1 .success
      let w : Wait := { cell := stepF d 464 448, theta := 1, consume := true, hot := true, watchAll := true, started := b.time }
      x.who = who →
      (x.miss = [] → Gives (.stepPrepare c lane) s (((x.b.setLane c lane { k with
        desc := d, waiting := some { w with peerLostDue := b.watchedLost c w }, active := a.active, skipped := a.skipped, parked := a.parked }).signal
          (stepF d 432 416) 1 (0x2000 + 4 * c + lane) (lines := x.lines)).hubDone who)) ∧
      (x.miss ≠ [] → Gives (.stepPrepare c lane) s (b.windowAsk { spindle := who } x.miss))) ∧
    (∀ st, x1.b.stepBad c d = some st → x1.miss = [] → (x1.stepPhase k.step 3 st).who = who → (x1.stepPhase k.step 3 st).miss = [] →
      Gives (.stepPrepare c lane) s (((x1.stepPhase k.step 3 st).b.setLane c lane {}).hubDone who))) ∧
  (∀ (c : CtxId) (lane : Fin 4) (s : State) (epoch : Nat) (st : Status) (x1 : Sb),
    let b := s.blk
    let k := b.lane c lane
    let who := 289 + 4 * c.val + lane.val
    b.hubUp = true → b.power ≠ .a2 → b.hubAsking who = false →
    (k.satisfied = true → k.ending = none → Sb.num s.dram { b, who } (k.step + 120) 8 = (st, epoch, x1) →
      (st = .success →
        let a := k.active.foldl (commitRow s.dram k.desc (epoch % 2 ^ 63)) ({ x := x1 } : CommitAcc)
        let counts := leBytes 2 a.committed ++ leBytes 2 k.parked ++ leBytes 2 k.skipped ++ leBytes 2 a.ended
        let x := (a.x.put (k.step + 108) counts).stepPhase k.step 2 .success
        let next := stepF k.desc 559 512
        x.who = who →
        (x.miss = [] → Gives (.stepCommit c lane) s (((x.b.setLane c lane (if next = 0 then {} else { busy := true, step := next })).signal
          (stepF k.desc 496 480) 1 (0x2000 + 4 * c + lane) (lines := x.lines)).hubDone who)) ∧
        (x.miss ≠ [] → Gives (.stepCommit c lane) s (b.windowAsk { spindle := who } x.miss))) ∧
      (st ≠ .success → Gives (.stepCommit c lane) s (b.stepAbandon s.dram c lane st))) ∧
    (∀ st, k.ending = some st → Gives (.stepCommit c lane) s (b.stepAbandon s.dram c lane st)) ∧
    (k.satisfied = false → k.ending = none → Gives (.stepCommit c lane) s b)) ∧
  (∀ (m : Dram) (b : Block) (c l : Nat) (st : Status),
    let k := b.lane c l
    let x := k.active.foldl (fun x r => x.abandonRow m r.2) (Sb.stepPhase { b, who := 289 + 4 * c + l } k.step 3 st)
    x.miss = [] → x.who = 289 + 4 * c + l →
    b.stepAbandon m c l st = ((x.b.setLane c l {}).signal (stepF k.desc 496 480) 1 (0x2000 + 4 * c + l) (lines := x.lines)).hubDone (289 + 4 * c + l))

/-! ### Kerf -/

/-- R281 to R284, R287, R371: a frame that is not sound, does not belong to the path and the connection it names, or comes from another
device than the connection's peer is counted and dropped, whatever its type; one for another port is no Kerf frame. A frame
behind others waits in its port's receive buffer, where a pause is sent at 1.5 MiB and what does not fit in 2 MiB is dropped. A
duplicate is acknowledged again and does not act, a number beyond the window is dropped, and a request that needs a tile is held
while a drain window is open, and refused with RETRY_LATER in A2. Readings of the model: notes/assumptions/71, 72, 73, 91, 152,
154. -/
def Obligations.UnsoundFramesAreDropped : Prop :=
  ∀ m ∈ frameRows, ∀ (f : Frame) (s : State),
    let b := s.blk
    let n := f.port.val
    let p := b.port n
    let t := b.framed f
    let dropped := t.dropFrame n
    let arrives : Prop := b.hubLost = false ∧ p.linkUp = true ∧ f.dstPort.toNat = b.krfUdpPort
    (m.2 = 5 → chainFrameOp f ≠ 1 ∧ chainFrameOp f ≠ 2) →
    (b.hubLost = true ∨ p.linkUp = false → Gives (m.1 f) s b) ∧
    (b.hubLost = false → p.linkUp = true → f.dstPort.toNat ≠ b.krfUdpPort → Gives (m.1 f) s t) ∧
    (∀ k, arrives → parsePacket f.bytes = some k → k.type ≠ m.2 → Gives (m.1 f) s b) ∧
    (arrives → p.rx = [] → parsePacket f.bytes = none → Served (m.1 f) s dropped) ∧
    (∀ k, arrives → p.rx = [] → parsePacket f.bytes = some k → k.type = m.2 →
      (b.frameOk f k.conn = false ∨ k.version ≠ 1 ∨ k.resvZero = false → Served (m.1 f) s dropped) ∧
      (k.type ≠ 11 → (b.conn k.conn).isOpen = false ∨ (b.conn k.conn).loop = true ∨ (k.type ≠ 12 ∧ (b.conn k.conn).peerInc ≠ k.inc)
          ∨ (b.conn k.conn).addr + BitVec.ofNat 128 n ≠ f.src → Served (m.1 f) s dropped)) ∧
    (arrives → p.rx ≠ [] → (∀ k, parsePacket f.bytes = some k → k.type = m.2) →
      let old := (p.rx.map fun f => f.bytes.length).sum
      let size := old + f.bytes.length
      let held := t.modPort n fun x => { x with rx := p.rx ++ [f] }
      (0x200000 < size → Gives (m.1 f) s dropped) ∧
      (size ≤ 0x200000 → (p.pfcEn = false ∨ 0x180000 ≤ old ∨ size < 0x180000) → Gives (m.1 f) s held) ∧
      (size ≤ 0x200000 → p.pfcEn = true → old < 0x180000 → 0x180000 ≤ size → Gives (m.1 f) s { held with pfcOut := b.pfcOut ++ [(n, p.pfcPrio)] })) ∧
    (arrives → unknownType (bits (beNat (f.bytes.take 1)) 3 0) = true → Gives (.kerfUnknownType f) s dropped) ∧
    (∀ i k, b.hears f k → b.belongs f i k → k.type = m.2 → k.type ≤ 6 →
      let at1 := t.setConn i { b.conn i with ackPath := framePath f }
      let far := serial k.seq (b.conn i).rxBase
      (far < 0 ∨ k.seq ∈ (b.conn i).rxSeen →
        ((∀ x ∈ (b.conn i).rxWork, x.1.seq ≠ k.seq) → Served (m.1 f) s (at1.ackOne i)) ∧
        ((∃ x ∈ (b.conn i).rxWork, x.1.seq = k.seq) → Served (m.1 f) s at1)) ∧
      (65535 < far → k.seq ∉ (b.conn i).rxSeen → Served (m.1 f) s (at1.dropFrame n)) ∧
      (0 ≤ far → far ≤ 65535 → k.seq ∉ (b.conn i).rxSeen → needsTiles k = true →
        (b.draining = true → (∀ x ∈ b.drained, x.1 ≠ i ∨ x.2.seq ≠ k.seq) →
          Served (m.1 f) s { at1 with drained := b.drained ++ [(i, k)] }) ∧
        (b.draining = false → b.power = .a2 →
          Served (m.1 f) s ({ b.taken f i k with wake := true }.nacked f i k 1))))

/-- R286, R289, R295 to R297, R301 to R303: a new sequenced packet is received, acts, and is acknowledged or refused: a WRITE or ATOMIC
goes to the channel controllers, a fetch-add answering the value before it; a READ_REQ is answered with a READ_RESP; a SIGNAL
closes its group; a CHAIN slice or BREAK reaches the armed chain of its sender and a SWEEP its armed sweep, or is refused as not
armed. What breaks a range, a partition or the epoch policy is refused with its reason. Readings of the model:
notes/assumptions/75, 76, 77, 78, 80. -/
def Obligations.SequencedPacketsAct : Prop :=
  ∀ (f : Frame) (s : State) (i : Nat) (k : Packet),
    let b := s.blk
    let t := b.taken f i k
    let c := t.conn i
    let hold (b : Block) : Block := b.modConn i fun c => c.setGroup { c.group k.src k.sgrp with held := some k }
    b.hears f k → b.belongs f i k → b.newHere i k →
    (k.type = 0 → ∀ b1, t.peerCheck i c.ctx k = (none, b1) →
      let b2 := b1.sendBytes .write (.kerf i k.seq) k.addr k.payload
      let b3 := if k.sig then hold b2 else b2
      Served (.kerfWrite f) s (if k.payload = [] then b3.storeAccepted i k false else b3)) ∧
    (k.type = 0 → ∀ st b1, t.peerCheck i c.ctx k = (some st, b1) →
      Served (.kerfWrite f) s ((b1.nacked f i k (nackOf st)).groupRefuse i k)) ∧
    (k.type = 3 → atomicOk k = true → ∀ b1 bad old, t.peerCheck i c.ctx k = (none, b1) → readNow s.dram b1 k.addr 8 = (bad, old) →
      let b2 := b1.sendBytes (.memOp (atomicOp k.op) k.fmt) (.kerf i k.seq) k.addr k.payload
      let b3 := if k.op = 4 then b2.queuePkt i { type := 2, addr := k.addr, xfer := k.xfer, payload := old } .none else b2
      (k.op ≠ 4 ∨ bad = false → Served (.kerfAtomic f) s (if k.sig then hold b3 else b3)) ∧
      (k.op = 4 → bad = true → Served (.kerfAtomic f) s ((b1.nacked f i k 5).groupRefuse i k))) ∧
    (k.type = 3 → atomicOk k = true → ∀ st b1, t.peerCheck i c.ctx k = (some st, b1) →
      Served (.kerfAtomic f) s ((b1.nacked f i k (nackOf st)).groupRefuse i k)) ∧
    (k.type = 3 → atomicOk k = false → Served (.kerfAtomic f) s ((t.nacked f i k 7).groupRefuse i k)) ∧
    (k.type = 1 → k.len = 0 → Served (.kerfReadReq f) s (t.acted i k)) ∧
    (k.type = 1 → k.len ≠ 0 → ∀ st bs b1, hubRead s.dram t k.addr k.len = (st, bs, b1) →
      (st = .success → Served (.kerfReadReq f) s
        ((b1.queuePkt i { type := 2, addr := k.addr, xfer := k.xfer, payload := bs } .none).acted i k)) ∧
      (st ≠ .success → Served (.kerfReadReq f) s ((b1.nacked f i k (nackOf st)).groupRefuse i k))) ∧
    (k.type = 2 → ∀ o, c.reads.find? (fun o => o.pkt.xfer == k.xfer && o.pkt.addr == k.addr) = some o →
      Served (.kerfReadResp f) s
        (((t.setConn i { c with reads := eraseFirst (· == o) c.reads }).readDone s.dram i o k.payload).acted i k)) ∧
    (k.type = 2 → c.reads.find? (fun o => o.pkt.xfer == k.xfer && o.pkt.addr == k.addr) = none → Served (.kerfReadResp f) s (t.acted i k)) ∧
    (k.type = 4 → ∀ b1, t.peerCheck i c.ctx k = (none, b1) → Served (.kerfSignal f) s ((hold b1).groupTry i k.src k.sgrp)) ∧
    (k.type = 4 → ∀ st b1, t.peerCheck i c.ctx k = (some st, b1) →
      Served (.kerfSignal f) s ((b1.nacked f i k (nackOf st)).groupRefuse i k)) ∧
    (k.type = 5 →
      let i' := if k.op = 1 then Instr.chainResult f else if k.op = 2 then .chainBreak f else .chainForward f
      let near (ch : Chain) : Bool :=
        let d := chainDesc ch.desc.toNat
        let prev := decide (0 < d.pos) && d.prevPeer == c.peer
        let next := !d.last && d.nextPeer == c.peer
        ch.ctx == c.ctx && d.id == k.xfer && (if k.op = 0 then prev else if k.op = 1 then next else prev || next)
      (b.chains.find? near = none → Served i' s (t.nacked f i k 2)) ∧
      (∀ ch, b.chains.find? near = some ch →
        let d := chainDesc ch.desc.toNat
        let j := k.addr / 4096
        let sound := k.op ≤ 1 ∧ k.addr % 4096 = 0 ∧ j < d.slices ∧ k.payload.length = 4 * d.sliceLen j ∧ (k.op = 1 → d.bcast = true)
        (k.op = 2 → Served i' s ((t.chainBreakAt ch (bits k.addr 12 0) (bits k.addr 31 16) (some c.peer)).acted i k)) ∧
        (k.op ≠ 2 → ¬sound → Served i' s ((t.nacked f i k 7).groupRefuse i k)) ∧
        (sound → ∀ b1, t.epochTreat i k = (false, b1) → Served i' s ((b1.nacked f i k 6).groupRefuse i k)) ∧
        (sound → ∀ b1, t.epochTreat i k = (true, b1) →
          let got := b1.countCtx c.ctx 9 k.payload.length
          (k.op = 1 → Served i' s ((got.chainResultAt s.dram ch j k.payload).acted i k)) ∧
          (k.op = 0 → ∀ g, got.memRange (d.recvAddr + k.addr) k.payload.length = .ok g →
            Served i' s (((got.hubWrite (d.recvAddr + k.addr) k.payload).chainSlice s.dram ch j (some (f32Of k.payload))).acted i k)) ∧
          (k.op = 0 → ∀ st, got.memRange (d.recvAddr + k.addr) k.payload.length = .error st →
            Served i' s ((got.chainBreakAt ch d.pos st.code none).acted i k))))) ∧
    (k.type = 6 →
      let mine (x : Sweep) : Bool := x.ctx == c.ctx && x.number == k.xfer && (chainDesc x.desc.toNat).prevPeer == c.peer
        && decide (0 < (chainDesc x.desc.toNat).pos)
      (b.sweeps.find? mine = none → Served (.sweep f) s (t.nacked f i k 2)) ∧
      (∀ x, b.sweeps.find? mine = some x → k.op ≤ 1 → Served (.sweep f) s ((t.sweepAt x (k.op == 1)).acted i k)) ∧
      (∀ x, b.sweeps.find? mine = some x → 1 < k.op → Served (.sweep f) s ((t.nacked f i k 7).groupRefuse i k)))

/-- R286, R289, R291, R294, R304: acknowledgement retires packets, oldest first; a refusal completes a transfer, or sets it aside to be
sent again; a heartbeat updates what is known of a peer; a CONNECT is answered with the first reason that applies and, when it is
accepted, the sender's index and incarnation are learnt; its answer brings the entry up, refuses it, or leaves it connecting.
Readings of the model: notes/assumptions/73, 74, 83, 162. -/
def Obligations.ControlPacketsAct : Prop :=
  ∀ (f : Frame) (s : State) (i : Nat) (k : Packet),
    let b := s.blk
    let t := b.framed f
    let c := b.conn i
    let x := beNat k.payload
    b.hears f k →
    (b.belongs f i k → k.type = 8 →
      Served (.kerfAck f) s ((((c.out.filter fun o => ackCovers k o.pkt.seq).foldl (fun b o => b.xferDone s.dram i o)
        (t.setConn i { c with out := c.out.filter fun o => !ackCovers k o.pkt.seq })).pump i))) ∧
    (b.belongs f i k → k.type = 9 → c.out.find? (fun o => o.pkt.seq == k.seq) = none → Served (.kerfNack f) s t) ∧
    (b.belongs f i k → k.type = 9 → ∀ o, c.out.find? (fun o => o.pkt.seq == k.seq) = some o →
      let rest := { c with out := c.out.filter fun o => o.pkt.seq != k.seq }
      (k.op = 1 → Served (.kerfNack f) s ((t.setConn i { rest with again := c.again ++ [{ o with retryLater := o.retryLater + 1 }] }).pump i)) ∧
      (k.op = 2 → Served (.kerfNack f) s ((t.setConn i { rest with again := c.again ++ [o] }).pump i)) ∧
      (k.op ≠ 1 → k.op ≠ 2 →
        Served (.kerfNack f) s (((t.setConn i ((rest.dropRead o).noteRefused o)).xferFail s.dram i o (nackStatus k.op)).pump i))) ∧
    (b.belongs f i k → k.type = 10 →
      let echo := bits x 191 128
      let sample : Int := (b.time : Int) - echo - bits x 127 96
      let lat := if echo = 0 then c.latNs else (clampI 0 (2 ^ 24 - 1) ((c.latNs : Int) + (sample / 2 - c.latNs) / 8)).toNat
      let met := (t.setConn i { c with hops := 255 - f.hopLimit.toNat, latNs := lat, hbTime := bits x 255 192, hbAt := b.time
                                       opIndex := bits x 71 68, throttled := bit x 67 }).publishPeer i
      Served (.heartbeat f) s (match met.followFloor with
        | some n => { met with cal := { met.cal with followIndex := n } }
        | none => met)) ∧
    (k.type = 11 →
      let device := f.src.toNat - f.src.toNat % 8
      let fit := t.connectFit device x
      let answer (b : Block) (inc : Nat) : Block :=
        b.emit (BitVec.ofNat 128 device) { type := 12, inc, conn := bits x 435 420, payload := b.answerPayload x fit, len := 64 } (framePath f)
      (∀ n, fit.conn = some n → fit.reason = 0 →
        let t1 := t.modConn n fun c => c.learn (bits x 435 420) (bits x 419 412)
        Served (.connect f) s (answer t1 (t1.conn n).inc)) ∧
      (∀ n, fit.conn = some n → fit.reason ≠ 0 → Served (.connect f) s (answer t (t.conn n).inc)) ∧
      (fit.conn = none → Served (.connect f) s (answer t 0))) ∧
    (b.belongs f i k → k.type = 12 →
      (c.state = .connecting → bits x 411 408 = 0 → Served (.connectResp f) s
        (((t.setConn i { c.learn (bits x 435 420) (bits x 419 412) with state := .up, reason := 0 }).publishPeer i).pump i)) ∧
      (c.state = .connecting → 4 < bits x 411 408 → Served (.connectResp f) s ((t.setConn i { c with reason := bits x 411 408 }).publishPeer i)) ∧
      (c.state = .connecting → 0 < bits x 411 408 → bits x 411 408 ≤ 4 → Served (.connectResp f) s
        (((t.setConn i { c with state := .refused, reason := bits x 411 408 }).publishPeer i).failAll s.dram i .configMismatch)) ∧
      (c.state ≠ .connecting → Served (.connectResp f) s t))

/-- R286, R288 to R292, R294, R304: each timer acts on its connection: an acknowledgement leaves, an expired packet is
sent again or, after 64 attempts, its peer is lost, a refused packet is sent again or its transfer completes, a silent
peer is lost, heartbeats and probes leave, and the follow limit lifts once no peer is throttled. A lost peer's
connection is LOST, and its pins and registrations are gone. Readings of the model: notes/assumptions/3, 74, 79, 83, 84. -/
def Obligations.KerfTimersAct : Prop :=
  (∀ (i : Nat) (seq : Word32) (s : State),
     let b := s.blk
     let c := b.conn i
     b.hubLost = false →
     (c.isOpen = true → c.ackPending = 0 → Gives (.ackTimer i) s b) ∧
     (c.isOpen = true → 0 < c.ackPending → Gives (.ackTimer i) s ((b.setConn i { c with ackPending := 0 }).sendCtrl i c.ackPath
       { type := 8, seq := c.ackFields.1, payload := beBytes 32 c.ackFields.2 })) ∧
     (∀ o, c.out.find? (fun o => o.pkt.seq == seq.toNat) = some o → c.state = .up → c.loop = false →
       (64 ≤ o.attempts → Gives (.retransmitTimeout i seq) s (b.declareLost s.dram i 2)) ∧
       (o.attempts < 64 → Gives (.retransmitTimeout i seq) s ((b.pathExpiry i o.path).resend i seq.toNat true)) ∧
       (o.attempts < 64 → tget 0 c.expiries o.path < 3 → ∀ path, b.nextLive c (o.path + 1) = some path →
         ∃ b' sent, Gives (.retransmitTimeout i seq) s b' ∧ b'.txOut = b.txOut ++ [sent] ∧ sent.bytes = o.pkt.bytes
           ∧ sent.port = path % 8 ∧ sent.dst = c.addr + BitVec.ofNat 128 (path % 8)
           ∧ (b'.conn i).out = c.out.map (fun x => if x.pkt.seq = seq.toNat then { x with attempts := o.attempts + 1, path } else x))) ∧
     (c.out.find? (fun o => o.pkt.seq == seq.toNat) = none → Gives (.retransmitTimeout i seq) s b) ∧
     (∀ o, c.again.find? (fun o => o.pkt.seq == seq.toNat) = some o →
       let rest := { c with again := eraseFirst (· == o) c.again }
       let sent := (b.setConn i { rest with waiting := { o with attempts := 1 } :: c.waiting }).pump i
       let ended (st : Status) := (b.setConn i ((rest.dropRead o).noteRefused o)).xferFail s.dram i o st
       (o.retryLater < 4096 → Gives (.retryLaterResend i seq) s sent) ∧ (4096 ≤ o.retryLater → Gives (.retryLaterResend i seq) s (ended .domainOff)) ∧
       Gives (.notArmedResend i seq false) s sent ∧ Gives (.notArmedResend i seq true) s (ended .timeout)) ∧
     (c.state = .up → Gives (.peerSilenceTimeout i) s (b.declareLost s.dram i 1)) ∧
     (c.isOpen = true → c.loop = false → c.state = .connecting →
       Gives (.connectRetry i true) s (b.declareLost s.dram i 1) ∧
       ((b.port 0).linkUp = true → Gives (.connectRetry i false) s
         (b.emit c.addr { type := 11, inc := c.inc, payload := b.connectPayload i 0, len := 64 } 0)) ∧
       ((b.port 0).linkUp = false → Gives (.connectRetry i false) s b)) ∧
     (c.again.find? (fun o => o.pkt.seq == seq.toNat) = none →
       Gives (.retryLaterResend i seq) s b ∧ ∀ expired, Gives (.notArmedResend i seq expired) s b) ∧
     Gives .heartbeatSend s (b.conns.foldl (fun b e => if (b.conn e.1).known then
       (b.setConn e.1 { b.conn e.1 with hbPath := ((b.conn e.1).hbPath + 1) % 32 }).sendCtrl e.1 (b.conn e.1).hbPath
         { type := 10, payload := b.heartbeatPayload (b.conn e.1) } else b) b) ∧
     (∀ c, b.conns = [(0, c)] → c.known = true →
       Gives .heartbeatSend s ((b.setConn 0 { c with hbPath := (c.hbPath + 1) % 32 }).sendCtrl 0 c.hbPath { type := 10, payload := b.heartbeatPayload c })) ∧
     Gives .pathProbe s (b.conns.foldl (fun b e => (List.range 32).foldl (fun b p => b.probePath e.1 p) b) b) ∧
     ((∀ path, path < 32 → path ∉ c.downPaths → b.probePath i path = b) ∧
       (∀ path, c.state = .up → path ∈ c.downPaths → (b.port (path % 8)).linkUp = true → c.out = [] → b.probePath i path =
         (b.setConn i { c with
           out := [{ pkt := { type := 1, seq := c.nextSeq, inc := c.inc, conn := c.peerConn, src := 0x112 }, path, owner := .probe path, firstSent := b.time }]
           nextSeq := (c.nextSeq + 1) % 2 ^ 32 }).transmit i { type := 1, seq := c.nextSeq, inc := c.inc, conn := c.peerConn, src := 0x112 } path)) ∧
     (b.followFloor = none → Gives .followLift s { b with cal := { b.cal with followIndex := 15 } }) ∧
     (b.followFloor.isSome = true → Gives .followLift s b)) ∧
  (∀ (m : Dram) (b : Block) (k cause : Nat),
     let c := b.conn k
     c.isOpen = true → c.loop = false → c.state ≠ .lost → c.out = [] → c.again = [] → c.waiting = [] → c.reads = [] → c.sigDue = [] → b.chains = [] →
     let b' := b.declareLost m k cause
     (b'.conn k).state = .lost ∧ (∀ x ∈ b'.pins, x.owner ≠ .peer k) ∧ (∀ x ∈ b'.peerRegs, x.conn ≠ k) ∧ (b'.conn k).txRefused = [] ∧ (∀ i, i ≠ k → b'.conn i = b.conn i)
       ∧ b'.cells = b.cells ∧ b'.sigs = b.sigs ∧ b'.racks = b.racks ∧ (∀ p, (b'.spd p).sregs = (b.spd p).sregs))

/-- R281, R282, R290, R302, R303, R298, R299, R347, R385: a port that goes down takes its paths down, and one that
comes up is up; PFC pauses and releases; a chain or sweep that times out breaks or goes on as partial; the servo keeps
offset and time_flag, and an accepted edge of 1PPS_IN sets the second boundary where it is the source and triggers a snapshot.
Readings of the model: notes/assumptions/78, 81, 85, 160. -/
def Obligations.PortsTimeoutsAndTime : Prop :=
  ∀ (port : PortId) (s : State),
    let b := s.blk
    let p := b.port port
    b.hubLost = false →
    (∀ lane, p.linkUp = true → b.conns = [] → Gives (.portDown port lane) s ((b.modPort port fun p => { p with linkUp := false, paused := false }).record
      { severity := 0, cls := 0x0A, unitKind := 4, unit := port, info := if lane then 1 else 2 })) ∧
    (∀ lane, p.linkUp = true →
      let down := (b.modPort port fun p => { p with linkUp := false, paused := false }).record
        { severity := 0, cls := 0x0A, unitKind := 4, unit := port, info := if lane then 1 else 2 }
      Gives (.portDown port lane) s (down.conns.foldl (fun b e =>
        let c := b.conn e.1
        if c.isOpen = true ∧ c.loop = false then
          (c.out.filter fun o => o.path % 8 == port.val).foldl (fun b o => b.resend e.1 o.pkt.seq false)
            ((b.setConn e.1 { c with downPaths := dedup (c.downPaths ++ (List.range 32).filter fun p => p % 8 == port.val) }).publishPeer e.1)
        else b) down)) ∧
    (∀ lane, p.linkUp = false → Gives (.portDown port lane) s b) ∧
    (b.power = .a3 ∨ b.power = .a4 → Gives (.portUp port) s b) ∧
    (b.power ≠ .a3 → b.power ≠ .a4 → Gives (.portUp port) s (b.modPort port fun p => { p with linkUp := true })) ∧
    (∀ (prio : Fin 8) (pause : Bool),
      let t := b.countPort (66 + port) 64
      (p.linkUp = false → ∀ other, Gives (.priorityFlowControlFrame port prio pause other) s b) ∧
      (p.linkUp = true → Gives (.priorityFlowControlFrame port prio pause true) s t) ∧
      (p.linkUp = true → p.pfcEn = false ∨ p.pfcPrio ≠ prio.val → Gives (.priorityFlowControlFrame port prio pause false) s t) ∧
      (p.pfcEn = true → p.pfcPrio = prio.val → p.linkUp = true →
        Gives (.priorityFlowControlFrame port prio true false) s (t.modPort port fun p => { p with paused := true }) ∧
        let freed := t.modPort port fun p => { p with paused := false }
        Gives (.priorityFlowControlFrame port prio false false) s (freed.conns.foldl (fun b e => b.pump e.1) freed))) ∧
    (∀ addr mac, Gives (.neighbourDiscovery addr mac) s { b with neighbours := (b.neighbours.filter fun e => e.1 != addr) ++ [(addr, mac)] }) ∧
    (∀ k ch, b.chains[k]? = some ch →
      (ch.silent = true → Gives (.chainTimeout k) s (b.chainBreakAt ch (chainDesc ch.desc.toNat).pos 0x0E none)) ∧
      (ch.silent = false → Gives (.chainTimeout k) s b)) ∧
    (∀ k x, b.sweeps[k]? = some x → Gives (.sweepTimeout k) s (b.sweepAt x true)) ∧
    (∀ x : Sweep, (chainDesc x.desc.toNat).last = true → b.cnt.trigger = none → b.cnt.writing = none →
      b.sweepAt x true = (({ b with
        cnt := { b.cnt with trigger := some { triggers := 12, tag := x.number, instant := b.time + 2000, waiters := [] } }
        sweeps := eraseFirst (· == x) b.sweeps } : Block).sweepEvent x.ctx x.number true)) ∧
    (∀ (offset : Int) (locked : Bool),
      let o := max (-(2 ^ 31)) (min (2 ^ 31 - 1) offset)
      let t := b.ptp
      ∃ b', Gives (.ptpServoUpdate offset locked) s b' ∧ b'.ptp.offsetNs = o ∧ b'.ptp.locked = locked
        ∧ (b'.ptp.timeFlag = true ↔ locked = false ∨ 1000 < o.natAbs ∨ (t.timeFlag = true ∧ ¬(o.natAbs ≤ 500 ∧ 8 ≤ t.good + 1)))
        ∧ (b'.ptp.offsetWarn = true ↔ t.offsetWarn = true ∨ 100 < o.natAbs)
        ∧ (t.offsetWarn = true → b'.rings = b.rings ∧ b'.msix = b.msix) ∧ b'.cnt.trigger = b.cnt.trigger) ∧
    (b.ptp.source < 8 → (b.port b.ptp.source).linkUp = false → p.linkUp = true →
      Gives (.ptpPortFailover port) s { b with ptp := { b.ptp with source := port.val } }) ∧
    (p.linkUp = false → Gives (.ptpPortFailover port) s b) ∧
    (∀ t, b.ptp.lastEdge = some t → b.time < t + 500000000 → Gives .ppsEdge s b) ∧
    ((∀ t, b.ptp.lastEdge = some t → t + 500000000 ≤ b.time) →
      let now := if b.ptp.source = 8 then (b.time + 500000000) / 1000000000 * 1000000000 % 2 ^ 64 else b.time
      (b.cnt.ppsEn = false → Gives .ppsEdge s { b with time := now, ptp := { b.ptp with lastEdge := some now } }) ∧
      (b.cnt.ppsEn = true → b.cnt.trigger = none → b.cnt.writing = none →
        Gives .ppsEdge s { b with
          time := now
          ptp := { b.ptp with lastEdge := some now }
          cnt := { b.cnt with trigger := some { triggers := 2, tag := 0, instant := now + 2000, waiters := [] } } }))

/-! ### Gathers, table copies and table epochs -/

/-- R114 to R116, R122, R127, R128, R158, R162, R163: where a gather waits, a batch goes through the sizer and a row that returns is
expanded at the positions that name it, a versioned row by its tag and then by the pieces of its slot; a fault ends the command;
the copy of replicas waits for the set's readers, a tag store waits for its row's slot write, and a new table epoch waits for the
readers of the epoch before the last and then flips what was held. Readings of the model: notes/assumptions/50, 62. -/
def Obligations.GougeEvents : Prop :=
  ∀ (p : Spd) (s : State),
    let b := s.blk
    let spd := b.spd p
    b.clocked = true →
    (∀ q g, spd.gather = some (q, g) →
      let d := tableDesc g.desc.toNat
      Served (.sizerBatchSorted p) s (b.sizerBatch s.dram p q g) ∧
      (gwCount q.w.toNat ≤ batchSize * g.nextBatch → Gives (.sizerBatchSorted p) s b) ∧
      (∀ k r, (g.reqs.take 1024)[k]? = some r →
        (∀ pol, (r.kind = .home ∧ pol = (if d.stream then Alloc.none else .reuse)) ∨ (r.kind = .burl ∧ pol = .burl) ∨ (r.kind = .host ∧ pol = .none) →
          (∀ bs b1, readDev s.dram b p q r.addr r.len pol = .ok (bs, b1) → Served (.rowRequestReturn p k) s (b1.expandRow s.dram p q g r bs)) ∧
          (∀ st b1, readDev s.dram b p q r.addr r.len pol = .error (.fault b1 st) → Served (.rowRequestReturn p k) s (b1.gatherFault p q st))) ∧
        (r.kind = .versioned →
          (∀ bs seen r' more b1, versionedRow s.dram b p q g d r = .ok (bs, seen, r', more, b1) →
            Served (.rowRequestReturn p k) s (b1.expandRow s.dram p q
              { g with observed := max g.observed seen, reqs := more ++ g.reqs.map fun y => if y = r then r' else y } r' bs)) ∧
          (∀ st b1, versionedRow s.dram b p q g d r = .error (.fault b1 st) → Served (.rowRequestReturn p k) s (b1.gatherFault p q st))) ∧
        (r.kind = .slot →
          (∀ bs b1, slotPiece s.dram b p q r.addr r.len = .ok (bs, b1) → Served (.rowRequestReturn p k) s (b1.expandRow s.dram p q g r bs)) ∧
          (∀ st b1, slotPiece s.dram b p q r.addr r.len = .error (.fault b1 st) → Served (.rowRequestReturn p k) s (b1.gatherFault p q st))) ∧
        (r.kind = .burlCopy → ∀ a b0 bs b1, copyAddr s.dram b p (tileOf p) q d (g.burlSel.getD 0) r.addr = .ok (a, b0) →
          readDev s.dram b0 p q a r.len .none = .ok (bs, b1) → Served (.rowRequestReturn p k) s (b1.expandRow s.dram p q g r bs)) ∧
        (r.kind = .peer ∨ r.kind = .peerTag → Gives (.rowRequestReturn p k) s b)) ∧
      (∀ k, (g.reqs.take 1024)[k]? = none → Gives (.rowRequestReturn p k) s b)) ∧
    (spd.gather = none → Gives (.sizerBatchSorted p) s b ∧ ∀ k, Gives (.rowRequestReturn p k) s b) ∧
    (∀ q idx da set reqs x b0, spd.gouge = some (.burl idx da set false reqs) → spd.gougeQ.find? (fun q => q.idx == idx) = some q →
      readDesc s.dram b p q da = .ok (x, b0) →
      let d := tableDesc x
      let rows := (List.range d.burlCount).map fun i => (i, d.homeLocal + i * d.stride)
      let needs := if d.remote then [] else b.hostNeeds q (rows.map fun r => (r.2, d.rowBytes))
      let b1 := if d.burlMode = 1 then
          [0, 1, 2, 3].foldl (fun b t => b.burlInvalidate t (d.repBase + set * d.repSetBytes) (d.burlCount * d.stride)) b0
        else b0
      (q.hostWait = true ∨ b.burlCount d.tableId set ≠ 0 → Gives (.gburlRefresh p) s b) ∧
      (q.hostWait = false → b.burlCount d.tableId set = 0 →
        (needs ≠ [] → Served (.gburlRefresh p) s (b.askHost p .gouge q needs)) ∧
        (needs = [] → d.remote = false → ∀ b2, rows.foldlM (fun b r => do
            let (bs, b) ← readDev s.dram b p q r.2 d.rowBytes (if d.stream then .none else .reuse)
            burlCopy s.dram b p q d set r.1 0 bs) b1 = (.ok b2 : Eff Block) →
          Served (.gburlRefresh p) s (b2.burlFinish s.dram p q da set)) ∧
        (d.remote = true → ∀ sent b2, b1.launchRows p idx d.peer (rows.flatMap fun r => (granulePieces r.2 d.rowBytes).map fun x =>
            { row := r.1, kind := .peer, addr := r.2 + x.1, off := x.1, len := x.2 }) = (none, sent, b2) → sent ≠ [] →
          Served (.gburlRefresh p) s (b2.modSpd p fun x => { x with gouge := some (.burl idx da set true sent) })))) ∧
    (∀ q idx da t force d b0, spd.gouge = some (.advance idx da t force) → spd.gougeQ.find? (fun q => q.idx == idx) = some q →
      descNow s.dram b p da = .ok (d, b0) →
      let ended (b : Block) : Block := (b.modSpd p fun s => { s with gouge := none }).markDone p .gouge idx
      let src := b0.memSrc p
      let told := b0.tileMemSide s.dram (tileOf p) .store 0xD src (da + 104) (leBytes 8 t)
      let freed := if force then told.tileMemSide s.dram (tileOf p) .store 0 src (da + 80) (slice (leBytes 128 (setBits d.raw 669 669 0)) 80 4) else told
      let fresh := [0, 1, 2, 3].foldl (fun b k => b.dcRange s.dram k 1 da 128) freed
      (t ≤ d.epoch → Served (.vadvancePublish p) s (ended b0)) ∧
      (d.epoch < t → b0.readerCount d.tableId (d.epoch + 1) ≠ 0 → Served (.vadvancePublish p) s b0) ∧
      (d.epoch < t → b0.readerCount d.tableId (d.epoch + 1) = 0 →
        (∀ b2, walkHold s.dram fresh p src d t = .ok b2 → Served (.vadvancePublish p) s (ended b2)) ∧
        (∀ b2 st, walkHold s.dram fresh p src d t = .error (.fault b2 st) →
          Served (.vadvancePublish p) s ((b2.modSpd p fun s => { s with gouge := none }).cmdFault p .gouge q st)))) ∧
    (∀ k t, b.tagStores[k]? = some t →
      (b.unaccepted t.slotAddr t.slotLen = true ∨ (∃ u ∈ b.tagStores.take k, u.tagAddr = t.tagAddr) → Gives (.rowTagStore k) s b) ∧
      (b.unaccepted t.slotAddr t.slotLen = false → (∀ u ∈ b.tagStores.take k, u.tagAddr ≠ t.tagAddr) →
        Served (.rowTagStore k) s (({ b with tagStores := b.tagStores.eraseIdx k } : Block).tileMemSide s.dram (tileOf t.spindle) .store 0xD
          t.src t.tagAddr (leBytes 8 t.tag.toNat))))

/-! ### The host, supplies, resets and boot -/

/-- R22, R23, R238, R239, R308, R310, R366: BAR2 reads and writes reach memory through the function's mapping;
functions enter D3hot and are enabled; BAR2 takes its sizes; a link that narrows is recorded, and is degraded below x8 or below 32 GT/s;
a host-window read is answered in order, and lets go the writes that waited behind it. Readings of the model: notes/assumptions/18, 64, 114, 135, 153. -/
def Obligations.HostFunctionsAndWindows : Prop :=
  ∀ (fn : FnId) (off len : Nat) (data : List Byte) (s : State),
    let b := s.blk
    (b.fnLive fn = false → ∀ ep, Gives (.hostBar2Read fn off len) s b ∧ Gives (.hostBar2Write fn off data ep) s b) ∧
    (b.fnLive fn = true → b.bar2Addr fn off len = none → Gives (.hostBar2Read fn off len) s { b with resp := { ur := true } }) ∧
    (b.fnLive fn = true → ∀ a st bs b1, b.bar2Addr fn off len = some a → hubRead s.dram b.ungate a len = (st, bs, b1) →
      (st = .success → Gives (.hostBar2Read fn off len) s { b1.countPort 65 len with resp := { data := bs } }) ∧
      (st ≠ .success → ∃ b2 x, Gives (.hostBar2Read fn off len) s b2 ∧ b2.resp = { status := st, ep := true, data := x } ∧ x.length = len)) ∧
    (data = [] → ∀ ep, Gives (.hostBar2Write fn off data ep) s b) ∧
    (b.fnLive fn = true → data ≠ [] → ∀ ep,
      (b.bar2Addr fn off data.length = none → Gives (.hostBar2Write fn off data ep) s { b.countPort 64 data.length with bar2Err := true }) ∧
      (∀ a, b.bar2Addr fn off data.length = some a →
        Gives (.hostBar2Write fn off data ep) s ((b.countPort 64 data.length).ungate.sendBytes (if ep then .poison else .write) (.host fn) a data))) ∧
    (b.hubUp = true → b.fnEnabled fn = true →
      Gives (.functionD3hot fn) s (b.modFunc fn fun x => { x with d3hot := true }) ∧
      ((b.func fn).d3hot = false → Gives (.a2Exit fn) s b) ∧
      ((b.func fn).d3hot = true → Gives (.a2Exit fn) s { (b.modFunc fn fun x => { x with d3hot := false }) with
        wake := false, a2Exiting := b.a2Exiting || b.power == .a2 })) ∧
    (∀ n : Fin 17, b.hubUp = true → 0 < n.val → b.numVfs = 0 →
      ∃ b', Gives (.vfEnable n) s b' ∧ b'.numVfs = n.val ∧ (∀ k, 1 ≤ k → k ≤ n.val → (b'.func k).d3hot = false) ∧ b'.wake = false ∧ b'.ctxs = b.ctxs
        ∧ b'.rings = b.rings) ∧
    (∀ n : Fin 17, n.val = 0 ∨ b.numVfs ≠ 0 → Gives (.vfEnable n) s b) ∧
    (∀ gib, b.hubUp = true →
      (gib ∈ [1, 2, 4, 8, 16, 32, 64] → Gives (.bar2Resize gib) s (b.modFunc 0 fun x => { x with bar2Gib := gib })) ∧
      (gib ∉ [1, 2, 4, 8, 16, 32, 64] → Gives (.bar2Resize gib) s b)) ∧
    (∀ width speed, b.hubUp = true →
      (width < b.pcieWidth ∨ speed < b.pcieSpeed → Gives (.pcieLinkNarrowed width speed) s
        (({ b with pcieWidth := width, pcieSpeed := speed, linkDegraded := decide (width < 8) || decide (speed < 32) } : Block).record
          { severity := 2, cls := 0x0F, unitKind := 9, info := if width = 0 then 2 else 1 })) ∧
      (b.pcieWidth ≤ width → b.pcieSpeed ≤ speed → Gives (.pcieLinkNarrowed width speed) s b)) ∧
    (∀ k h, b.hostReads[k]? = some h → b.hubUp = true →
      let got := (({ b with hostReads := b.hostReads.eraseIdx k } : Block).countPort 64 data.length).releaseWrites.hubSettle
      (h.wr ≠ none ∨ data.length ≠ h.len ∨ (b.hostReads.take k).any (fun x => x.meets h) = true → Gives (.hostWindowReadResponse k data) s b) ∧
      (h.wr = none → data.length = h.len → (b.hostReads.take k).any (fun x => x.meets h) = false →
        (h.spindle < 272 → Gives (.hostWindowReadResponse k data) s
          ((got.hubLink (some (tileOf h.spindle)) false data.length).hostReadDone s.dram h data)) ∧
        (h.spindle = 353 → Gives (.hostWindowReadResponse k data) s (got.jtagAnswer h data)) ∧
        (272 ≤ h.spindle → h.spindle ≠ 353 → Gives (.hostWindowReadResponse k data) s
          { got with hubBuf := tset got.hubBuf h.spindle (storeBytes (tget [] got.hubBuf h.spindle) h.haddr data) })))

/-- R247, R308, R324, R325, R370, R374 to R378, R390, R393, R403, R404: what supplies and resets leave; the boot goes on by stages, one for
each step that meets an empty queue: a slot is chosen and verified, its images are measured, and links, memory and spares come
up; a trial that does not come up is tried three times. Readings of the model: notes/assumptions/2, 19, 131, 132, 133, 134,
135. -/
def Obligations.SuppliesResetsAndBoot : Prop :=
  ∀ (s : State),
    let b := s.blk
    (b.mainOn = true → ∃ b', Gives .mainSupplyLoss s b' ∧ b'.power = (if b.auxGood then .a3 else .a4) ∧ b'.pwrGood = false ∧ b'.perst = true
      ∧ b'.spindles = [] ∧ b'.ready = false ∧ b'.store = b.store ∧ b'.cal.thermtrip = b.cal.thermtrip ∧ b'.thermtripPin = b.thermtripPin) ∧
    (b.mainOn = false → Gives .mainSupplyLoss s b) ∧
    (∃ b', Gives .auxSupplyLoss s b' ∧ b'.power = .a4 ∧ b'.auxGood = false ∧ b'.pwrGood = false ∧ b'.thermtripPin = false ∧ b'.alert = false
      ∧ b'.store = b.store) ∧
    (∀ straps, b.auxGood = false → Gives (.auxPowerUp straps) s { b with auxGood := true, straps := straps.val, power := .a3 }) ∧
    Gives .mainPowerUp s { b with mainOn := true } ∧
    (b.mainOn = true → b.auxGood = true → b.pwrGood = false →
      ∃ b', exec .coldReset s = .next { s with dram := {}, blk := b' } ∧ b'.pwrGood = true ∧ b'.power = .a0 ∧ b'.perst = true ∧ b'.thermtripPin = false
        ∧ b'.hubLost = false ∧ b'.store = b.store ∧ b'.time = 0 ∧ b'.cells = [] ∧ b'.rings = []) ∧
    (b.pwrGood = true ∨ b.mainOn = false ∨ b.auxGood = false → Gives .coldReset s b) ∧
    (b.pwrGood = false ∨ b.perst = true → Gives .perstAssert s b) ∧ (∀ straps, b.auxGood = true → Gives (.auxPowerUp straps) s b) ∧
    (b.pwrGood = true → b.perst = false →
      ∃ t, exec .perstAssert s = .next t ∧ t.blk.perst = true ∧ t.blk.power = .a0 ∧ t.blk.ready = false ∧ t.blk.spindles = [] ∧ t.blk.cells = []
        ∧ t.blk.ctxs = [] ∧ t.blk.rings = [] ∧ t.blk.store = b.store ∧ t.blk.cal.maxSeen = b.cal.maxSeen ∧ t.blk.hubLost = b.thermtripPin
        ∧ (∀ c : Nat, c < 384 → (t.blk.chan c).selfRefresh = true ∧ (t.blk.chan c).zeroPos = (b.chan c).zeroPos)
        ∧ (b.chans = [] → t.dram = s.dram)) ∧
    (∀ x : BootInputs,
      (b.pwrGood = true → b.perst = true → Gives (.perstDeassert x) s { b with perst := false, boot := some x, bootStage := 0 }) ∧
      (b.pwrGood = false ∨ b.perst = false → Gives (.perstDeassert x) s b)) ∧
    (b.hubUp = true →
      let first := b.store.trial.getD b.store.bootSlot
      let ran (b : Block) (k : Nat) (trial : Bool) : Block :=
        { b with runSlot := k, runTrial := trial, bootStage := 1, measured := [(b.slot k).measure 0] }
      let untried : Block := { b with store := { b.store with trial := none } }
      (b.bootStage = 0 → b.slotPasses first = true → b.bootStep = ran b first b.store.trial.isSome) ∧
      (b.bootStage = 0 → b.slotPasses first = false → b.slotPasses (1 - first) = true → b.bootStep = ran untried (1 - first) false) ∧
      (b.bootStage = 0 → b.slotPasses first = false → b.slotPasses (1 - first) = false → b.bootStep = { untried with bootStage := 5 }) ∧
      (b.bootStage = 1 → b.bootStep = { b with
        fwVersion := (b.slot b.runSlot).version, fwSvn := (b.slot b.runSlot).svn, secure := Config.rootKeyFused, bootStage := 2
        measured := b.measured ++ [(b.slot b.runSlot).measure 1] }) ∧
      (3 ≤ b.bootStage → b.bootStep = b)) ∧
    (∀ x : BootInputs, b.hubUp = true → b.bootStage = 2 → b.boot = some x → b.spindles = [] → b.store.carried = [] → b.store.hubLoss = [] →
      b.store.failedSpindles = [] → b.store.mapOut = [] → x.failSpares = [] →
      let good := (List.range 256).filter fun c => !(x.failTraining.map (·.val)).contains c
      let degraded := decide (good.length < 128)
      let b' := b.bootStep
      b'.bootStage = 3 ∧ b'.boot = none ∧ b'.pcieWidth = x.width ∧ b'.pcieSpeed = x.speed
        ∧ b'.linkDegraded = (decide (x.width < 8) || decide (x.speed < 32)) ∧ b'.memoryDegraded = degraded
        ∧ b'.inservice = (if degraded then [] else good)
        ∧ (∀ c, c < 384 → (b'.chan c).selfRefresh = false
          ∧ ((b'.chan c).state = .inService ↔ degraded = false ∧ (x.failTraining.map (·.val)).contains c = false))
        ∧ b'.cal.weights = b.store.weights ∧ b'.ready = b.ready) ∧
    (b.hubUp = true → b.bootStage = 3 → b.ready = false → Gives .bootReady s { b with
      ready := true, bootStage := 4, store := if b.runTrial then { b.store with trial := none, trialFails := 0 } else b.store }) ∧
    (b.hubUp = false ∨ b.bootStage ≠ 3 ∨ b.ready = true → Gives .bootReady s b) ∧
    (b.hubUp = true → b.bootStage ≤ 3 → b.ready = false → b.runTrial = true →
      let again : Block := { b with bootStage := 0, runTrial := false, fwVersion := 0, fwSvn := 0, secure := false, measured := [] }
      (b.store.trialFails < 2 → Gives .trialBootTimeout s { again with store := { b.store with trialFails := b.store.trialFails + 1 } }) ∧
      (2 ≤ b.store.trialFails → Gives .trialBootTimeout s
        (({ again with store := { b.store with trial := none, trialFails := 0 }, fallback := true } : Block).postEvent 0 0x2006 b.store.bootSlot))) ∧
    (b.hubUp = false ∨ b.runTrial = false ∨ b.ready = true → Gives .trialBootTimeout s b) ∧
    (b.hubUp = true →
      let reset : Block := { (List.range 17).foldl Block.resetFn b with numVfs := 0, hostReads := [], hubBuf := [] }
      let torn := (List.range 16).foldl (fun b c => if (b.ctx c).state = .live then b.teardown s.dram c else b) reset
      Gives .pcieHotReset s torn ∧ Gives (.functionLevelReset 0) s torn ∧
      ∀ fn : FnId, 0 < fn.val →
        (b.fnEnabled fn = true → (b.ctx (fn.val - 1)).state = .live → Gives (.functionLevelReset fn) s ((b.resetFn fn).teardown s.dram (fn.val - 1))) ∧
        (b.fnEnabled fn = false → Gives (.functionLevelReset fn) s b)) ∧
    (b.hubUp = true → (∀ c, (b.ctx c).state ≠ .live) →
      (∃ b', Gives .pcieHotReset s b' ∧ Gives (.functionLevelReset 0) s b' ∧ b'.numVfs = 0 ∧ (∀ r, r < 17 → b'.ring r = {} ∧ b'.func r = {}) ∧ b'.hostReads = []
        ∧ b'.cells = b.cells ∧ b'.ctxs = b.ctxs ∧ b'.spindles = b.spindles ∧ b'.conns = b.conns) ∧
      (∀ fn : FnId, 0 < fn.val → b.fnEnabled fn = true →
        ∃ b', Gives (.functionLevelReset fn) s b' ∧ b'.ring fn = {} ∧ b'.func fn = {} ∧ (∀ r : Nat, r ≠ fn → b'.ring r = b.ring r ∧ b'.func r = b.func r)
          ∧ b'.numVfs = b.numVfs ∧ b'.ctxs = b.ctxs ∧ b'.cells = b.cells))

/-- R243, R248, R335, R366 to R371, R378: A1 is entered only when the module is quiet and left at once; A2 turns the
tiles off, puts the channels into self-refresh, loses the scratchpads and opens a drain window; leaving it turns them
on and tells each context how many spindles lost its carried handles. Readings of the model: notes/assumptions/129,
130. -/
def Obligations.PowerStates : Prop :=
  ∀ (s : State),
    let b := s.blk
    b.hubUp = true →
    (b.power = .a0 → b.quiet = true → Gives .a1Enter s { b.flushAll s.dram with power := .a1 }) ∧
    (b.quiet = false → Gives .a1Enter s b) ∧ (b.power = .a1 → Gives .a1Exit s { b with power := .a0 }) ∧ (b.power = .a2 → Gives .a1Exit s b) ∧
    (b.ready = false ∨ b.quiet = false ∨ b.chains ≠ [] ∨ b.sweeps ≠ [] → Gives .a2Enter s b) ∧
    (b.ready = true → b.power = .a0 ∨ b.power = .a1 → (∀ f, f ≤ b.numVfs → (b.func f).d3hot = true) → b.quiet = true → b.chains = [] → b.sweeps = [] →
      let clean := ((((b.streams.filter fun x => x.2.dirty).map (·.1)).foldl Block.streamBack b).flushAll s.dram).cleanCaches
      ((∀ c ∈ clean.chans, c.2.transit = [] ∧ c.2.queue = []) → Gives .a2Enter s clean.powerDown) ∧
      ((∃ c ∈ clean.chans, c.2.transit ≠ [] ∨ c.2.queue ≠ []) → Gives .a2Enter s clean)) ∧
    (b.ready = true → b.power = .a0 → (∀ f, f ≤ b.numVfs → (b.func f).d3hot = true) → b.quiet = true → b.chains = [] → b.sweeps = [] →
      b.streams = [] → b.tiles = [] → (∀ c ∈ b.chans, c.2.transit = [] ∧ c.2.queue = []) →
      ∃ b', Gives .a2Enter s b' ∧ b'.power = .a2 ∧ b'.draining = true ∧ b'.drained = [] ∧ (∀ t, t < 4 → (b'.tile t).powered = false ∧ (b'.tile t).dc = [] ∧ (b'.tile t).wc = [])
        ∧ (∀ c, c < 384 → (b'.chan c).selfRefresh = true ∧ (b'.chan c).state = (b.chan c).state) ∧ (∀ p, (b'.spd p).handles = (b.spd p).handles)
        ∧ (∀ c : Nat, c < 16 → tget 0 b'.handlesLost c = b.carriedOn c) ∧ b'.store.weights = b.cal.wList ∧ b'.cells = b.cells ∧ b'.ctxs = b.ctxs
        ∧ ∀ p : Nat, p < 272 → (b'.spd p).spad = (Spindle.init b.freshTag p).spad) ∧
    (b.draining = true → b.power = .a2 → Gives .drainWindowClose s
      (b.drained.foldl (fun (b : Block) x => b.rxNew s.dram x.1 (b.conn x.1).ackPath x.2) { b with drained := [], draining := false })) ∧
    (b.draining = true → b.power = .a2 → b.drained = [] → Gives .drainWindowClose s { b with draining := false }) ∧
    (b.power ≠ .a2 → Gives .drainWindowClose s b ∧ Gives .a2ExitComplete s b) ∧
    (b.power = .a2 → b.a2Exiting = true → b.drained = [] → ∀ c n, b.handlesLost = [(c, n)] → (b.ring (1 + c)).enable = false → (b.ring (1 + c)).events = [] →
      ∃ b', Gives .a2ExitComplete s b' ∧ b'.power = .a0 ∧ b'.a2Exiting = false ∧ b'.draining = false ∧ b'.handlesLost = []
        ∧ (b'.ring (1 + c)).events = [(0x2008, n)] ∧ (∀ t, t < 4 → (b'.tile t).powered = true) ∧ ∀ c, c < 384 → (b'.chan c).selfRefresh = false)

/-! ### Power and temperature, counters -/

/-- R327 to R336, R376, R395: the rail reaches its voltage in steps, the estimate sums its regressors and
each millisecond enters the windows once, the backstop and a lost sensor limit the operating point, calibration never leaves a negative weight, and a
decision stays within every limit. Any change of ALERT#'s conditions that leaves one holding asserts it. Readings of
the model: notes/assumptions/96, 124, 125, 136. -/
def Obligations.CalipersFollowTheirRules : Prop :=
  ∀ (s : State),
    let b := s.blk
    let c := b.cal
    let ok (c : Calipers) : Block :=
      if ({ b with cal := c } : Block).alarms ≠ b.alarms ∧ ({ b with cal := c } : Block).alarms.any (·) = true then { b with cal := c, alert := true } else { b with cal := c }
    (b.hubUp = false → (∀ mv, Gives (.railStep mv) s b) ∧ Gives .sensorLost s b ∧ (∀ n, Gives (.inputEnergySample n) s b) ∧ (∀ x, Gives (.calipersDecision x) s b)) ∧
    (b.hubUp = true →
      (∀ mv, Gives (.railStep mv) s (ok (if (c.railMv < mv ∧ mv ≤ opMv c.target) ∨ (opMv c.target ≤ mv ∧ mv < c.railMv) then
          { c with railMv := mv, opNow := highest c.target fun i => decide (opMv i ≤ mv), slewed := true } else c))) ∧
      Gives .backstopRelease s (ok { c with backstop := false }) ∧
      (∀ tiles hub,
        let t := (List.range 4).map fun k => min 255 (tiles.getD k 0)
        let h := min 255 hub
        let hot := (h :: t).foldl max 0
        Gives (.sensorRead tiles hub) s (ok { c with
          tileTemp := t, hubTemp := h, tempRead := some (max hot (c.tempRead.getD 0)), maxSeen := max c.maxSeen hot, ceiling := if 105 ≤ hot then c.ceiling - 1 else c.ceiling })) ∧
      (b.hottest ≤ 102 → Gives .thermalCeilingRise s (ok { c with ceiling := min 15 (c.ceiling + 1) })) ∧
      (102 < b.hottest → Gives .thermalCeilingRise s b) ∧
      (b.restarting = true → Gives .calibrationUpdate s b ∧ Gives .configStoreSave s b) ∧
      (b.restarting = false → Gives .calibrationUpdate s { b with cal := c.calibrate } ∧
        Gives .configStoreSave s { b with store := { b.store with weights := (List.range 13).map c.w } }) ∧
      (c.measured = none → c.calibrate = c) ∧
      (c.calibrate.weights = c.weights ∨ ∀ v ∈ c.calibrate.weights.drop 3, 0 ≤ v) ∧ c.calibrate.target = c.target ∧ c.calibrate.railMv = c.railMv ∧
      (∀ a : Activity,
        let leak := leakage a.volts (c.tempRead.getD b.hottest)
        let acts := a.work.foldl (fun acc k => addVec acc ([0, 0, 0] ++ k.x)) ([0, 0, 0] ++ a.device)
        let x := scaled a.volts (addVec leak acts)
        let e := dot c.wList x
        let next (ch : Tab Rat) : Calipers := { c with
          ms := { x := addVec c.ms.x x, est := c.ms.est + e, charges := ch }, msCount := c.msCount + 1
          estSum := c.estSum + e * 250000, estCount := c.estCount + 1, tempRead := none }
        (c.msCount + 1 < 250 → ∃ ch, Gives (.calipersEstimate a) s { b with cal := next ch }) ∧
        (250 ≤ c.msCount + 1 → c.held = none →
          ∃ ch, Gives (.calipersEstimate a) s { b with cal := { next ch with held := some (next ch).ms, ms := {}, msCount := 0 } }) ∧
        (∀ k, 250 ≤ c.msCount + 1 → c.held = some k →
          ∃ ch b', Gives (.calipersEstimate a) s b' ∧ b'.cal.held = some (next ch).ms ∧ b'.cal.ms = {} ∧ b'.cal.msCount = 0
            ∧ b'.cal.history = (k.est * 1000 :: c.history).take 8000 ∧ b'.cal.weights = c.weights ∧ b'.cells = b.cells)) ∧
      (∀ n : Nat,
        let y : Rat := (n : Rat) / 1000000
        let k := c.held.getD c.ms
        ∃ b', Gives (.inputEnergySample n) s b' ∧ b'.cal.sensorLost = false ∧ b'.cal.measured = some y ∧ b'.cal.calX = k.x
          ∧ b'.cal.history = (max y k.est * 1000 :: c.history).take 8000 ∧ b'.cal.held = none ∧ (c.held = none → b'.cal.ms = {} ∧ b'.cal.msCount = 0)
          ∧ (c.held ≠ none → b'.cal.ms = c.ms ∧ b'.cal.msCount = c.msCount) ∧ b'.cal.weights = c.weights ∧ b'.cells = b.cells ∧ b'.spindles = b.spindles
          ∧ (y ≤ 4 → b'.cal.backstop = c.backstop ∧ b'.cal.target = c.target) ∧ (4 < y → b'.cal.backstop = true ∧ b'.cal.target = 0 ∧ b'.cal.opNow = 0)) ∧
      (c.sensorLost = true → Gives .sensorLost s b) ∧
      (c.sensorLost = false → ∃ b', Gives .sensorLost s b' ∧ b'.cal.sensorLost = true ∧ b'.alert = true ∧ b'.cal.target = c.target ∧ b'.cal.ms = c.ms ∧ b'.cal.held = c.held) ∧
      (∀ busy,
        (b.restarting = true → ∃ b', Gives (.calipersDecision busy) s b' ∧ b'.cal.target = c.target ∧ b'.ctxs = b.ctxs) ∧
        (b.restarting = false → ∃ b', Gives (.calipersDecision busy) s b' ∧ b'.cal.target ≤ c.limit true ∧ b'.cal.opNow ≤ b'.cal.target
          ∧ (c.backstop = true → b'.cal.target = 0) ∧ (c.sensorLost = true → b'.cal.target ≤ 10) ∧ b'.cal.target ≤ c.ceiling
          ∧ b'.cal.railMv = c.railMv ∧ b'.cal.estCount = 0 ∧ b'.cal.weights = c.weights ∧ b'.cells = b.cells ∧ b'.racks = b.racks)))

/-- R343 to R349: a snapshot latches every counter and completes when its image is written; a window's bytes become
LAST, and PEAK the larger; the controls write what they name, for those who may. Readings of the model:
notes/assumptions/86, 90. -/
def Obligations.SnapshotsWindowsAndControls : Prop :=
  ∀ (s : State),
    let b := s.blk
    let n := b.cnt
    (n.trigger = none → Gives .snapshotLatch s b) ∧
    (∀ t, n.trigger = some t → Gives .snapshotLatch s { b with cnt := ({ n with
        trigger := none
        writing := some { seq := n.seq + 1, snap := { t with frozen := n.freeze, timeFlag := b.ptp.timeFlag }, words := b.imageWords } } : Counters).setSlot (n.seq + 1) none }) ∧
    (n.writing = none → Gives .snapshotImageWritten s b) ∧
    (∀ i, n.writing = some i → n.queued = [] → (∀ c, (b.ctx c).dstEn = false) →
      Gives .snapshotImageWritten s (i.snap.waiters.foldl (fun b w => b.finish w.1 w.2 .success i.seq)
        { b with cnt := ({ n with writing := none, seq := i.seq, queued := [], trigger := none } : Counters).setSlot i.seq (some i) })) ∧
    (n.lenUs = 0 → Gives .portWindowBoundary s b) ∧
    (n.lenUs ≠ 0 → n.restart = true ∨ n.freeze = true →
      Gives .portWindowBoundary s { b with cnt := { n with window := [], windowFlag := b.ptp.timeFlag, restart := false } }) ∧
    (n.lenUs ≠ 0 → n.restart = false → n.freeze = false → tabWf {} n.last = true → tabWf {} n.peak = true →
      ∃ b', Gives .portWindowBoundary s b' ∧ b'.cnt.window = [] ∧ b'.cnt.tot = n.tot ∧ b'.cnt.spec = n.spec ∧ b'.cnt.seq = n.seq
        ∧ ∀ p, p < 82 → (tget {} b'.cnt.last p).count = tget 0 n.window p % 2 ^ 48
          ∧ (tget {} b'.cnt.peak p).count = max (tget {} n.peak p).count (tget 0 n.window p % 2 ^ 48)
          ∧ (tget {} b'.cnt.last p).tflag = (n.windowFlag || b.ptp.timeFlag)) ∧
    (b.setFreeze true).cnt.freeze = true ∧ (b.setFreeze false).cnt.freeze = false ∧ (b.setFreeze false).cells = b.cells ∧
    (n.owed = [] → b.setFreeze false = { b with cnt := { n with freeze := false } }) ∧
    (∀ (who : Initiator) (on : Bool) (len : BitVec 16) (k : Fin 8) (val : Word64),
      let may (f : Block → Block) (i : Initiator → Instr) : Prop :=
        (b.hubUp = true → who = .headstock ∨ (who = .host 0 ∧ (b.func 0).d3hot = false) → Gives (i who) s ((f b).answer .success)) ∧
        (b.hubUp = true → who = .jtag → (b.jtagOff = false → Gives (i who) s ((f b).answer .success)) ∧ (b.jtagOff = true → Gives (i who) s b)) ∧
        (b.hubUp = true → who = .engine ∨ who = .kerf → Gives (i who) s (b.answer .accessDenied)) ∧
        (∀ fn : FnId, fn ≠ 0 → who = .host fn → Gives (i who) s b)
      may (fun b => b.setFreeze on) (fun w => .cntFreeze w on) ∧
      may (fun b => if b.cnt.lenUs = len.toNat then b else { b with cnt := { b.cnt with lenUs := len.toNat, window := [], restart := true } }) (fun w => .cntWinCfg w len) ∧
      may (fun b => (List.range 272).foldl (fun b p => b.modSpd p fun x => { x with cntSel := tput 0 x.cntSel k.val (val &&& 0x1F00FF) }) b) (fun w => .cntSelBcast w k val) ∧
      may (fun b => { b with
        ctxs := b.ctxs.map fun e => (e.1, { e.2 with cnt := mapTab (fun c => { c with count := 0 }) e.2.cnt })
        cnt := { b.cnt with devIdle := { b.cnt.devIdle with count := 0 } } }) (fun w => .cntClrCtx w) ∧
      may (fun b => { b with cnt := b.cnt.mapPorts fun c => { c with count := 0 } }) (fun w => .cntClrPort w) ∧
      may (fun b => { b with spindles := b.spindles.map fun e => (e.1, e.2.mapCnt fun c => { c with count := 0 }) }) (fun w => .cntClrSpindle w) ∧
      may (fun b => ((b.mapSpindleCnt fun c => { c with ovf := false }).mapPortCnt fun c => { c with ovf := false }).mapCtxCnt fun c => { c with ovf := false })
        (fun w => .cntClrOvf w))

/-! ### Faults and management -/

/-- R335, R350 to R353, R356 to R359, R365, R373, R404: where each fault goes: a spindle stops and waits for a spare,
or is removed; a spare takes the failed spindle's number, windows and handles; a cached line is dropped; a tile, a
regulator or the hub is recorded or lost. Readings of the model: notes/assumptions/15, 126, 127, 128, 140. -/
def Obligations.FaultsGoWhereTheyBelong : Prop :=
  ∀ (p : Spd) (s : State),
    let b := s.blk
    let spd := b.spd p
    let t := tileOf p
    (b.hubUp = true → (b.tile t).powered = true → spd.inService = true → spd.faulted = false →
      let b1 := ((b.modSpd p fun x => { x with faulted := true, faultAt := b.time, resetting := false, resetDue := spd.resetDue || spd.resetting }).settleSpindle
        s.dram p).abandonRun p
      let b2 : Block := { b1 with faultQueue := b1.faultQueue ++ [p.val] }
      Gives (.spindleFault p) s (if (b2.spareOf t).isNone then b2.removeSpindle p else b2) ∧
      (∀ a ∈ [SramArray.scratchpad, .bowl, .handleTable, .instructionBuffer, .engineQueues, .sequencerState, .localFlags, .stagingBuffer], ∀ addr,
        Gives (.sramUncorrectable a p addr) s (if (b2.spareOf t).isNone then b2.removeSpindle p else b2))) ∧
    (spd.faulted = true ∨ spd.inService = false → Gives (.spindleFault p) s b) ∧
    (spd.cur = none → spd.pre = none → spd.arriving = none → spd.handles = [] → (b.ring 0).taken = [] →
      let b' := b.removeSpindle p
      b.logicalOf p ∈ b'.removed ∧ (b'.spd p).inService = false ∧ p.val ∈ b'.store.failedSpindles ∧ p.val ∉ b'.faultQueue ∧ b'.cells = b.cells ∧ b'.racks = b.racks) ∧
    (∀ (f : Spd) (good : Bool), b.faultQueue.find? (fun f => tileOf f == t) = some f.val → b.hubUp = true → (b.tile t).powered = true →
      (b.spareOf t ≠ some p.val → Gives (.spareBroughtIn p good) s b) ∧
      (b.spareOf t = some p.val →
        let b1 := if good then b.spareTakes s.dram f p else b.spareFails p 2
        Gives (.spareBroughtIn p good) s (if (b1.spareOf t).isSome then b1 else (b1.faultQueue.filter fun f => tileOf f == t).foldl (fun b f => b.removeSpindle f) b1)) ∧
      (f ≠ p → (b.spd f).cur = none → (b.spd f).pre = none → (b.spd f).arriving = none → (b.spd f).resetDue = false → (b.ring 0).taken = [] →
        (∀ h ∈ (b.spd f).handles, h.2.carried = false) →
        let b' := b.spareTakes s.dram f p
        (b'.spd p).inService = true ∧ (b'.spd p).spare = false ∧ (b'.spd p).windows = (b.spd f).windows ∧ (b'.spd p).handles = (b.spd f).handles
          ∧ (b'.spd f).inService = false ∧ (b'.spd f).handles = [] ∧ tfind b'.spdMap (b.logicalOf f) = some p.val ∧ f.val ∉ b'.faultQueue)) ∧
    (∀ (tile : TileId) (cause : TileFaultCause), b.hubUp = true →
      Gives (.tileFault tile cause) s (b.record { severity := 2, cls := 0x0D, unitKind := 8, unit := tile, info := match cause with
        | .sram => 1
        | .tileLink => 2
        | .hubLink => 3 })) ∧
    (∀ cause, (b.hubUp = true → Gives (.hubLoss cause) s { b with hubLost := true, store := { b.store with hubLoss := b.store.hubLoss ++ [(cause, b.time)] } })
      ∧ (b.hubUp = false → Gives (.hubLoss cause) s b)) ∧
    (b.hubUp = true → ∀ a ∈ [SramArray.rackEntries, .streamCache, .headstockMemory, .hubOther], ∀ unit addr,
      Gives (.sramUncorrectable a unit addr) s { b with hubLost := true, store := { b.store with hubLoss := b.store.hubLoss ++ [(.hubSram, b.time)] } }) ∧
    (b.hubUp = true → ∀ a ∈ [SramArray.cellStore, .tileRouter, .tileWcBuffer], ∀ tile : TileId, ∀ addr,
      Gives (.sramUncorrectable a tile addr) s (b.record { severity := 2, cls := 0x0D, unitKind := 8, unit := tile, info := 1 })) ∧
    (b.hubUp = true → ∀ (tile : TileId) (addr : Word64) w l,
      let line := addr.toNat / 128
      let b1 := b.modTile tile fun x => x.modSet line fun y => { y with ways := tdel y.ways w }
      (((b.tile tile).dcSet line).find line = none → Gives (.sramUncorrectable .dieCache tile addr) s b) ∧
      (((b.tile tile).dcSet line).find line = some (w, l) → l.dirty = 0 → Gives (.sramUncorrectable .dieCache tile addr) s b1) ∧
      (((b.tile tile).dcSet line).find line = some (w, l) → l.dirty ≠ 0 →
        Gives (.sramUncorrectable .dieCache tile addr) s ((b1.unlog tile line).record { severity := 2, cls := 0x08, unitKind := 8, unit := tile, addr := 128 * line }))) ∧
    (∀ rail phase, b.hubUp = true →
      ((rail, phase) ∈ b.vrFailed → Gives (.vrPhaseFail rail phase) s b) ∧
      ((rail, phase) ∉ b.vrFailed → Gives (.vrPhaseFail rail phase) s (({ b with vrFailed := b.vrFailed ++ [(rail, phase)] } : Block).record
        { severity := if (b.vrFailed.any fun x => x.1 == rail) = true then 2 else 0
          cls := 0x0C, unitKind := 6, unit := (Config.vrUnit rail phase).toNat, info := (Config.vrInfo rail phase).toNat }))) ∧
    (b.pwrGood = true → b.thermtripPin = false → Gives .thermtrip s { b with
      thermtripPin := true, hubLost := true, cal := { b.cal with thermtrip := true }
      store := { b.store with hubLoss := b.store.hubLoss ++ [(.thermtrip, b.time)] } }) ∧
    (b.thermtripPin = true → Gives .thermtrip s b) ∧
    (∀ (r : RingId) (e : Entry) (c : Cmd), b.accepts r e 0x18 c →
      let b1 := b.started r
      (255 < c.p 0 → Gives (.spindleReset r e) s (b1.finish r e .invalidField 0)) ∧
      (c.p 0 ≤ 255 → b1.logicalIn (c.p 0) = false → Gives (.spindleReset r e) s (b1.finish r e .spindleFault 0)) ∧
      (c.p 0 ≤ 255 → b1.logicalIn (c.p 0) = true → Gives (.spindleReset r e) s (b1.resetStart s.dram (b1.physOf (c.p 0)))))

/-! ### Reset -/

/-- R121, whole: a missing index equals the sentinel of its width, an out-of-range one is another that is num_rows or greater,
and every position of a batch is dropped as one of them or is among its rows' positions. -/
def Obligations.DroppedIndices : Prop :=
  ∀ (w numRows k0 : Nat) (idx : List Nat), w = 4 ∨ w = 8 →
    let z := sizeBatch w numRows k0 idx
    let v (j : Nat) : Nat := idx.getD j 0
    (∀ j, j < idx.length → (k0 + j ∈ z.missing ↔ v j = (if w = 4 then 0xFFFFFFFF else 0xFFFFFFFFFFFFFFFF))
      ∧ (k0 + j ∈ z.oor ↔ v j ≠ (if w = 4 then 0xFFFFFFFF else 0xFFFFFFFFFFFFFFFF) ∧ numRows ≤ v j)
      ∧ (∀ row, (∃ ps, (row, ps) ∈ z.rows ∧ k0 + j ∈ ps) ↔ v j = row ∧ k0 + j ∉ z.missing ∧ k0 + j ∉ z.oor))

/-- R195, Table 10.3: the two test blocks of Grain. -/
def Obligations.GrainTestBlocks : Prop :=
  philox { c0 := 0, c1 := 0, c2 := 0, c3 := 0 } 0 0 = { c0 := 0x6627E8D5, c1 := 0xE169C58D, c2 := 0xBC57AC4C, c3 := 0x9B00DBD8 } ∧
  philox { c0 := 0xFFFFFFFF, c1 := 0xFFFFFFFF, c2 := 0xFFFFFFFF, c3 := 0xFFFFFFFF } 0xFFFFFFFF 0xFFFFFFFF
    = { c0 := 0x408F276D, c1 := 0x41C83B0E, c2 := 0xA20BC7C6, c3 := 0x6D5451FD }
end

