-- ==== Sys2Proof/Laws/Commands.lean ====
section
/-!
SUPPORT. What the start of a ring command does, once for every command.
-/
namespace Sys2Proof.Machine

/-- The start of a presented command: the common checks, then its handler. -/
theorem startCmd_presents {b : Block} {r : Nat} {e : Entry} {op : Nat} (act : Block → Cmd → CmdRes) (h : b.presents r e op = true) :
    b.startCmd r e op act = (match (b.started r).cmdCheck r e with
      | .error st => (b.started r).finish r e st 0
      | .ok c => (match act (b.started r) c with
        | .done st result b => b.finish r e st result
        | .parked b => b
        | .again b => b.unstarted r e)) := by
  simp only [Block.presents, Bool.and_eq_true, decide_eq_true_eq, beq_iff_eq, Option.any_eq_true] at h
  obtain ⟨⟨⟨⟨⟨x, hx, hxe⟩, hop⟩, ht⟩, hn⟩, hr⟩ := h
  unfold Block.startCmd
  simp only [hx]
  rw [if_neg (by simp [hxe, hop, ht, hr]; omega)]
  all_goals rfl

/-- A command that is not presented leaves everything as it is. -/
theorem startCmd_idle {b : Block} {r : Nat} {e : Entry} {op : Nat} (act : Block → Cmd → CmdRes) (h : b.presents r e op = false) :
    b.startCmd r e op act = b := by
  unfold Block.startCmd
  cases hf : (b.ring r).taken.find? b.startable with
  | none => rfl
  | some x =>
    simp only []
    rw [if_pos]
    by_contra hc
    push Not at hc
    obtain ⟨h1, h2, h3, h4, h5⟩ := hc
    simp [Block.presents, hf, h1, h2, h5] at h
    simp_all
    omega

/-- A command that passes the common checks does what its handler answers. -/
theorem startCmd_done {b : Block} {r : Nat} {e : Entry} {op : Nat} {c : Cmd} {act : Block → Cmd → CmdRes} {st : Status} {v : Nat} {b' : Block}
    (h : b.accepts r e op c) (ha : act (b.started r) c = .done st v b') : b.startCmd r e op act = b'.finish r e st v := by
  rw [startCmd_presents act h.1]
  simp only [h.2, ha]

theorem startCmd_parked {b : Block} {r : Nat} {e : Entry} {op : Nat} {c : Cmd} {act : Block → Cmd → CmdRes} {b' : Block}
    (h : b.accepts r e op c) (ha : act (b.started r) c = .parked b') : b.startCmd r e op act = b' := by
  rw [startCmd_presents act h.1]
  simp only [h.2, ha]

/-- A command that a common check refuses completes with that check's status. -/
theorem startCmd_error {b : Block} {r : Nat} {e : Entry} {op : Nat} {st : Status} (act : Block → Cmd → CmdRes)
    (h : b.presents r e op = true) (hc : (b.started r).cmdCheck r e = .error st) :
    b.startCmd r e op act = (b.started r).finish r e st 0 := by
  rw [startCmd_presents act h]
  simp only [hc]

/-- What the common checks answer: the handler sees its ring and its entry. -/
theorem cmdCheck_ok {b : Block} {r : Nat} {e : Entry} {c : Cmd} (h : b.cmdCheck r e = .ok c) : c.ring = r ∧ c.entry = e := by
  unfold Block.cmdCheck at h
  dsimp only at h
  repeat' (split at h)
  all_goals first | (cases h; exact ⟨rfl, rfl⟩) | cases h

end Sys2Proof.Machine
end

