-- ==== Sys2Proof/Laws/Tab.lean ====
section
/-!
SUPPORT. Laws of sparse maps: reading after writing, and the canonical form that every operation keeps.
-/
namespace Sys2Proof.Machine

variable {α : Type}

@[simp] theorem tfind_nil (k : Nat) : tfind ([] : Tab α) k = none := rfl

theorem tfind_cons (k' : Nat) (v : α) (t : Tab α) (k : Nat) :
    tfind ((k', v) :: t) k = if k' = k then some v else tfind t k := rfl

@[simp] theorem tfind_tset_self (t : Tab α) (k : Nat) (v : α) : tfind (tset t k v) k = some v := by
  induction t with
  | nil => simp [tset, tfind]
  | cons e t ih =>
    obtain ⟨k', v'⟩ := e
    unfold tset
    split
    · simp [tfind]
    · split
      · simp [tfind]
      · rename_i h; simp [tfind, ih, Ne.symm h]

theorem tfind_tset_ne (t : Tab α) {k j : Nat} (v : α) (h : j ≠ k) : tfind (tset t k v) j = tfind t j := by
  induction t with
  | nil => simp [tset, tfind, Ne.symm h]
  | cons e t ih =>
    obtain ⟨k', v'⟩ := e
    unfold tset
    split
    · simp [tfind, Ne.symm h]
    · split
      · subst_vars; simp [tfind, Ne.symm h]
      · simp [tfind, ih]

@[simp] theorem tget_tset_self (d : α) (t : Tab α) (k : Nat) (v : α) : tget d (tset t k v) k = v := by simp [tget]

theorem tget_tset_ne (d : α) (t : Tab α) {k j : Nat} (v : α) (h : j ≠ k) : tget d (tset t k v) j = tget d t j := by
  simp [tget, tfind_tset_ne t v h]

theorem tset_tset (t : Tab α) (k : Nat) (v w : α) : tset (tset t k v) k w = tset t k w := by
  induction t with
  | nil => simp [tset]
  | cons e t ih =>
    obtain ⟨k', v'⟩ := e
    by_cases h1 : k < k'
    · simp [tset, h1]
    · by_cases h2 : k = k'
      · subst h2; simp [tset]
      · simp [tset, h1, h2, ih]

theorem tfind_tdel_ne (t : Tab α) {k j : Nat} (h : j ≠ k) : tfind (tdel t k) j = tfind t j := by
  induction t with
  | nil => rfl
  | cons e t ih =>
    obtain ⟨k', v'⟩ := e
    unfold tdel
    split
    · rfl
    · split
      · subst_vars; simp [tfind, Ne.symm h]
      · simp [tfind, ih]

section
variable [DecidableEq α] (d : α)

theorem tabWfFrom_mono {d : α} {lo lo' : Nat} {t : Tab α} (h : tabWfFrom d lo t = true) (hl : lo' ≤ lo) :
    tabWfFrom d lo' t = true := by
  cases t with
  | nil => rfl
  | cons e t =>
    obtain ⟨k, v⟩ := e
    simp [tabWfFrom] at h ⊢
    exact ⟨⟨by omega, h.1.2⟩, h.2⟩

/-- Below the first key of a canonical map nothing is listed. -/
theorem tfind_of_wf_lt {d : α} {lo k : Nat} {t : Tab α} (h : tabWfFrom d lo t = true) (hk : k < lo) : tfind t k = none := by
  induction t generalizing lo with
  | nil => rfl
  | cons e t ih =>
    obtain ⟨k', v⟩ := e
    simp [tabWfFrom] at h
    rw [tfind_cons, if_neg (by omega)]
    exact ih h.2 (by omega)

theorem tfind_ne_default {lo k : Nat} {t : Tab α} (h : tabWfFrom d lo t = true) : tfind t k ≠ some d := by
  induction t generalizing lo with
  | nil => simp
  | cons e t ih =>
    obtain ⟨k', v⟩ := e
    simp [tabWfFrom] at h
    rw [tfind_cons]
    split
    · simpa using h.1.2
    · exact ih h.2

theorem tfind_tdel_self {lo k : Nat} {t : Tab α} (h : tabWfFrom d lo t = true) : tfind (tdel t k) k = none := by
  induction t generalizing lo with
  | nil => rfl
  | cons e t ih =>
    obtain ⟨k', v⟩ := e
    simp [tabWfFrom] at h
    unfold tdel
    split
    · rw [tfind_cons, if_neg (by omega)]; exact tfind_of_wf_lt h.2 (by omega)
    · split
      · subst_vars; exact tfind_of_wf_lt h.2 (by omega)
      · rename_i h1 h2; rw [tfind_cons, if_neg (Ne.symm h2)]; exact ih h.2

theorem tset_wf {lo k : Nat} {v : α} {t : Tab α} (h : tabWfFrom d lo t = true) (hk : lo ≤ k) (hv : v ≠ d) :
    tabWfFrom d lo (tset t k v) = true := by
  induction t generalizing lo with
  | nil => simp [tset, tabWfFrom, hk, hv]
  | cons e t ih =>
    obtain ⟨k', v'⟩ := e
    simp [tabWfFrom] at h
    unfold tset
    split
    · simp [tabWfFrom, hk, hv, h]; omega
    · split
      · subst_vars; simp [tabWfFrom, hk, hv, h]
      · simp [tabWfFrom, h]; exact ih h.2 (by omega)

theorem tdel_wf {lo k : Nat} {t : Tab α} (h : tabWfFrom d lo t = true) : tabWfFrom d lo (tdel t k) = true := by
  induction t generalizing lo with
  | nil => rfl
  | cons e t ih =>
    obtain ⟨k', v'⟩ := e
    have h0 := h
    simp [tabWfFrom] at h
    unfold tdel
    split
    · exact h0
    · split
      · exact tabWfFrom_mono h.2 (by omega)
      · simp [tabWfFrom, h]; exact ih h.2

/-- Every write keeps the canonical form. -/
theorem tput_wf {k : Nat} {v : α} {t : Tab α} (h : tabWf d t = true) : tabWf d (tput d t k v) = true := by
  unfold tput
  split
  · exact tdel_wf d h
  · exact tset_wf d h (Nat.zero_le _) (by assumption)

/-- Reading a canonical map after a write. -/
theorem tget_tput {k j : Nat} {v : α} {t : Tab α} (h : tabWf d t = true) :
    tget d (tput d t k v) j = if j = k then v else tget d t j := by
  unfold tput
  split
  · rename_i hv; subst hv
    split
    · subst_vars; simp [tget, tfind_tdel_self _ h]
    · simp [tget, tfind_tdel_ne t (by assumption)]
  · split
    · subst_vars; simp
    · exact tget_tset_ne d t v (by assumption)

theorem tget_tput_ne {k j : Nat} {v : α} (t : Tab α) (h : j ≠ k) : tget d (tput d t k v) j = tget d t j := by
  unfold tput
  split
  · simp [tget, tfind_tdel_ne t h]
  · exact tget_tset_ne d t v h

end

end Sys2Proof.Machine
end

