-- ==== Sys2Proof/Laws/Memory.lean ====
section
/-!
SUPPORT. Laws of device memory: every operation that writes it keeps its canonical form, and a line that is written
reads back as it was written while every other line reads as before.
-/
namespace Sys2Proof.Machine

/-- A run of writes keeps the canonical form. -/
theorem iter_tput_wf {α : Type} [DecidableEq α] (d : α) (n : Nat) (t : Tab α) (k : Nat → Nat) (v : Nat → α)
    (h : tabWf d t = true) : tabWf d (iter n t fun t i => tput d t (k i) (v i)) = true := by
  unfold iter
  generalize List.range n = l
  induction l generalizing t with
  | nil => exact h
  | cons i l ih => exact ih _ (tput_wf d h)

/-- Reading after a run of writes to addresses that rise by one. -/
theorem tget_iter_tput {α : Type} [DecidableEq α] (d : α) (n : Nat) (t : Tab α) (a : Nat) (v : Nat → α)
    (h : tabWf d t = true) (j : Nat) :
    tget d (iter n t fun t i => tput d t (a + i) (v i)) j = if a ≤ j ∧ j < a + n then v (j - a) else tget d t j := by
  induction n with
  | zero => simp [iter]
  | succ n ih =>
    have hw := iter_tput_wf d n t (fun i => a + i) v h
    have hs : (iter (n + 1) t fun t i => tput d t (a + i) (v i)) = tput d (iter n t fun t i => tput d t (a + i) (v i)) (a + n) (v n) := by
      simp [iter, List.range_succ]
    rw [hs, tget_tput d hw, ih]
    by_cases hj : j = a + n
    · subst hj; simp
    · rw [if_neg hj]
      by_cases h2 : a ≤ j ∧ j < a + n
      · rw [if_pos h2, if_pos (by omega)]
      · rw [if_neg h2, if_neg (by omega)]

theorem Dram.wf_mem {m : Dram} (h : m.wf = true) : tabWf 0 m.mem = true := by
  simp only [Dram.wf, Bool.and_eq_true] at h; exact h.1

theorem Dram.wf_poison {m : Dram} (h : m.wf = true) : tabWf false m.poison = true := by
  simp only [Dram.wf, Bool.and_eq_true] at h; exact h.2

theorem Dram.empty_wf : Dram.wf {} = true := rfl

/-- Storing a line keeps the canonical form. -/
theorem Dram.setLine_wf {m : Dram} (h : m.wf = true) (key : Nat) (l : LineSt) : (m.setLine key l).wf = true := by
  simp only [Dram.wf, Dram.setLine, Bool.and_eq_true]
  exact ⟨iter_tput_wf 0 64 m.mem (fun k => key * 64 + k) _ (Dram.wf_mem h), tput_wf false (Dram.wf_poison h)⟩

/-- Storing a line writes its 64 bytes and no other. -/
theorem Dram.setLine_byte {m : Dram} (h : m.wf = true) (key : Nat) (l : LineSt) (a : Nat) :
    tget 0 (m.setLine key l).mem a =
      if key * 64 ≤ a ∧ a < key * 64 + 64 then BitVec.ofNat 8 (l.data >>> (8 * (a - key * 64))) else tget 0 m.mem a :=
  tget_iter_tput 0 64 m.mem (key * 64) (fun k => BitVec.ofNat 8 (l.data >>> (8 * k))) (Dram.wf_mem h) a

/-- Storing a line sets its poison and that of no other line. -/
theorem Dram.setLine_poison {m : Dram} (h : m.wf = true) (key : Nat) (l : LineSt) (k : Nat) :
    tget false (m.setLine key l).poison k = if k = key then l.poisoned else tget false m.poison k :=
  tget_tput false (Dram.wf_poison h)

/-- Serving a request leaves memory as it is or stores one line. -/
theorem chanServe_dram (m : Dram) (b : Block) (c : Nat) (found : LineFinding) :
    (chanServe m b c found).1 = m ∨ ∃ key l, (chanServe m b c found).1 = m.setLine key l := by
  unfold chanServe
  dsimp only
  split
  · exact .inl rfl
  · split
    · exact .inl rfl
    · split
      · exact .inl rfl
      · split <;> exact .inr ⟨_, _, rfl⟩

theorem chanServe_wf {m : Dram} (h : m.wf = true) (b : Block) (c : Nat) (found : LineFinding) :
    (chanServe m b c found).1.wf = true := by
  rcases chanServe_dram m b c found with e | ⟨k, l, e⟩ <;> rw [e]
  · exact h
  · exact Dram.setLine_wf h k l

theorem Block.settleChan_wf {m : Dram} (h : m.wf = true) (b : Block) (c : Nat) : (b.settleChan m c).wf = true := by
  unfold Block.settleChan
  dsimp only
  split
  · exact h
  · generalize (b.chan c).queue = q
    induction q generalizing m with
    | nil => exact h
    | cons x q ih => exact ih (Dram.setLine_wf h _ _)

theorem Block.settleChans_wf {m : Dram} (h : m.wf = true) (b : Block) : (b.settleChans m).wf = true := by
  unfold Block.settleChans
  generalize b.chans.map (·.1) = l
  induction l generalizing m with
  | nil => exact h
  | cons c l ih => exact ih (Block.settleChan_wf h b c)

end Sys2Proof.Machine
end

