-- ==== Sys2Proof/Laws/State.lean ====
section
/-!
SUPPORT. Laws of the state: what each update of a unit changes, field by field, and what it leaves alone.
-/
namespace Sys2Proof.Machine

/-! ### Spd -/

@[simp] theorem Block.setSpd_power (b : Block) (k) (v) : (b.setSpd k v).power = b.power := rfl
@[simp] theorem Block.setSpd_pwrGood (b : Block) (k) (v) : (b.setSpd k v).pwrGood = b.pwrGood := rfl
@[simp] theorem Block.setSpd_perst (b : Block) (k) (v) : (b.setSpd k v).perst = b.perst := rfl
@[simp] theorem Block.setSpd_auxGood (b : Block) (k) (v) : (b.setSpd k v).auxGood = b.auxGood := rfl
@[simp] theorem Block.setSpd_mainOn (b : Block) (k) (v) : (b.setSpd k v).mainOn = b.mainOn := rfl
@[simp] theorem Block.setSpd_thermtripPin (b : Block) (k) (v) : (b.setSpd k v).thermtripPin = b.thermtripPin := rfl
@[simp] theorem Block.setSpd_wake (b : Block) (k) (v) : (b.setSpd k v).wake = b.wake := rfl
@[simp] theorem Block.setSpd_alert (b : Block) (k) (v) : (b.setSpd k v).alert = b.alert := rfl
@[simp] theorem Block.setSpd_straps (b : Block) (k) (v) : (b.setSpd k v).straps = b.straps := rfl
@[simp] theorem Block.setSpd_hubLost (b : Block) (k) (v) : (b.setSpd k v).hubLost = b.hubLost := rfl
@[simp] theorem Block.setSpd_draining (b : Block) (k) (v) : (b.setSpd k v).draining = b.draining := rfl
@[simp] theorem Block.setSpd_drained (b : Block) (k) (v) : (b.setSpd k v).drained = b.drained := rfl
@[simp] theorem Block.setSpd_a2Exiting (b : Block) (k) (v) : (b.setSpd k v).a2Exiting = b.a2Exiting := rfl
@[simp] theorem Block.setSpd_handlesLost (b : Block) (k) (v) : (b.setSpd k v).handlesLost = b.handlesLost := rfl
@[simp] theorem Block.setSpd_ready (b : Block) (k) (v) : (b.setSpd k v).ready = b.ready := rfl
@[simp] theorem Block.setSpd_bootStage (b : Block) (k) (v) : (b.setSpd k v).bootStage = b.bootStage := rfl
@[simp] theorem Block.setSpd_fallback (b : Block) (k) (v) : (b.setSpd k v).fallback = b.fallback := rfl
@[simp] theorem Block.setSpd_secure (b : Block) (k) (v) : (b.setSpd k v).secure = b.secure := rfl
@[simp] theorem Block.setSpd_bar2Err (b : Block) (k) (v) : (b.setSpd k v).bar2Err = b.bar2Err := rfl
@[simp] theorem Block.setSpd_cellErr (b : Block) (k) (v) : (b.setSpd k v).cellErr = b.cellErr := rfl
@[simp] theorem Block.setSpd_restarts (b : Block) (k) (v) : (b.setSpd k v).restarts = b.restarts := rfl
@[simp] theorem Block.setSpd_restarting (b : Block) (k) (v) : (b.setSpd k v).restarting = b.restarting := rfl
@[simp] theorem Block.setSpd_fwVersion (b : Block) (k) (v) : (b.setSpd k v).fwVersion = b.fwVersion := rfl
@[simp] theorem Block.setSpd_fwSvn (b : Block) (k) (v) : (b.setSpd k v).fwSvn = b.fwSvn := rfl
@[simp] theorem Block.setSpd_runSlot (b : Block) (k) (v) : (b.setSpd k v).runSlot = b.runSlot := rfl
@[simp] theorem Block.setSpd_runTrial (b : Block) (k) (v) : (b.setSpd k v).runTrial = b.runTrial := rfl
@[simp] theorem Block.setSpd_flashWork (b : Block) (k) (v) : (b.setSpd k v).flashWork = b.flashWork := rfl
@[simp] theorem Block.setSpd_memoryDegraded (b : Block) (k) (v) : (b.setSpd k v).memoryDegraded = b.memoryDegraded := rfl
@[simp] theorem Block.setSpd_inservice (b : Block) (k) (v) : (b.setSpd k v).inservice = b.inservice := rfl
@[simp] theorem Block.setSpd_pcieWidth (b : Block) (k) (v) : (b.setSpd k v).pcieWidth = b.pcieWidth := rfl
@[simp] theorem Block.setSpd_pcieSpeed (b : Block) (k) (v) : (b.setSpd k v).pcieSpeed = b.pcieSpeed := rfl
@[simp] theorem Block.setSpd_linkDegraded (b : Block) (k) (v) : (b.setSpd k v).linkDegraded = b.linkDegraded := rfl
@[simp] theorem Block.setSpd_numVfs (b : Block) (k) (v) : (b.setSpd k v).numVfs = b.numVfs := rfl
@[simp] theorem Block.setSpd_jtagReset (b : Block) (k) (v) : (b.setSpd k v).jtagReset = b.jtagReset := rfl
@[simp] theorem Block.setSpd_time (b : Block) (k) (v) : (b.setSpd k v).time = b.time := rfl
@[simp] theorem Block.setSpd_ptp (b : Block) (k) (v) : (b.setSpd k v).ptp = b.ptp := rfl
@[simp] theorem Block.setSpd_freeCtr (b : Block) (k) (v) : (b.setSpd k v).freeCtr = b.freeCtr := rfl
@[simp] theorem Block.setSpd_bootTag (b : Block) (k) (v) : (b.setSpd k v).bootTag = b.bootTag := rfl
@[simp] theorem Block.setSpd_store (b : Block) (k) (v) : (b.setSpd k v).store = b.store := rfl
@[simp] theorem Block.setSpd_tiles (b : Block) (k) (v) : (b.setSpd k v).tiles = b.tiles := rfl
@[simp] theorem Block.setSpd_chans (b : Block) (k) (v) : (b.setSpd k v).chans = b.chans := rfl
@[simp] theorem Block.setSpd_outcomes (b : Block) (k) (v) : (b.setSpd k v).outcomes = b.outcomes := rfl
@[simp] theorem Block.setSpd_cells (b : Block) (k) (v) : (b.setSpd k v).cells = b.cells := rfl
@[simp] theorem Block.setSpd_sigs (b : Block) (k) (v) : (b.setSpd k v).sigs = b.sigs := rfl
@[simp] theorem Block.setSpd_dones (b : Block) (k) (v) : (b.setSpd k v).dones = b.dones := rfl
@[simp] theorem Block.setSpd_frozen (b : Block) (k) (v) : (b.setSpd k v).frozen = b.frozen := rfl
@[simp] theorem Block.setSpd_dumps (b : Block) (k) (v) : (b.setSpd k v).dumps = b.dumps := rfl
@[simp] theorem Block.setSpd_ctxs (b : Block) (k) (v) : (b.setSpd k v).ctxs = b.ctxs := rfl
@[simp] theorem Block.setSpd_racks (b : Block) (k) (v) : (b.setSpd k v).racks = b.racks := rfl
@[simp] theorem Block.setSpd_nextResv (b : Block) (k) (v) : (b.setSpd k v).nextResv = b.nextResv := rfl
@[simp] theorem Block.setSpd_primary (b : Block) (k) (v) : (b.setSpd k v).primary = b.primary := rfl
@[simp] theorem Block.setSpd_faultQueue (b : Block) (k) (v) : (b.setSpd k v).faultQueue = b.faultQueue := rfl
@[simp] theorem Block.setSpd_spdMap (b : Block) (k) (v) : (b.setSpd k v).spdMap = b.spdMap := rfl
@[simp] theorem Block.setSpd_removed (b : Block) (k) (v) : (b.setSpd k v).removed = b.removed := rfl
@[simp] theorem Block.setSpd_tables (b : Block) (k) (v) : (b.setSpd k v).tables = b.tables := rfl
@[simp] theorem Block.setSpd_readers (b : Block) (k) (v) : (b.setSpd k v).readers = b.readers := rfl
@[simp] theorem Block.setSpd_burlReaders (b : Block) (k) (v) : (b.setSpd k v).burlReaders = b.burlReaders := rfl
@[simp] theorem Block.setSpd_pins (b : Block) (k) (v) : (b.setSpd k v).pins = b.pins := rfl
@[simp] theorem Block.setSpd_tagStores (b : Block) (k) (v) : (b.setSpd k v).tagStores = b.tagStores := rfl
@[simp] theorem Block.setSpd_streamTable (b : Block) (k) (v) : (b.setSpd k v).streamTable = b.streamTable := rfl
@[simp] theorem Block.setSpd_streams (b : Block) (k) (v) : (b.setSpd k v).streams = b.streams := rfl
@[simp] theorem Block.setSpd_streamLru (b : Block) (k) (v) : (b.setSpd k v).streamLru = b.streamLru := rfl
@[simp] theorem Block.setSpd_krfUdpPort (b : Block) (k) (v) : (b.setSpd k v).krfUdpPort = b.krfUdpPort := rfl
@[simp] theorem Block.setSpd_krfDscpData (b : Block) (k) (v) : (b.setSpd k v).krfDscpData = b.krfDscpData := rfl
@[simp] theorem Block.setSpd_krfDscpCtrl (b : Block) (k) (v) : (b.setSpd k v).krfDscpCtrl = b.krfDscpCtrl := rfl
@[simp] theorem Block.setSpd_deviceAddr (b : Block) (k) (v) : (b.setSpd k v).deviceAddr = b.deviceAddr := rfl
@[simp] theorem Block.setSpd_ports (b : Block) (k) (v) : (b.setSpd k v).ports = b.ports := rfl
@[simp] theorem Block.setSpd_neighbours (b : Block) (k) (v) : (b.setSpd k v).neighbours = b.neighbours := rfl
@[simp] theorem Block.setSpd_conns (b : Block) (k) (v) : (b.setSpd k v).conns = b.conns := rfl
@[simp] theorem Block.setSpd_chains (b : Block) (k) (v) : (b.setSpd k v).chains = b.chains := rfl
@[simp] theorem Block.setSpd_sweeps (b : Block) (k) (v) : (b.setSpd k v).sweeps = b.sweeps := rfl
@[simp] theorem Block.setSpd_rings (b : Block) (k) (v) : (b.setSpd k v).rings = b.rings := rfl
@[simp] theorem Block.setSpd_funcs (b : Block) (k) (v) : (b.setSpd k v).funcs = b.funcs := rfl
@[simp] theorem Block.setSpd_notifies (b : Block) (k) (v) : (b.setSpd k v).notifies = b.notifies := rfl
@[simp] theorem Block.setSpd_trace (b : Block) (k) (v) : (b.setSpd k v).trace = b.trace := rfl
@[simp] theorem Block.setSpd_cnt (b : Block) (k) (v) : (b.setSpd k v).cnt = b.cnt := rfl
@[simp] theorem Block.setSpd_cal (b : Block) (k) (v) : (b.setSpd k v).cal = b.cal := rfl
@[simp] theorem Block.setSpd_memUeThreshold (b : Block) (k) (v) : (b.setSpd k v).memUeThreshold = b.memUeThreshold := rfl
@[simp] theorem Block.setSpd_memUeWindowH (b : Block) (k) (v) : (b.setSpd k v).memUeWindowH = b.memUeWindowH := rfl
@[simp] theorem Block.setSpd_memScrubHbmH (b : Block) (k) (v) : (b.setSpd k v).memScrubHbmH = b.memScrubHbmH := rfl
@[simp] theorem Block.setSpd_memScrubDeepH (b : Block) (k) (v) : (b.setSpd k v).memScrubDeepH = b.memScrubDeepH := rfl
@[simp] theorem Block.setSpd_memScrubEn (b : Block) (k) (v) : (b.setSpd k v).memScrubEn = b.memScrubEn := rfl
@[simp] theorem Block.setSpd_keepShare (b : Block) (k) (v) : (b.setSpd k v).keepShare = b.keepShare := rfl
@[simp] theorem Block.setSpd_sramCe (b : Block) (k) (v) : (b.setSpd k v).sramCe = b.sramCe := rfl
@[simp] theorem Block.setSpd_vrFailed (b : Block) (k) (v) : (b.setSpd k v).vrFailed = b.vrFailed := rfl
@[simp] theorem Block.setSpd_hostReads (b : Block) (k) (v) : (b.setSpd k v).hostReads = b.hostReads := rfl
@[simp] theorem Block.setSpd_hubBuf (b : Block) (k) (v) : (b.setSpd k v).hubBuf = b.hubBuf := rfl
@[simp] theorem Block.setSpd_hostOut (b : Block) (k) (v) : (b.setSpd k v).hostOut = b.hostOut := rfl
@[simp] theorem Block.setSpd_msix (b : Block) (k) (v) : (b.setSpd k v).msix = b.msix := rfl
@[simp] theorem Block.setSpd_txOut (b : Block) (k) (v) : (b.setSpd k v).txOut = b.txOut := rfl
@[simp] theorem Block.setSpd_resp (b : Block) (k) (v) : (b.setSpd k v).resp = b.resp := rfl
@[simp] theorem Block.setSpd_mctpOut (b : Block) (k) (v) : (b.setSpd k v).mctpOut = b.mctpOut := rfl
@[simp] theorem Block.setSpd_boot (b : Block) (k) (v) : (b.setSpd k v).boot = b.boot := rfl
@[simp] theorem Block.setSpd_measured (b : Block) (k) (v) : (b.setSpd k v).measured = b.measured := rfl
@[simp] theorem Block.setSpd_hubLater (b : Block) (k) (v) : (b.setSpd k v).hubLater = b.hubLater := rfl
@[simp] theorem Block.setSpd_peerRegs (b : Block) (k) (v) : (b.setSpd k v).peerRegs = b.peerRegs := rfl
@[simp] theorem Block.setSpd_leaving (b : Block) (k) (v) : (b.setSpd k v).leaving = b.leaving := rfl
@[simp] theorem Block.setSpd_ringTurn (b : Block) (k) (v) : (b.setSpd k v).ringTurn = b.ringTurn := rfl
@[simp] theorem Block.setSpd_pfcOut (b : Block) (k) (v) : (b.setSpd k v).pfcOut = b.pfcOut := rfl
@[simp] theorem Block.setSpd_loopIn (b : Block) (k) (v) : (b.setSpd k v).loopIn = b.loopIn := rfl
@[simp] theorem Block.setSpd_stalled (b : Block) (k) (v) : (b.setSpd k v).stalled = b.stalled := rfl

@[simp] theorem Block.spd_setSpd (b : Block) (p) (x) : (b.setSpd p x).spd p = x := by simp [Block.spd, Block.setSpd]

theorem Block.spd_setSpd_ne (b : Block) {p q : Nat} (x) (h : q ≠ p) : (b.setSpd p x).spd q = b.spd q := by
  simp [Block.spd, Block.setSpd, tfind_tset_ne _ _ h]

@[simp] theorem Block.setSpd_setSpd (b : Block) (p) (x y) : (b.setSpd p x).setSpd p y = b.setSpd p y := by
  simp [Block.setSpd, tset_tset]

@[simp] theorem Block.modSpd_spd (b : Block) (p) (f) : (b.modSpd p f).spd p = f (b.spd p) := by simp [Block.modSpd]

theorem Block.modSpd_spd_ne (b : Block) {p q : Nat} (f) (h : q ≠ p) : (b.modSpd p f).spd q = b.spd q :=
  b.spd_setSpd_ne _ h

@[simp] theorem Block.modSpd_modSpd (b : Block) (p) (f g) : (b.modSpd p f).modSpd p g = b.modSpd p (fun s => g (f s)) := by
  simp [Block.modSpd]

@[simp] theorem Block.setSpd_modSpd (b : Block) (p) (x) (g) : (b.setSpd p x).modSpd p g = b.setSpd p (g x) := by
  simp [Block.modSpd]

@[simp] theorem Block.modSpd_setSpd (b : Block) (p) (f) (y) : (b.modSpd p f).setSpd p y = b.setSpd p y := by
  simp [Block.modSpd]

theorem OnlySpd.refl (p : Nat) (b : Block) : OnlySpd p b b := ⟨rfl, fun _ _ => rfl⟩

theorem OnlySpd.trans {p : Nat} {b c d : Block} (h : OnlySpd p b c) (k : OnlySpd p c d) : OnlySpd p b d := by
  refine ⟨?_, fun q hq => (k.2 q hq).trans (h.2 q hq)⟩
  have h1 := h.1
  rw [← k.1] at h1
  exact h1

theorem OnlySpd.setSpd (p : Nat) (b : Block) (x) : OnlySpd p b (b.setSpd p x) :=
  ⟨rfl, fun _ hq => b.spd_setSpd_ne x hq⟩

/-! ### Tile -/

@[simp] theorem Block.setTile_power (b : Block) (k) (v) : (b.setTile k v).power = b.power := rfl
@[simp] theorem Block.setTile_pwrGood (b : Block) (k) (v) : (b.setTile k v).pwrGood = b.pwrGood := rfl
@[simp] theorem Block.setTile_perst (b : Block) (k) (v) : (b.setTile k v).perst = b.perst := rfl
@[simp] theorem Block.setTile_auxGood (b : Block) (k) (v) : (b.setTile k v).auxGood = b.auxGood := rfl
@[simp] theorem Block.setTile_mainOn (b : Block) (k) (v) : (b.setTile k v).mainOn = b.mainOn := rfl
@[simp] theorem Block.setTile_thermtripPin (b : Block) (k) (v) : (b.setTile k v).thermtripPin = b.thermtripPin := rfl
@[simp] theorem Block.setTile_wake (b : Block) (k) (v) : (b.setTile k v).wake = b.wake := rfl
@[simp] theorem Block.setTile_alert (b : Block) (k) (v) : (b.setTile k v).alert = b.alert := rfl
@[simp] theorem Block.setTile_straps (b : Block) (k) (v) : (b.setTile k v).straps = b.straps := rfl
@[simp] theorem Block.setTile_hubLost (b : Block) (k) (v) : (b.setTile k v).hubLost = b.hubLost := rfl
@[simp] theorem Block.setTile_draining (b : Block) (k) (v) : (b.setTile k v).draining = b.draining := rfl
@[simp] theorem Block.setTile_drained (b : Block) (k) (v) : (b.setTile k v).drained = b.drained := rfl
@[simp] theorem Block.setTile_a2Exiting (b : Block) (k) (v) : (b.setTile k v).a2Exiting = b.a2Exiting := rfl
@[simp] theorem Block.setTile_handlesLost (b : Block) (k) (v) : (b.setTile k v).handlesLost = b.handlesLost := rfl
@[simp] theorem Block.setTile_ready (b : Block) (k) (v) : (b.setTile k v).ready = b.ready := rfl
@[simp] theorem Block.setTile_bootStage (b : Block) (k) (v) : (b.setTile k v).bootStage = b.bootStage := rfl
@[simp] theorem Block.setTile_fallback (b : Block) (k) (v) : (b.setTile k v).fallback = b.fallback := rfl
@[simp] theorem Block.setTile_secure (b : Block) (k) (v) : (b.setTile k v).secure = b.secure := rfl
@[simp] theorem Block.setTile_bar2Err (b : Block) (k) (v) : (b.setTile k v).bar2Err = b.bar2Err := rfl
@[simp] theorem Block.setTile_cellErr (b : Block) (k) (v) : (b.setTile k v).cellErr = b.cellErr := rfl
@[simp] theorem Block.setTile_restarts (b : Block) (k) (v) : (b.setTile k v).restarts = b.restarts := rfl
@[simp] theorem Block.setTile_restarting (b : Block) (k) (v) : (b.setTile k v).restarting = b.restarting := rfl
@[simp] theorem Block.setTile_fwVersion (b : Block) (k) (v) : (b.setTile k v).fwVersion = b.fwVersion := rfl
@[simp] theorem Block.setTile_fwSvn (b : Block) (k) (v) : (b.setTile k v).fwSvn = b.fwSvn := rfl
@[simp] theorem Block.setTile_runSlot (b : Block) (k) (v) : (b.setTile k v).runSlot = b.runSlot := rfl
@[simp] theorem Block.setTile_runTrial (b : Block) (k) (v) : (b.setTile k v).runTrial = b.runTrial := rfl
@[simp] theorem Block.setTile_flashWork (b : Block) (k) (v) : (b.setTile k v).flashWork = b.flashWork := rfl
@[simp] theorem Block.setTile_memoryDegraded (b : Block) (k) (v) : (b.setTile k v).memoryDegraded = b.memoryDegraded := rfl
@[simp] theorem Block.setTile_inservice (b : Block) (k) (v) : (b.setTile k v).inservice = b.inservice := rfl
@[simp] theorem Block.setTile_pcieWidth (b : Block) (k) (v) : (b.setTile k v).pcieWidth = b.pcieWidth := rfl
@[simp] theorem Block.setTile_pcieSpeed (b : Block) (k) (v) : (b.setTile k v).pcieSpeed = b.pcieSpeed := rfl
@[simp] theorem Block.setTile_linkDegraded (b : Block) (k) (v) : (b.setTile k v).linkDegraded = b.linkDegraded := rfl
@[simp] theorem Block.setTile_numVfs (b : Block) (k) (v) : (b.setTile k v).numVfs = b.numVfs := rfl
@[simp] theorem Block.setTile_jtagReset (b : Block) (k) (v) : (b.setTile k v).jtagReset = b.jtagReset := rfl
@[simp] theorem Block.setTile_time (b : Block) (k) (v) : (b.setTile k v).time = b.time := rfl
@[simp] theorem Block.setTile_ptp (b : Block) (k) (v) : (b.setTile k v).ptp = b.ptp := rfl
@[simp] theorem Block.setTile_freeCtr (b : Block) (k) (v) : (b.setTile k v).freeCtr = b.freeCtr := rfl
@[simp] theorem Block.setTile_bootTag (b : Block) (k) (v) : (b.setTile k v).bootTag = b.bootTag := rfl
@[simp] theorem Block.setTile_store (b : Block) (k) (v) : (b.setTile k v).store = b.store := rfl
@[simp] theorem Block.setTile_spindles (b : Block) (k) (v) : (b.setTile k v).spindles = b.spindles := rfl
@[simp] theorem Block.setTile_chans (b : Block) (k) (v) : (b.setTile k v).chans = b.chans := rfl
@[simp] theorem Block.setTile_outcomes (b : Block) (k) (v) : (b.setTile k v).outcomes = b.outcomes := rfl
@[simp] theorem Block.setTile_cells (b : Block) (k) (v) : (b.setTile k v).cells = b.cells := rfl
@[simp] theorem Block.setTile_sigs (b : Block) (k) (v) : (b.setTile k v).sigs = b.sigs := rfl
@[simp] theorem Block.setTile_dones (b : Block) (k) (v) : (b.setTile k v).dones = b.dones := rfl
@[simp] theorem Block.setTile_frozen (b : Block) (k) (v) : (b.setTile k v).frozen = b.frozen := rfl
@[simp] theorem Block.setTile_dumps (b : Block) (k) (v) : (b.setTile k v).dumps = b.dumps := rfl
@[simp] theorem Block.setTile_ctxs (b : Block) (k) (v) : (b.setTile k v).ctxs = b.ctxs := rfl
@[simp] theorem Block.setTile_racks (b : Block) (k) (v) : (b.setTile k v).racks = b.racks := rfl
@[simp] theorem Block.setTile_nextResv (b : Block) (k) (v) : (b.setTile k v).nextResv = b.nextResv := rfl
@[simp] theorem Block.setTile_primary (b : Block) (k) (v) : (b.setTile k v).primary = b.primary := rfl
@[simp] theorem Block.setTile_faultQueue (b : Block) (k) (v) : (b.setTile k v).faultQueue = b.faultQueue := rfl
@[simp] theorem Block.setTile_spdMap (b : Block) (k) (v) : (b.setTile k v).spdMap = b.spdMap := rfl
@[simp] theorem Block.setTile_removed (b : Block) (k) (v) : (b.setTile k v).removed = b.removed := rfl
@[simp] theorem Block.setTile_tables (b : Block) (k) (v) : (b.setTile k v).tables = b.tables := rfl
@[simp] theorem Block.setTile_readers (b : Block) (k) (v) : (b.setTile k v).readers = b.readers := rfl
@[simp] theorem Block.setTile_burlReaders (b : Block) (k) (v) : (b.setTile k v).burlReaders = b.burlReaders := rfl
@[simp] theorem Block.setTile_pins (b : Block) (k) (v) : (b.setTile k v).pins = b.pins := rfl
@[simp] theorem Block.setTile_tagStores (b : Block) (k) (v) : (b.setTile k v).tagStores = b.tagStores := rfl
@[simp] theorem Block.setTile_streamTable (b : Block) (k) (v) : (b.setTile k v).streamTable = b.streamTable := rfl
@[simp] theorem Block.setTile_streams (b : Block) (k) (v) : (b.setTile k v).streams = b.streams := rfl
@[simp] theorem Block.setTile_streamLru (b : Block) (k) (v) : (b.setTile k v).streamLru = b.streamLru := rfl
@[simp] theorem Block.setTile_krfUdpPort (b : Block) (k) (v) : (b.setTile k v).krfUdpPort = b.krfUdpPort := rfl
@[simp] theorem Block.setTile_krfDscpData (b : Block) (k) (v) : (b.setTile k v).krfDscpData = b.krfDscpData := rfl
@[simp] theorem Block.setTile_krfDscpCtrl (b : Block) (k) (v) : (b.setTile k v).krfDscpCtrl = b.krfDscpCtrl := rfl
@[simp] theorem Block.setTile_deviceAddr (b : Block) (k) (v) : (b.setTile k v).deviceAddr = b.deviceAddr := rfl
@[simp] theorem Block.setTile_ports (b : Block) (k) (v) : (b.setTile k v).ports = b.ports := rfl
@[simp] theorem Block.setTile_neighbours (b : Block) (k) (v) : (b.setTile k v).neighbours = b.neighbours := rfl
@[simp] theorem Block.setTile_conns (b : Block) (k) (v) : (b.setTile k v).conns = b.conns := rfl
@[simp] theorem Block.setTile_chains (b : Block) (k) (v) : (b.setTile k v).chains = b.chains := rfl
@[simp] theorem Block.setTile_sweeps (b : Block) (k) (v) : (b.setTile k v).sweeps = b.sweeps := rfl
@[simp] theorem Block.setTile_rings (b : Block) (k) (v) : (b.setTile k v).rings = b.rings := rfl
@[simp] theorem Block.setTile_funcs (b : Block) (k) (v) : (b.setTile k v).funcs = b.funcs := rfl
@[simp] theorem Block.setTile_notifies (b : Block) (k) (v) : (b.setTile k v).notifies = b.notifies := rfl
@[simp] theorem Block.setTile_trace (b : Block) (k) (v) : (b.setTile k v).trace = b.trace := rfl
@[simp] theorem Block.setTile_cnt (b : Block) (k) (v) : (b.setTile k v).cnt = b.cnt := rfl
@[simp] theorem Block.setTile_cal (b : Block) (k) (v) : (b.setTile k v).cal = b.cal := rfl
@[simp] theorem Block.setTile_memUeThreshold (b : Block) (k) (v) : (b.setTile k v).memUeThreshold = b.memUeThreshold := rfl
@[simp] theorem Block.setTile_memUeWindowH (b : Block) (k) (v) : (b.setTile k v).memUeWindowH = b.memUeWindowH := rfl
@[simp] theorem Block.setTile_memScrubHbmH (b : Block) (k) (v) : (b.setTile k v).memScrubHbmH = b.memScrubHbmH := rfl
@[simp] theorem Block.setTile_memScrubDeepH (b : Block) (k) (v) : (b.setTile k v).memScrubDeepH = b.memScrubDeepH := rfl
@[simp] theorem Block.setTile_memScrubEn (b : Block) (k) (v) : (b.setTile k v).memScrubEn = b.memScrubEn := rfl
@[simp] theorem Block.setTile_keepShare (b : Block) (k) (v) : (b.setTile k v).keepShare = b.keepShare := rfl
@[simp] theorem Block.setTile_sramCe (b : Block) (k) (v) : (b.setTile k v).sramCe = b.sramCe := rfl
@[simp] theorem Block.setTile_vrFailed (b : Block) (k) (v) : (b.setTile k v).vrFailed = b.vrFailed := rfl
@[simp] theorem Block.setTile_hostReads (b : Block) (k) (v) : (b.setTile k v).hostReads = b.hostReads := rfl
@[simp] theorem Block.setTile_hubBuf (b : Block) (k) (v) : (b.setTile k v).hubBuf = b.hubBuf := rfl
@[simp] theorem Block.setTile_hostOut (b : Block) (k) (v) : (b.setTile k v).hostOut = b.hostOut := rfl
@[simp] theorem Block.setTile_msix (b : Block) (k) (v) : (b.setTile k v).msix = b.msix := rfl
@[simp] theorem Block.setTile_txOut (b : Block) (k) (v) : (b.setTile k v).txOut = b.txOut := rfl
@[simp] theorem Block.setTile_resp (b : Block) (k) (v) : (b.setTile k v).resp = b.resp := rfl
@[simp] theorem Block.setTile_mctpOut (b : Block) (k) (v) : (b.setTile k v).mctpOut = b.mctpOut := rfl
@[simp] theorem Block.setTile_boot (b : Block) (k) (v) : (b.setTile k v).boot = b.boot := rfl
@[simp] theorem Block.setTile_measured (b : Block) (k) (v) : (b.setTile k v).measured = b.measured := rfl
@[simp] theorem Block.setTile_hubLater (b : Block) (k) (v) : (b.setTile k v).hubLater = b.hubLater := rfl
@[simp] theorem Block.setTile_peerRegs (b : Block) (k) (v) : (b.setTile k v).peerRegs = b.peerRegs := rfl
@[simp] theorem Block.setTile_leaving (b : Block) (k) (v) : (b.setTile k v).leaving = b.leaving := rfl
@[simp] theorem Block.setTile_ringTurn (b : Block) (k) (v) : (b.setTile k v).ringTurn = b.ringTurn := rfl
@[simp] theorem Block.setTile_pfcOut (b : Block) (k) (v) : (b.setTile k v).pfcOut = b.pfcOut := rfl
@[simp] theorem Block.setTile_loopIn (b : Block) (k) (v) : (b.setTile k v).loopIn = b.loopIn := rfl
@[simp] theorem Block.setTile_stalled (b : Block) (k) (v) : (b.setTile k v).stalled = b.stalled := rfl

@[simp] theorem Block.tile_setTile (b : Block) (k) (v) : (b.setTile k v).tile k = v := by simp [Block.tile, Block.setTile]

theorem Block.tile_setTile_ne (b : Block) {k j : Nat} (v) (h : j ≠ k) : (b.setTile k v).tile j = b.tile j := by
  simp [Block.tile, Block.setTile, tget_tset_ne _ _ _ h]

@[simp] theorem Block.modTile_tile (b : Block) (k) (f) : (b.modTile k f).tile k = f (b.tile k) := by simp [Block.modTile]

theorem Block.modTile_tile_ne (b : Block) {k j : Nat} (f) (h : j ≠ k) : (b.modTile k f).tile j = b.tile j :=
  b.tile_setTile_ne _ h

/-! ### Chan -/

@[simp] theorem Block.setChan_power (b : Block) (k) (v) : (b.setChan k v).power = b.power := rfl
@[simp] theorem Block.setChan_pwrGood (b : Block) (k) (v) : (b.setChan k v).pwrGood = b.pwrGood := rfl
@[simp] theorem Block.setChan_perst (b : Block) (k) (v) : (b.setChan k v).perst = b.perst := rfl
@[simp] theorem Block.setChan_auxGood (b : Block) (k) (v) : (b.setChan k v).auxGood = b.auxGood := rfl
@[simp] theorem Block.setChan_mainOn (b : Block) (k) (v) : (b.setChan k v).mainOn = b.mainOn := rfl
@[simp] theorem Block.setChan_thermtripPin (b : Block) (k) (v) : (b.setChan k v).thermtripPin = b.thermtripPin := rfl
@[simp] theorem Block.setChan_wake (b : Block) (k) (v) : (b.setChan k v).wake = b.wake := rfl
@[simp] theorem Block.setChan_alert (b : Block) (k) (v) : (b.setChan k v).alert = b.alert := rfl
@[simp] theorem Block.setChan_straps (b : Block) (k) (v) : (b.setChan k v).straps = b.straps := rfl
@[simp] theorem Block.setChan_hubLost (b : Block) (k) (v) : (b.setChan k v).hubLost = b.hubLost := rfl
@[simp] theorem Block.setChan_draining (b : Block) (k) (v) : (b.setChan k v).draining = b.draining := rfl
@[simp] theorem Block.setChan_drained (b : Block) (k) (v) : (b.setChan k v).drained = b.drained := rfl
@[simp] theorem Block.setChan_a2Exiting (b : Block) (k) (v) : (b.setChan k v).a2Exiting = b.a2Exiting := rfl
@[simp] theorem Block.setChan_handlesLost (b : Block) (k) (v) : (b.setChan k v).handlesLost = b.handlesLost := rfl
@[simp] theorem Block.setChan_ready (b : Block) (k) (v) : (b.setChan k v).ready = b.ready := rfl
@[simp] theorem Block.setChan_bootStage (b : Block) (k) (v) : (b.setChan k v).bootStage = b.bootStage := rfl
@[simp] theorem Block.setChan_fallback (b : Block) (k) (v) : (b.setChan k v).fallback = b.fallback := rfl
@[simp] theorem Block.setChan_secure (b : Block) (k) (v) : (b.setChan k v).secure = b.secure := rfl
@[simp] theorem Block.setChan_bar2Err (b : Block) (k) (v) : (b.setChan k v).bar2Err = b.bar2Err := rfl
@[simp] theorem Block.setChan_cellErr (b : Block) (k) (v) : (b.setChan k v).cellErr = b.cellErr := rfl
@[simp] theorem Block.setChan_restarts (b : Block) (k) (v) : (b.setChan k v).restarts = b.restarts := rfl
@[simp] theorem Block.setChan_restarting (b : Block) (k) (v) : (b.setChan k v).restarting = b.restarting := rfl
@[simp] theorem Block.setChan_fwVersion (b : Block) (k) (v) : (b.setChan k v).fwVersion = b.fwVersion := rfl
@[simp] theorem Block.setChan_fwSvn (b : Block) (k) (v) : (b.setChan k v).fwSvn = b.fwSvn := rfl
@[simp] theorem Block.setChan_runSlot (b : Block) (k) (v) : (b.setChan k v).runSlot = b.runSlot := rfl
@[simp] theorem Block.setChan_runTrial (b : Block) (k) (v) : (b.setChan k v).runTrial = b.runTrial := rfl
@[simp] theorem Block.setChan_flashWork (b : Block) (k) (v) : (b.setChan k v).flashWork = b.flashWork := rfl
@[simp] theorem Block.setChan_memoryDegraded (b : Block) (k) (v) : (b.setChan k v).memoryDegraded = b.memoryDegraded := rfl
@[simp] theorem Block.setChan_inservice (b : Block) (k) (v) : (b.setChan k v).inservice = b.inservice := rfl
@[simp] theorem Block.setChan_pcieWidth (b : Block) (k) (v) : (b.setChan k v).pcieWidth = b.pcieWidth := rfl
@[simp] theorem Block.setChan_pcieSpeed (b : Block) (k) (v) : (b.setChan k v).pcieSpeed = b.pcieSpeed := rfl
@[simp] theorem Block.setChan_linkDegraded (b : Block) (k) (v) : (b.setChan k v).linkDegraded = b.linkDegraded := rfl
@[simp] theorem Block.setChan_numVfs (b : Block) (k) (v) : (b.setChan k v).numVfs = b.numVfs := rfl
@[simp] theorem Block.setChan_jtagReset (b : Block) (k) (v) : (b.setChan k v).jtagReset = b.jtagReset := rfl
@[simp] theorem Block.setChan_time (b : Block) (k) (v) : (b.setChan k v).time = b.time := rfl
@[simp] theorem Block.setChan_ptp (b : Block) (k) (v) : (b.setChan k v).ptp = b.ptp := rfl
@[simp] theorem Block.setChan_freeCtr (b : Block) (k) (v) : (b.setChan k v).freeCtr = b.freeCtr := rfl
@[simp] theorem Block.setChan_bootTag (b : Block) (k) (v) : (b.setChan k v).bootTag = b.bootTag := rfl
@[simp] theorem Block.setChan_store (b : Block) (k) (v) : (b.setChan k v).store = b.store := rfl
@[simp] theorem Block.setChan_spindles (b : Block) (k) (v) : (b.setChan k v).spindles = b.spindles := rfl
@[simp] theorem Block.setChan_tiles (b : Block) (k) (v) : (b.setChan k v).tiles = b.tiles := rfl
@[simp] theorem Block.setChan_outcomes (b : Block) (k) (v) : (b.setChan k v).outcomes = b.outcomes := rfl
@[simp] theorem Block.setChan_cells (b : Block) (k) (v) : (b.setChan k v).cells = b.cells := rfl
@[simp] theorem Block.setChan_sigs (b : Block) (k) (v) : (b.setChan k v).sigs = b.sigs := rfl
@[simp] theorem Block.setChan_dones (b : Block) (k) (v) : (b.setChan k v).dones = b.dones := rfl
@[simp] theorem Block.setChan_frozen (b : Block) (k) (v) : (b.setChan k v).frozen = b.frozen := rfl
@[simp] theorem Block.setChan_dumps (b : Block) (k) (v) : (b.setChan k v).dumps = b.dumps := rfl
@[simp] theorem Block.setChan_ctxs (b : Block) (k) (v) : (b.setChan k v).ctxs = b.ctxs := rfl
@[simp] theorem Block.setChan_racks (b : Block) (k) (v) : (b.setChan k v).racks = b.racks := rfl
@[simp] theorem Block.setChan_nextResv (b : Block) (k) (v) : (b.setChan k v).nextResv = b.nextResv := rfl
@[simp] theorem Block.setChan_primary (b : Block) (k) (v) : (b.setChan k v).primary = b.primary := rfl
@[simp] theorem Block.setChan_faultQueue (b : Block) (k) (v) : (b.setChan k v).faultQueue = b.faultQueue := rfl
@[simp] theorem Block.setChan_spdMap (b : Block) (k) (v) : (b.setChan k v).spdMap = b.spdMap := rfl
@[simp] theorem Block.setChan_removed (b : Block) (k) (v) : (b.setChan k v).removed = b.removed := rfl
@[simp] theorem Block.setChan_tables (b : Block) (k) (v) : (b.setChan k v).tables = b.tables := rfl
@[simp] theorem Block.setChan_readers (b : Block) (k) (v) : (b.setChan k v).readers = b.readers := rfl
@[simp] theorem Block.setChan_burlReaders (b : Block) (k) (v) : (b.setChan k v).burlReaders = b.burlReaders := rfl
@[simp] theorem Block.setChan_pins (b : Block) (k) (v) : (b.setChan k v).pins = b.pins := rfl
@[simp] theorem Block.setChan_tagStores (b : Block) (k) (v) : (b.setChan k v).tagStores = b.tagStores := rfl
@[simp] theorem Block.setChan_streamTable (b : Block) (k) (v) : (b.setChan k v).streamTable = b.streamTable := rfl
@[simp] theorem Block.setChan_streams (b : Block) (k) (v) : (b.setChan k v).streams = b.streams := rfl
@[simp] theorem Block.setChan_streamLru (b : Block) (k) (v) : (b.setChan k v).streamLru = b.streamLru := rfl
@[simp] theorem Block.setChan_krfUdpPort (b : Block) (k) (v) : (b.setChan k v).krfUdpPort = b.krfUdpPort := rfl
@[simp] theorem Block.setChan_krfDscpData (b : Block) (k) (v) : (b.setChan k v).krfDscpData = b.krfDscpData := rfl
@[simp] theorem Block.setChan_krfDscpCtrl (b : Block) (k) (v) : (b.setChan k v).krfDscpCtrl = b.krfDscpCtrl := rfl
@[simp] theorem Block.setChan_deviceAddr (b : Block) (k) (v) : (b.setChan k v).deviceAddr = b.deviceAddr := rfl
@[simp] theorem Block.setChan_ports (b : Block) (k) (v) : (b.setChan k v).ports = b.ports := rfl
@[simp] theorem Block.setChan_neighbours (b : Block) (k) (v) : (b.setChan k v).neighbours = b.neighbours := rfl
@[simp] theorem Block.setChan_conns (b : Block) (k) (v) : (b.setChan k v).conns = b.conns := rfl
@[simp] theorem Block.setChan_chains (b : Block) (k) (v) : (b.setChan k v).chains = b.chains := rfl
@[simp] theorem Block.setChan_sweeps (b : Block) (k) (v) : (b.setChan k v).sweeps = b.sweeps := rfl
@[simp] theorem Block.setChan_rings (b : Block) (k) (v) : (b.setChan k v).rings = b.rings := rfl
@[simp] theorem Block.setChan_funcs (b : Block) (k) (v) : (b.setChan k v).funcs = b.funcs := rfl
@[simp] theorem Block.setChan_notifies (b : Block) (k) (v) : (b.setChan k v).notifies = b.notifies := rfl
@[simp] theorem Block.setChan_trace (b : Block) (k) (v) : (b.setChan k v).trace = b.trace := rfl
@[simp] theorem Block.setChan_cnt (b : Block) (k) (v) : (b.setChan k v).cnt = b.cnt := rfl
@[simp] theorem Block.setChan_cal (b : Block) (k) (v) : (b.setChan k v).cal = b.cal := rfl
@[simp] theorem Block.setChan_memUeThreshold (b : Block) (k) (v) : (b.setChan k v).memUeThreshold = b.memUeThreshold := rfl
@[simp] theorem Block.setChan_memUeWindowH (b : Block) (k) (v) : (b.setChan k v).memUeWindowH = b.memUeWindowH := rfl
@[simp] theorem Block.setChan_memScrubHbmH (b : Block) (k) (v) : (b.setChan k v).memScrubHbmH = b.memScrubHbmH := rfl
@[simp] theorem Block.setChan_memScrubDeepH (b : Block) (k) (v) : (b.setChan k v).memScrubDeepH = b.memScrubDeepH := rfl
@[simp] theorem Block.setChan_memScrubEn (b : Block) (k) (v) : (b.setChan k v).memScrubEn = b.memScrubEn := rfl
@[simp] theorem Block.setChan_keepShare (b : Block) (k) (v) : (b.setChan k v).keepShare = b.keepShare := rfl
@[simp] theorem Block.setChan_sramCe (b : Block) (k) (v) : (b.setChan k v).sramCe = b.sramCe := rfl
@[simp] theorem Block.setChan_vrFailed (b : Block) (k) (v) : (b.setChan k v).vrFailed = b.vrFailed := rfl
@[simp] theorem Block.setChan_hostReads (b : Block) (k) (v) : (b.setChan k v).hostReads = b.hostReads := rfl
@[simp] theorem Block.setChan_hubBuf (b : Block) (k) (v) : (b.setChan k v).hubBuf = b.hubBuf := rfl
@[simp] theorem Block.setChan_hostOut (b : Block) (k) (v) : (b.setChan k v).hostOut = b.hostOut := rfl
@[simp] theorem Block.setChan_msix (b : Block) (k) (v) : (b.setChan k v).msix = b.msix := rfl
@[simp] theorem Block.setChan_txOut (b : Block) (k) (v) : (b.setChan k v).txOut = b.txOut := rfl
@[simp] theorem Block.setChan_resp (b : Block) (k) (v) : (b.setChan k v).resp = b.resp := rfl
@[simp] theorem Block.setChan_mctpOut (b : Block) (k) (v) : (b.setChan k v).mctpOut = b.mctpOut := rfl
@[simp] theorem Block.setChan_boot (b : Block) (k) (v) : (b.setChan k v).boot = b.boot := rfl
@[simp] theorem Block.setChan_measured (b : Block) (k) (v) : (b.setChan k v).measured = b.measured := rfl
@[simp] theorem Block.setChan_hubLater (b : Block) (k) (v) : (b.setChan k v).hubLater = b.hubLater := rfl
@[simp] theorem Block.setChan_peerRegs (b : Block) (k) (v) : (b.setChan k v).peerRegs = b.peerRegs := rfl
@[simp] theorem Block.setChan_leaving (b : Block) (k) (v) : (b.setChan k v).leaving = b.leaving := rfl
@[simp] theorem Block.setChan_ringTurn (b : Block) (k) (v) : (b.setChan k v).ringTurn = b.ringTurn := rfl
@[simp] theorem Block.setChan_pfcOut (b : Block) (k) (v) : (b.setChan k v).pfcOut = b.pfcOut := rfl
@[simp] theorem Block.setChan_loopIn (b : Block) (k) (v) : (b.setChan k v).loopIn = b.loopIn := rfl
@[simp] theorem Block.setChan_stalled (b : Block) (k) (v) : (b.setChan k v).stalled = b.stalled := rfl

@[simp] theorem Block.chan_setChan (b : Block) (k) (v) : (b.setChan k v).chan k = v := by simp [Block.chan, Block.setChan]

theorem Block.chan_setChan_ne (b : Block) {k j : Nat} (v) (h : j ≠ k) : (b.setChan k v).chan j = b.chan j := by
  simp [Block.chan, Block.setChan, tget_tset_ne _ _ _ h]

@[simp] theorem Block.modChan_chan (b : Block) (k) (f) : (b.modChan k f).chan k = f (b.chan k) := by simp [Block.modChan]

theorem Block.modChan_chan_ne (b : Block) {k j : Nat} (f) (h : j ≠ k) : (b.modChan k f).chan j = b.chan j :=
  b.chan_setChan_ne _ h

/-! ### Ctx -/

@[simp] theorem Block.setCtx_power (b : Block) (k) (v) : (b.setCtx k v).power = b.power := rfl
@[simp] theorem Block.setCtx_pwrGood (b : Block) (k) (v) : (b.setCtx k v).pwrGood = b.pwrGood := rfl
@[simp] theorem Block.setCtx_perst (b : Block) (k) (v) : (b.setCtx k v).perst = b.perst := rfl
@[simp] theorem Block.setCtx_auxGood (b : Block) (k) (v) : (b.setCtx k v).auxGood = b.auxGood := rfl
@[simp] theorem Block.setCtx_mainOn (b : Block) (k) (v) : (b.setCtx k v).mainOn = b.mainOn := rfl
@[simp] theorem Block.setCtx_thermtripPin (b : Block) (k) (v) : (b.setCtx k v).thermtripPin = b.thermtripPin := rfl
@[simp] theorem Block.setCtx_wake (b : Block) (k) (v) : (b.setCtx k v).wake = b.wake := rfl
@[simp] theorem Block.setCtx_alert (b : Block) (k) (v) : (b.setCtx k v).alert = b.alert := rfl
@[simp] theorem Block.setCtx_straps (b : Block) (k) (v) : (b.setCtx k v).straps = b.straps := rfl
@[simp] theorem Block.setCtx_hubLost (b : Block) (k) (v) : (b.setCtx k v).hubLost = b.hubLost := rfl
@[simp] theorem Block.setCtx_draining (b : Block) (k) (v) : (b.setCtx k v).draining = b.draining := rfl
@[simp] theorem Block.setCtx_drained (b : Block) (k) (v) : (b.setCtx k v).drained = b.drained := rfl
@[simp] theorem Block.setCtx_a2Exiting (b : Block) (k) (v) : (b.setCtx k v).a2Exiting = b.a2Exiting := rfl
@[simp] theorem Block.setCtx_handlesLost (b : Block) (k) (v) : (b.setCtx k v).handlesLost = b.handlesLost := rfl
@[simp] theorem Block.setCtx_ready (b : Block) (k) (v) : (b.setCtx k v).ready = b.ready := rfl
@[simp] theorem Block.setCtx_bootStage (b : Block) (k) (v) : (b.setCtx k v).bootStage = b.bootStage := rfl
@[simp] theorem Block.setCtx_fallback (b : Block) (k) (v) : (b.setCtx k v).fallback = b.fallback := rfl
@[simp] theorem Block.setCtx_secure (b : Block) (k) (v) : (b.setCtx k v).secure = b.secure := rfl
@[simp] theorem Block.setCtx_bar2Err (b : Block) (k) (v) : (b.setCtx k v).bar2Err = b.bar2Err := rfl
@[simp] theorem Block.setCtx_cellErr (b : Block) (k) (v) : (b.setCtx k v).cellErr = b.cellErr := rfl
@[simp] theorem Block.setCtx_restarts (b : Block) (k) (v) : (b.setCtx k v).restarts = b.restarts := rfl
@[simp] theorem Block.setCtx_restarting (b : Block) (k) (v) : (b.setCtx k v).restarting = b.restarting := rfl
@[simp] theorem Block.setCtx_fwVersion (b : Block) (k) (v) : (b.setCtx k v).fwVersion = b.fwVersion := rfl
@[simp] theorem Block.setCtx_fwSvn (b : Block) (k) (v) : (b.setCtx k v).fwSvn = b.fwSvn := rfl
@[simp] theorem Block.setCtx_runSlot (b : Block) (k) (v) : (b.setCtx k v).runSlot = b.runSlot := rfl
@[simp] theorem Block.setCtx_runTrial (b : Block) (k) (v) : (b.setCtx k v).runTrial = b.runTrial := rfl
@[simp] theorem Block.setCtx_flashWork (b : Block) (k) (v) : (b.setCtx k v).flashWork = b.flashWork := rfl
@[simp] theorem Block.setCtx_memoryDegraded (b : Block) (k) (v) : (b.setCtx k v).memoryDegraded = b.memoryDegraded := rfl
@[simp] theorem Block.setCtx_inservice (b : Block) (k) (v) : (b.setCtx k v).inservice = b.inservice := rfl
@[simp] theorem Block.setCtx_pcieWidth (b : Block) (k) (v) : (b.setCtx k v).pcieWidth = b.pcieWidth := rfl
@[simp] theorem Block.setCtx_pcieSpeed (b : Block) (k) (v) : (b.setCtx k v).pcieSpeed = b.pcieSpeed := rfl
@[simp] theorem Block.setCtx_linkDegraded (b : Block) (k) (v) : (b.setCtx k v).linkDegraded = b.linkDegraded := rfl
@[simp] theorem Block.setCtx_numVfs (b : Block) (k) (v) : (b.setCtx k v).numVfs = b.numVfs := rfl
@[simp] theorem Block.setCtx_jtagReset (b : Block) (k) (v) : (b.setCtx k v).jtagReset = b.jtagReset := rfl
@[simp] theorem Block.setCtx_time (b : Block) (k) (v) : (b.setCtx k v).time = b.time := rfl
@[simp] theorem Block.setCtx_ptp (b : Block) (k) (v) : (b.setCtx k v).ptp = b.ptp := rfl
@[simp] theorem Block.setCtx_freeCtr (b : Block) (k) (v) : (b.setCtx k v).freeCtr = b.freeCtr := rfl
@[simp] theorem Block.setCtx_bootTag (b : Block) (k) (v) : (b.setCtx k v).bootTag = b.bootTag := rfl
@[simp] theorem Block.setCtx_store (b : Block) (k) (v) : (b.setCtx k v).store = b.store := rfl
@[simp] theorem Block.setCtx_spindles (b : Block) (k) (v) : (b.setCtx k v).spindles = b.spindles := rfl
@[simp] theorem Block.setCtx_tiles (b : Block) (k) (v) : (b.setCtx k v).tiles = b.tiles := rfl
@[simp] theorem Block.setCtx_chans (b : Block) (k) (v) : (b.setCtx k v).chans = b.chans := rfl
@[simp] theorem Block.setCtx_outcomes (b : Block) (k) (v) : (b.setCtx k v).outcomes = b.outcomes := rfl
@[simp] theorem Block.setCtx_cells (b : Block) (k) (v) : (b.setCtx k v).cells = b.cells := rfl
@[simp] theorem Block.setCtx_sigs (b : Block) (k) (v) : (b.setCtx k v).sigs = b.sigs := rfl
@[simp] theorem Block.setCtx_dones (b : Block) (k) (v) : (b.setCtx k v).dones = b.dones := rfl
@[simp] theorem Block.setCtx_frozen (b : Block) (k) (v) : (b.setCtx k v).frozen = b.frozen := rfl
@[simp] theorem Block.setCtx_dumps (b : Block) (k) (v) : (b.setCtx k v).dumps = b.dumps := rfl
@[simp] theorem Block.setCtx_racks (b : Block) (k) (v) : (b.setCtx k v).racks = b.racks := rfl
@[simp] theorem Block.setCtx_nextResv (b : Block) (k) (v) : (b.setCtx k v).nextResv = b.nextResv := rfl
@[simp] theorem Block.setCtx_primary (b : Block) (k) (v) : (b.setCtx k v).primary = b.primary := rfl
@[simp] theorem Block.setCtx_faultQueue (b : Block) (k) (v) : (b.setCtx k v).faultQueue = b.faultQueue := rfl
@[simp] theorem Block.setCtx_spdMap (b : Block) (k) (v) : (b.setCtx k v).spdMap = b.spdMap := rfl
@[simp] theorem Block.setCtx_removed (b : Block) (k) (v) : (b.setCtx k v).removed = b.removed := rfl
@[simp] theorem Block.setCtx_tables (b : Block) (k) (v) : (b.setCtx k v).tables = b.tables := rfl
@[simp] theorem Block.setCtx_readers (b : Block) (k) (v) : (b.setCtx k v).readers = b.readers := rfl
@[simp] theorem Block.setCtx_burlReaders (b : Block) (k) (v) : (b.setCtx k v).burlReaders = b.burlReaders := rfl
@[simp] theorem Block.setCtx_pins (b : Block) (k) (v) : (b.setCtx k v).pins = b.pins := rfl
@[simp] theorem Block.setCtx_tagStores (b : Block) (k) (v) : (b.setCtx k v).tagStores = b.tagStores := rfl
@[simp] theorem Block.setCtx_streamTable (b : Block) (k) (v) : (b.setCtx k v).streamTable = b.streamTable := rfl
@[simp] theorem Block.setCtx_streams (b : Block) (k) (v) : (b.setCtx k v).streams = b.streams := rfl
@[simp] theorem Block.setCtx_streamLru (b : Block) (k) (v) : (b.setCtx k v).streamLru = b.streamLru := rfl
@[simp] theorem Block.setCtx_krfUdpPort (b : Block) (k) (v) : (b.setCtx k v).krfUdpPort = b.krfUdpPort := rfl
@[simp] theorem Block.setCtx_krfDscpData (b : Block) (k) (v) : (b.setCtx k v).krfDscpData = b.krfDscpData := rfl
@[simp] theorem Block.setCtx_krfDscpCtrl (b : Block) (k) (v) : (b.setCtx k v).krfDscpCtrl = b.krfDscpCtrl := rfl
@[simp] theorem Block.setCtx_deviceAddr (b : Block) (k) (v) : (b.setCtx k v).deviceAddr = b.deviceAddr := rfl
@[simp] theorem Block.setCtx_ports (b : Block) (k) (v) : (b.setCtx k v).ports = b.ports := rfl
@[simp] theorem Block.setCtx_neighbours (b : Block) (k) (v) : (b.setCtx k v).neighbours = b.neighbours := rfl
@[simp] theorem Block.setCtx_conns (b : Block) (k) (v) : (b.setCtx k v).conns = b.conns := rfl
@[simp] theorem Block.setCtx_chains (b : Block) (k) (v) : (b.setCtx k v).chains = b.chains := rfl
@[simp] theorem Block.setCtx_sweeps (b : Block) (k) (v) : (b.setCtx k v).sweeps = b.sweeps := rfl
@[simp] theorem Block.setCtx_rings (b : Block) (k) (v) : (b.setCtx k v).rings = b.rings := rfl
@[simp] theorem Block.setCtx_funcs (b : Block) (k) (v) : (b.setCtx k v).funcs = b.funcs := rfl
@[simp] theorem Block.setCtx_notifies (b : Block) (k) (v) : (b.setCtx k v).notifies = b.notifies := rfl
@[simp] theorem Block.setCtx_trace (b : Block) (k) (v) : (b.setCtx k v).trace = b.trace := rfl
@[simp] theorem Block.setCtx_cnt (b : Block) (k) (v) : (b.setCtx k v).cnt = b.cnt := rfl
@[simp] theorem Block.setCtx_cal (b : Block) (k) (v) : (b.setCtx k v).cal = b.cal := rfl
@[simp] theorem Block.setCtx_memUeThreshold (b : Block) (k) (v) : (b.setCtx k v).memUeThreshold = b.memUeThreshold := rfl
@[simp] theorem Block.setCtx_memUeWindowH (b : Block) (k) (v) : (b.setCtx k v).memUeWindowH = b.memUeWindowH := rfl
@[simp] theorem Block.setCtx_memScrubHbmH (b : Block) (k) (v) : (b.setCtx k v).memScrubHbmH = b.memScrubHbmH := rfl
@[simp] theorem Block.setCtx_memScrubDeepH (b : Block) (k) (v) : (b.setCtx k v).memScrubDeepH = b.memScrubDeepH := rfl
@[simp] theorem Block.setCtx_memScrubEn (b : Block) (k) (v) : (b.setCtx k v).memScrubEn = b.memScrubEn := rfl
@[simp] theorem Block.setCtx_keepShare (b : Block) (k) (v) : (b.setCtx k v).keepShare = b.keepShare := rfl
@[simp] theorem Block.setCtx_sramCe (b : Block) (k) (v) : (b.setCtx k v).sramCe = b.sramCe := rfl
@[simp] theorem Block.setCtx_vrFailed (b : Block) (k) (v) : (b.setCtx k v).vrFailed = b.vrFailed := rfl
@[simp] theorem Block.setCtx_hostReads (b : Block) (k) (v) : (b.setCtx k v).hostReads = b.hostReads := rfl
@[simp] theorem Block.setCtx_hubBuf (b : Block) (k) (v) : (b.setCtx k v).hubBuf = b.hubBuf := rfl
@[simp] theorem Block.setCtx_hostOut (b : Block) (k) (v) : (b.setCtx k v).hostOut = b.hostOut := rfl
@[simp] theorem Block.setCtx_msix (b : Block) (k) (v) : (b.setCtx k v).msix = b.msix := rfl
@[simp] theorem Block.setCtx_txOut (b : Block) (k) (v) : (b.setCtx k v).txOut = b.txOut := rfl
@[simp] theorem Block.setCtx_resp (b : Block) (k) (v) : (b.setCtx k v).resp = b.resp := rfl
@[simp] theorem Block.setCtx_mctpOut (b : Block) (k) (v) : (b.setCtx k v).mctpOut = b.mctpOut := rfl
@[simp] theorem Block.setCtx_boot (b : Block) (k) (v) : (b.setCtx k v).boot = b.boot := rfl
@[simp] theorem Block.setCtx_measured (b : Block) (k) (v) : (b.setCtx k v).measured = b.measured := rfl
@[simp] theorem Block.setCtx_hubLater (b : Block) (k) (v) : (b.setCtx k v).hubLater = b.hubLater := rfl
@[simp] theorem Block.setCtx_peerRegs (b : Block) (k) (v) : (b.setCtx k v).peerRegs = b.peerRegs := rfl
@[simp] theorem Block.setCtx_leaving (b : Block) (k) (v) : (b.setCtx k v).leaving = b.leaving := rfl
@[simp] theorem Block.setCtx_ringTurn (b : Block) (k) (v) : (b.setCtx k v).ringTurn = b.ringTurn := rfl
@[simp] theorem Block.setCtx_pfcOut (b : Block) (k) (v) : (b.setCtx k v).pfcOut = b.pfcOut := rfl
@[simp] theorem Block.setCtx_loopIn (b : Block) (k) (v) : (b.setCtx k v).loopIn = b.loopIn := rfl
@[simp] theorem Block.setCtx_stalled (b : Block) (k) (v) : (b.setCtx k v).stalled = b.stalled := rfl

@[simp] theorem Block.ctx_setCtx (b : Block) (k) (v) : (b.setCtx k v).ctx k = v := by simp [Block.ctx, Block.setCtx]

theorem Block.ctx_setCtx_ne (b : Block) {k j : Nat} (v) (h : j ≠ k) : (b.setCtx k v).ctx j = b.ctx j := by
  simp [Block.ctx, Block.setCtx, tget_tset_ne _ _ _ h]

@[simp] theorem Block.modCtx_ctx (b : Block) (k) (f) : (b.modCtx k f).ctx k = f (b.ctx k) := by simp [Block.modCtx]

theorem Block.modCtx_ctx_ne (b : Block) {k j : Nat} (f) (h : j ≠ k) : (b.modCtx k f).ctx j = b.ctx j :=
  b.ctx_setCtx_ne _ h

/-! ### Ring -/

@[simp] theorem Block.setRing_power (b : Block) (k) (v) : (b.setRing k v).power = b.power := rfl
@[simp] theorem Block.setRing_pwrGood (b : Block) (k) (v) : (b.setRing k v).pwrGood = b.pwrGood := rfl
@[simp] theorem Block.setRing_perst (b : Block) (k) (v) : (b.setRing k v).perst = b.perst := rfl
@[simp] theorem Block.setRing_auxGood (b : Block) (k) (v) : (b.setRing k v).auxGood = b.auxGood := rfl
@[simp] theorem Block.setRing_mainOn (b : Block) (k) (v) : (b.setRing k v).mainOn = b.mainOn := rfl
@[simp] theorem Block.setRing_thermtripPin (b : Block) (k) (v) : (b.setRing k v).thermtripPin = b.thermtripPin := rfl
@[simp] theorem Block.setRing_wake (b : Block) (k) (v) : (b.setRing k v).wake = b.wake := rfl
@[simp] theorem Block.setRing_alert (b : Block) (k) (v) : (b.setRing k v).alert = b.alert := rfl
@[simp] theorem Block.setRing_straps (b : Block) (k) (v) : (b.setRing k v).straps = b.straps := rfl
@[simp] theorem Block.setRing_hubLost (b : Block) (k) (v) : (b.setRing k v).hubLost = b.hubLost := rfl
@[simp] theorem Block.setRing_draining (b : Block) (k) (v) : (b.setRing k v).draining = b.draining := rfl
@[simp] theorem Block.setRing_drained (b : Block) (k) (v) : (b.setRing k v).drained = b.drained := rfl
@[simp] theorem Block.setRing_a2Exiting (b : Block) (k) (v) : (b.setRing k v).a2Exiting = b.a2Exiting := rfl
@[simp] theorem Block.setRing_handlesLost (b : Block) (k) (v) : (b.setRing k v).handlesLost = b.handlesLost := rfl
@[simp] theorem Block.setRing_ready (b : Block) (k) (v) : (b.setRing k v).ready = b.ready := rfl
@[simp] theorem Block.setRing_bootStage (b : Block) (k) (v) : (b.setRing k v).bootStage = b.bootStage := rfl
@[simp] theorem Block.setRing_fallback (b : Block) (k) (v) : (b.setRing k v).fallback = b.fallback := rfl
@[simp] theorem Block.setRing_secure (b : Block) (k) (v) : (b.setRing k v).secure = b.secure := rfl
@[simp] theorem Block.setRing_bar2Err (b : Block) (k) (v) : (b.setRing k v).bar2Err = b.bar2Err := rfl
@[simp] theorem Block.setRing_cellErr (b : Block) (k) (v) : (b.setRing k v).cellErr = b.cellErr := rfl
@[simp] theorem Block.setRing_restarts (b : Block) (k) (v) : (b.setRing k v).restarts = b.restarts := rfl
@[simp] theorem Block.setRing_restarting (b : Block) (k) (v) : (b.setRing k v).restarting = b.restarting := rfl
@[simp] theorem Block.setRing_fwVersion (b : Block) (k) (v) : (b.setRing k v).fwVersion = b.fwVersion := rfl
@[simp] theorem Block.setRing_fwSvn (b : Block) (k) (v) : (b.setRing k v).fwSvn = b.fwSvn := rfl
@[simp] theorem Block.setRing_runSlot (b : Block) (k) (v) : (b.setRing k v).runSlot = b.runSlot := rfl
@[simp] theorem Block.setRing_runTrial (b : Block) (k) (v) : (b.setRing k v).runTrial = b.runTrial := rfl
@[simp] theorem Block.setRing_flashWork (b : Block) (k) (v) : (b.setRing k v).flashWork = b.flashWork := rfl
@[simp] theorem Block.setRing_memoryDegraded (b : Block) (k) (v) : (b.setRing k v).memoryDegraded = b.memoryDegraded := rfl
@[simp] theorem Block.setRing_inservice (b : Block) (k) (v) : (b.setRing k v).inservice = b.inservice := rfl
@[simp] theorem Block.setRing_pcieWidth (b : Block) (k) (v) : (b.setRing k v).pcieWidth = b.pcieWidth := rfl
@[simp] theorem Block.setRing_pcieSpeed (b : Block) (k) (v) : (b.setRing k v).pcieSpeed = b.pcieSpeed := rfl
@[simp] theorem Block.setRing_linkDegraded (b : Block) (k) (v) : (b.setRing k v).linkDegraded = b.linkDegraded := rfl
@[simp] theorem Block.setRing_numVfs (b : Block) (k) (v) : (b.setRing k v).numVfs = b.numVfs := rfl
@[simp] theorem Block.setRing_jtagReset (b : Block) (k) (v) : (b.setRing k v).jtagReset = b.jtagReset := rfl
@[simp] theorem Block.setRing_time (b : Block) (k) (v) : (b.setRing k v).time = b.time := rfl
@[simp] theorem Block.setRing_ptp (b : Block) (k) (v) : (b.setRing k v).ptp = b.ptp := rfl
@[simp] theorem Block.setRing_freeCtr (b : Block) (k) (v) : (b.setRing k v).freeCtr = b.freeCtr := rfl
@[simp] theorem Block.setRing_bootTag (b : Block) (k) (v) : (b.setRing k v).bootTag = b.bootTag := rfl
@[simp] theorem Block.setRing_store (b : Block) (k) (v) : (b.setRing k v).store = b.store := rfl
@[simp] theorem Block.setRing_spindles (b : Block) (k) (v) : (b.setRing k v).spindles = b.spindles := rfl
@[simp] theorem Block.setRing_tiles (b : Block) (k) (v) : (b.setRing k v).tiles = b.tiles := rfl
@[simp] theorem Block.setRing_chans (b : Block) (k) (v) : (b.setRing k v).chans = b.chans := rfl
@[simp] theorem Block.setRing_outcomes (b : Block) (k) (v) : (b.setRing k v).outcomes = b.outcomes := rfl
@[simp] theorem Block.setRing_cells (b : Block) (k) (v) : (b.setRing k v).cells = b.cells := rfl
@[simp] theorem Block.setRing_sigs (b : Block) (k) (v) : (b.setRing k v).sigs = b.sigs := rfl
@[simp] theorem Block.setRing_dones (b : Block) (k) (v) : (b.setRing k v).dones = b.dones := rfl
@[simp] theorem Block.setRing_frozen (b : Block) (k) (v) : (b.setRing k v).frozen = b.frozen := rfl
@[simp] theorem Block.setRing_dumps (b : Block) (k) (v) : (b.setRing k v).dumps = b.dumps := rfl
@[simp] theorem Block.setRing_ctxs (b : Block) (k) (v) : (b.setRing k v).ctxs = b.ctxs := rfl
@[simp] theorem Block.setRing_racks (b : Block) (k) (v) : (b.setRing k v).racks = b.racks := rfl
@[simp] theorem Block.setRing_nextResv (b : Block) (k) (v) : (b.setRing k v).nextResv = b.nextResv := rfl
@[simp] theorem Block.setRing_primary (b : Block) (k) (v) : (b.setRing k v).primary = b.primary := rfl
@[simp] theorem Block.setRing_faultQueue (b : Block) (k) (v) : (b.setRing k v).faultQueue = b.faultQueue := rfl
@[simp] theorem Block.setRing_spdMap (b : Block) (k) (v) : (b.setRing k v).spdMap = b.spdMap := rfl
@[simp] theorem Block.setRing_removed (b : Block) (k) (v) : (b.setRing k v).removed = b.removed := rfl
@[simp] theorem Block.setRing_tables (b : Block) (k) (v) : (b.setRing k v).tables = b.tables := rfl
@[simp] theorem Block.setRing_readers (b : Block) (k) (v) : (b.setRing k v).readers = b.readers := rfl
@[simp] theorem Block.setRing_burlReaders (b : Block) (k) (v) : (b.setRing k v).burlReaders = b.burlReaders := rfl
@[simp] theorem Block.setRing_pins (b : Block) (k) (v) : (b.setRing k v).pins = b.pins := rfl
@[simp] theorem Block.setRing_tagStores (b : Block) (k) (v) : (b.setRing k v).tagStores = b.tagStores := rfl
@[simp] theorem Block.setRing_streamTable (b : Block) (k) (v) : (b.setRing k v).streamTable = b.streamTable := rfl
@[simp] theorem Block.setRing_streams (b : Block) (k) (v) : (b.setRing k v).streams = b.streams := rfl
@[simp] theorem Block.setRing_streamLru (b : Block) (k) (v) : (b.setRing k v).streamLru = b.streamLru := rfl
@[simp] theorem Block.setRing_krfUdpPort (b : Block) (k) (v) : (b.setRing k v).krfUdpPort = b.krfUdpPort := rfl
@[simp] theorem Block.setRing_krfDscpData (b : Block) (k) (v) : (b.setRing k v).krfDscpData = b.krfDscpData := rfl
@[simp] theorem Block.setRing_krfDscpCtrl (b : Block) (k) (v) : (b.setRing k v).krfDscpCtrl = b.krfDscpCtrl := rfl
@[simp] theorem Block.setRing_deviceAddr (b : Block) (k) (v) : (b.setRing k v).deviceAddr = b.deviceAddr := rfl
@[simp] theorem Block.setRing_ports (b : Block) (k) (v) : (b.setRing k v).ports = b.ports := rfl
@[simp] theorem Block.setRing_neighbours (b : Block) (k) (v) : (b.setRing k v).neighbours = b.neighbours := rfl
@[simp] theorem Block.setRing_conns (b : Block) (k) (v) : (b.setRing k v).conns = b.conns := rfl
@[simp] theorem Block.setRing_chains (b : Block) (k) (v) : (b.setRing k v).chains = b.chains := rfl
@[simp] theorem Block.setRing_sweeps (b : Block) (k) (v) : (b.setRing k v).sweeps = b.sweeps := rfl
@[simp] theorem Block.setRing_funcs (b : Block) (k) (v) : (b.setRing k v).funcs = b.funcs := rfl
@[simp] theorem Block.setRing_notifies (b : Block) (k) (v) : (b.setRing k v).notifies = b.notifies := rfl
@[simp] theorem Block.setRing_trace (b : Block) (k) (v) : (b.setRing k v).trace = b.trace := rfl
@[simp] theorem Block.setRing_cnt (b : Block) (k) (v) : (b.setRing k v).cnt = b.cnt := rfl
@[simp] theorem Block.setRing_cal (b : Block) (k) (v) : (b.setRing k v).cal = b.cal := rfl
@[simp] theorem Block.setRing_memUeThreshold (b : Block) (k) (v) : (b.setRing k v).memUeThreshold = b.memUeThreshold := rfl
@[simp] theorem Block.setRing_memUeWindowH (b : Block) (k) (v) : (b.setRing k v).memUeWindowH = b.memUeWindowH := rfl
@[simp] theorem Block.setRing_memScrubHbmH (b : Block) (k) (v) : (b.setRing k v).memScrubHbmH = b.memScrubHbmH := rfl
@[simp] theorem Block.setRing_memScrubDeepH (b : Block) (k) (v) : (b.setRing k v).memScrubDeepH = b.memScrubDeepH := rfl
@[simp] theorem Block.setRing_memScrubEn (b : Block) (k) (v) : (b.setRing k v).memScrubEn = b.memScrubEn := rfl
@[simp] theorem Block.setRing_keepShare (b : Block) (k) (v) : (b.setRing k v).keepShare = b.keepShare := rfl
@[simp] theorem Block.setRing_sramCe (b : Block) (k) (v) : (b.setRing k v).sramCe = b.sramCe := rfl
@[simp] theorem Block.setRing_vrFailed (b : Block) (k) (v) : (b.setRing k v).vrFailed = b.vrFailed := rfl
@[simp] theorem Block.setRing_hostReads (b : Block) (k) (v) : (b.setRing k v).hostReads = b.hostReads := rfl
@[simp] theorem Block.setRing_hubBuf (b : Block) (k) (v) : (b.setRing k v).hubBuf = b.hubBuf := rfl
@[simp] theorem Block.setRing_hostOut (b : Block) (k) (v) : (b.setRing k v).hostOut = b.hostOut := rfl
@[simp] theorem Block.setRing_msix (b : Block) (k) (v) : (b.setRing k v).msix = b.msix := rfl
@[simp] theorem Block.setRing_txOut (b : Block) (k) (v) : (b.setRing k v).txOut = b.txOut := rfl
@[simp] theorem Block.setRing_resp (b : Block) (k) (v) : (b.setRing k v).resp = b.resp := rfl
@[simp] theorem Block.setRing_mctpOut (b : Block) (k) (v) : (b.setRing k v).mctpOut = b.mctpOut := rfl
@[simp] theorem Block.setRing_boot (b : Block) (k) (v) : (b.setRing k v).boot = b.boot := rfl
@[simp] theorem Block.setRing_measured (b : Block) (k) (v) : (b.setRing k v).measured = b.measured := rfl
@[simp] theorem Block.setRing_hubLater (b : Block) (k) (v) : (b.setRing k v).hubLater = b.hubLater := rfl
@[simp] theorem Block.setRing_peerRegs (b : Block) (k) (v) : (b.setRing k v).peerRegs = b.peerRegs := rfl
@[simp] theorem Block.setRing_leaving (b : Block) (k) (v) : (b.setRing k v).leaving = b.leaving := rfl
@[simp] theorem Block.setRing_ringTurn (b : Block) (k) (v) : (b.setRing k v).ringTurn = b.ringTurn := rfl
@[simp] theorem Block.setRing_pfcOut (b : Block) (k) (v) : (b.setRing k v).pfcOut = b.pfcOut := rfl
@[simp] theorem Block.setRing_loopIn (b : Block) (k) (v) : (b.setRing k v).loopIn = b.loopIn := rfl
@[simp] theorem Block.setRing_stalled (b : Block) (k) (v) : (b.setRing k v).stalled = b.stalled := rfl

@[simp] theorem Block.ring_setRing (b : Block) (k) (v) : (b.setRing k v).ring k = v := by simp [Block.ring, Block.setRing]

theorem Block.ring_setRing_ne (b : Block) {k j : Nat} (v) (h : j ≠ k) : (b.setRing k v).ring j = b.ring j := by
  simp [Block.ring, Block.setRing, tget_tset_ne _ _ _ h]

@[simp] theorem Block.modRing_ring (b : Block) (k) (f) : (b.modRing k f).ring k = f (b.ring k) := by simp [Block.modRing]

theorem Block.modRing_ring_ne (b : Block) {k j : Nat} (f) (h : j ≠ k) : (b.modRing k f).ring j = b.ring j :=
  b.ring_setRing_ne _ h

/-! ### Conn -/

@[simp] theorem Block.setConn_power (b : Block) (k) (v) : (b.setConn k v).power = b.power := rfl
@[simp] theorem Block.setConn_pwrGood (b : Block) (k) (v) : (b.setConn k v).pwrGood = b.pwrGood := rfl
@[simp] theorem Block.setConn_perst (b : Block) (k) (v) : (b.setConn k v).perst = b.perst := rfl
@[simp] theorem Block.setConn_auxGood (b : Block) (k) (v) : (b.setConn k v).auxGood = b.auxGood := rfl
@[simp] theorem Block.setConn_mainOn (b : Block) (k) (v) : (b.setConn k v).mainOn = b.mainOn := rfl
@[simp] theorem Block.setConn_thermtripPin (b : Block) (k) (v) : (b.setConn k v).thermtripPin = b.thermtripPin := rfl
@[simp] theorem Block.setConn_wake (b : Block) (k) (v) : (b.setConn k v).wake = b.wake := rfl
@[simp] theorem Block.setConn_alert (b : Block) (k) (v) : (b.setConn k v).alert = b.alert := rfl
@[simp] theorem Block.setConn_straps (b : Block) (k) (v) : (b.setConn k v).straps = b.straps := rfl
@[simp] theorem Block.setConn_hubLost (b : Block) (k) (v) : (b.setConn k v).hubLost = b.hubLost := rfl
@[simp] theorem Block.setConn_draining (b : Block) (k) (v) : (b.setConn k v).draining = b.draining := rfl
@[simp] theorem Block.setConn_drained (b : Block) (k) (v) : (b.setConn k v).drained = b.drained := rfl
@[simp] theorem Block.setConn_a2Exiting (b : Block) (k) (v) : (b.setConn k v).a2Exiting = b.a2Exiting := rfl
@[simp] theorem Block.setConn_handlesLost (b : Block) (k) (v) : (b.setConn k v).handlesLost = b.handlesLost := rfl
@[simp] theorem Block.setConn_ready (b : Block) (k) (v) : (b.setConn k v).ready = b.ready := rfl
@[simp] theorem Block.setConn_bootStage (b : Block) (k) (v) : (b.setConn k v).bootStage = b.bootStage := rfl
@[simp] theorem Block.setConn_fallback (b : Block) (k) (v) : (b.setConn k v).fallback = b.fallback := rfl
@[simp] theorem Block.setConn_secure (b : Block) (k) (v) : (b.setConn k v).secure = b.secure := rfl
@[simp] theorem Block.setConn_bar2Err (b : Block) (k) (v) : (b.setConn k v).bar2Err = b.bar2Err := rfl
@[simp] theorem Block.setConn_cellErr (b : Block) (k) (v) : (b.setConn k v).cellErr = b.cellErr := rfl
@[simp] theorem Block.setConn_restarts (b : Block) (k) (v) : (b.setConn k v).restarts = b.restarts := rfl
@[simp] theorem Block.setConn_restarting (b : Block) (k) (v) : (b.setConn k v).restarting = b.restarting := rfl
@[simp] theorem Block.setConn_fwVersion (b : Block) (k) (v) : (b.setConn k v).fwVersion = b.fwVersion := rfl
@[simp] theorem Block.setConn_fwSvn (b : Block) (k) (v) : (b.setConn k v).fwSvn = b.fwSvn := rfl
@[simp] theorem Block.setConn_runSlot (b : Block) (k) (v) : (b.setConn k v).runSlot = b.runSlot := rfl
@[simp] theorem Block.setConn_runTrial (b : Block) (k) (v) : (b.setConn k v).runTrial = b.runTrial := rfl
@[simp] theorem Block.setConn_flashWork (b : Block) (k) (v) : (b.setConn k v).flashWork = b.flashWork := rfl
@[simp] theorem Block.setConn_memoryDegraded (b : Block) (k) (v) : (b.setConn k v).memoryDegraded = b.memoryDegraded := rfl
@[simp] theorem Block.setConn_inservice (b : Block) (k) (v) : (b.setConn k v).inservice = b.inservice := rfl
@[simp] theorem Block.setConn_pcieWidth (b : Block) (k) (v) : (b.setConn k v).pcieWidth = b.pcieWidth := rfl
@[simp] theorem Block.setConn_pcieSpeed (b : Block) (k) (v) : (b.setConn k v).pcieSpeed = b.pcieSpeed := rfl
@[simp] theorem Block.setConn_linkDegraded (b : Block) (k) (v) : (b.setConn k v).linkDegraded = b.linkDegraded := rfl
@[simp] theorem Block.setConn_numVfs (b : Block) (k) (v) : (b.setConn k v).numVfs = b.numVfs := rfl
@[simp] theorem Block.setConn_jtagReset (b : Block) (k) (v) : (b.setConn k v).jtagReset = b.jtagReset := rfl
@[simp] theorem Block.setConn_time (b : Block) (k) (v) : (b.setConn k v).time = b.time := rfl
@[simp] theorem Block.setConn_ptp (b : Block) (k) (v) : (b.setConn k v).ptp = b.ptp := rfl
@[simp] theorem Block.setConn_freeCtr (b : Block) (k) (v) : (b.setConn k v).freeCtr = b.freeCtr := rfl
@[simp] theorem Block.setConn_bootTag (b : Block) (k) (v) : (b.setConn k v).bootTag = b.bootTag := rfl
@[simp] theorem Block.setConn_store (b : Block) (k) (v) : (b.setConn k v).store = b.store := rfl
@[simp] theorem Block.setConn_spindles (b : Block) (k) (v) : (b.setConn k v).spindles = b.spindles := rfl
@[simp] theorem Block.setConn_tiles (b : Block) (k) (v) : (b.setConn k v).tiles = b.tiles := rfl
@[simp] theorem Block.setConn_chans (b : Block) (k) (v) : (b.setConn k v).chans = b.chans := rfl
@[simp] theorem Block.setConn_outcomes (b : Block) (k) (v) : (b.setConn k v).outcomes = b.outcomes := rfl
@[simp] theorem Block.setConn_cells (b : Block) (k) (v) : (b.setConn k v).cells = b.cells := rfl
@[simp] theorem Block.setConn_sigs (b : Block) (k) (v) : (b.setConn k v).sigs = b.sigs := rfl
@[simp] theorem Block.setConn_dones (b : Block) (k) (v) : (b.setConn k v).dones = b.dones := rfl
@[simp] theorem Block.setConn_frozen (b : Block) (k) (v) : (b.setConn k v).frozen = b.frozen := rfl
@[simp] theorem Block.setConn_dumps (b : Block) (k) (v) : (b.setConn k v).dumps = b.dumps := rfl
@[simp] theorem Block.setConn_ctxs (b : Block) (k) (v) : (b.setConn k v).ctxs = b.ctxs := rfl
@[simp] theorem Block.setConn_racks (b : Block) (k) (v) : (b.setConn k v).racks = b.racks := rfl
@[simp] theorem Block.setConn_nextResv (b : Block) (k) (v) : (b.setConn k v).nextResv = b.nextResv := rfl
@[simp] theorem Block.setConn_primary (b : Block) (k) (v) : (b.setConn k v).primary = b.primary := rfl
@[simp] theorem Block.setConn_faultQueue (b : Block) (k) (v) : (b.setConn k v).faultQueue = b.faultQueue := rfl
@[simp] theorem Block.setConn_spdMap (b : Block) (k) (v) : (b.setConn k v).spdMap = b.spdMap := rfl
@[simp] theorem Block.setConn_removed (b : Block) (k) (v) : (b.setConn k v).removed = b.removed := rfl
@[simp] theorem Block.setConn_tables (b : Block) (k) (v) : (b.setConn k v).tables = b.tables := rfl
@[simp] theorem Block.setConn_readers (b : Block) (k) (v) : (b.setConn k v).readers = b.readers := rfl
@[simp] theorem Block.setConn_burlReaders (b : Block) (k) (v) : (b.setConn k v).burlReaders = b.burlReaders := rfl
@[simp] theorem Block.setConn_pins (b : Block) (k) (v) : (b.setConn k v).pins = b.pins := rfl
@[simp] theorem Block.setConn_tagStores (b : Block) (k) (v) : (b.setConn k v).tagStores = b.tagStores := rfl
@[simp] theorem Block.setConn_streamTable (b : Block) (k) (v) : (b.setConn k v).streamTable = b.streamTable := rfl
@[simp] theorem Block.setConn_streams (b : Block) (k) (v) : (b.setConn k v).streams = b.streams := rfl
@[simp] theorem Block.setConn_streamLru (b : Block) (k) (v) : (b.setConn k v).streamLru = b.streamLru := rfl
@[simp] theorem Block.setConn_krfUdpPort (b : Block) (k) (v) : (b.setConn k v).krfUdpPort = b.krfUdpPort := rfl
@[simp] theorem Block.setConn_krfDscpData (b : Block) (k) (v) : (b.setConn k v).krfDscpData = b.krfDscpData := rfl
@[simp] theorem Block.setConn_krfDscpCtrl (b : Block) (k) (v) : (b.setConn k v).krfDscpCtrl = b.krfDscpCtrl := rfl
@[simp] theorem Block.setConn_deviceAddr (b : Block) (k) (v) : (b.setConn k v).deviceAddr = b.deviceAddr := rfl
@[simp] theorem Block.setConn_ports (b : Block) (k) (v) : (b.setConn k v).ports = b.ports := rfl
@[simp] theorem Block.setConn_neighbours (b : Block) (k) (v) : (b.setConn k v).neighbours = b.neighbours := rfl
@[simp] theorem Block.setConn_chains (b : Block) (k) (v) : (b.setConn k v).chains = b.chains := rfl
@[simp] theorem Block.setConn_sweeps (b : Block) (k) (v) : (b.setConn k v).sweeps = b.sweeps := rfl
@[simp] theorem Block.setConn_rings (b : Block) (k) (v) : (b.setConn k v).rings = b.rings := rfl
@[simp] theorem Block.setConn_funcs (b : Block) (k) (v) : (b.setConn k v).funcs = b.funcs := rfl
@[simp] theorem Block.setConn_notifies (b : Block) (k) (v) : (b.setConn k v).notifies = b.notifies := rfl
@[simp] theorem Block.setConn_trace (b : Block) (k) (v) : (b.setConn k v).trace = b.trace := rfl
@[simp] theorem Block.setConn_cnt (b : Block) (k) (v) : (b.setConn k v).cnt = b.cnt := rfl
@[simp] theorem Block.setConn_cal (b : Block) (k) (v) : (b.setConn k v).cal = b.cal := rfl
@[simp] theorem Block.setConn_memUeThreshold (b : Block) (k) (v) : (b.setConn k v).memUeThreshold = b.memUeThreshold := rfl
@[simp] theorem Block.setConn_memUeWindowH (b : Block) (k) (v) : (b.setConn k v).memUeWindowH = b.memUeWindowH := rfl
@[simp] theorem Block.setConn_memScrubHbmH (b : Block) (k) (v) : (b.setConn k v).memScrubHbmH = b.memScrubHbmH := rfl
@[simp] theorem Block.setConn_memScrubDeepH (b : Block) (k) (v) : (b.setConn k v).memScrubDeepH = b.memScrubDeepH := rfl
@[simp] theorem Block.setConn_memScrubEn (b : Block) (k) (v) : (b.setConn k v).memScrubEn = b.memScrubEn := rfl
@[simp] theorem Block.setConn_keepShare (b : Block) (k) (v) : (b.setConn k v).keepShare = b.keepShare := rfl
@[simp] theorem Block.setConn_sramCe (b : Block) (k) (v) : (b.setConn k v).sramCe = b.sramCe := rfl
@[simp] theorem Block.setConn_vrFailed (b : Block) (k) (v) : (b.setConn k v).vrFailed = b.vrFailed := rfl
@[simp] theorem Block.setConn_hostReads (b : Block) (k) (v) : (b.setConn k v).hostReads = b.hostReads := rfl
@[simp] theorem Block.setConn_hubBuf (b : Block) (k) (v) : (b.setConn k v).hubBuf = b.hubBuf := rfl
@[simp] theorem Block.setConn_hostOut (b : Block) (k) (v) : (b.setConn k v).hostOut = b.hostOut := rfl
@[simp] theorem Block.setConn_msix (b : Block) (k) (v) : (b.setConn k v).msix = b.msix := rfl
@[simp] theorem Block.setConn_txOut (b : Block) (k) (v) : (b.setConn k v).txOut = b.txOut := rfl
@[simp] theorem Block.setConn_resp (b : Block) (k) (v) : (b.setConn k v).resp = b.resp := rfl
@[simp] theorem Block.setConn_mctpOut (b : Block) (k) (v) : (b.setConn k v).mctpOut = b.mctpOut := rfl
@[simp] theorem Block.setConn_boot (b : Block) (k) (v) : (b.setConn k v).boot = b.boot := rfl
@[simp] theorem Block.setConn_measured (b : Block) (k) (v) : (b.setConn k v).measured = b.measured := rfl
@[simp] theorem Block.setConn_hubLater (b : Block) (k) (v) : (b.setConn k v).hubLater = b.hubLater := rfl
@[simp] theorem Block.setConn_peerRegs (b : Block) (k) (v) : (b.setConn k v).peerRegs = b.peerRegs := rfl
@[simp] theorem Block.setConn_leaving (b : Block) (k) (v) : (b.setConn k v).leaving = b.leaving := rfl
@[simp] theorem Block.setConn_ringTurn (b : Block) (k) (v) : (b.setConn k v).ringTurn = b.ringTurn := rfl
@[simp] theorem Block.setConn_pfcOut (b : Block) (k) (v) : (b.setConn k v).pfcOut = b.pfcOut := rfl
@[simp] theorem Block.setConn_loopIn (b : Block) (k) (v) : (b.setConn k v).loopIn = b.loopIn := rfl
@[simp] theorem Block.setConn_stalled (b : Block) (k) (v) : (b.setConn k v).stalled = b.stalled := rfl

@[simp] theorem Block.conn_setConn (b : Block) (k) (v) : (b.setConn k v).conn k = v := by simp [Block.conn, Block.setConn]

theorem Block.conn_setConn_ne (b : Block) {k j : Nat} (v) (h : j ≠ k) : (b.setConn k v).conn j = b.conn j := by
  simp [Block.conn, Block.setConn, tget_tset_ne _ _ _ h]

@[simp] theorem Block.modConn_conn (b : Block) (k) (f) : (b.modConn k f).conn k = f (b.conn k) := by simp [Block.modConn]

theorem Block.modConn_conn_ne (b : Block) {k j : Nat} (f) (h : j ≠ k) : (b.modConn k f).conn j = b.conn j :=
  b.conn_setConn_ne _ h

/-! ### The issue of a word -/

@[simp] theorem Spindle.issued_inService (s : Spindle) : s.issued.inService = s.inService := rfl
@[simp] theorem Spindle.issued_spare (s : Spindle) : s.issued.spare = s.spare := rfl
@[simp] theorem Spindle.issued_faulted (s : Spindle) : s.issued.faulted = s.faulted := rfl
@[simp] theorem Spindle.issued_faultAt (s : Spindle) : s.issued.faultAt = s.faultAt := rfl
@[simp] theorem Spindle.issued_resetting (s : Spindle) : s.issued.resetting = s.resetting := rfl
@[simp] theorem Spindle.issued_resetDue (s : Spindle) : s.issued.resetDue = s.resetDue := rfl
@[simp] theorem Spindle.issued_cur (s : Spindle) : s.issued.cur = s.cur := rfl
@[simp] theorem Spindle.issued_started (s : Spindle) : s.issued.started = s.started := rfl
@[simp] theorem Spindle.issued_serial (s : Spindle) : s.issued.serial = s.serial := rfl
@[simp] theorem Spindle.issued_pre (s : Spindle) : s.issued.pre = s.pre := rfl
@[simp] theorem Spindle.issued_arriving (s : Spindle) : s.issued.arriving = s.arriving := rfl
@[simp] theorem Spindle.issued_sregs (s : Spindle) : s.issued.sregs = s.sregs := rfl
@[simp] theorem Spindle.issued_ibuf (s : Spindle) : s.issued.ibuf = s.ibuf := rfl
@[simp] theorem Spindle.issued_preCode (s : Spindle) : s.issued.preCode = s.preCode := rfl
@[simp] theorem Spindle.issued_flags (s : Spindle) : s.issued.flags = s.flags := rfl
@[simp] theorem Spindle.issued_matrixQ (s : Spindle) : s.issued.matrixQ = s.matrixQ := rfl
@[simp] theorem Spindle.issued_vectorQ (s : Spindle) : s.issued.vectorQ = s.vectorQ := rfl
@[simp] theorem Spindle.issued_loadQ (s : Spindle) : s.issued.loadQ = s.loadQ := rfl
@[simp] theorem Spindle.issued_storeQ (s : Spindle) : s.issued.storeQ = s.storeQ := rfl
@[simp] theorem Spindle.issued_gougeQ (s : Spindle) : s.issued.gougeQ = s.gougeQ := rfl
@[simp] theorem Spindle.issued_abandoned (s : Spindle) : s.issued.abandoned = s.abandoned := rfl
@[simp] theorem Spindle.issued_brs (s : Spindle) : s.issued.brs = s.brs := rfl
@[simp] theorem Spindle.issued_slds (s : Spindle) : s.issued.slds = s.slds := rfl
@[simp] theorem Spindle.issued_deferredSeq (s : Spindle) : s.issued.deferredSeq = s.deferredSeq := rfl
@[simp] theorem Spindle.issued_hold (s : Spindle) : s.issued.hold = s.hold := rfl
@[simp] theorem Spindle.issued_ending (s : Spindle) : s.issued.ending = s.ending := rfl
@[simp] theorem Spindle.issued_credit (s : Spindle) : s.issued.credit = s.credit := rfl
@[simp] theorem Spindle.issued_creditUnderflow (s : Spindle) : s.issued.creditUnderflow = s.creditUnderflow := rfl
@[simp] theorem Spindle.issued_haltReq (s : Spindle) : s.issued.haltReq = s.haltReq := rfl
@[simp] theorem Spindle.issued_halted (s : Spindle) : s.issued.halted = s.halted := rfl
@[simp] theorem Spindle.issued_debugEn (s : Spindle) : s.issued.debugEn = s.debugEn := rfl
@[simp] theorem Spindle.issued_wasteCycles (s : Spindle) : s.issued.wasteCycles = s.wasteCycles := rfl
@[simp] theorem Spindle.issued_wasteBytes (s : Spindle) : s.issued.wasteBytes = s.wasteBytes := rfl
@[simp] theorem Spindle.issued_faultStatus (s : Spindle) : s.issued.faultStatus = s.faultStatus := rfl
@[simp] theorem Spindle.issued_faultOpcode (s : Spindle) : s.issued.faultOpcode = s.faultOpcode := rfl
@[simp] theorem Spindle.issued_faultPc (s : Spindle) : s.issued.faultPc = s.faultPc := rfl
@[simp] theorem Spindle.issued_windows (s : Spindle) : s.issued.windows = s.windows := rfl
@[simp] theorem Spindle.issued_pagesHeld (s : Spindle) : s.issued.pagesHeld = s.pagesHeld := rfl
@[simp] theorem Spindle.issued_handles (s : Spindle) : s.issued.handles = s.handles := rfl
@[simp] theorem Spindle.issued_spad (s : Spindle) : s.issued.spad = s.spad := rfl
@[simp] theorem Spindle.issued_bowl (s : Spindle) : s.issued.bowl = s.bowl := rfl
@[simp] theorem Spindle.issued_bowlCtx (s : Spindle) : s.issued.bowlCtx = s.bowlCtx := rfl
@[simp] theorem Spindle.issued_gbuf (s : Spindle) : s.issued.gbuf = s.gbuf := rfl
@[simp] theorem Spindle.issued_bowlNext (s : Spindle) : s.issued.bowlNext = s.bowlNext := rfl
@[simp] theorem Spindle.issued_job (s : Spindle) : s.issued.job = s.job := rfl
@[simp] theorem Spindle.issued_held (s : Spindle) : s.issued.held = s.held := rfl
@[simp] theorem Spindle.issued_thief (s : Spindle) : s.issued.thief = s.thief := rfl
@[simp] theorem Spindle.issued_sessions (s : Spindle) : s.issued.sessions = s.sessions := rfl
@[simp] theorem Spindle.issued_gouge (s : Spindle) : s.issued.gouge = s.gouge := rfl
@[simp] theorem Spindle.issued_ldt (s : Spindle) : s.issued.ldt = s.ldt := rfl
@[simp] theorem Spindle.issued_staging (s : Spindle) : s.issued.staging = s.staging := rfl
@[simp] theorem Spindle.issued_stagingUsed (s : Spindle) : s.issued.stagingUsed = s.stagingUsed := rfl
@[simp] theorem Spindle.issued_overflow (s : Spindle) : s.issued.overflow = s.overflow := rfl
@[simp] theorem Spindle.issued_lateSigs (s : Spindle) : s.issued.lateSigs = s.lateSigs := rfl
@[simp] theorem Spindle.issued_regsns (s : Spindle) : s.issued.regsns = s.regsns := rfl
@[simp] theorem Spindle.issued_epochObs (s : Spindle) : s.issued.epochObs = s.epochObs := rfl
@[simp] theorem Spindle.issued_epochValid (s : Spindle) : s.issued.epochValid = s.epochValid := rfl
@[simp] theorem Spindle.issued_dirtyLog (s : Spindle) : s.issued.dirtyLog = s.dirtyLog := rfl
@[simp] theorem Spindle.issued_specEv (s : Spindle) : s.issued.specEv = s.specEv := rfl
@[simp] theorem Spindle.issued_cntSel (s : Spindle) : s.issued.cntSel = s.cntSel := rfl
@[simp] theorem Spindle.issued_cntProg (s : Spindle) : s.issued.cntProg = s.cntProg := rfl
@[simp] theorem Spindle.issued_cntTd (s : Spindle) : s.issued.cntTd = s.cntTd := rfl
@[simp] theorem Spindle.issued_lastServed (s : Spindle) : s.issued.lastServed = s.lastServed := rfl
@[simp] theorem Spindle.issued_pc (s : Spindle) : s.issued.pc = s.pc + 16 := rfl
@[simp] theorem Spindle.issued_nextIdx (s : Spindle) : s.issued.nextIdx = s.nextIdx + 1 := rfl
@[simp] theorem Spindle.issued_phases (s : Spindle) : s.issued.phases = s.phases := rfl
@[simp] theorem Spindle.issued_phaseMark (s : Spindle) : s.issued.phaseMark = s.phaseMark := rfl
@[simp] theorem Spindle.issued_stageWait (s : Spindle) : s.issued.stageWait = s.stageWait := rfl
@[simp] theorem Spindle.issued_fenceLines (s : Spindle) : s.issued.fenceLines = s.fenceLines := rfl
@[simp] theorem Spindle.issued_tally (s : Spindle) : s.issued.tally = s.tally := rfl
@[simp] theorem Spindle.issued_seqSlots (s : Spindle) : s.issued.seqSlots = s.seqSlots := rfl

theorem Block.advance_eq (b : Block) (p : Nat) : b.advance p = b.setSpd p (b.spd p).issued := rfl

/-! ### Engine queues -/

@[simp] theorem Spindle.queue_setQueue (s : Spindle) (e) (l) : (s.setQueue e l).queue e = l := by cases e <;> rfl

theorem Spindle.queue_setQueue_ne (s : Spindle) {e e' : Engine} (l) (h : e' ≠ e) : (s.setQueue e l).queue e' = s.queue e' := by
  cases e <;> cases e' <;> first | rfl | exact absurd rfl h

@[simp] theorem Spindle.setQueue_inService (s : Spindle) (e) (l) : (s.setQueue e l).inService = s.inService := by cases e <;> rfl
@[simp] theorem Spindle.setQueue_spare (s : Spindle) (e) (l) : (s.setQueue e l).spare = s.spare := by cases e <;> rfl
@[simp] theorem Spindle.setQueue_faulted (s : Spindle) (e) (l) : (s.setQueue e l).faulted = s.faulted := by cases e <;> rfl
@[simp] theorem Spindle.setQueue_faultAt (s : Spindle) (e) (l) : (s.setQueue e l).faultAt = s.faultAt := by cases e <;> rfl
@[simp] theorem Spindle.setQueue_resetting (s : Spindle) (e) (l) : (s.setQueue e l).resetting = s.resetting := by cases e <;> rfl
@[simp] theorem Spindle.setQueue_resetDue (s : Spindle) (e) (l) : (s.setQueue e l).resetDue = s.resetDue := by cases e <;> rfl
@[simp] theorem Spindle.setQueue_cur (s : Spindle) (e) (l) : (s.setQueue e l).cur = s.cur := by cases e <;> rfl
@[simp] theorem Spindle.setQueue_started (s : Spindle) (e) (l) : (s.setQueue e l).started = s.started := by cases e <;> rfl
@[simp] theorem Spindle.setQueue_serial (s : Spindle) (e) (l) : (s.setQueue e l).serial = s.serial := by cases e <;> rfl
@[simp] theorem Spindle.setQueue_pre (s : Spindle) (e) (l) : (s.setQueue e l).pre = s.pre := by cases e <;> rfl
@[simp] theorem Spindle.setQueue_arriving (s : Spindle) (e) (l) : (s.setQueue e l).arriving = s.arriving := by cases e <;> rfl
@[simp] theorem Spindle.setQueue_pc (s : Spindle) (e) (l) : (s.setQueue e l).pc = s.pc := by cases e <;> rfl
@[simp] theorem Spindle.setQueue_sregs (s : Spindle) (e) (l) : (s.setQueue e l).sregs = s.sregs := by cases e <;> rfl
@[simp] theorem Spindle.setQueue_ibuf (s : Spindle) (e) (l) : (s.setQueue e l).ibuf = s.ibuf := by cases e <;> rfl
@[simp] theorem Spindle.setQueue_preCode (s : Spindle) (e) (l) : (s.setQueue e l).preCode = s.preCode := by cases e <;> rfl
@[simp] theorem Spindle.setQueue_flags (s : Spindle) (e) (l) : (s.setQueue e l).flags = s.flags := by cases e <;> rfl
@[simp] theorem Spindle.setQueue_abandoned (s : Spindle) (e) (l) : (s.setQueue e l).abandoned = s.abandoned := by cases e <;> rfl
@[simp] theorem Spindle.setQueue_brs (s : Spindle) (e) (l) : (s.setQueue e l).brs = s.brs := by cases e <;> rfl
@[simp] theorem Spindle.setQueue_nextIdx (s : Spindle) (e) (l) : (s.setQueue e l).nextIdx = s.nextIdx := by cases e <;> rfl
@[simp] theorem Spindle.setQueue_slds (s : Spindle) (e) (l) : (s.setQueue e l).slds = s.slds := by cases e <;> rfl
@[simp] theorem Spindle.setQueue_deferredSeq (s : Spindle) (e) (l) : (s.setQueue e l).deferredSeq = s.deferredSeq := by cases e <;> rfl
@[simp] theorem Spindle.setQueue_hold (s : Spindle) (e) (l) : (s.setQueue e l).hold = s.hold := by cases e <;> rfl
@[simp] theorem Spindle.setQueue_ending (s : Spindle) (e) (l) : (s.setQueue e l).ending = s.ending := by cases e <;> rfl
@[simp] theorem Spindle.setQueue_credit (s : Spindle) (e) (l) : (s.setQueue e l).credit = s.credit := by cases e <;> rfl
@[simp] theorem Spindle.setQueue_creditUnderflow (s : Spindle) (e) (l) : (s.setQueue e l).creditUnderflow = s.creditUnderflow := by cases e <;> rfl
@[simp] theorem Spindle.setQueue_haltReq (s : Spindle) (e) (l) : (s.setQueue e l).haltReq = s.haltReq := by cases e <;> rfl
@[simp] theorem Spindle.setQueue_halted (s : Spindle) (e) (l) : (s.setQueue e l).halted = s.halted := by cases e <;> rfl
@[simp] theorem Spindle.setQueue_debugEn (s : Spindle) (e) (l) : (s.setQueue e l).debugEn = s.debugEn := by cases e <;> rfl
@[simp] theorem Spindle.setQueue_wasteCycles (s : Spindle) (e) (l) : (s.setQueue e l).wasteCycles = s.wasteCycles := by cases e <;> rfl
@[simp] theorem Spindle.setQueue_wasteBytes (s : Spindle) (e) (l) : (s.setQueue e l).wasteBytes = s.wasteBytes := by cases e <;> rfl
@[simp] theorem Spindle.setQueue_faultStatus (s : Spindle) (e) (l) : (s.setQueue e l).faultStatus = s.faultStatus := by cases e <;> rfl
@[simp] theorem Spindle.setQueue_faultOpcode (s : Spindle) (e) (l) : (s.setQueue e l).faultOpcode = s.faultOpcode := by cases e <;> rfl
@[simp] theorem Spindle.setQueue_faultPc (s : Spindle) (e) (l) : (s.setQueue e l).faultPc = s.faultPc := by cases e <;> rfl
@[simp] theorem Spindle.setQueue_windows (s : Spindle) (e) (l) : (s.setQueue e l).windows = s.windows := by cases e <;> rfl
@[simp] theorem Spindle.setQueue_pagesHeld (s : Spindle) (e) (l) : (s.setQueue e l).pagesHeld = s.pagesHeld := by cases e <;> rfl
@[simp] theorem Spindle.setQueue_handles (s : Spindle) (e) (l) : (s.setQueue e l).handles = s.handles := by cases e <;> rfl
@[simp] theorem Spindle.setQueue_spad (s : Spindle) (e) (l) : (s.setQueue e l).spad = s.spad := by cases e <;> rfl
@[simp] theorem Spindle.setQueue_bowl (s : Spindle) (e) (l) : (s.setQueue e l).bowl = s.bowl := by cases e <;> rfl
@[simp] theorem Spindle.setQueue_bowlCtx (s : Spindle) (e) (l) : (s.setQueue e l).bowlCtx = s.bowlCtx := by cases e <;> rfl
@[simp] theorem Spindle.setQueue_gbuf (s : Spindle) (e) (l) : (s.setQueue e l).gbuf = s.gbuf := by cases e <;> rfl
@[simp] theorem Spindle.setQueue_bowlNext (s : Spindle) (e) (l) : (s.setQueue e l).bowlNext = s.bowlNext := by cases e <;> rfl
@[simp] theorem Spindle.setQueue_job (s : Spindle) (e) (l) : (s.setQueue e l).job = s.job := by cases e <;> rfl
@[simp] theorem Spindle.setQueue_held (s : Spindle) (e) (l) : (s.setQueue e l).held = s.held := by cases e <;> rfl
@[simp] theorem Spindle.setQueue_thief (s : Spindle) (e) (l) : (s.setQueue e l).thief = s.thief := by cases e <;> rfl
@[simp] theorem Spindle.setQueue_sessions (s : Spindle) (e) (l) : (s.setQueue e l).sessions = s.sessions := by cases e <;> rfl
@[simp] theorem Spindle.setQueue_gouge (s : Spindle) (e) (l) : (s.setQueue e l).gouge = s.gouge := by cases e <;> rfl
@[simp] theorem Spindle.setQueue_ldt (s : Spindle) (e) (l) : (s.setQueue e l).ldt = s.ldt := by cases e <;> rfl
@[simp] theorem Spindle.setQueue_staging (s : Spindle) (e) (l) : (s.setQueue e l).staging = s.staging := by cases e <;> rfl
@[simp] theorem Spindle.setQueue_stagingUsed (s : Spindle) (e) (l) : (s.setQueue e l).stagingUsed = s.stagingUsed := by cases e <;> rfl
@[simp] theorem Spindle.setQueue_overflow (s : Spindle) (e) (l) : (s.setQueue e l).overflow = s.overflow := by cases e <;> rfl
@[simp] theorem Spindle.setQueue_lateSigs (s : Spindle) (e) (l) : (s.setQueue e l).lateSigs = s.lateSigs := by cases e <;> rfl
@[simp] theorem Spindle.setQueue_regsns (s : Spindle) (e) (l) : (s.setQueue e l).regsns = s.regsns := by cases e <;> rfl
@[simp] theorem Spindle.setQueue_epochObs (s : Spindle) (e) (l) : (s.setQueue e l).epochObs = s.epochObs := by cases e <;> rfl
@[simp] theorem Spindle.setQueue_epochValid (s : Spindle) (e) (l) : (s.setQueue e l).epochValid = s.epochValid := by cases e <;> rfl
@[simp] theorem Spindle.setQueue_dirtyLog (s : Spindle) (e) (l) : (s.setQueue e l).dirtyLog = s.dirtyLog := by cases e <;> rfl
@[simp] theorem Spindle.setQueue_specEv (s : Spindle) (e) (l) : (s.setQueue e l).specEv = s.specEv := by cases e <;> rfl
@[simp] theorem Spindle.setQueue_cntSel (s : Spindle) (e) (l) : (s.setQueue e l).cntSel = s.cntSel := by cases e <;> rfl
@[simp] theorem Spindle.setQueue_cntProg (s : Spindle) (e) (l) : (s.setQueue e l).cntProg = s.cntProg := by cases e <;> rfl
@[simp] theorem Spindle.setQueue_cntTd (s : Spindle) (e) (l) : (s.setQueue e l).cntTd = s.cntTd := by cases e <;> rfl
@[simp] theorem Spindle.setQueue_lastServed (s : Spindle) (e) (l) : (s.setQueue e l).lastServed = s.lastServed := by cases e <;> rfl
@[simp] theorem Spindle.setQueue_phases (s : Spindle) (e) (l) : (s.setQueue e l).phases = s.phases := by cases e <;> rfl
@[simp] theorem Spindle.setQueue_phaseMark (s : Spindle) (e) (l) : (s.setQueue e l).phaseMark = s.phaseMark := by cases e <;> rfl
@[simp] theorem Spindle.setQueue_stageWait (s : Spindle) (e) (l) : (s.setQueue e l).stageWait = s.stageWait := by cases e <;> rfl
@[simp] theorem Spindle.setQueue_fenceLines (s : Spindle) (e) (l) : (s.setQueue e l).fenceLines = s.fenceLines := by cases e <;> rfl
@[simp] theorem Spindle.setQueue_tally (s : Spindle) (e) (l) : (s.setQueue e l).tally = s.tally := by cases e <;> rfl
@[simp] theorem Spindle.setQueue_seqSlots (s : Spindle) (e) (l) : (s.setQueue e l).seqSlots = s.seqSlots := by cases e <;> rfl

end Sys2Proof.Machine
end

