-- ==== Sys2Proof/Laws/PerInstr.lean ====
section
/-!
SUPPORT. The family Ranges: for each command, the check of its operands says what the manual says of their ranges.
-/
namespace Sys2Proof.Laws

/-- The opcodes that Tables 3.1 and 3.3 and the engines' chapters assign, as first and last of each run. -/
def Ranges.assigned : List (Nat × Nat) :=
  [(0x00, 0x0C), (0x10, 0x12), (0x18, 0x1A), (0x20, 0x21), (0x2F, 0x32), (0x40, 0x40), (0x48, 0x4C), (0x60, 0x6A), (0x70, 0x73), (0x78, 0x7D), (0x80, 0x87), (0xA0, 0xA5), (0xC0, 0xC6), (0xE0, 0xE9), (0xF0, 0xF4)]

/-- What the manual asks of a command's operands beyond their types; nothing of a command that is not named. -/
def Ranges.Sound : Instr → Prop
  | .reservedOpcode _ w => ∀ r ∈ Ranges.assigned, w.toNat % 256 < r.1 ∨ r.2 < w.toNat % 256
  | .codeFetch _ line => ∃ k, line.toNat = 128 * k
  | .wcWrite _ _ _ _ data => data ≠ [] ∧ data.length ≤ 64
  | .hostBar2Read _ _ len => 0 < len ∧ len ≤ 4096
  | .hostBar2Write _ _ data _ => data ≠ [] ∧ data.length ≤ 4096
  | .calipersEstimate a => a.device.length = 10 ∧ ∀ k ∈ a.work, k.x.length = 10
  | .sensorRead tiles _ => tiles.length = 4
  | .vfEnable n => n ≠ 0
  | .bar2Resize gib => ∃ k, k ≤ 6 ∧ gib = 2 ^ k
  | .perstDeassert b => ∃ k, k ≤ 4 ∧ b.width = 2 ^ k
  | .pcieLinkNarrowed width _ => ∃ k, k ≤ 4 ∧ width = 2 ^ k
  | .functionLevelReset fn => fn ≠ 0
  | _ => True

/-- A command is well formed exactly where its operands are in range. -/
def Ranges.Statement (i : Instr) : Prop := i.wf = true ↔ Ranges.Sound i

theorem Ranges.reserved_iff (n : Nat) (h : n < 256) :
    reservedOp n = true ↔ ∀ r ∈ Ranges.assigned, n < r.1 ∨ r.2 < n := by
  simp only [reservedOp, Ranges.assigned, List.forall_mem_cons, List.not_mem_nil, Bool.or_eq_true, Bool.and_eq_true, decide_eq_true_eq,
    false_implies, implies_true, and_true]
  omega

theorem Ranges.bar2_iff (n : Nat) : bar2Size n = true ↔ ∃ k, k ≤ 6 ∧ n = 2 ^ k := by
  constructor
  · intro h
    simp only [bar2Size, List.contains_eq_mem, List.mem_cons, List.not_mem_nil, decide_eq_true_eq, or_false] at h
    rcases h with rfl | rfl | rfl | rfl | rfl | rfl | rfl
    exacts [⟨0, by decide⟩, ⟨1, by decide⟩, ⟨2, by decide⟩, ⟨3, by decide⟩, ⟨4, by decide⟩, ⟨5, by decide⟩, ⟨6, by decide⟩]
  · rintro ⟨k, hk, rfl⟩
    interval_cases k <;> decide

theorem Ranges.width_iff (n : Nat) : pcieWidthOk n = true ↔ ∃ k, k ≤ 4 ∧ n = 2 ^ k := by
  constructor
  · intro h
    simp only [pcieWidthOk, List.contains_eq_mem, List.mem_cons, List.not_mem_nil, decide_eq_true_eq, or_false] at h
    rcases h with rfl | rfl | rfl | rfl | rfl
    exacts [⟨0, by decide⟩, ⟨1, by decide⟩, ⟨2, by decide⟩, ⟨3, by decide⟩, ⟨4, by decide⟩]
  · rintro ⟨k, hk, rfl⟩
    interval_cases k <;> decide

theorem Ranges.data_iff (l : List Byte) (n : Nat) : (decide (1 ≤ l.length) && decide (l.length ≤ n)) = true ↔ l ≠ [] ∧ l.length ≤ n := by
  cases l <;> simp

theorem Ranges.blankStart (p : Spd) : Ranges.Statement (.blankStart p) := iff_of_true rfl trivial
theorem Ranges.codeFetch (p : Spd) (line : BitVec 48) : Ranges.Statement (.codeFetch p line) := by
  simp only [Ranges.Statement, Instr.wf, Ranges.Sound, decide_eq_true_eq]
  exact ⟨fun h => ⟨_, (Nat.mul_div_cancel' (Nat.dvd_of_mod_eq_zero h)).symm⟩, fun ⟨k, h⟩ => by omega⟩
theorem Ranges.reservedOpcode (p : Spd) (w : Word128) : Ranges.Statement (.reservedOpcode p w) :=
  Ranges.reserved_iff _ (Nat.mod_lt _ (by decide))
theorem Ranges.nop (p : Spd) (w : W120) : Ranges.Statement (.nop p w) := iff_of_true rfl trivial
theorem Ranges.add (p : Spd) (w : W120) : Ranges.Statement (.add p w) := iff_of_true rfl trivial
theorem Ranges.sub (p : Spd) (w : W120) : Ranges.Statement (.sub p w) := iff_of_true rfl trivial
theorem Ranges.and (p : Spd) (w : W120) : Ranges.Statement (.and p w) := iff_of_true rfl trivial
theorem Ranges.or (p : Spd) (w : W120) : Ranges.Statement (.or p w) := iff_of_true rfl trivial
theorem Ranges.xor (p : Spd) (w : W120) : Ranges.Statement (.xor p w) := iff_of_true rfl trivial
theorem Ranges.shl (p : Spd) (w : W120) : Ranges.Statement (.shl p w) := iff_of_true rfl trivial
theorem Ranges.shr (p : Spd) (w : W120) : Ranges.Statement (.shr p w) := iff_of_true rfl trivial
theorem Ranges.sra (p : Spd) (w : W120) : Ranges.Statement (.sra p w) := iff_of_true rfl trivial
theorem Ranges.mul (p : Spd) (w : W120) : Ranges.Statement (.mul p w) := iff_of_true rfl trivial
theorem Ranges.min (p : Spd) (w : W120) : Ranges.Statement (.min p w) := iff_of_true rfl trivial
theorem Ranges.max (p : Spd) (w : W120) : Ranges.Statement (.max p w) := iff_of_true rfl trivial
theorem Ranges.slt (p : Spd) (w : W120) : Ranges.Statement (.slt p w) := iff_of_true rfl trivial
theorem Ranges.li (p : Spd) (w : W120) : Ranges.Statement (.li p w) := iff_of_true rfl trivial
theorem Ranges.sld (p : Spd) (w : W120) : Ranges.Statement (.sld p w) := iff_of_true rfl trivial
theorem Ranges.sldResult (p : Spd) : Ranges.Statement (.sldResult p) := iff_of_true rfl trivial
theorem Ranges.sst (p : Spd) (w : W120) : Ranges.Statement (.sst p w) := iff_of_true rfl trivial
theorem Ranges.br (p : Spd) (w : W120) : Ranges.Statement (.br p w) := iff_of_true rfl trivial
theorem Ranges.brResolve (p : Spd) (k : Nat) : Ranges.Statement (.brResolve p k) := iff_of_true rfl trivial
theorem Ranges.engineAbandon (p : Spd) (e : Engine) (cycles : Nat) (bytes : Nat) : Ranges.Statement (.engineAbandon p e cycles bytes) := iff_of_true rfl trivial
theorem Ranges.jmp (p : Spd) (w : W120) : Ranges.Statement (.jmp p w) := iff_of_true rfl trivial
theorem Ranges.loop (p : Spd) (w : W120) : Ranges.Statement (.loop p w) := iff_of_true rfl trivial
theorem Ranges.fence (p : Spd) (w : W120) : Ranges.Statement (.fence p w) := iff_of_true rfl trivial
theorem Ranges.fenceComplete (p : Spd) : Ranges.Statement (.fenceComplete p) := iff_of_true rfl trivial
theorem Ranges.flag (p : Spd) (w : W120) : Ranges.Statement (.flag p w) := iff_of_true rfl trivial
theorem Ranges.retire (p : Spd) (w : W120) : Ranges.Statement (.retire p w) := iff_of_true rfl trivial
theorem Ranges.blankRetire (p : Spd) : Ranges.Statement (.blankRetire p) := iff_of_true rfl trivial
theorem Ranges.engineCmdBegin (p : Spd) (e : Engine) : Ranges.Statement (.engineCmdBegin p e) := iff_of_true rfl trivial
theorem Ranges.engineCmdComplete (p : Spd) (e : Engine) : Ranges.Statement (.engineCmdComplete p e) := iff_of_true rfl trivial
theorem Ranges.haltReq (who : Initiator) (p : Spd) : Ranges.Statement (.haltReq who p) := iff_of_true rfl trivial
theorem Ranges.sequencerHalt (p : Spd) : Ranges.Statement (.sequencerHalt p) := iff_of_true rfl trivial
theorem Ranges.haltResume (who : Initiator) (p : Spd) : Ranges.Statement (.haltResume who p) := iff_of_true rfl trivial
theorem Ranges.debugEn (who : Initiator) (p : Spd) (on : Bool) : Ranges.Statement (.debugEn who p on) := iff_of_true rfl trivial
theorem Ranges.spdSpindleReset (who : Initiator) (p : Spd) : Ranges.Statement (.spdSpindleReset who p) := iff_of_true rfl trivial
theorem Ranges.registerWrite (who : Initiator) (addr : Word64) (size : Nat) (val : Word64) : Ranges.Statement (.registerWrite who addr size val) := iff_of_true rfl trivial
theorem Ranges.debugAccess (who : Initiator) (addr : Word64) (size : Nat) (wr : Option Word64) : Ranges.Statement (.debugAccess who addr size wr) := iff_of_true rfl trivial
theorem Ranges.mtile (p : Spd) (w : W120) : Ranges.Statement (.mtile p w) := iff_of_true rfl trivial
theorem Ranges.weightTileLoad (p : Spd) : Ranges.Statement (.weightTileLoad p) := iff_of_true rfl trivial
theorem Ranges.bowlDrain (p : Spd) : Ranges.Statement (.bowlDrain p) := iff_of_true rfl trivial
theorem Ranges.nestVisit (p : Spd) : Ranges.Statement (.nestVisit p) := iff_of_true rfl trivial
theorem Ranges.vadd (p : Spd) (w : W120) : Ranges.Statement (.vadd p w) := iff_of_true rfl trivial
theorem Ranges.vsub (p : Spd) (w : W120) : Ranges.Statement (.vsub p w) := iff_of_true rfl trivial
theorem Ranges.vmul (p : Spd) (w : W120) : Ranges.Statement (.vmul p w) := iff_of_true rfl trivial
theorem Ranges.vfma (p : Spd) (w : W120) : Ranges.Statement (.vfma p w) := iff_of_true rfl trivial
theorem Ranges.vdiv (p : Spd) (w : W120) : Ranges.Statement (.vdiv p w) := iff_of_true rfl trivial
theorem Ranges.vsqrt (p : Spd) (w : W120) : Ranges.Statement (.vsqrt p w) := iff_of_true rfl trivial
theorem Ranges.vexp2 (p : Spd) (w : W120) : Ranges.Statement (.vexp2 p w) := iff_of_true rfl trivial
theorem Ranges.vlog2 (p : Spd) (w : W120) : Ranges.Statement (.vlog2 p w) := iff_of_true rfl trivial
theorem Ranges.vmin (p : Spd) (w : W120) : Ranges.Statement (.vmin p w) := iff_of_true rfl trivial
theorem Ranges.vmax (p : Spd) (w : W120) : Ranges.Statement (.vmax p w) := iff_of_true rfl trivial
theorem Ranges.vcvt (p : Spd) (w : W120) : Ranges.Statement (.vcvt p w) := iff_of_true rfl trivial
theorem Ranges.vrowsum (p : Spd) (w : W120) : Ranges.Statement (.vrowsum p w) := iff_of_true rfl trivial
theorem Ranges.vrowmax (p : Spd) (w : W120) : Ranges.Statement (.vrowmax p w) := iff_of_true rfl trivial
theorem Ranges.vrowmin (p : Spd) (w : W120) : Ranges.Statement (.vrowmin p w) := iff_of_true rfl trivial
theorem Ranges.vrowargmax (p : Spd) (w : W120) : Ranges.Statement (.vrowargmax p w) := iff_of_true rfl trivial
theorem Ranges.gatheringBufferFlush (p : Spd) (e : Engine) (sector : Nat) : Ranges.Statement (.gatheringBufferFlush p e sector) := iff_of_true rfl trivial
theorem Ranges.ld (p : Spd) (w : W120) : Ranges.Statement (.ld p w) := iff_of_true rfl trivial
theorem Ranges.ldt (p : Spd) (w : W120) : Ranges.Statement (.ldt p w) := iff_of_true rfl trivial
theorem Ranges.halloc (p : Spd) (w : W120) : Ranges.Statement (.halloc p w) := iff_of_true rfl trivial
theorem Ranges.hfreeLoad (p : Spd) (w : W120) : Ranges.Statement (.hfreeLoad p w) := iff_of_true rfl trivial
theorem Ranges.hfreeStore (p : Spd) (w : W120) : Ranges.Statement (.hfreeStore p w) := iff_of_true rfl trivial
theorem Ranges.handleFreed (p : Spd) (h : Fin 64) : Ranges.Statement (.handleFreed p h) := iff_of_true rfl trivial
theorem Ranges.kload (p : Spd) (w : W120) : Ranges.Statement (.kload p w) := iff_of_true rfl trivial
theorem Ranges.kget (p : Spd) (w : W120) : Ranges.Statement (.kget p w) := iff_of_true rfl trivial
theorem Ranges.st (p : Spd) (w : W120) : Ranges.Statement (.st p w) := iff_of_true rfl trivial
theorem Ranges.dcmaint (p : Spd) (w : W120) : Ranges.Statement (.dcmaint p w) := iff_of_true rfl trivial
theorem Ranges.ksave (p : Spd) (w : W120) : Ranges.Statement (.ksave p w) := iff_of_true rfl trivial
theorem Ranges.rpush (p : Spd) (w : W120) : Ranges.Statement (.rpush p w) := iff_of_true rfl trivial
theorem Ranges.kput (p : Spd) (w : W120) : Ranges.Statement (.kput p w) := iff_of_true rfl trivial
theorem Ranges.kchain (p : Spd) (w : W120) : Ranges.Statement (.kchain p w) := iff_of_true rfl trivial
theorem Ranges.dieCacheFill (t : TileId) : Ranges.Statement (.dieCacheFill t) := iff_of_true rfl trivial
theorem Ranges.dcRepartitionDone (t : TileId) : Ranges.Statement (.dcRepartitionDone t) := iff_of_true rfl trivial
theorem Ranges.ggather (p : Spd) (w : W120) : Ranges.Statement (.ggather p w) := iff_of_true rfl trivial
theorem Ranges.sizerBatchSorted (p : Spd) : Ranges.Statement (.sizerBatchSorted p) := iff_of_true rfl trivial
theorem Ranges.rowRequestReturn (p : Spd) (k : Nat) : Ranges.Statement (.rowRequestReturn p k) := iff_of_true rfl trivial
theorem Ranges.gscatter (p : Spd) (w : W120) : Ranges.Statement (.gscatter p w) := iff_of_true rfl trivial
theorem Ranges.gsettle (p : Spd) (w : W120) : Ranges.Statement (.gsettle p w) := iff_of_true rfl trivial
theorem Ranges.gburl (p : Spd) (w : W120) : Ranges.Statement (.gburl p w) := iff_of_true rfl trivial
theorem Ranges.gburlRefresh (p : Spd) : Ranges.Statement (.gburlRefresh p) := iff_of_true rfl trivial
theorem Ranges.ghfree (p : Spd) (w : W120) : Ranges.Statement (.ghfree p w) := iff_of_true rfl trivial
theorem Ranges.gexdisp (p : Spd) (w : W120) : Ranges.Statement (.gexdisp p w) := iff_of_true rfl trivial
theorem Ranges.gexret (p : Spd) (w : W120) : Ranges.Statement (.gexret p w) := iff_of_true rfl trivial
theorem Ranges.gexcomb (p : Spd) (w : W120) : Ranges.Statement (.gexcomb p w) := iff_of_true rfl trivial
theorem Ranges.gsample (p : Spd) (w : W120) : Ranges.Statement (.gsample p w) := iff_of_true rfl trivial
theorem Ranges.gsback (p : Spd) (w : W120) : Ranges.Statement (.gsback p w) := iff_of_true rfl trivial
theorem Ranges.vstage (p : Spd) (w : W120) : Ranges.Statement (.vstage p w) := iff_of_true rfl trivial
theorem Ranges.rowTagStore (k : Nat) : Ranges.Statement (.rowTagStore k) := iff_of_true rfl trivial
theorem Ranges.vadvance (p : Spd) (w : W120) : Ranges.Statement (.vadvance p w) := iff_of_true rfl trivial
theorem Ranges.vadvancePublish (p : Spd) : Ranges.Statement (.vadvancePublish p) := iff_of_true rfl trivial
theorem Ranges.vpin (p : Spd) (w : W120) : Ranges.Statement (.vpin p w) := iff_of_true rfl trivial
theorem Ranges.vpinRelease (p : Spd) (w : W120) : Ranges.Statement (.vpinRelease p w) := iff_of_true rfl trivial
theorem Ranges.vread (p : Spd) (w : W120) : Ranges.Statement (.vread p w) := iff_of_true rfl trivial
theorem Ranges.vepoch (p : Spd) (w : W120) : Ranges.Statement (.vepoch p w) := iff_of_true rfl trivial
theorem Ranges.rtile (p : Spd) (w : W120) : Ranges.Statement (.rtile p w) := iff_of_true rfl trivial
theorem Ranges.ftile (p : Spd) (w : W120) : Ranges.Statement (.ftile p w) := iff_of_true rfl trivial
theorem Ranges.stealTake (p : Spd) : Ranges.Statement (.stealTake p) := iff_of_true rfl trivial
theorem Ranges.hinit (p : Spd) (w : W120) : Ranges.Statement (.hinit p w) := iff_of_true rfl trivial
theorem Ranges.hmerge (p : Spd) (w : W120) : Ranges.Statement (.hmerge p w) := iff_of_true rfl trivial
theorem Ranges.hdrain (p : Spd) (w : W120) : Ranges.Statement (.hdrain p w) := iff_of_true rfl trivial
theorem Ranges.vmktile (p : Spd) (w : W120) : Ranges.Statement (.vmktile p w) := iff_of_true rfl trivial
theorem Ranges.vmktilea (p : Spd) (w : W120) : Ranges.Statement (.vmktilea p w) := iff_of_true rfl trivial
theorem Ranges.vmkrow (p : Spd) (w : W120) : Ranges.Statement (.vmkrow p w) := iff_of_true rfl trivial
theorem Ranges.vmkrowa (p : Spd) (w : W120) : Ranges.Statement (.vmkrowa p w) := iff_of_true rfl trivial
theorem Ranges.vmktopk (p : Spd) (w : W120) : Ranges.Statement (.vmktopk p w) := iff_of_true rfl trivial
theorem Ranges.vmklist (p : Spd) (w : W120) : Ranges.Statement (.vmklist p w) := iff_of_true rfl trivial
theorem Ranges.vmkor (p : Spd) (w : W120) : Ranges.Statement (.vmkor p w) := iff_of_true rfl trivial
theorem Ranges.vmkclr (p : Spd) (w : W120) : Ranges.Statement (.vmkclr p w) := iff_of_true rfl trivial
theorem Ranges.vrand (p : Spd) (w : W120) : Ranges.Statement (.vrand p w) := iff_of_true rfl trivial
theorem Ranges.vunif (p : Spd) (w : W120) : Ranges.Statement (.vunif p w) := iff_of_true rfl trivial
theorem Ranges.vsmax (p : Spd) (w : W120) : Ranges.Statement (.vsmax p w) := iff_of_true rfl trivial
theorem Ranges.vssum (p : Spd) (w : W120) : Ranges.Statement (.vssum p w) := iff_of_true rfl trivial
theorem Ranges.vsfin (p : Spd) (w : W120) : Ranges.Statement (.vsfin p w) := iff_of_true rfl trivial
theorem Ranges.vsscore (p : Spd) (w : W120) : Ranges.Statement (.vsscore p w) := iff_of_true rfl trivial
theorem Ranges.streamOpen (r : RingId) (e : Entry) : Ranges.Statement (.streamOpen r e) := iff_of_true rfl trivial
theorem Ranges.streamFork (r : RingId) (e : Entry) : Ranges.Statement (.streamFork r e) := iff_of_true rfl trivial
theorem Ranges.streamPause (r : RingId) (e : Entry) : Ranges.Statement (.streamPause r e) := iff_of_true rfl trivial
theorem Ranges.streamResume (r : RingId) (e : Entry) : Ranges.Statement (.streamResume r e) := iff_of_true rfl trivial
theorem Ranges.streamClose (r : RingId) (e : Entry) : Ranges.Statement (.streamClose r e) := iff_of_true rfl trivial
theorem Ranges.streamQuery (r : RingId) (e : Entry) : Ranges.Statement (.streamQuery r e) := iff_of_true rfl trivial
theorem Ranges.stepArm (r : RingId) (e : Entry) : Ranges.Statement (.stepArm r e) := iff_of_true rfl trivial
theorem Ranges.stepPrepare (c : CtxId) (lane : Fin 4) : Ranges.Statement (.stepPrepare c lane) := iff_of_true rfl trivial
theorem Ranges.stepCommit (c : CtxId) (lane : Fin 4) : Ranges.Statement (.stepCommit c lane) := iff_of_true rfl trivial
theorem Ranges.wcWrite (p : Spd) (e : Engine) (addr : Word64) (back : Bool) (data : List Byte) : Ranges.Statement (.wcWrite p e addr back data) :=
  Ranges.data_iff _ _
theorem Ranges.wcAgeFlush (t : TileId) (k : Nat) : Ranges.Statement (.wcAgeFlush t k) := iff_of_true rfl trivial
theorem Ranges.writeOutcome (k : Nat) : Ranges.Statement (.writeOutcome k) := iff_of_true rfl trivial
theorem Ranges.channelRequestAccept (ch : Chan) : Ranges.Statement (.channelRequestAccept ch) := iff_of_true rfl trivial
theorem Ranges.channelServe (ch : Chan) (found : LineFinding) : Ranges.Statement (.channelServe ch found) := iff_of_true rfl trivial
theorem Ranges.scrubLine (ch : Chan) (found : LineFinding) : Ranges.Statement (.scrubLine ch found) := iff_of_true rfl trivial
theorem Ranges.channelFailed (ch : Chan) : Ranges.Statement (.channelFailed ch) := iff_of_true rfl trivial
theorem Ranges.channelInitZero (ch : Chan) : Ranges.Statement (.channelInitZero ch) := iff_of_true rfl trivial
theorem Ranges.dispatchDecision (t : TileId) : Ranges.Statement (.dispatchDecision t) := iff_of_true rfl trivial
theorem Ranges.chuckArrival (p : Spd) : Ranges.Statement (.chuckArrival p) := iff_of_true rfl trivial
theorem Ranges.doneCellSignal (k : Nat) : Ranges.Statement (.doneCellSignal k) := iff_of_true rfl trivial
theorem Ranges.ssig (p : Spd) (w : W120) : Ranges.Statement (.ssig p w) := iff_of_true rfl trivial
theorem Ranges.swait (p : Spd) (w : W120) : Ranges.Statement (.swait p w) := iff_of_true rfl trivial
theorem Ranges.sread (p : Spd) (w : W120) : Ranges.Statement (.sread p w) := iff_of_true rfl trivial
theorem Ranges.cellSignalApply (t : TileId) : Ranges.Statement (.cellSignalApply t) := iff_of_true rfl trivial
theorem Ranges.cellPoll (x : Waiter) : Ranges.Statement (.cellPoll x) := iff_of_true rfl trivial
theorem Ranges.waitTimeout (x : Waiter) : Ranges.Statement (.waitTimeout x) := iff_of_true rfl trivial
theorem Ranges.syncDump (r : RingId) (e : Entry) : Ranges.Statement (.syncDump r e) := iff_of_true rfl trivial
theorem Ranges.syncDumpResume : Ranges.Statement (.syncDumpResume) := iff_of_true rfl trivial
theorem Ranges.headstockCellSet (who : Initiator) (addr : Word64) (size : Nat) (val : Word64) : Ranges.Statement (.headstockCellSet who addr size val) := iff_of_true rfl trivial
theorem Ranges.hostCellSet (fn : FnId) (off : Nat) (size : Nat) (val : Word64) : Ranges.Statement (.hostCellSet fn off size val) := iff_of_true rfl trivial
theorem Ranges.hostCellSignal (fn : FnId) (off : Nat) (size : Nat) (val : Word64) : Ranges.Statement (.hostCellSignal fn off size val) := iff_of_true rfl trivial
theorem Ranges.kerfWrite (f : Frame) : Ranges.Statement (.kerfWrite f) := iff_of_true rfl trivial
theorem Ranges.kerfReadReq (f : Frame) : Ranges.Statement (.kerfReadReq f) := iff_of_true rfl trivial
theorem Ranges.kerfReadResp (f : Frame) : Ranges.Statement (.kerfReadResp f) := iff_of_true rfl trivial
theorem Ranges.kerfAtomic (f : Frame) : Ranges.Statement (.kerfAtomic f) := iff_of_true rfl trivial
theorem Ranges.kerfSignal (f : Frame) : Ranges.Statement (.kerfSignal f) := iff_of_true rfl trivial
theorem Ranges.chainForward (f : Frame) : Ranges.Statement (.chainForward f) := iff_of_true rfl trivial
theorem Ranges.chainResult (f : Frame) : Ranges.Statement (.chainResult f) := iff_of_true rfl trivial
theorem Ranges.chainBreak (f : Frame) : Ranges.Statement (.chainBreak f) := iff_of_true rfl trivial
theorem Ranges.chainTimeout (k : Nat) : Ranges.Statement (.chainTimeout k) := iff_of_true rfl trivial
theorem Ranges.sweep (f : Frame) : Ranges.Statement (.sweep f) := iff_of_true rfl trivial
theorem Ranges.sweepTimeout (k : Nat) : Ranges.Statement (.sweepTimeout k) := iff_of_true rfl trivial
theorem Ranges.kerfAck (f : Frame) : Ranges.Statement (.kerfAck f) := iff_of_true rfl trivial
theorem Ranges.kerfNack (f : Frame) : Ranges.Statement (.kerfNack f) := iff_of_true rfl trivial
theorem Ranges.heartbeat (f : Frame) : Ranges.Statement (.heartbeat f) := iff_of_true rfl trivial
theorem Ranges.connect (f : Frame) : Ranges.Statement (.connect f) := iff_of_true rfl trivial
theorem Ranges.connectResp (f : Frame) : Ranges.Statement (.connectResp f) := iff_of_true rfl trivial
theorem Ranges.kerfUnknownType (f : Frame) : Ranges.Statement (.kerfUnknownType f) := iff_of_true rfl trivial
theorem Ranges.ackTimer (conn : Nat) : Ranges.Statement (.ackTimer conn) := iff_of_true rfl trivial
theorem Ranges.retransmitTimeout (conn : Nat) (seq : Word32) : Ranges.Statement (.retransmitTimeout conn seq) := iff_of_true rfl trivial
theorem Ranges.retryLaterResend (conn : Nat) (seq : Word32) : Ranges.Statement (.retryLaterResend conn seq) := iff_of_true rfl trivial
theorem Ranges.notArmedResend (conn : Nat) (seq : Word32) (expired : Bool) : Ranges.Statement (.notArmedResend conn seq expired) := iff_of_true rfl trivial
theorem Ranges.heartbeatSend : Ranges.Statement (.heartbeatSend) := iff_of_true rfl trivial
theorem Ranges.pathProbe : Ranges.Statement (.pathProbe) := iff_of_true rfl trivial
theorem Ranges.portDown (port : PortId) (lane : Bool) : Ranges.Statement (.portDown port lane) := iff_of_true rfl trivial
theorem Ranges.portUp (port : PortId) : Ranges.Statement (.portUp port) := iff_of_true rfl trivial
theorem Ranges.peerSilenceTimeout (conn : Nat) : Ranges.Statement (.peerSilenceTimeout conn) := iff_of_true rfl trivial
theorem Ranges.connectRetry (conn : Nat) (expired : Bool) : Ranges.Statement (.connectRetry conn expired) := iff_of_true rfl trivial
theorem Ranges.followLift : Ranges.Statement (.followLift) := iff_of_true rfl trivial
theorem Ranges.ptpServoUpdate (offset : Int) (locked : Bool) : Ranges.Statement (.ptpServoUpdate offset locked) := iff_of_true rfl trivial
theorem Ranges.ptpPortFailover (port : PortId) : Ranges.Statement (.ptpPortFailover port) := iff_of_true rfl trivial
theorem Ranges.ppsEdge : Ranges.Statement (.ppsEdge) := iff_of_true rfl trivial
theorem Ranges.doorbell (fn : FnId) (page : RingId) (val : Word32) : Ranges.Statement (.doorbell fn page val) := iff_of_true rfl trivial
theorem Ranges.ringEnable (fn : FnId) (page : RingId) : Ranges.Statement (.ringEnable fn page) := iff_of_true rfl trivial
theorem Ranges.ringDisable (fn : FnId) (page : RingId) : Ranges.Statement (.ringDisable fn page) := iff_of_true rfl trivial
theorem Ranges.commandFetch (r : RingId) (e : Entry) (ok : Bool) : Ranges.Statement (.commandFetch r e ok) := iff_of_true rfl trivial
theorem Ranges.unknownCommand (r : RingId) (e : Entry) : Ranges.Statement (.unknownCommand r e) := iff_of_true rfl trivial
theorem Ranges.identify (r : RingId) (e : Entry) : Ranges.Statement (.identify r e) := iff_of_true rfl trivial
theorem Ranges.devConfig (r : RingId) (e : Entry) : Ranges.Statement (.devConfig r e) := iff_of_true rfl trivial
theorem Ranges.bar2Map (r : RingId) (e : Entry) : Ranges.Statement (.bar2Map r e) := iff_of_true rfl trivial
theorem Ranges.netConfig (r : RingId) (e : Entry) : Ranges.Statement (.netConfig r e) := iff_of_true rfl trivial
theorem Ranges.memAdminCfg (r : RingId) (e : Entry) : Ranges.Statement (.memAdminCfg r e) := iff_of_true rfl trivial
theorem Ranges.memAdminClear (r : RingId) (e : Entry) : Ranges.Statement (.memAdminClear r e) := iff_of_true rfl trivial
theorem Ranges.memAdminDeepArb (r : RingId) (e : Entry) : Ranges.Statement (.memAdminDeepArb r e) := iff_of_true rfl trivial
theorem Ranges.tileConfig (r : RingId) (e : Entry) : Ranges.Statement (.tileConfig r e) := iff_of_true rfl trivial
theorem Ranges.ctxCreate (r : RingId) (e : Entry) : Ranges.Statement (.ctxCreate r e) := iff_of_true rfl trivial
theorem Ranges.ctxTeardown (r : RingId) (e : Entry) : Ranges.Statement (.ctxTeardown r e) := iff_of_true rfl trivial
theorem Ranges.teardownFinish (c : CtxId) : Ranges.Statement (.teardownFinish c) := iff_of_true rfl trivial
theorem Ranges.ctxWindow (r : RingId) (e : Entry) : Ranges.Statement (.ctxWindow r e) := iff_of_true rfl trivial
theorem Ranges.ctxPool (r : RingId) (e : Entry) : Ranges.Statement (.ctxPool r e) := iff_of_true rfl trivial
theorem Ranges.ctxCells (r : RingId) (e : Entry) : Ranges.Statement (.ctxCells r e) := iff_of_true rfl trivial
theorem Ranges.ctxSched (r : RingId) (e : Entry) : Ranges.Statement (.ctxSched r e) := iff_of_true rfl trivial
theorem Ranges.spdPrimary (r : RingId) (e : Entry) : Ranges.Statement (.spdPrimary r e) := iff_of_true rfl trivial
theorem Ranges.traceConfig (r : RingId) (e : Entry) : Ranges.Statement (.traceConfig r e) := iff_of_true rfl trivial
theorem Ranges.spindleReset (r : RingId) (e : Entry) : Ranges.Statement (.spindleReset r e) := iff_of_true rfl trivial
theorem Ranges.spindleResetDone (p : Spd) : Ranges.Statement (.spindleResetDone p) := iff_of_true rfl trivial
theorem Ranges.headstockRestart (r : RingId) (e : Entry) : Ranges.Statement (.headstockRestart r e) := iff_of_true rfl trivial
theorem Ranges.headstockRestartDone : Ranges.Statement (.headstockRestartDone) := iff_of_true rfl trivial
theorem Ranges.tableRegister (r : RingId) (e : Entry) : Ranges.Statement (.tableRegister r e) := iff_of_true rfl trivial
theorem Ranges.tableRelease (r : RingId) (e : Entry) : Ranges.Statement (.tableRelease r e) := iff_of_true rfl trivial
theorem Ranges.blankPush (r : RingId) (e : Entry) : Ranges.Statement (.blankPush r e) := iff_of_true rfl trivial
theorem Ranges.jobJoin (r : RingId) (e : Entry) : Ranges.Statement (.jobJoin r e) := iff_of_true rfl trivial
theorem Ranges.jobLeave (r : RingId) (e : Entry) : Ranges.Statement (.jobLeave r e) := iff_of_true rfl trivial
theorem Ranges.peerReadmit (r : RingId) (e : Entry) : Ranges.Statement (.peerReadmit r e) := iff_of_true rfl trivial
theorem Ranges.jobSet (r : RingId) (e : Entry) : Ranges.Statement (.jobSet r e) := iff_of_true rfl trivial
theorem Ranges.sweepArm (r : RingId) (e : Entry) : Ranges.Statement (.sweepArm r e) := iff_of_true rfl trivial
theorem Ranges.counterSnapshot (r : RingId) (e : Entry) : Ranges.Statement (.counterSnapshot r e) := iff_of_true rfl trivial
theorem Ranges.cellNotify (r : RingId) (e : Entry) : Ranges.Statement (.cellNotify r e) := iff_of_true rfl trivial
theorem Ranges.cellNotifyFire (fn : FnId) (vec : Fin 64) : Ranges.Statement (.cellNotifyFire fn vec) := iff_of_true rfl trivial
theorem Ranges.powerLimits (r : RingId) (e : Entry) : Ranges.Statement (.powerLimits r e) := iff_of_true rfl trivial
theorem Ranges.phasePoint (r : RingId) (e : Entry) : Ranges.Statement (.phasePoint r e) := iff_of_true rfl trivial
theorem Ranges.energyRead (r : RingId) (e : Entry) : Ranges.Statement (.energyRead r e) := iff_of_true rfl trivial
theorem Ranges.fwStage (r : RingId) (e : Entry) (data : List Byte) : Ranges.Statement (.fwStage r e data) := iff_of_true rfl trivial
theorem Ranges.fwCommit (r : RingId) (e : Entry) : Ranges.Statement (.fwCommit r e) := iff_of_true rfl trivial
theorem Ranges.fwActivate (r : RingId) (e : Entry) : Ranges.Statement (.fwActivate r e) := iff_of_true rfl trivial
theorem Ranges.fwActivateNow (r : RingId) (e : Entry) : Ranges.Statement (.fwActivateNow r e) := iff_of_true rfl trivial
theorem Ranges.fwConfirm (r : RingId) (e : Entry) : Ranges.Statement (.fwConfirm r e) := iff_of_true rfl trivial
theorem Ranges.attest (r : RingId) (e : Entry) : Ranges.Statement (.attest r e) := iff_of_true rfl trivial
theorem Ranges.hostBar2Read (fn : FnId) (off : Nat) (len : Nat) : Ranges.Statement (.hostBar2Read fn off len) := by
  simp [Ranges.Statement, Instr.wf, Ranges.Sound, Nat.pos_iff_ne_zero]; omega
theorem Ranges.hostBar2Write (fn : FnId) (off : Nat) (data : List Byte) (ep : Bool) : Ranges.Statement (.hostBar2Write fn off data ep) :=
  Ranges.data_iff _ _
theorem Ranges.bootReady : Ranges.Statement (.bootReady) := iff_of_true rfl trivial
theorem Ranges.trialBootTimeout : Ranges.Statement (.trialBootTimeout) := iff_of_true rfl trivial
theorem Ranges.calipersEstimate (a : Activity) : Ranges.Statement (.calipersEstimate a) := by
  simp [Ranges.Statement, Instr.wf, Ranges.Sound]
theorem Ranges.inputEnergySample (microjoules : Nat) : Ranges.Statement (.inputEnergySample microjoules) := iff_of_true rfl trivial
theorem Ranges.calibrationUpdate : Ranges.Statement (.calibrationUpdate) := iff_of_true rfl trivial
theorem Ranges.sensorLost : Ranges.Statement (.sensorLost) := iff_of_true rfl trivial
theorem Ranges.backstopRelease : Ranges.Statement (.backstopRelease) := iff_of_true rfl trivial
theorem Ranges.calipersDecision (busy : List BusyShare) : Ranges.Statement (.calipersDecision busy) := iff_of_true rfl trivial
theorem Ranges.railStep (mv : Nat) : Ranges.Statement (.railStep mv) := iff_of_true rfl trivial
theorem Ranges.sensorRead (tiles : List Nat) (hub : Nat) : Ranges.Statement (.sensorRead tiles hub) :=
  decide_eq_true_iff
theorem Ranges.thermalCeilingRise : Ranges.Statement (.thermalCeilingRise) := iff_of_true rfl trivial
theorem Ranges.thermtrip : Ranges.Statement (.thermtrip) := iff_of_true rfl trivial
theorem Ranges.configStoreSave : Ranges.Statement (.configStoreSave) := iff_of_true rfl trivial
theorem Ranges.snapshotLatch : Ranges.Statement (.snapshotLatch) := iff_of_true rfl trivial
theorem Ranges.snapshotImageWritten : Ranges.Statement (.snapshotImageWritten) := iff_of_true rfl trivial
theorem Ranges.portWindowBoundary : Ranges.Statement (.portWindowBoundary) := iff_of_true rfl trivial
theorem Ranges.cntFreeze (who : Initiator) (on : Bool) : Ranges.Statement (.cntFreeze who on) := iff_of_true rfl trivial
theorem Ranges.cntClrOvf (who : Initiator) : Ranges.Statement (.cntClrOvf who) := iff_of_true rfl trivial
theorem Ranges.cntClrCtx (who : Initiator) : Ranges.Statement (.cntClrCtx who) := iff_of_true rfl trivial
theorem Ranges.cntClrPort (who : Initiator) : Ranges.Statement (.cntClrPort who) := iff_of_true rfl trivial
theorem Ranges.cntClrSpindle (who : Initiator) : Ranges.Statement (.cntClrSpindle who) := iff_of_true rfl trivial
theorem Ranges.cntWinCfg (who : Initiator) (lenUs : BitVec 16) : Ranges.Statement (.cntWinCfg who lenUs) := iff_of_true rfl trivial
theorem Ranges.cntSelBcast (who : Initiator) (n : Fin 8) (val : Word64) : Ranges.Statement (.cntSelBcast who n val) := iff_of_true rfl trivial
theorem Ranges.sramUncorrectable (a : SramArray) (unit : Nat) (addr : Word64) : Ranges.Statement (.sramUncorrectable a unit addr) := iff_of_true rfl trivial
theorem Ranges.spindleFault (p : Spd) : Ranges.Statement (.spindleFault p) := iff_of_true rfl trivial
theorem Ranges.spareBroughtIn (p : Spd) (good : Bool) : Ranges.Statement (.spareBroughtIn p good) := iff_of_true rfl trivial
theorem Ranges.tileFault (t : TileId) (cause : TileFaultCause) : Ranges.Statement (.tileFault t cause) := iff_of_true rfl trivial
theorem Ranges.hubLoss (cause : HubLossCause) : Ranges.Statement (.hubLoss cause) := iff_of_true rfl trivial
theorem Ranges.vrPhaseFail (rail : Nat) (phase : Nat) : Ranges.Statement (.vrPhaseFail rail phase) := iff_of_true rfl trivial
theorem Ranges.a1Enter : Ranges.Statement (.a1Enter) := iff_of_true rfl trivial
theorem Ranges.a1Exit : Ranges.Statement (.a1Exit) := iff_of_true rfl trivial
theorem Ranges.a2Enter : Ranges.Statement (.a2Enter) := iff_of_true rfl trivial
theorem Ranges.drainWindowClose : Ranges.Statement (.drainWindowClose) := iff_of_true rfl trivial
theorem Ranges.a2Exit (fn : FnId) : Ranges.Statement (.a2Exit fn) := iff_of_true rfl trivial
theorem Ranges.a2ExitComplete : Ranges.Statement (.a2ExitComplete) := iff_of_true rfl trivial
theorem Ranges.mainSupplyLoss : Ranges.Statement (.mainSupplyLoss) := iff_of_true rfl trivial
theorem Ranges.auxSupplyLoss : Ranges.Statement (.auxSupplyLoss) := iff_of_true rfl trivial
theorem Ranges.auxPowerUp (straps : Fin 8) : Ranges.Statement (.auxPowerUp straps) := iff_of_true rfl trivial
theorem Ranges.mainPowerUp : Ranges.Statement (.mainPowerUp) := iff_of_true rfl trivial
theorem Ranges.coldReset : Ranges.Statement (.coldReset) := iff_of_true rfl trivial
theorem Ranges.perstAssert : Ranges.Statement (.perstAssert) := iff_of_true rfl trivial
theorem Ranges.perstDeassert (b : BootInputs) : Ranges.Statement (.perstDeassert b) :=
  Ranges.width_iff _
theorem Ranges.pcieHotReset : Ranges.Statement (.pcieHotReset) := iff_of_true rfl trivial
theorem Ranges.functionLevelReset (fn : FnId) : Ranges.Statement (.functionLevelReset fn) := by
  simp only [Ranges.Statement, Instr.wf, Ranges.Sound, decide_eq_true_eq, ne_eq, Fin.ext_iff, Fin.val_zero]; omega
theorem Ranges.smbusAlertResponse : Ranges.Statement (.smbusAlertResponse) := iff_of_true rfl trivial
theorem Ranges.mctpMessage (overPcie : Bool) (msg : List Byte) : Ranges.Statement (.mctpMessage overPcie msg) := iff_of_true rfl trivial
theorem Ranges.jtagInstruction (j : JtagInstr) : Ranges.Statement (.jtagInstruction j) := iff_of_true rfl trivial
theorem Ranges.hostWindowReadResponse (k : Nat) (data : List Byte) : Ranges.Statement (.hostWindowReadResponse k data) := iff_of_true rfl trivial
theorem Ranges.pcieLinkNarrowed (width : Nat) (speed : Nat) : Ranges.Statement (.pcieLinkNarrowed width speed) :=
  Ranges.width_iff _
theorem Ranges.functionD3hot (fn : FnId) : Ranges.Statement (.functionD3hot fn) := iff_of_true rfl trivial
theorem Ranges.vfEnable (n : Fin 17) : Ranges.Statement (.vfEnable n) := by
  simp only [Ranges.Statement, Instr.wf, Ranges.Sound, decide_eq_true_eq, ne_eq, Fin.ext_iff, Fin.val_zero]; omega
theorem Ranges.bar2Resize (gib : Nat) : Ranges.Statement (.bar2Resize gib) :=
  Ranges.bar2_iff _
theorem Ranges.priorityFlowControlFrame (port : PortId) (prio : Fin 8) (pause : Bool) (is8023 : Bool) : Ranges.Statement (.priorityFlowControlFrame port prio pause is8023) := iff_of_true rfl trivial
theorem Ranges.neighbourDiscovery (addr : Word128) (mac : BitVec 48) : Ranges.Statement (.neighbourDiscovery addr mac) := iff_of_true rfl trivial
theorem Ranges.jtagTrst (low : Bool) : Ranges.Statement (.jtagTrst low) := iff_of_true rfl trivial
theorem Ranges.fwFlashWriteDone (r : RingId) : Ranges.Statement (.fwFlashWriteDone r) := iff_of_true rfl trivial

end Sys2Proof.Laws
end

