-- ==== Sys2Proof/Laws/Seq.lean ====
section
/-!
SUPPORT. What the shared operations of the sequencer do when nothing stands in their way.
-/
namespace Sys2Proof.Machine

/-- A word that may issue, and is confirmed where Table 3.6 asks for it, has its effect. -/
theorem Block.seqWord_ok {b : Block} {p w : Nat} {rs : List Nat} {spec : Bool} {act : Block → Block}
    (h : b.canIssue p w rs = true) (hc : spec = true ∨ b.confirmedNow p = true) : b.seqWord p w spec rs false act = act b := by
  simp only [Block.canIssue, Block.confirmedNow, Bool.and_eq_true, Bool.not_eq_true', beq_iff_eq] at h hc
  obtain ⟨⟨h1, h2⟩, h3⟩ := h
  unfold Block.seqWord
  rcases hc with hc | hc <;> simp [h1, h2, h3, hc]

/-- A word of another context, or with a breach of its encoding, faults and has no effect. -/
theorem Block.seqWord_bad {b : Block} {p w : Nat} {rs : List Nat} {act : Block → Block} (h : b.mayIssue p w = true)
    (hc : bits w 11 8 = (b.spd p).ctx) : b.seqWord p w true rs true act = b.wordFault p (w % 256) .invalidField := by
  unfold Block.seqWord
  simp [h, hc]

theorem Block.arith_ok {b : Block} {p w : Nat} {f : Word64 → Word64 → Word64}
    (h : b.canIssue p w [bits w 36 32, bits w 41 37, bits w 46 42] = true) (hz : zeros w [(31, 12), (127, 47)] = true) :
    b.arith p w f = b.setSpd p (((b.spd p).setReg (bits w 36 32) (f ((b.spd p).reg (bits w 41 37)) ((b.spd p).reg (bits w 46 42)))).issued) := by
  unfold Block.arith
  simp only [hz, Bool.not_true]
  rw [Block.seqWord_ok h (.inl rfl)]
  simp [Block.advance_eq, Block.modSpd]

/-- Counting an event changes the programmable counters of its spindle alone. -/
theorem Block.countEvent_only (b : Block) (p c code n : Nat) : OnlySpd p b (b.countEvent p c code n) := by
  unfold Block.countEvent
  simp only
  split
  · exact OnlySpd.refl p b
  · exact OnlySpd.setSpd p b _

theorem Block.countEvent_spd (b : Block) (p c code n : Nat) :
    ∃ t, ((b.countEvent p c code n).spd p) = { b.spd p with cntProg := t } := by
  unfold Block.countEvent
  simp only
  split
  · exact ⟨_, rfl⟩
  · exact ⟨_, Block.spd_setSpd _ _ _⟩

@[simp] theorem Block.countEvent_zero (b : Block) (p c code : Nat) : b.countEvent p c code 0 = b := by
  simp [Block.countEvent]

/-- Counting for a word changes the programmable counters of its spindle alone, or, for a speculative word, what it notes of them. -/
theorem Block.countFor_only (b : Block) (p code n : Nat) (sp : Option Nat) : OnlySpd p b (b.countFor p code n sp) := by
  unfold Block.countFor
  split
  · exact Block.countEvent_only _ _ _ _ _
  · split
    · exact OnlySpd.refl p b
    · exact OnlySpd.setSpd p b _

theorem Block.countFor_spd (b : Block) (p code n : Nat) (sp : Option Nat) :
    ∃ t v, ((b.countFor p code n sp).spd p) = { b.spd p with cntProg := t, specEv := v } := by
  unfold Block.countFor
  split
  · obtain ⟨t, ht⟩ := Block.countEvent_spd b p (b.spd p).ctx code n
    exact ⟨t, (b.spd p).specEv, ht⟩
  · split
    · exact ⟨_, _, rfl⟩
    · exact ⟨_, _, Block.spd_setSpd _ _ _⟩

theorem Block.modGb_only (b : Block) (p : Nat) (f) (n : Nat) (sp : Option Nat) : OnlySpd p b (b.modGb p f n sp) := by
  unfold Block.modGb
  exact (OnlySpd.setSpd p b _).trans (Block.countFor_only _ _ _ _ _)

theorem Block.modGb_spd (b : Block) (p : Nat) (f) (n : Nat) (sp : Option Nat) :
    ∃ t v, ((b.modGb p f n sp).spd p) = { f (b.spd p) with cntProg := t, specEv := v } := by
  unfold Block.modGb
  obtain ⟨t, v, ht⟩ := Block.countFor_spd (b.modSpd p f) p 0x09 ((b.spd p).gbuf.length + n - ((b.modSpd p f).spd p).gbuf.length) sp
  exact ⟨t, v, by simpa using ht⟩

/-- What writing gathering-buffer entries to their banks changes. -/
theorem Spindle.commitWhere_eq (s : Spindle) (f) : ∃ g r, s.commitWhere f = { s with gbuf := g, spad := r } ∧ (∀ x ∈ g, f x = false) := by
  by_cases h : s.gbuf.filter f = []
  · refine ⟨s.gbuf, s.spad, by simp [Spindle.commitWhere, h], fun x hx => ?_⟩
    simp only [List.filter_eq_nil_iff] at h
    simpa using h x hx
  · exact ⟨_, _, by simp only [Spindle.commitWhere, if_neg h]; rfl, fun x hx => by simp at hx; exact hx.2⟩

end Sys2Proof.Machine
end

