-- ==== Sys2Proof/Tests/Slice0.lean ====
section
/-!
SUPPORT. Tests: terms that WellFormed refuses, worked values of the manual, and for each statement states and operands
that meet its hypotheses (each test named test_met_ followed by the statement's name; its parts follow the clauses).
-/
namespace Sys2Proof.Tests
open Sys2Proof Sys2Proof.Machine Sys2Proof.Claims

set_option Elab.async false

/-! ### Ill-formed commands are refused -/

theorem test_wf_reservedOpcode : (Instr.reservedOpcode 0 0x01).wf = false ∧ (Instr.reservedOpcode 0 0x0D).wf = true := by decide
theorem test_wf_codeFetch : (Instr.codeFetch 0 64).wf = false := by decide
theorem test_wf_wcWrite : (Instr.wcWrite 0 .store 0 false []).wf = false ∧ (Instr.wcWrite 0 .store 0 false (List.replicate 65 0)).wf = false := by decide
theorem test_wf_hostBar2Read : (Instr.hostBar2Read 0 0 0).wf = false ∧ (Instr.hostBar2Read 0 0 4097).wf = false := by decide
theorem test_wf_hostBar2Write : (Instr.hostBar2Write 0 0 [] false).wf = false := by decide
theorem test_wf_calipersEstimate : (Instr.calipersEstimate { volts := 1, work := [], device := [] }).wf = false := by decide
theorem test_wf_sensorRead : (Instr.sensorRead [1, 2, 3] 4).wf = false := by decide
theorem test_wf_vfEnable : (Instr.vfEnable 0).wf = false := by decide
theorem test_wf_bar2Resize : (Instr.bar2Resize 3).wf = false := by decide
theorem test_wf_perstDeassert :
    (Instr.perstDeassert { failTraining := [], failSpares := [], width := 3, speed := 64 }).wf = false := by decide
theorem test_wf_pcieLinkNarrowed : (Instr.pcieLinkNarrowed 5 64).wf = false := by decide
theorem test_wf_functionLevelReset : (Instr.functionLevelReset 0).wf = false := by decide

/-! ### States and operands -/

/-- The block in service after a boot. -/
def up : Block := { perst := false, ready := true, bootStage := 4 }
def st (b : Block) : State := { pending := [], dram := {}, blk := b }

/-- A blank of context 0 with 8 words of code at 0x1000 (Table 14.1). -/
def someBlank : Blank := { desc := BitVec.ofNat 512 (0x1000 + 8 <<< 64), addr := 0x2000 }
def allHandle : Handle := { state := .live, owners := 63, prefetch := true, sizePages := 1536 }

/-- Spindle 0 in a blank of context 0, at word `x`, with one live handle over its whole zeroed scratchpad. -/
def spin (x : Nat) : Spindle :=
  { cur := some someBlank, started := true, pc := 0x1000, nextIdx := 1, ibuf := [(0x1000, leBytes 16 x)]
    windows := [(0, { pages := 1536, handleHi := 63 })], handles := [(0, allHandle)] }
def run (x : Nat) (f : Spindle → Spindle := id) : Block := up.setSpd 0 (f (spin x))

/-- A word's bits above its opcode. -/
def hi (x : Nat) : W120 := BitVec.ofNat 120 (x >>> 8)

/-- An entry of the catalogue (Tables 17.4 and 17.7); `c` is its context where it names one in its header. -/
def entry (op : Nat) (c : Option Nat) (buf len : Nat) (ps : List Nat) : Entry :=
  let ws := ((catRow op).map (·.2)).getD []
  BitVec.ofNat 512 (op + (c.map fun k => 1 <<< 31 + k <<< 24).getD 0 + 1 <<< 32 + buf <<< 64 + len <<< 128
    + (((paramOffsets 24 ws).zip ps).map fun p => p.2 <<< (8 * p.1.1)).sum)
/-- Ring `r` has taken entry `e`. -/
def asked (r : Nat) (e : Entry) (b : Block) : Block := b.setRing r { enable := true, reserved := 1, taken := [{ entry := e }] }
/-- Spindle 1 has failed. -/
def failed : Block := { up.setSpd 1 { faulted := true } with faultQueue := [1] }
/-- A block whose context 0 is LIVE. -/
def live : Block := up.setCtx 0 { state := .live }

/-- The entry starts, passes the common checks, and meets `f`. -/
def startsWith (b : Block) (r : Nat) (e : Entry) (op : Nat) (f : Block → Cmd → Bool) : Bool :=
  b.presents r e op && (match (b.started r).cmdCheck r e with
    | .ok c => f (b.started r) c
    | .error _ => false)
/-- The entry is presented on its ring in block `b`. -/
def starts (b : Block) (r : Nat) (e : Entry) (op : Nat) (f : Block → Cmd → Bool) : Bool := startsWith (asked r e b) r e op f

theorem startsWith_spec {b : Block} {r op : Nat} {e : Entry} {f : Block → Cmd → Bool} (h : startsWith b r e op f = true) :
    ∃ c, b.accepts r e op c ∧ f (b.started r) c = true := by
  unfold startsWith at h
  simp only [Bool.and_eq_true] at h
  obtain ⟨h1, h2⟩ := h
  split at h2
  · exact ⟨_, ⟨h1, by assumption⟩, h2⟩
  · cases h2

/-! ### Sequencer words and blanks -/

theorem test_met_ScalarWordsAndRegisters :
    (let x := mkWord 0x01 (hi (1 <<< 32 + 2 <<< 37 + 3 <<< 42))
     (run x).canIssue 0 x [1, 2, 3] = true ∧ zeros x [(31, 12), (127, 47)] = true) ∧ tabWf 0 (spin 0).sregs = true := by decide +kernel

/-- Spindle 0 at word `x` behind a BR that is not confirmed. -/
def specRun (x : Nat) : Block := run x fun s => { s with brs := [{ idx := 0 }] }

theorem test_met_ControlWordsAdvance :
    ((run 0).canIssue 0 0 [] = true ∧ zeros 0 [(31, 12), (127, 32)] = true) ∧
    (let x := mkWord 0x10 (hi (1 <<< 32 + 7 <<< 64)); (run x).canIssue 0 x [1] = true ∧ zeros x [(31, 12), (63, 37)] = true) ∧
    (let x := mkWord 0x19 (hi (2 <<< 32)); (run x).canIssue 0 x [] = true ∧ zeros x [(31, 12), (127, 64)] = true) ∧
    (let x := mkWord 0x1A (hi (1 <<< 64 + 2 <<< 32))
     let spd := (run x).spd 0
     let last := { spd with sregs := [(1, 1)] }
     (run x).canIssue 0 x [1] = true ∧ zeros x [(31, 12), (127, 69)] = true ∧ (spd.setReg 1 (spd.reg 1 - 1)).reg 1 ≠ 0 ∧
     (last.setReg 1 (last.reg 1 - 1)).reg 1 = 0) ∧
    (let x := mkWord 0x2F 0
     (run x).canIssue 0 x [] = true ∧ (run x).confirmedNow 0 = true ∧ (specRun x).canIssue 0 x [] = true ∧ (specRun x).confirmedNow 0 = false ∧
     zeros x [(31, 12), (127, 32)] = true) := by decide +kernel

theorem test_met_ScalarLoadsAndStores :
    (let x := mkWord 0x11 (hi (5 <<< 32 + 0x5FFFF8 <<< 64))
     let spd := (run x).spd 0
     (run x).canIssue 0 x [5] = true ∧ zeros x [(31, 12), (63, 37), (127, 96)] = true ∧ 0x5FFFF8 % 8 = 0 ∧ 0x5FFFF8 + 8 ≤ 0x600000 ∧
     (spd.asOf spd.nextIdx).readOk spd.ctx 0x5FFFF8 8 = none) ∧
    (let x := mkWord 0x12 (hi (5 <<< 32))
     let spd := (run x).spd 0
     (run x).canIssue 0 x [5] = true ∧ (run x).confirmedNow 0 = true ∧ zeros x [(31, 12), (63, 37), (127, 96)] = true ∧
     (spd.asOf spd.nextIdx).writeOk spd.ctx ownerSeq 0 8 = none) ∧
    (let b := run 0 fun s => { s with slds := [{ idx := 1, rd := 5, val := 9 }] }
     b.runs 0 = true ∧ (b.spd 0).slds = [{ idx := 1, rd := 5, val := 9 }]) := by decide +kernel

def twoBrs : Block := run 0 fun s => { s with
  brs := [{ idx := 1 }, { idx := 3, pc := 0x1010, va := some 1, vb := some 1, hint := true }], nextIdx := 5 }

theorem test_met_BranchesFollowHintAndResolve :
    (let x := mkWord 0x18 (hi (1 <<< 77 + 5 <<< 74 + 2 <<< 32))
     let full := run x fun s => { s with brs := List.replicate 8 {} }
     (run x).canIssue 0 x [] = true ∧ ((run x).spd 0).brs.length < 8 ∧ zeros x [(31, 12), (127, 78)] = true ∧ bits x 76 74 < 6 ∧
     full.canIssue 0 x [] = true ∧ 8 ≤ (full.spd 0).brs.length) ∧
    (let spd := twoBrs.spd 0
     twoBrs.runs 0 = true ∧ twoBrs.stalled = false ∧ (∃ r first : BrEntry, spd.brs[1]? = some r ∧ r.va = some 1 ∧ r.vb = some 1 ∧ r.evaluated = false ∧
       spd.brs.head? = some first ∧ first.idx < r.idx ∧ first.evaluated = false ∧ brTaken r.cond 1 1 = r.hint) ∧
     brTaken 1 1 1 ≠ true) ∧
    (let b := run 0 fun s => { s with brs := [{ idx := 1, va := some 1, vb := some 2 }], nextIdx := 2 }
     let spd := b.spd 0
     b.runs 0 = true ∧ spd.brs = [{ idx := 1, va := some 1, vb := some 2 }] ∧ brTaken 0 1 2 = false ∧
     (∀ e : Engine, spd.queue e = []) ∧ spd.deferredSeq = [] ∧ spd.specEv = [] ∧ spd.seqSlots = [] ∧ spd.held = [] ∧ spd.ldt = none) := by
  refine ⟨by decide +kernel, ⟨by decide +kernel, by decide +kernel, ⟨_, _, rfl, rfl, rfl, rfl, rfl, by decide, rfl, by decide⟩, by decide⟩,
    by decide +kernel, by decide +kernel, by decide, fun e => by cases e <;> rfl, rfl, rfl, rfl, rfl, rfl⟩

def openBr (y : Word64) : BrEntry := { idx := 1, va := some 1, vb := some y }
def brBlock (y : Word64) : Block := run 0 fun s => { s with brs := [openBr y, { idx := 2, evaluated := true }], nextIdx := 3 }

theorem test_met_BranchesFollowHintAndResolve_right :
    let left := popEvaluated [{ idx := 2, evaluated := true }]
    let gone := ((resolved (brBlock 2) 0 (openBr 2) false).modSpd 0 fun z => { z with brs := left.2 }).countEvent 0 0 0x17 (1 + left.1.length)
    let counted := gone.countEvent 0 0 0x18 (0 + (left.1.filter (·.mispred)).length)
    (brBlock 2).runs 0 = true ∧ brTaken 0 1 2 = (openBr 2).hint ∧ (counted.confirm {} 0).stalled = false := by decide +kernel

theorem test_met_BranchesFollowHintAndResolve_wrong :
    let left := popEvaluated []
    let gone := ((resolved (brBlock 1) 0 (openBr 1) true).modSpd 0 fun z => { z with brs := left.2 }).countEvent 0 0 0x17 (1 + left.1.length)
    let counted := gone.countEvent 0 0 0x18 (1 + (left.1.filter (·.mispred)).length)
    (brBlock 1).runs 0 = true ∧ brTaken 0 1 1 ≠ (openBr 1).hint ∧ (counted.confirm {} 0).stalled = false := by decide +kernel

def busyQ : List QCmd := [{ idx := 1, begun := true }]

/-- Spindle 0's write to line 64 k in the tile's write-combining buffer, and in transit to its channel. -/
def wcLine (k : Nat) : WcEntry := { line := k, engines := 8 }
def wcReq (k : Nat) : Req := { line := k, src := .wc 0 0 0 0 8 }

theorem test_met_FencesHoldAndResume :
    (let x := mkWord 0x20 (hi (1 <<< 32)); (run x).canIssue 0 x [] = true ∧ (run x).stalled = false ∧ zeros x [(31, 12), (39, 37), (127, 41)] = true ∧
     bits x 36 32 ≠ 0 ∧ bit x 40 = false) ∧
    (let x := mkWord 0x20 (hi (8 <<< 32 + 1 <<< 40))
     let b := (run x).setTile 0 { wc := [wcLine 0x400] }
     let written := b.modGb 0 (fun z => z.commitWhere fun g => (maskEngines 8).contains g.engine) 0 (b.specNext 0)
     b.canIssue 0 x [] = true ∧ zeros x [(31, 12), (39, 37), (127, 41)] = true ∧ bit x 40 = true ∧ bits x 36 32 = 8 ∧
     (written.fenceFlush {} 0 8).stalled = false) ∧
    (let b := run 0 fun s => { s with hold := .fence 1 false 2 }
     b.runs 0 = true ∧ (b.spd 0).hold = .fence 1 false 2 ∧ b.stalled = false ∧
     ∀ e ∈ maskEngines 1, ∀ q ∈ (b.spd 0).queue e, 2 ≤ q.idx ∨ q.completed = true) ∧
    (let b := run 0 fun s => { s with hold := .fence 1 false 2, matrixQ := busyQ }
     b.runs 0 = true ∧ (b.spd 0).hold = .fence 1 false 2 ∧ ∃ e ∈ maskEngines 1, ∃ q ∈ (b.spd 0).queue e, q.idx < 2 ∧ q.completed = false) ∧
    (let b := run 0 fun s => { s with hold := .fence 8 true 2 }
     let waits := b.setChan 0 { transit := [wcReq 0x400] }
     (b.spd 0).hold = .fence 8 true 2 ∧ ((b.fenceFlush {} 0 8).fencePending 0 8 = false ∧ (b.fenceFlush {} 0 8).stalled = false) ∧
     (waits.fenceFlush {} 0 8).fencePending 0 8 = true ∧ (waits.fenceFlush {} 0 8).stalled = false) := by
  decide +kernel

theorem test_met_FlagWaitsThenSets :
    let x := mkWord 0x21 (hi (1 <<< 21 + 3 <<< 16 + 1 <<< 27 + 4 <<< 22))
    let b := run x
    let c := run x fun s => { s with flags := [(3, { count := 1 }), (4, { count := 65535 })] }
    (b.stalled = false ∧ c.stalled = false ∧ b.canIssue 0 x [] = true ∧ b.confirmedNow 0 = true ∧ zeros x [(15, 12), (31, 28), (127, 32)] = true ∧ (b.spd 0).ldt = none ∧
      bit x 21 = true ∧ ((b.spd 0).flag (bits x 20 16)).count = 0) ∧
    (c.canIssue 0 x [] = true ∧ c.confirmedNow 0 = true ∧ (c.spd 0).ldt = none ∧ ((c.spd 0).flag (bits x 20 16)).count ≠ 0) := by decide +kernel

theorem test_met_BlankStartAndCodeFetch :
    (let b := up.setSpd 0 { pre := some someBlank }
     let c := up.setSpd 0 { cur := some someBlank }
     let spd := b.spd 0
     b.clocked = true ∧ spd.inService = true ∧ spd.faulted = false ∧ spd.resetting = false ∧ spd.thief = none ∧ spd.cur = none ∧
     spd.pre = some someBlank ∧ b.trace.enable = false ∧ (c.spd 0).cur = some someBlank ∧ (c.spd 0).started = false) ∧
    (let b := run 0
     let spd := b.spd 0
     let r := b.tileRead {} 0 0x1000 128 .reuse (b.specNext 0)
     b.runs 0 = true ∧ spd.ending = none ∧ spd.inCode spd.pc = true ∧ spd.code = (0x1000, 8) ∧ 0x1000 % 128 = 0 ∧ 0x1000 < 0x1000 + 16 * 8 ∧
     b.engineRange 0x1000 128 = .ok .hbm ∧ r.1 = .success ∧
     ((r.2.2.modSpd 0 fun x => x.fillCode false 0x1000 r.2.1).countFor 0 0x0F 1 (b.specNext 0)).stalled = false) ∧
    (let b := run 0 fun s => { s with pc := 0x1080 }
     let spd := b.spd 0
     b.runs 0 = true ∧ spd.ending = none ∧ spd.isSpec spd.nextIdx = false ∧ spd.inCode spd.pc = false ∧ spd.hold = .none ∧ spd.haltReq = false ∧
     0x1080 ≤ spd.pc ∧ spd.pc < 0x1080 + 128 ∧ (b.bumpFree.blankFault 0 spd.nextIdx .invalidField 0 0x80).stalled = false) := by
  decide +kernel

theorem test_met_BlankFaults :
    (let b := run 0x0D
     reservedOp 0x0D = true ∧ b.mayIssue 0 0x0D = true ∧ bits 0x0D 11 8 = (b.spd 0).ctx ∧ b.confirmedNow 0 = true) ∧
    (let b := run 0x10D
     b.mayIssue 0 0x10D = true ∧ bits 0x10D 11 8 ≠ (b.spd 0).ctx ∧ b.confirmedNow 0 = true) ∧
    ((specRun 0x0D).mayIssue 0 0x0D = true ∧ (specRun 0x0D).confirmedNow 0 = false) ∧
    (let spd := (run 0).spd 0
     spd.cur = some someBlank ∧ spd.ending = none ∧ ∀ e : Engine, ∀ q ∈ spd.queue e, 1 ≤ q.idx) ∧
    (let spd := (run 0 fun s => { s with matrixQ := busyQ }).spd 0
     spd.cur = some someBlank ∧ spd.ending = none ∧ ∃ q ∈ spd.queue .matrix, q.idx < 2) := by
  refine ⟨by decide +kernel, by decide +kernel, by decide +kernel, ⟨rfl, rfl, fun e => by cases e <;> decide⟩, by decide +kernel⟩

theorem test_met_BlankRetirement :
    (let b := run 0 fun s => { s with hold := .retired }
     let spd := b.spd 0
     b.runs 0 = true ∧ b.stalled = false ∧ spd.cur = some someBlank ∧ spd.hold = .retired ∧ spd.drained = true ∧ spd.ending = none ∧ spd.staging = [] ∧
     spd.stageWait = [] ∧ spd.tally = [] ∧ spd.regsns = [] ∧ b.trace.enable = false ∧ (retiredOf {} b 0 someBlank).stalled = false) ∧
    (let d : Done := { blank := someBlank }
     let b : Block := { up with dones := [d] }
     b.dones[0]? = some d ∧ b.clocked = true ∧ b.effectWaits d = false) ∧
    (let d : Done := { blank := someBlank, serial := 1 }
     let b : Block := { up with dones := [d], chans := [(0, { transit := [{ src := .memSide 0 0x2000 0 1 }] })] }
     b.dones[0]? = some d ∧ b.clocked = true ∧ b.effectWaits d = true) := by decide +kernel

theorem test_met_DispatchAndArrival :
    (let e : RackEntry := { blank := { desc := BitVec.ofNat 512 (0x1000 + 8 <<< 64 + 2 <<< 102) }, ready := true }
     let b : Block := { up with
       ctxs := [(0, { state := .live, sched := { enable := true } })], racks := [(0, [e])]
       spindles := [(0, { windows := [(0, { pages := 1536, handleHi := 63 })] })] }
     let b1 := b.modTile 0 fun x => { x with rotate := (x.rotate + 1) % 64 }
     b.clocked = true ∧ b.trace.enable = false ∧ tabWf [] b.racks = true ∧ b.slotOpen 0 = true ∧ 0 = 64 * 0 + (b.tile 0).rotate % 64 ∧
     b1.choose (b1.physOf 0) 0 = some (0, e, false)) ∧
    (let b := up.setSpd 0 { arriving := some someBlank }
     let spd := b.spd 0
     spd.arriving = some someBlank ∧ b.clocked = true ∧ spd.inService = true ∧ spd.faulted = false ∧ spd.resetting = false ∧ spd.pre = none ∧
     ((b.setSpd 0 { spd with arriving := none, pre := some someBlank }).prefetch {} 0 someBlank).stalled = false) := by
  decide +kernel

/-! ### Engine words -/

def clrWord : W120 := hi (0x7F00 <<< 96 + 64 <<< 80 + 1 <<< 64)

theorem test_met_EngineWordsEnterQueue :
    (Instr.vmkclr, 0x87) ∈ engineRows ∧ opSpec 0x87 = some opVmkclr ∧
    (let x := mkWord 0x87 clrWord
     let b := run x fun s => { s with vectorQ := busyQ, nextIdx := 2 }
     b.canQueue 0 opVmkclr x = true ∧ nextToBegin ((b.spd 0).queue .vector) = none ∧
     ∃ q ∈ (b.spd 0).queue .vector, q.begun = true ∧ q.done = false) :=
  ⟨by simp [engineRows], rfl, by decide +kernel, by decide +kernel, by decide +kernel⟩

/-- A tile descriptor of 64 × 64 × 64 in BF16, stored as FP32 in scratchpad (Table 4.4); `more` sets further fields. -/
def tileAt (aFmt bFmt k aStride bStride more : Nat) : Nat :=
  aFmt + bFmt <<< 5 + aStride <<< 16 + 0x1000 <<< 40 + bStride <<< 80 + 0x4000 <<< 104 + 64 <<< 256 + 64 <<< 328 + k <<< 340 + 64 <<< 364
    + 64 <<< 428 + more
def mainTile : Nat := tileAt 1 1 64 128 128 (0x8000 <<< 512 + 256 <<< 608 + 0x7F00 <<< 768)
/-- Spindle 0 at word `x` with bytes `v` at scratchpad address 0. -/
def tiled (x v n : Nat) : Block := run x fun s => { s with spad := (({} : Ram).write 0 (leBytes n v)) }
def hallocWord : W120 := hi (3 <<< 58 + 8 <<< 52 + 1 <<< 40)
def ldWord : W120 := hi (1 <<< 112 + 64 <<< 96 + 2 <<< 59 + 1 <<< 54)
/-- s1 = 0x40, s2 = `a`, s3 = 0x80: operands of the words here. -/
def withRegs (x a : Nat) : Block := run x fun s => { s with sregs := [(1, 0x40), (2, BitVec.ofNat 64 a), (3, 0x80)] }

/-- The word begins at once in `b`, its operation gives the answer of kind `k` (carried out, going on, fault, cannot begin, host-window bytes), and
no channel queue is full. -/
def begins (b : Block) (o : OpSpec) (x k : Nat) : Bool :=
  let q := (b.spd 0).newCmd o x
  b.startsNow 0 o x && (match o.eff {} (b.opened 0 o x) 0 { q with begun := true } false with
    | .ok b' => k == 0 && !(b'.carried 0 o q).stalled
    | .run b' => k == 1 && !b'.stalled
    | .fault b' st => k == 2 && !(b'.cmdFault 0 o.eng q st).stalled
    | .hold => k == 3
    | .host _ rs => k == 4 && !(((b.opened 0 o x).modCmd 0 o.eng q.idx fun z => { z with resume := true }).askHost 0 o.eng q rs).stalled)

theorem test_met_EngineWordsBegin :
    (let x := mkWord 0x87 clrWord; begins (run x) opVmkclr x 0 = true ∧ begins (run x fun s => { s with handles := [] }) opVmkclr x 2 = true) ∧
    (let x := mkWord 0x40 0; begins (tiled x mainTile 128) opMtile x 1 = true) ∧
    (let x := mkWord 0xA2 hallocWord; begins (run x fun s => { s with handles := [(3, { allHandle with state := .freeing })] }) opHalloc x 3 = true) ∧
    (let x := mkWord 0xA0 ldWord; begins (withRegs x hostBase) opLd x 4 = true) := by
  refine ⟨by decide +kernel, by decide +kernel, by decide +kernel, by decide +kernel⟩

/-- A versioned table of four rows of 64 B (Table 6.1), its descriptor at 0x20000. -/
def verTable : Nat := 0x100000 + 4 <<< 64 + 64 <<< 128 + 64 <<< 160 + 1 <<< 200 + 5 <<< 224 + 0x110000 <<< 784 + 0x120000 <<< 736

theorem test_met_EngineWordsBegin_release :
    let x := mkWord 0xF2 (hi (1 <<< 40 + 2 <<< 59))
    let b := (withRegs x 0x20000).hubWrite 0x20000 (leBytes 128 verTable)
    gwOp x = 1 ∧ begins b opVpin x 0 = true := by decide +kernel

def queued (w : W120) (f : QCmd → QCmd) (g : Spindle → Spindle := id) : Block :=
  run 0 fun s => g { s with vectorQ := [f { idx := 1, w := BitVec.ofNat 128 (mkWord 0x87 w) }], nextIdx := 2 }
def waitBit : W120 := hi (1 <<< 21 + 3 <<< 16)

def clearCmd (w : W120) : QCmd := { idx := 1, w := BitVec.ofNat 128 (mkWord 0x87 w) }

theorem test_met_EngineCommandsRunInOrder :
    opSpec 0x87 = some opVmkclr ∧ opVmkclr.eng = .vector ∧
    (let b := queued clrWord id
     let spd := b.spd 0
     let q := clearCmd clrWord
     b.arraysRun 0 = true ∧ b.lineRoom 0 false = true ∧ spd.abandoned = [] ∧ nextToBegin (spd.queue .vector) = some q ∧ q.w.toNat % 256 = 0x87 ∧ spd.isSpec q.idx = false ∧
     q.hostWait = false ∧ q.begun = false ∧ opVmkclr.credit = false ∧ hdrWait q.w.toNat = none ∧
     (b.beginEnd 0 .vector q (b.begun 0 opVmkclr q) (opVmkclr.eff {} (b.begun 0 opVmkclr q) 0 { q with begun := true } false)).stalled = false) ∧
    (let b := queued clrWord fun q => { q with begun := true, resume := true }
     let q := { clearCmd clrWord with begun := true, resume := true }
     nextToBegin ((b.spd 0).queue .vector) = some q ∧ q.hostWait = false ∧
     (b.beginEnd 0 .vector q b (opVmkclr.eff {} b 0 q ((b.spd 0).isSpec q.idx))).stalled = false ∧
     nextToBegin (((queued clrWord fun q => { q with begun := true, resume := true, hostWait := true }).spd 0).queue .vector) = some { q with hostWait := true }) ∧
    (let b := queued (clrWord + waitBit) id
     let spd := b.spd 0
     nextToBegin (spd.queue .vector) = some (clearCmd (clrWord + waitBit)) ∧ hdrWait (clearCmd (clrWord + waitBit)).w.toNat = some 3 ∧ (spd.flag 3).count = 0) ∧
    (let q : QCmd := { idx := 1, w := BitVec.ofNat 128 (mkWord 0xA0 0) }
     let b := run 0 fun s => { s with loadQ := [q], credit := 16, brs := [{ idx := 0 }] }
     nextToBegin ((b.spd 0).queue .load) = some q ∧ (opSpec 0xA0).any (fun o => o.eng == .load && o.credit) = true ∧ opLd.eng = .load ∧ opLd.credit = true ∧ 16 ≤ (b.spd 0).credit ∧
     (b.spd 0).isSpec 1 = true ∧ (opSpec 0xC0).any (fun o => !o.mayBeSpec) = true) := by
  refine ⟨rfl, rfl, ?_, ?_, ?_, ?_⟩ <;> decide +kernel

theorem test_met_EngineCommandsRunInOrder_room :
    (let q : QCmd := { idx := 1, w := BitVec.ofNat 128 (mkWord 0xC0 0) }
     let b := (run 0 fun s => { s with storeQ := [q] }).setChan 0 { transit := List.replicate 256 { src := .wc 0 0 0 0 8 } }
     b.arraysRun 0 = true ∧ (b.spd 0).abandoned = [] ∧ nextToBegin ((b.spd 0).queue .store) = some q ∧ (opSpec 0xC0).any (fun o => o.eng == .store) = true ∧
     q.begun = false ∧ b.lineRoom 0 (Engine.store == .store) = false) := by decide +kernel

theorem test_met_EngineCommandsRunInOrder_end :
    (let b := queued clrWord fun q => { q with begun := true }
     let q := { clearCmd clrWord with begun := true }
     b.arraysRun 0 = true ∧ ((b.spd 0).queue .vector).find? (!·.completed) = some q ∧ q.done = false) ∧
    (let b := queued clrWord fun q => { q with begun := true, done := true }
     let q := { clearCmd clrWord with begun := true, done := true }
     let spd := b.spd 0
     b.arraysRun 0 = true ∧ spd.queue .vector = [q] ∧ (spd.queue .vector).find? (!·.completed) = some q ∧ q.outstanding = 0 ∧ q.deferred = none ∧
     q.failed = none ∧ b.linesWait q.awaits = false ∧ spd.isSpec q.idx = false ∧ (b.cmdLeave {} 0 .vector q).stalled = false ∧ q.obs = none ∧ q.slots = 0 ∧
     spd.gbuf = [] ∧ spd.stageWait = [] ∧ spd.lateSigs = [] ∧ spd.ldt = none ∧ spd.ending = none) ∧
    (let b := queued clrWord (fun q => { q with begun := true, done := true }) fun s => { s with brs := [{ idx := 0 }] }
     let q := { clearCmd clrWord with begun := true, done := true }
     (b.spd 0).isSpec q.idx = true ∧ (b.modCmd 0 .vector q.idx fun z => { z with completed := true }).stalled = false) ∧
    (let q : QCmd := { idx := 1, w := BitVec.ofNat 128 (mkWord 0xC5 0), begun := true, done := true, failed := some .peerLost }
     let b := run 0 fun s => { s with storeQ := [q], nextIdx := 2 }
     ((b.spd 0).queue .store).find? (!·.completed) = some q ∧ bits q.w.toNat 48 44 = 0 ∧ b.linesWait q.awaits = false ∧
     (b.blankFault 0 q.idx .peerLost 0xC5 0).stalled = false) ∧
    (let q : QCmd := { idx := 1, w := BitVec.ofNat 128 (mkWord 0xC5 (hi (1 <<< 44))), begun := true, done := true, failed := some .peerLost, regs := [(1, 0x40)] }
     let b := run 0 fun s => { s with storeQ := [q], nextIdx := 2 }
     ((b.spd 0).queue .store).find? (!·.completed) = some q ∧ bits q.w.toNat 48 44 ≠ 0 ∧
     ((b.engWrite 0 .store q (q.rf 48 44) (leBytes 8 Status.peerLost.code)).cmdLeave {} 0 .store q).stalled = false) ∧
    (let q : QCmd := { idx := 1, w := BitVec.ofNat 128 (mkWord 0xA0 waitBit), flagTaken := true, credit := true }
     let b := run 0 fun s => { s with abandoned := [(.load, q)] }
     (b.spd 0).abandoned.find? (fun a => a.1 == .load) = some (.load, q) ∧ hdrWait q.w.toNat = some 3 ∧ (b.spd 0).ldt = none ∧ b.stalled = false ∧
     b.cnt.freeze = false) := by
  refine ⟨?_, ?_, ?_, ?_, ?_, ?_⟩ <;> decide +kernel

def laneWord : W120 := hi (0x7F00 <<< 96 + 16 <<< 80 + 1 <<< 64 + 1 <<< 59 + 2 <<< 54 + 3 <<< 49)

theorem test_met_LaneAndRowWords :
    (let x := mkWord 0x60 laneWord
     let o : OpSpec := { eng := .vector, mayBeSpec := true, regs := vwRegs, bad := laneBad 2, eff := effLane .add 2 }
     begins (withRegs x 0x1000) o x 0 = true) ∧
    (let x := mkWord 0x61 (laneWord + hi (1 <<< 40))
     let o : OpSpec := { eng := .vector, mayBeSpec := true, regs := vwRegs, bad := laneBad 2, eff := effLane .sub 2 }
     begins (withRegs x 0x40) o x 0 = true) ∧
    (let x := mkWord 0x73 (laneWord - hi (3 <<< 49))
     let o : OpSpec := { eng := .vector, mayBeSpec := true, regs := vwRegs, bad := rowOpBad, eff := effRow 8 rowArgmaxBytes }
     begins (withRegs x 0x1000) o x 0 = true) := by decide +kernel

theorem test_met_ConversionDrawAndMarkWords :
    (let x := mkWord 0x6A (hi (0x7F01 <<< 96 + 16 <<< 80 + 1 <<< 64 + 1 <<< 59 + 2 <<< 54))
     begins (withRegs x 0x1000) opVcvt x 0 = true ∧ isMx (convOf (vwConv x)).fmt = false) ∧
    (let x := mkWord 0x78 (hi (0x7F00 <<< 96 + 16 <<< 80 + 1 <<< 64 + 2 <<< 59 + 3 <<< 49)); begins (withRegs x 0x1000) opVrand x 0 = true) ∧
    (let x := mkWord 0x79 (hi (0x7F00 <<< 96 + 16 <<< 80 + 1 <<< 64 + 2 <<< 59 + 3 <<< 49)); begins (withRegs x 0x1000) opVunif x 0 = true) ∧
    (let x := mkWord 0x86 laneWord; begins (withRegs x 0x1000) opVmkor x 0 = true ∧ vwBsc x = false) ∧
    (let x := mkWord 0x87 clrWord; begins (withRegs x 0) opVmkclr x 0 = true) := by decide +kernel

theorem test_met_HandleWords :
    (let x := mkWord 0xA2 hallocWord
     let b := run x fun s => { s with handles := [(0, { allHandle with sizePages := 4, basePage := 1 })] }
     let spd := b.spd 0
     let win := tget {} spd.windows spd.ctx
     b.startsNow 0 opHalloc x = true ∧ win.handleLo ≤ 3 ∧ 3 ≤ win.handleHi ∧ win.basePage ≤ 0 ∧ 0 + 1 ≤ win.basePage + win.pages ∧
     (tget {} spd.handles 3).state = .free ∧ ∀ k ∈ spd.handles, k.2.state = .free ∨ pagesMeet 0 1 k.2.basePage k.2.sizePages = false) ∧
    (let x := mkWord 0xA3 0
     let b := run x
     let e := tget {} (b.spd 0).handles 0
     b.startsNow 0 opHfreeLoad x = true ∧ e.state = .live ∧ e.context = (b.spd 0).ctx ∧ bit e.owners (ownerOf .load) = true) ∧
    (let spd := (run 0 fun s => { s with handles := [(0, { allHandle with state := .freeing, freeIdx := 3 })] }).spd 0
     (tget {} spd.handles 0).state = .freeing ∧ ∀ e : Engine, ∀ q ∈ spd.queue e, (tget {} spd.handles 0).freeIdx ≤ q.idx ∨ q.completed = true) ∧
    (let b := run 0 fun s => { s with handles := [(0, { allHandle with sizePages := 16 }), (1, { allHandle with sizePages := 4, basePage := 500, state := .freeing, freeIdx := 3 })], vectorQ := [{ idx := 1, w := BitVec.ofNat 128 (mkWord 0x87 clrWord) }] }
     (b.spd 0).vectorQ.all (fun q => decide (q.idx < 3) && !q.completed && !b.namesHandle {} 0 1 q && b.namesHandle {} 0 0 q) = true) ∧
    (let b := run 0 fun s => { s with handles := [(0, { allHandle with state := .freeing, freeIdx := 3 })], matrixQ := busyQ }
     let spd := b.spd 0
     (tget {} spd.handles 0).state = .freeing ∧ ∃ q ∈ spd.queue .matrix, q.idx < (tget {} spd.handles 0).freeIdx ∧ q.completed = false ∧ b.namesHandle {} 0 0 q = true) := by
  refine ⟨by decide +kernel, by decide +kernel, ⟨by decide +kernel, fun e => by cases e <;> decide⟩, by decide +kernel, by decide +kernel⟩

theorem test_met_LoadStoreWordsCopy :
    (let x := mkWord 0xA0 ldWord
     let b := withRegs x 0x10000
     let q := { (b.spd 0).newCmd opLd x with begun := true }
     begins b opLd x 0 = true ∧ q.rf 63 59 = 0x10000 ∧ q.rf 58 54 % 4 = 0 ∧
     rangeCheck (b.opened 0 opLd x) 0 .load q [] [(q.rf 58 54, rowSpan 1 0 64)] = none ∧ (b.opened 0 opLd x).hostNeeds q [(0x10000, 64)] = []) ∧
    (let x := mkWord 0xC0 (hi (0x7F00 <<< 96 + 1 <<< 80 + 16 <<< 64 + 2 <<< 59 + 1 <<< 54))
     begins (withRegs x 0x10000) opSt x 0 = true) ∧
    (let x := mkWord 0xC2 (hi (2 <<< 59 + 3 <<< 54))
     let b := withRegs x 0x10000
     begins b opDcmaint x 0 = true ∧ (b.opened 0 opDcmaint x).rangeOf 0x10000 0x80 = .ok .hbm ∧
     begins (withRegs x hostBase) opDcmaint x 0 = true ∧ (withRegs x hostBase).rangeOf hostBase 0x80 = .ok .host) := by decide +kernel

/-- The same tile under a nest of one level, its extension at 0x80 (Table 4.6). -/
def nestTile : Nat := mainTile + 1 <<< 403 + 0x80 <<< 464 + 256 <<< 296 + 0xC000 <<< 192
def nestExt : Nat := 1 <<< 456 + 1 <<< 448 + 1 <<< 568 + 1 <<< 560 + 0x10000 <<< 526 + 0x40000 + 0x50000 <<< 64 + 128 <<< 352 + 128 <<< 320
def roughTile : Nat := tileAt 9 9 128 64 64 (0x6000 <<< 168 + 8 <<< 152 + 0x7000 <<< 128 + 8 <<< 240)

def soundTile (b : Block) (more : TDesc → Nest → List SRange) (extra : TDesc → Bool) (view : TDesc → TDesc := id) : Bool :=
  (loadTile b 0 1 0 more extra view).toOption.isSome

theorem test_met_TileWordsStartJobs :
    (let x := mkWord 0x40 0
     let b := tiled x mainTile 128
     b.startsNow 0 opMtile x = true ∧ soundTile (b.opened 0 opMtile x) (fun _ _ => []) (fun _ => false) = true) ∧
    (let x := mkWord 0x48 0
     begins (tiled x roughTile 128) opRtile x 1 = true ∧ rtileBad (tileDescOf roughTile) = false) ∧
    (let x := mkWord 0x49 (hi (2 <<< 56))
     let b := tiled x mainTile 128
     b.startsNow 0 opFtile x = true ∧ ftHash x = false ∧ soundTile (b.opened 0 opFtile x) (ftileRanges x) (ftileBad x) (hashView x) = true) ∧
    (let x := mkWord 0xA1 0
     begins (tiled x (nestTile + (nestExt + hostBase + hostBase <<< 64) <<< 1024) 256) opLdt x 1 = true) := by decide +kernel

/-! ### Halting, registers, buffers -/

theorem test_met_HaltingAndSpindleReset :
    (up.hubUp = true ∧ (up.tile (tileOf 0)).powered = true ∧ mayAccess up .headstock) ∧
    (ctlRefusal up .engine 0).isSome = true ∧ (ctlRefusal { up with jtagReset := true } .jtag 0).isSome = true ∧
    (ctlRefusal { up with perst := true } .headstock 0).isSome = true ∧ (ctlRefusal (up.setTile 0 { powered := false }) .headstock 0).isSome = true ∧
    (let b := run 0 fun s => { s with hold := .swait { cell := 3, pc := 0x1000 }, haltReq := true }
     b.clocked = true ∧ (b.spd 0).haltReq = true ∧ (b.spd 0).halted = false ∧ (b.spd 0).drained = true ∧
     (b.spd 0).hold = .swait { cell := 3, pc := 0x1000 }) ∧
    (let b := run 0 fun s => { s with haltReq := true }
     (b.spd 0).haltReq = true ∧ (b.spd 0).halted = false ∧ (b.spd 0).drained = true ∧ (b.spd 0).hold = .none) ∧
    (let b := run 0 fun s => { s with haltReq := true, hold := .fence 1 false 2 }
     (b.spd 0).drained = true ∧ (b.spd 0).hold = .fence 1 false 2) ∧
    ((run 0 fun s => { s with haltReq := true, matrixQ := busyQ }).spd 0).drained = false ∧
    (let b := up.setSpd 0 { resetting := true }
     (b.spd 0).resetting = true ∧ (b.spd 0).faulted = false ∧ b.hubUp = true) ∧
    ((failed.spd 1).faulted = true ∧ ((run 0).spd 0).faulted = false ∧ ((run 0).spd 0).resetting = false ∧ ((run 0).spd 0).inService = true) ∧
    starts up 0 (entry 0x18 none 0 0 [256]) 0x18 (fun _ c => decide (255 < c.p 0)) = true ∧
    starts { up with removed := [255] } 0 (entry 0x18 none 0 0 [255]) 0x18 (fun b c => decide (c.p 0 ≤ 255) && !b.logicalIn (c.p 0)) = true ∧
    starts up 0 (entry 0x18 none 0 0 [255]) 0x18 (fun b c => decide (c.p 0 ≤ 255) && b.logicalIn (c.p 0)) = true := by
  refine ⟨⟨by decide +kernel, by decide +kernel, .inl rfl⟩, by decide +kernel, by decide +kernel, by decide +kernel, by decide +kernel, by decide +kernel,
    by decide +kernel, by decide +kernel, by decide +kernel, by decide +kernel, by decide +kernel, by decide +kernel, by decide +kernel, by decide +kernel⟩

theorem test_met_RegisterAndDebugAccess :
    (let b := run 0 fun s => { s with debugEn := true, halted := true }
     let spd := b.spd 0
     b.hubUp = true ∧ (b.tile (tileOf 0)).powered = true ∧ spd.debugEn = true ∧ spd.halted = true ∧ b.power ≠ .a2 ∧
     b.rangeOf 0xF01040000500 8 = .ok .control ∧ b.rangeOf 0xF80000000000 8 = .ok .debug ∧ b.rangeOf 0x700000000000 8 = .error .addressUnmapped ∧
     b.rangeOf 0x10000 8 = .ok .hbm ∧
     (0x5FFFF8 % 8 = 0 ∧ 0x5FFFF8 < 0x600000) ∧ (0x800FFFF8 % 8 = 0 ∧ 0x80000000 ≤ 0x800FFFF8 ∧ 0x800FFFF8 < 0x80100000) ∧
     (0x600000 % 8 = 0 ∧ 0x600000 ≤ 0x600000 ∧ 0x600000 < 0x80000000) ∧ 4 % 8 ≠ 0 ∧ ((run 0).spd 0).inDebug = false) ∧
    ((up.setTile 0 { powered := false }).hubUp = true ∧ ((up.setTile 0 { powered := false }).tile (tileOf 0)).powered = false) := by decide +kernel

theorem test_met_ManagementAndJtag :
    (up.auxGood = true ∧ up.power ≠ .a4 ∧ up.perst = false ∧ up.power = .a0 ∧ up.pcieWidth ≠ 0 ∧ up.jtagReset = false ∧ ({ up with perst := true } : Block).perst = true) ∧
    (let b : Block := { up with auxGood := false, power := .a4 }; b.auxGood = false ∧ b.power = .a4) ∧
    ({ up with jtagReset := true } : Block).jtagReset = true ∧ ({ up with pcieWidth := 0 } : Block).pcieWidth = 0 := by decide +kernel

/-- The job of the tile command at index 1: its second K chunk is next. -/
def someJob : TileJob :=
  { idx := 1, word := BitVec.ofNat 128 (mkWord 0x40 0), desc := BitVec.ofNat 1024 (mainTile + 256 <<< 340 - 64 <<< 340), curNt := some 0, kc := 1, nextNt := 1, ntEnd := 2 }
def jobbed (j : TileJob) : Block := run 0 fun s => { s with
  matrixQ := [{ idx := 1, w := BitVec.ofNat 128 (mkWord 0x40 0), begun := true }], nextIdx := 2, job := some j }

/-- The matrix part of a test: spindle 0 with job `j`, and the outcome `g` of what it reads. -/
def chunked (j : TileJob) (bad : Bool) : Bool :=
  let b := jobbed j
  let spd := b.spd 0
  let t := j.ctx 0
  let sp := if spd.isSpec j.idx then some j.idx else none
  let o := b.operands t
  b.arraysRun 0 && spd.thief.isNone && spd.job == some j && (b.jobMove {} 0).isNone && decide (j.kc < t.chunks) && t.nibbleBad o.1 0 j.kc == bad &&
    (if bad then !(o.2.jobFault 0 j.idx .invalidField).stalled
     else
       let counted := (o.2.countFor 0 0x04 1 sp).countFor 0 (t.rowEvent 0).1 (t.rowEvent 0).2 sp
       !(((counted.accumulate 0 o.1 t j.set 0 j.kc false).modJob 0 fun j => { j with kc := j.kc + 1 }).matrixPump {} 0).stalled)

/-- The N tile 0 of job `j` drains, with status `bad`. -/
def drains (b : Block) (j : TileJob) (bad : Bool) : Bool :=
  (b.jobMove {} 0).isNone && (match (b.spd 0).matrixQ.find? fun q => q.idx == j.idx with
    | some q => match b.drainTile {} 0 q (j.ctx 0) 0 0 with
      | (none, b') => !bad && !((b'.modJob 0 fun j => { j with toDrain := [] }).matrixPump {} 0).stalled
      | (some st, b') => bad && !(b'.jobFault 0 j.idx st).stalled
    | none => false)

theorem test_met_MatrixEventsAndStealing :
    (someJob.visiting = true ∧ someJob.curNt = some 0 ∧ chunked someJob false = true) ∧
    (let j := { someJob with toDrain := [(0, 0)], curNt := none, nextNt := 2, kc := 0 }
     j.toDrain = [(0, 0)] ∧ (jobbed j).lineRoom 0 true = true ∧ drains (jobbed j) j false = true ∧
     (let j := { j with desc := BitVec.ofNat 1024 (j.desc.toNat + 1 <<< 283 + (0x700000000000 - 0x8000) <<< 512) }
      drains (jobbed j) j true = true)) ∧
    (let j := { someJob with visiting := false, desc := BitVec.ofNat 1024 nestTile, nest := BitVec.ofNat 1024 nestExt }
     let b := run 0 fun s => { s with job := some j, flags := [((j.ctx 0).x.ready, { count := 1 })] }
     let spd := b.spd 0
     let t := j.ctx 0
     let taken := spd.modFlag t.x.ready LocalFlag.take
     b.arraysRun 0 = true ∧ spd.job = some j ∧ j.visiting = false ∧ t.d.nestEn = true ∧ (spd.flag t.x.ready).count ≠ 0 ∧
     tensorScaleBad taken t.d t.off = false ∧ (((run 0).spd 0).flag t.x.ready).count = 0 ∧
     ((b.setSpd 0 { taken with job := some { j with visiting := true, nextNt := 0, ntEnd := t.d.n / 64, curNt := none, kc := 0 } }).matrixPump {} 0).stalled = false) := by
  decide +kernel

/-- A job of four N tiles of which `n` have not begun. -/
def wideJob (n : Nat) : TileJob :=
  { someJob with kind := 2, word := BitVec.ofNat 128 (mkWord 0x49 (hi (1 <<< 56 + 1 <<< 58))), nextNt := 4 - n, ntEnd := 4, desc := BitVec.ofNat 1024 (mainTile + (256 - 64) <<< 364), marks := [1] }
def lent : Block := (jobbed (wideJob 3)).setTile 0 { stealEnable := true, stealMask := 0xFFFF, stealMinLeft := 0 }
/-- Spindle 1 has stolen N tile 3 of spindle 0's job. -/
def stealing (x : Stolen) : Block := (lent.modJob 0 fun j => { j with ntEnd := 3, stolen := [3] }).setSpd 1 { thief := some x }

theorem test_met_MatrixEventsAndStealing_steal :
    (lent.arraysRun 1 = true ∧ (lent.spd 1).cur = none ∧ (lent.spd 1).thief = none ∧ tileOf 0 = tileOf 1 ∧ (0 : Nat) ≠ 1 ∧
     (lent.spd 0).job = some (wideJob 3) ∧ lent.stealable (tileOf 1) 0 ≠ 0 ∧ ∀ u : Nat, u < 68 → tileOf u = tileOf 1 → u ≠ 0 → lent.stealable (tileOf 1) u = 0) ∧
    (∀ u : Nat, u < 68 → tileOf u = tileOf 1 → u ≠ 1 → (jobbed someJob).stealable (tileOf 1) u = 0) := by decide +kernel

theorem test_met_MatrixEventsAndStealing_stolen :
    (let x : Stolen := { victim := 0, idx := 1, nt := 3 }
     let b := stealing x
     let j := { wideJob 3 with ntEnd := 3, stolen := [3] }
     let t := j.ctx 0
     let o := b.operands t
     let counted := (o.2.countEvent 1 o.1.ctx 0x04 1).countEvent 1 o.1.ctx (t.rowEvent 3).1 (t.rowEvent 3).2
     b.arraysRun 1 = true ∧ (b.spd 1).thief = some x ∧ (b.spd 0).job = some j ∧ x.full = false ∧ x.kc < t.chunks ∧ t.rows 3 ≠ [] ∧
     t.skipped o.1 3 0 = false ∧ t.nibbleBad o.1 3 0 = false ∧
     ((counted.accumulate 1 o.1 t x.set 3 0 false).modSpd 1 fun z => { z with thief := some { x with kc := 1, full := decide (t.chunks ≤ 1) } }).stalled = false) := by decide +kernel

theorem test_met_MatrixEventsAndStealing_drained :
    let x : Stolen := { victim := 0, idx := 1, nt := 3, full := true }
    let j := { wideJob 3 with kc := 0, desc := BitVec.ofNat 1024 ((wideJob 3).desc.toNat + 1 <<< 284), ntEnd := 3, stolen := [3], word := BitVec.ofNat 128 (mkWord 0x49 (hi (2 <<< 58))) }
    let b := (stealing x).modJob 0 fun _ => j
    b.arraysRun 1 = true ∧ b.lineRoom 1 true = true ∧ x.full = true ∧ (match (b.spd 0).matrixQ.find? fun q => q.idx == 1 with
      | some q => match b.drainTile {} 1 q (j.ctx 0) x.set x.nt with
        | (none, b') => !((((b'.modSpd 1 fun z => { z with thief := none }).modJob 0 fun j => { j with stolen := [] }).matrixPump {} 0).stalled)
        | _ => false
      | none => false) = true := by decide +kernel

theorem test_met_BuffersAndDieCache :
    (let b := run 0 fun s => { s with gbuf := [{ engine := .vector, sector := 3, mask := 1, data := 7 }] }
     b.arraysRun 0 = true ∧ (b.spd 0).gbuf = [{ engine := .vector, sector := 3, mask := 1, data := 7 }]) ∧
    ((run 0).runs 0 = true ∧ (run 0).inMemory 0x10000 64 = true ∧ ((run 0).tileWrite {} 0 .store false 0x10000 (List.replicate 64 1)).stalled = false ∧
     (run 0).inMemory (2 ^ 47) 64 = false) ∧
    (let b := up.setTile 0 { wc := [{ line := 5 }] }
     b.clocked = true ∧ (b.tile 0).wc[0]? = some { line := 5 } ∧ (b.flushWhere {} 0 (· == { line := 5 })).stalled = false) ∧
    (let b := up.setTile 0 { fills := [{ line := 5 }], repartBusy := true }
     (b.tile 0).fills = [{ line := 5 }] ∧ b.clocked = true ∧ (b.tile 0).repartBusy = true) ∧
    (let b := up.setTile 0 { fills := [{ line := 5 }] }
     let b1 := b.modTile 0 fun tl => { tl with fills := [] }
     (b.tile 0).repartBusy = false ∧ (((b1.tile 0).dcSet 5).find 5).isNone = true) := by decide +kernel

theorem test_met_ScratchpadReadsLastWrite : tabWf 0 (({} : Ram).write 5 [1, 0, 2]).mem = true := by decide +kernel

/-! ### Memory, channels, cells -/

theorem test_met_EveryStepKeepsMemoryForm : State.reset.wf = true ∧ ∃ t, step State.reset = .next t := ⟨by decide +kernel, _, by unfold step; rfl⟩

theorem test_met_OnlyChannelsWriteMemory : Instr.a1Exit ≠ .coldReset ∧ Instr.a1Exit ≠ .perstAssert ∧ ∃ t, exec .a1Exit (st up) = .next t := by
  refine ⟨by simp, by simp, _, by unfold exec execA1Exit; rfl⟩

def someReq : Req := { line := 2 ^ 30, data := 0xAB, mask := 1 }
def waiting : Block := up.setChan 0 { queue := [someReq], transit := [someReq] }

theorem test_met_ServedWriteStoresMaskedBytes :
    (st waiting).wf = true ∧ (waiting.chan 0).queue = [someReq] ∧ (waiting.chan 0).selfRefresh = false ∧ (waiting.chan 0).state ≠ .failed ∧
    someReq.kind = .write ∧ (match exec (.channelServe 0 .clean) (st waiting) with
      | .next t => tget 0 t.dram.mem (64 * (memKey (waiting.place (64 * someReq.line)) / 64))
      | _ => 0) = 0xAB := by decide +kernel

theorem test_met_ChannelsServeInOrder :
    ((up.chan 0).queue = [] ∧ (up.chan 0).selfRefresh = false ∧ (waiting.chan 0).queue = [someReq] ∧ (waiting.chan 0).selfRefresh = false ∧
     someReq.kind ≠ .poison) ∧
    ((waiting.chan 0).transit = [someReq] ∧ (waiting.chan 0).queue.length < 4096 ∧ (∀ i n, someReq.src ≠ .kerf i n) ∧ waiting.chains = [] ∧
     waiting.hubLater = [] ∧ waiting.leaving = [] ∧ waiting.conns = []) ∧
    (({ waiting.chan 0 with queue := List.replicate 4096 someReq } : Channel).queue.length = 4096) ∧
    (({ waiting.chan 0 with selfRefresh := true } : Channel).selfRefresh = true) ∧
    (let o : LateOutcome := { src := .memSide 0 0x2000 0 0, addr := 0x10000 }
     ({ run 0 with outcomes := [o] } : Block).outcomes[0]? = some o ∧ ((run 0).spd 0).cur.isSome = true ∧ ((run 0).spd 0).started = true ∧
     ((run 0).spd 0).serial = 0 ∧ (up.spd 0).cur = none) := by
  refine ⟨by decide +kernel, ⟨by decide +kernel, by decide +kernel, (fun i n h => by cases h), by decide +kernel⟩, List.length_replicate, rfl, by decide +kernel⟩

def marked : Block := up.setChan 0 { queue := [{ kind := .mark, line := 2 ^ 30 }] }

theorem test_met_ScrubbingAndChannelLoss :
    (let x := up.chan 0
     up.memScrubEn = true ∧ up.perst = false ∧ x.selfRefresh = false ∧ x.state = .inService ∧ up.memoryDegraded = false ∧ x.queue.length < 4096 ∧
     (({} : Dram).line (memKey (0, 64 * x.scrubPos) / 64)).poisoned = false ∧ ({ up with memScrubEn := false } : Block).memScrubEn = false) ∧
    ((st marked).wf = true ∧ (marked.chan 0).queue = [{ kind := .mark, line := 2 ^ 30 }] ∧ (marked.chan 0).selfRefresh = false ∧ (marked.chan 0).state ≠ .failed ∧
     (match exec (.channelServe 0 .clean) (st marked) with
      | .next t => tget false t.dram.poison (memKey (marked.place (64 * 2 ^ 30)) / 64)
      | _ => false) = true) ∧
    (up.hubLost = false ∧ (({ waiting.chan 0 with state := .pendingOut } : Channel).state = .pendingOut)) := by decide +kernel

/-- Spindle 0 at word `x`; context 0 owns the first 256 cells of tile 0. -/
def celled (x : Nat) (f : Spindle → Spindle := id) : Block := (run x f).setTile 0 { synPart := [(0, (0, 256))] }

def sigWord : W120 := hi (5 <<< 82 + 1 <<< 42 + 2 <<< 37 + 0xFFFF <<< 112)
/-- Spindle 0 at an SSIG word that names cell 5 + s1. -/
def signalling (s1 : Word64) (f : Spindle → Spindle := id) : Block := celled (mkWord 0x30 sigWord) fun s => f { s with sregs := [(1, s1), (2, 7)] }
/-- Spindle 0 at a word of cell 5 + s1, with `more` bits. -/
def reading (op cell : Nat) (more : Nat := 0) (f : Spindle → Spindle := id) : Block := celled (mkWord op (hi (cell <<< 82 + 3 <<< 32 + more))) f

theorem test_met_CellWords :
    (let x := mkWord 0x30 sigWord
     let b := signalling 250
     let spd := b.spd 0
     let cell := (bits x 98 82 + (spd.reg (bits x 46 42)).toNat) % 2 ^ 64
     cell = 255 ∧ b.canIssue 0 x [bits x 46 42, bits x 41 37] = true ∧ b.stalled = false ∧ b.confirmedNow 0 = true ∧ zeros x [(81, 47), (36, 32), (31, 12)] = true ∧
     bit x 99 = false ∧ bits x 111 100 = 0 ∧ b.cellBad spd.ctx cell = none ∧ spd.overflow = false ∧ spd.stagingUsed + 16 ≤ 0x40000 ∧
     spd.stageWait = [] ∧ spd.stagesBefore spd.nextIdx = false ∧ b.cellOwned spd.ctx 256 = false) ∧
    (let x := mkWord 0x30 sigWord
     let b := signalling 250 fun s => { s with gougeQ := [{ idx := 0, w := BitVec.ofNat 128 (mkWord 0xE2 0) }] }
     b.canIssue 0 x [1, 2] = true ∧ b.confirmedNow 0 = true ∧ (b.spd 0).stagesBefore (b.spd 0).nextIdx = true ∧
     let o := signalling 250 fun s => { s with overflow := true }
     let a := o.setSpd 0 (o.spd 0).issued
     o.canIssue 0 x [1, 2] = true ∧ (o.spd 0).overflow = true ∧
     (a.applyEffect {} (a.issuer 0) (.signal (o.spd 0).nextIdx none 255 6)).stalled = false) ∧
    (let x := mkWord 0x30 sigWord
     let far := signalling 131067
     let off := signalling 251
     far.canIssue 0 x [1, 2] = true ∧ (5 + 131067) % 2 ^ 64 = 131072 ∧ (far.blankFault 0 1 .invalidField 0x30 0).stalled = false ∧
     off.canIssue 0 x [1, 2] = true ∧ (5 + 251) % 2 ^ 64 = 256 ∧ off.cellOwned 0 256 = false ∧ (off.blankFault 0 1 .accessDenied 0x30 0).stalled = false ∧
     (signalling 250 fun s => { s with brs := [{ idx := 0 }] }).canIssue 0 x [1, 2] = true ∧
     (signalling 250 fun s => { s with brs := [{ idx := 0 }] }).confirmedNow 0 = false) := by
  refine ⟨?_, ?_, ?_⟩ <;> decide +kernel

theorem test_met_CellWords_reads :
    (let x := mkWord 0x32 (hi (255 <<< 82 + 3 <<< 32))
     let b := reading 0x32 255
     b.canIssue 0 x [0, 3] = true ∧ b.confirmedNow 0 = true ∧ zeros x [(127, 99), (81, 47), (41, 37), (31, 12)] = true ∧
     b.cellBad (b.spd 0).ctx 255 = none ∧ b.frozen = none ∧ (({ b with frozen := some {} } : Block).cellMet (some 0) 255).frozen = some {} ∧
     (reading 0x32 255 0 fun s => { s with brs := [{ idx := 0 }] }).canIssue 0 x [0, 3] = true ∧
     (reading 0x32 255 0 fun s => { s with brs := [{ idx := 0 }] }).confirmedNow 0 = false) ∧
    (let x := mkWord 0x32 (hi (256 <<< 82 + 3 <<< 32))
     (reading 0x32 256).canIssue 0 x [0, 3] = true ∧ (reading 0x32 256).cellOwned 0 256 = false) ∧
    (let x := mkWord 0x31 (hi (255 <<< 82 + 3 <<< 32 + 1 <<< 112 + 1 <<< 81))
     let b := reading 0x31 255 (1 <<< 112 + 1 <<< 81)
     b.canIssue 0 x [0, 0, 3] = true ∧ b.confirmedNow 0 = true ∧ zeros x [(78, 47), (31, 12)] = true ∧ bit x 99 = false ∧ bit x 79 = false ∧
     bits x 111 100 = 0 ∧ ((0 : Word64).toNat + bits x 127 112) % 2 ^ 64 = 1 ∧ b.cellOwned 0 255 = true ∧ b.cellOwned 0 256 = false ∧
     (reading 0x31 256 (1 <<< 112)).canIssue 0 (mkWord 0x31 (hi (256 <<< 82 + 3 <<< 32 + 1 <<< 112))) [0, 0, 3] = true ∧
     (reading 0x31 255).canIssue 0 (mkWord 0x31 (hi (255 <<< 82 + 3 <<< 32))) [0, 0, 3] = true ∧
     (reading 0x31 255 (1 <<< 112 + 1 <<< 81) fun s => { s with brs := [{ idx := 0 }] }).confirmedNow 0 = false) := by
  refine ⟨?_, ?_, ?_⟩ <;> decide +kernel

def someSig : Sig := { cell := 5, amount := 2 ^ 63 - 1, src := 9 }

def otherSig : Sig := { cell := 32768, amount := 1, src := 9 }

theorem test_met_SignalAddsToCell :
    let b : Block := { up with sigs := [otherSig, someSig], cells := [(5, { count := 1 })] }
    b.sigs = [otherSig] ++ someSig :: [] ∧ cellTile otherSig.cell ≠ 0 ∧ cellTile someSig.cell = 0 ∧ b.sigReady someSig = true ∧ someSig ∉ [otherSig] ∧
    b.hubUp = true ∧ b.thermtripPin = false ∧ b.frozen = none ∧ tabWf {} b.cells = true ∧ ({ b with frozen := some {} } : Block).frozen = some {} ∧
    ((waiting.linesWait [2 ^ 30]) = true) := by decide +kernel

def someWait : Wait := { cell := 5, theta := 1, consume := true, rd := 3, pc := 0x1000 }
def waits (w : Wait) (n : Int) : Block := { run 0 fun s => { s with hold := .swait w, nextIdx := 2 } with cells := if n = 0 then [] else [(5, { count := n })] }

theorem test_met_PollsAndTimeoutsEndWaits :
    (let b := waits someWait 0
     let m := b.cellMet (some 0) 5
     b.runs 0 = true ∧ b.stalled = false ∧ (b.spd 0).hold = .swait someWait ∧ b.frozen = none ∧ (m.cell 5).count < someWait.theta ∧
     someWait.peerLostDue = false ∧ someWait.rd ≠ 0 ∧ (m.blankFault 0 1 .timeout 0x31 0).stalled = false ∧
     (let w := { someWait with rd := 0, peerLostDue := true }
      ((waits w 0).spd 0).hold = .swait w ∧ (((waits w 0).cellMet (some 0) 5).blankFault 0 1 .peerLost 0x31 0).stalled = false)) ∧
    (let b := waits someWait 1
     someWait.theta ≤ ((b.cellMet (some 0) 5).cell 5).count ∧ someWait.consume = true ∧ (b.spd 0).overflow = false ∧ (b.spd 0).stagingUsed + 16 ≤ 0x40000 ∧
     (b.spd 0).stageWait = [] ∧ (b.spd 0).stagesBefore ((b.spd 0).nextIdx - 1) = false ∧ tabWf {} b.cells = true) ∧
    (let w := { someWait with consume := false }
     let b := waits w 1
     (b.spd 0).hold = .swait w ∧ w.theta ≤ ((b.cellMet (some 0) 5).cell 5).count ∧ ({ b with frozen := some {} } : Block).frozen ≠ none) ∧
    (∀ w ∈ [someWait, { someWait with consume := false }, { someWait with peerLostDue := true }], ∀ n ∈ [(0 : Int), 1],
     let b := ({ up with cells := if n = 0 then [] else [(5, { count := n })] } : Block).setLane 0 0 { busy := true, waiting := some w }
     (b.lane 0 0).waiting = some w ∧ b.hubUp = true ∧ b.frozen = none ∧ b.hubAsking 289 = false ∧
     (if n = 0 then ((b.cellMet none 5).cell 5).count < w.theta else w.theta ≤ ((b.cellMet none 5).cell 5).count)) ∧
    (let b : Block := { up with sigs := [otherSig] }
     ∀ g ∈ b.sigs, g.island = none → cellTile g.cell = cellTile 5 → b.sigReady g = false) := by
  refine ⟨?_, ?_, ?_, ?_, ?_⟩ <;> decide +kernel

theorem test_met_CellSets :
    (let b : Block := { celled 0 with numVfs := 2 }
     (131071 < 131072 ∧ b.frozen = none ∧ b.hubUp = true ∧ tabWf ({} : Cell) b.cells = true) ∧ (b.fnLive 0 = true ∧ b.sigs = []) ∧
     (b.fnLive 1 = true ∧ b.cellOwned 0 255 = true) ∧ (b.fnLive 2 = true ∧ b.cellOwned 1 255 = false) ∧ b.fnLive 3 = false) ∧
    (let b : Block := (({ celled 0 with numVfs := 2, sigs := [{ cell := 7, after := some 1 }] } : Block).setChan 0 { transit := [{ src := .host 1 }] })
     b.fnLive 1 = true ∧ b.cellOwned 0 255 = true ∧
     ((b.countPort 64 8).ungate.cellFirst none 255).sigs.any (fun g => g.after == some 1 && cellTile g.cell == cellTile 255) = true) ∧
    mayAccess up .headstock := by
  refine ⟨by decide +kernel, by decide +kernel, .inl rfl⟩

def someDump : Freeze := { dump := { ring := 0, dest := 0x100000 }, bytes := [1] }
def someNotify : Notify := { fn := 0, vec := 17, cell := 5, theta := 1, ring := 0 }

theorem test_met_DumpsAndNotifications :
    starts live 1 (entry 0x60 none 0x10000 (2 ^ 24) [1, 0]) 0x60 (fun b c =>
      c.p 1 == 0 && b.frozen.isNone && (match dumpScope c with
        | some scope => bufOk c.entry (64 + 16 * (b.dumpCells scope).length + 336 * 32)
        | none => false)) = true ∧
    starts { live with frozen := some someDump, trace := { base := 0x800000 } } 1 (entry 0x60 none 0 0 [1, 1]) 0x60 (fun b c =>
      c.p 1 == 1 && b.frozen.isSome && b.trace.logValid && (match dumpScope c with
        | some scope => decide (entBuf c.entry + (64 + 16 * (b.dumpCells scope).length + 336 * 32) ≤ 0x400000)
        | none => false)) = true ∧
    starts live 1 (entry 0x60 none 0 0 [3, 0]) 0x60 (fun _ c => (dumpScope c).isNone) = true ∧
    (let b : Block := { up with frozen := some someDump, dumps := [{ ring := 0 }] }
     b.frozen = some someDump ∧ someDump.dump.toTrace = false ∧
     (({ b with frozen := none } : Block).hostWrite someDump.dump.dest someDump.bytes |>.finish 0 someDump.dump.entry .success 0).dumps = [{ ring := 0 }]) ∧
    starts live 0 (entry 0x62 none 0 0 [131071, 17, 1]) 0x62 (fun _ c =>
      c.ctx.isNone && decide (c.p 0 < 131072) && decide (17 ≤ c.p 1) && decide (c.p 1 ≤ 63)) = true ∧
    starts live 0 (entry 0x62 none 0 0 [131072, 17, 1]) 0x62 (fun _ c => decide (131072 ≤ c.p 0)) = true ∧
    (let b : Block := { up with notifies := [someNotify], cells := [(5, { count := 1 })] }
     b.notifies.find? (fun x => x.fn == 0 && x.vec == 17) = some someNotify ∧ b.hubUp = true ∧ b.frozen = none ∧
     someNotify.theta ≤ ((b.cellMet none 5).cell 5).count ∧ ((up.cellMet none 5).cell 5).count < someNotify.theta) := by
  refine ⟨?_, ?_, ?_, ?_, ?_, ?_, ?_⟩ <;> decide +kernel

/-! ### The mailbox -/

def rung : Block := up.setRing 0 { enable := true, cmdProd := 1 }

theorem test_met_RingPagesAndFetch :
    (let b := { up with numVfs := 2 }
     b.ringOf 1 1 = none ∧ b.ringOf 0 0 = some 0 ∧ b.ringOf 0 16 = some 16 ∧ b.ringOf 2 0 = some 2 ∧
     ((0x1000 : Word32) - (b.ring 0).cmdCons).toNat ≤ 4096 ∧ 4096 < ((0x1001 : Word32) - (b.ring 0).cmdCons).toNat ∧ (b.ring 0).enable = false) ∧
    (let g := rung.ring 0
     rung.takes = true ∧ g.enable = true ∧ g.stopped = false ∧ g.cmdProd ≠ g.cmdCons ∧ g.room ≠ 0 ∧ rung.ready = true ∧
     ∀ h ∈ g.history, h.tag ≠ entTag (entry 0x01 none 0x1000 256 [])) ∧
    (let b : Block := { rung with ready := false, bootStage := 5 }
     b.takes = true ∧ b.ready = false ∧ b.restarting = false ∧ recoveryOp 0x10 = false) := by decide +kernel

/-- The entry is presented and the common checks refuse it. -/
def refused (b : Block) (r : Nat) (e : Entry) (op : Nat) : Bool :=
  (asked r e b).presents r e op && (match ((asked r e b).started r).cmdCheck r e with
    | .ok _ => false
    | .error st => st == .accessDenied)

theorem test_met_QueriesAndRefusals :
    (refused live 1 (entry 0x10 none 0 0 [0, 0, 0, 5]) 0x10 = true ∧ (asked 1 (entry 0x10 none 0 0 [0, 0, 0, 5]) live).hubAsking (272 + 1) = false ∧
     (catRow 0x10).any (fun x => x.1 == .a) = true) ∧
    (refused live 1 (entry 0x80 none 0x1000 4096 [0, 4096]) 0x80 = true ∧ refused live 1 (entry 0x05 none 0 0 [0, 0, 0]) 0x05 = true ∧
     refused live 1 (entry 0x05 none 0 0 [1, 0, 0]) 0x05 = true ∧ refused live 1 (entry 0x05 none 0 0 [2, 0, 0]) 0x05 = true ∧
     refused live 1 (entry 0x82 none 0 0 [0]) 0x82 = true) ∧
    (let e := entry 0x0F none 0 0 []
     catRow (entOpcode e) = none ∧ entClean e = true ∧ (asked 0 e up).presents 0 e (entOpcode e) = true) ∧
    starts up 0 (entry 0x01 none 0x1000 256 []) 0x01 (fun _ c => bufOk c.entry 256) = true ∧
    starts up 0 (entry 0x01 none 0x1000 255 []) 0x01 (fun _ c => !bufOk c.entry 256) = true ∧
    starts live 1 (entry 0x72 none 0 0 []) 0x72 (fun _ _ => true) = true ∧
    starts live 1 (entry 0x61 none 0 0 [7]) 0x61 (fun b _ => b.cnt.trigger.isNone && b.cnt.writing.isNone) = true := by decide +kernel

theorem test_met_ConfigurationCommandsSetFields :
    starts up 0 (entry 0x02 none 0 0 [0x100000]) 0x02 (fun b c => decide (b.streams = [] ∧ b.placed (c.p 0) (128 * streamCount) 128 = true)) = true ∧
    starts up 0 (entry 0x02 none 0 0 [0x100001]) 0x02 (fun _ c => decide (c.p 0 % 128 ≠ 0)) = true ∧
    starts up 0 (entry 0x03 none 0 0 [0, 0x100000, 0x200000]) 0x03 (fun b c =>
      decide (b.fnEnabled (c.p 0) = true ∧ (c.p 2 ≤ c.p 1 ∨ b.inMemory (c.p 1) (c.p 2 - c.p 1) = true))) = true ∧
    starts up 0 (entry 0x04 none 0 0 [255, 1, 6, 0xB80A, 63, 63, 8, 0xFD00 <<< 112]) 0x04 (fun b c =>
      decide (c.p 1 ≤ 1 ∧ c.p 2 ≤ 6 ∧ c.p 4 ≤ 63 ∧ c.p 5 ≤ 63 ∧ c.p 6 ≤ 8 ∧ c.p 7 % 8 = 0 ∧ ∀ x ∈ b.ctxs, x.2.krf.jobEn = false)) = true ∧
    starts up 0 (entry 0x04 none 0 0 [255, 1, 7, 0xB80A, 63, 63, 8, 0]) 0x04 (fun _ c => decide (6 < c.p 2)) = true ∧
    starts up 0 (entry 0x05 none 0 0 [0, 0, 0xFFFFFFFF01]) 0x05 (fun _ c =>
      decide (memAdminOp c.entry = 0 ∧ c.p 0 = 0 ∧ zeros (c.p 2) [(63, 40), (7, 1)] = true)) = true ∧
    starts up 0 (entry 0x05 none 0 0 [3, 0, 0]) 0x05 (fun _ c => decide (memAdminOp c.entry ≠ 1 ∧ memAdminOp c.entry ≠ 2 ∧ 2 < c.p 0)) = true ∧
    starts up 0 (entry 0x05 none 0 0 [1, 383, 0]) 0x05 (fun _ c => decide (memAdminOp c.entry = 1 ∧ c.p 1 ≤ 383)) = true ∧
    starts up 0 (entry 0x05 none 0 0 [2, 0, 16]) 0x05 (fun _ c => decide (memAdminOp c.entry = 2 ∧ c.p 2 ≤ 16)) = true ∧
    starts up 0 (entry 0x06 none 0 0 [3, 12, 0xFFFF00F1]) 0x06 (fun b c =>
      decide (c.p 0 ≤ 3 ∧ c.p 1 ≤ 12 ∧ zeros (c.p 2) [(63, 32), (15, 8), (3, 1)] = true ∧ (b.tile (c.p 0)).burlWays ≠ c.p 1)) = true ∧
    starts up 0 (entry 0x06 none 0 0 [3, 0, 0xFFFF00F1]) 0x06 (fun b c =>
      decide (c.p 0 ≤ 3 ∧ c.p 1 ≤ 12 ∧ zeros (c.p 2) [(63, 32), (15, 8), (3, 1)] = true ∧ (b.tile (c.p 0)).burlWays = c.p 1 ∧
        (b.tile (c.p 0)).repartBusy = false)) = true ∧
    starts up 0 (entry 0x16 none 0 0 [255, 1, 1, 15]) 0x16 (fun _ c => decide (c.p 0 + c.p 1 ≤ 256 ∧ c.p 2 ≤ 1 ∧ c.p 3 ≤ 15)) = true ∧
    starts up 0 (entry 0x17 none 0 0 [8 <<< 20 + 10 <<< 4 + 1]) 0x17 (fun b c =>
      decide (zeros (c.p 0) [(63, 48), (19, 8), (3, 3), (1, 1)] = true ∧ bits (c.p 0) 7 4 ≤ 10 ∧ 0x800000 ≤ bits (c.p 0) 47 20 * 2 ^ 20 ∧
        bits (c.p 0) 47 20 * 2 ^ 20 + 2 ^ (20 + bits (c.p 0) 7 4) ≤ b.hbmTop)) = true ∧
    (bit (8 <<< 20) 0 = false ∧ up.trace.shadow = []) ∧
    starts up 0 (entry 0x70 none 0 0 [3600, 4000]) 0x70 (fun _ c => decide (1000 ≤ c.p 0 ∧ c.p 0 ≤ 3600 ∧ c.p 0 ≤ c.p 1 ∧ c.p 1 ≤ 4000)) = true ∧
    starts up 0 (entry 0x70 none 0 0 [999, 4000]) 0x70 (fun _ c => decide (c.p 0 < 1000)) = true ∧
    starts live 1 (entry 0x71 none 0 0 [255, 0xFE]) 0x71 (fun _ c => decide (c.p 1 = 0xFE)) = true ∧
    starts live 1 (entry 0x71 none 0 0 [255, 0xFF]) 0x71 (fun _ c => decide (c.p 1 = 0xFF)) = true ∧
    starts live 1 (entry 0x71 none 0 0 [255, 0x10]) 0x71 (fun _ c => decide (0x0F < c.p 1 ∧ c.p 1 < 0xFE)) = true := by
  refine ⟨?_, ?_, ?_, ?_, ?_, ?_, ?_, ?_, ?_, ?_, ?_, ?_, ?_, ?_, ?_, ?_, ?_, ?_, ?_⟩ <;> decide +kernel

/-- Slot 1 committed, slot 0 booted. -/
def committed : Block := { up with store := { up.store with slots := [(1, { mark := 2 })] } }
def flashing (e : Entry) : Block := { up with flashWork := [(e, [1])] }

theorem test_met_FirmwareCommands :
    starts up 0 (entry 0x80 none 0x1000 4096 [2 ^ 25 - 4096, 4096]) 0x80 (fun _ c =>
      decide (c.p 0 % 4096 = 0 ∧ c.p 1 % 4096 = 0 ∧ 4096 ≤ c.p 1 ∧ c.p 1 ≤ 2 ^ 20 ∧ c.p 0 + c.p 1 ≤ 2 ^ 25 ∧ bufOk c.entry (c.p 1) = true)) = true ∧
    starts up 0 (entry 0x80 none 0x1000 4096 [1, 4096]) 0x80 (fun _ c => decide (c.p 0 % 4096 ≠ 0)) = true ∧
    starts committed 0 (entry 0x81 none 0 0 []) 0x81 (fun b _ => decide ((b.slot b.inactive).mark ≠ 0)) = true ∧
    starts up 0 (entry 0x81 none 0 0 []) 0x81 (fun b _ => decide ((b.slot b.inactive).mark = 0)) = true ∧
    starts committed 0 (entry 0x82 none 0 0 [0]) 0x82 (fun b c => decide (fwWhen c.entry = 0 ∧ c.p 0 = 0 ∧ (b.slot b.inactive).mark = 2)) = true ∧
    starts up 0 (entry 0x82 none 0 0 [0]) 0x82 (fun b c => decide (fwWhen c.entry ≠ 1 ∧ (b.slot b.inactive).mark ≠ 2)) = true ∧
    starts committed 0 (entry 0x82 none 0 0 [1]) 0x82 (fun b c =>
      decide (fwWhen c.entry = 1 ∧ b.restarting = false ∧ b.runSlot ≤ 1 ∧ (b.slot b.inactive).mark = 2 ∧ ∀ x ∈ b.ctxs, x.2.state = .free)) = true ∧
    starts up 0 (entry 0x82 none 0 0 [1]) 0x82 (fun b c => decide (fwWhen c.entry = 1 ∧ (b.slot b.inactive).mark ≠ 2)) = true ∧
    starts { up with runTrial := true } 0 (entry 0x83 none 0 0 []) 0x83 (fun b _ => b.runTrial) = true ∧
    starts up 0 (entry 0x83 none 0 0 []) 0x83 (fun b _ => !b.runTrial) = true ∧
    starts up 0 (entry 0x84 none 0x1000 4096 [7]) 0x84 (fun _ _ => true) = true ∧
    (∀ op ∈ [0x80, 0x81, 0x84], let e := entry op none 0x1000 4096 []
     (flashing e).takes = true ∧ (flashing e).restarting = false ∧ (flashing e).flashWork = [(e, [1])] ∧ entOpcode e = op) ∧
    starts up 0 (entry 0x19 none 0 0 []) 0x19 (fun b _ => b.ready && !b.restarting) = true ∧
    (let b : Block := { up with ready := false, restarting := true }
     b.hubUp = true ∧ b.restarting = true ∧ ∀ r, r < 17 → (b.ring r).taken = [] ∧ (b.ring r).events = []) := by
  refine ⟨?_, ?_, ?_, ?_, ?_, ?_, ?_, ?_, ?_, ?_, ?_, ?_, ?_, ?_⟩ <;> decide +kernel

/-! ### Contexts, tables, jobs, streams -/

/-- A window of 16 pages from page 16 on, handles 0 to 63; and one that ends beyond the scratchpad. -/
def someWin : Nat := 16 + 16 <<< 16 + 63 <<< 38
def wideWin : Nat := 1536 + 1 <<< 16

theorem test_met_ContextCommands :
    starts up 0 (entry 0x10 none 0 0 [0, 1, 1, 5]) 0x10 (fun b c => decide ((b.ctx c.c).state = .free ∧ c.p 1 ≤ 1 ∧ c.p 2 ≤ 1)) = true ∧
    starts live 0 (entry 0x10 none 0 0 [0, 1, 1, 5]) 0x10 (fun b c => decide ((b.ctx c.c).state = .live)) = true ∧
    starts live 0 (entry 0x12 none 0 0 [0, 255, 1, someWin]) 0x12 (fun b c =>
      decide (c.p 1 + c.p 2 ≤ 256 ∧ zeros (c.p 3) [(63, 44), (31, 27), (15, 11)] = true ∧ bits (c.p 3) 10 0 + bits (c.p 3) 26 16 ≤ 1536 ∧ b.spindles = [])) = true ∧
    starts live 0 (entry 0x12 none 0 0 [0, 255, 1, wideWin]) 0x12 (fun _ c => decide (1536 < bits (c.p 3) 10 0 + bits (c.p 3) 26 16)) = true ∧
    starts live 0 (entry 0x13 none 0 0 [0, 1, 8, 4, 0x100000]) 0x13 (fun b c =>
      decide (c.p 2 ≤ 8 ∧ c.p 3 ≤ 2 ^ 26 ∧ c.p 4 % 65536 = 0 ∧ c.p 4 < 2 ^ 48 ∧ (b.pool c.c).freePages = (b.pool c.c).pages ∧ 0 < c.p 3 ∧
        b.inMemory (c.p 4) (c.p 3 * 65536 + 8 * c.p 3) = true)) = true ∧
    starts live 0 (entry 0x13 none 0 0 [0, 1, 8, 0, 0x100000]) 0x13 (fun b c =>
      decide (c.p 2 ≤ 8 ∧ c.p 3 = 0 ∧ c.p 4 % 65536 = 0 ∧ c.p 4 < 2 ^ 48 ∧ (b.pool c.c).freePages = (b.pool c.c).pages)) = true ∧
    starts live 0 (entry 0x13 none 0 0 [0, 1, 9, 0, 0x100000]) 0x13 (fun _ c => decide (8 < c.p 2)) = true ∧
    starts live 0 (entry 0x14 none 0 0 [0, 1, 31, 0, 0, 0, 32767, 128, 127, 0, 1]) 0x14 (fun b c =>
      decide (c.p 1 ≤ 1 ∧ 31 ≤ c.p 2 ∧ (b.ctx c.c).krf.jobEn = false ∧ b.inChuck c.c = false ∧
        (∀ t : Nat, t < 4 → c.p (3 + t) < 32768 ∧ c.p (3 + t) + c.p (7 + t) ≤ 32768 ∧ (b.tile t).synPart = []) ∧ 256 ≤ c.p 7 + c.p 8 + c.p 9 + c.p 10)) = true ∧
    starts live 0 (entry 0x15 none 0 0 [0, 1, 1, 15, 65536]) 0x15 (fun _ c => decide (c.p 1 ≤ 1 ∧ c.p 2 ≤ 1 ∧ c.p 4 ≤ 65536)) = true ∧
    starts live 0 (entry 0x15 none 0 0 [0, 1, 1, 15, 65537]) 0x15 (fun _ c => decide (65536 < c.p 4)) = true ∧
    starts live 0 (entry 0x11 none 0 0 [0]) 0x11 (fun b c =>
      [0, 1, 2, 3].all (fun p => (b.rack (rackOf c.c p)).isEmpty && !(b.lane c.c p).busy) && b.spindles.isEmpty && b.chains.isEmpty && b.conns.isEmpty) = true ∧
    (let b := up.setCtx 0 { state := .tearing }
     (b.ctx 0).state = .tearing ∧ b.hubUp = true ∧ b.ctxInFlight 0 = false ∧ (b.ring 0).taken = [] ∧ b.spindles = [] ∧ b.streams = [] ∧
     b.tables = [] ∧ b.pins = []) ∧
    (let b := (up.setCtx 0 { state := .tearing }).setTile 0 { wc := [{ line := 5 }] }; b.ctxInFlight 0 = true) := by
  refine ⟨?_, ?_, ?_, ?_, ?_, ?_, ?_, ?_, ?_, ?_, ?_, ?_, ?_⟩ <;> decide +kernel

/-- What the hub reads at `a`, where nothing is wrong. -/
def hubOk (b : Block) (a n : Nat) (f : List Byte → Bool) : Bool :=
  match hubRead {} b a n with
  | (.success, bs, _) => f bs
  | _ => false

def blankDesc : Nat := 0x1000 + 8 <<< 64

theorem test_met_TablesAndPushes :
    starts (live.hubWrite 0x20000 (leBytes 128 verTable)) 1 (entry 0x20 none 0 0 [5, 0x20000]) 0x20 (fun b c =>
      decide (c.p 0 < 4096 ∧ c.p 1 % 128 = 0 ∧ tfind b.tables (c.p 0) = none) && hubOk b (c.p 1) 128 fun bs =>
        let d := tableDesc (leNat bs)
        !b.tableBad d && d.tableId == c.p 0 && d.versioned) = true ∧
    starts live 1 (entry 0x20 none 0 0 [4096, 0x20000]) 0x20 (fun _ c => decide (4096 ≤ c.p 0)) = true ∧
    starts { live with tables := [(5, { context := 0 })] } 1 (entry 0x21 none 0 0 [5]) 0x21 (fun b c =>
      (tfind b.tables (c.p 0)).any (fun t => t.context == c.c) && [0, 1].all (fun k => b.readerCount (c.p 0) k == 0 && b.burlCount (c.p 0) k == 0) &&
        b.pins.isEmpty) = true ∧
    starts live 1 (entry 0x21 none 0 0 [5]) 0x21 (fun b c => decide (tfind b.tables (c.p 0) = none)) = true ∧
    (∀ quota ∈ [2, 1], starts ((up.setCtx 0 { state := .live, sched := { enable := true, quota } }).hubWrite 0x20000
        ((List.range 2).flatMap fun _ => leBytes 64 blankDesc)) 1 (entry 0x40 none 0 0 [2, 0x20000]) 0x40 (fun b c =>
      decide (0 < c.p 0 ∧ c.p 0 ≤ 64 ∧ c.p 1 % 64 = 0) && hubOk b (c.p 1) (64 * c.p 0) fun bs =>
        ((List.range (c.p 0)).map fun i => leNat (slice bs (64 * i) 64)).all (fun d => descCheck b c.c d == none) && b.rackFull c.c (c.p 0) == (quota == 1)
        && !b.trace.enable) = true) ∧
    starts live 1 (entry 0x40 none 0 0 [65, 0x20000]) 0x40 (fun _ c => decide (64 < c.p 0)) = true := by
  refine ⟨?_, ?_, ?_, ?_, ?_, ?_⟩ <;> decide +kernel

def joined : Block := up.setCtx 0 { state := .live, krf := { jobEn := true, peers := 1, peerBase := 0x20000 } }
def lostPeer : Block := { joined with conns := [(0, { ctx := 0, state := .lost })] }
/-- A chain of four positions, numbered 7, of one slice (Table 16.11); peer 0 comes before position `pos` and peer 1 after it. -/
def chainWord (pos : Nat) : Nat :=
  7 <<< 992 + 4 <<< 979 + pos <<< 966 + 1 <<< 942 + 1 <<< 938 + 4 <<< 868 + 1 <<< 856 + 0x40000 <<< 800 + (if pos = 0 then 0 else 0x50000) <<< 704
    + 0x60000 <<< 640
/-- A chain descriptor at position `pos`, and the chain armed with it. -/
def chainAt (pos : Nat) : Chain := { ctx := 0, descAddr := 0x30000, desc := BitVec.ofNat 1024 (chainWord pos) }

theorem test_met_JobCommands :
    starts live 1 (entry 0x50 none 0 0 [7, 1, 2, 1, 2 ^ 14 - 1, 0x20000, 2 ^ 63 - 1]) 0x50 (fun b c =>
      let n := c.p 1
      decide (n ≤ 4096 ∧ b.openConns + n ≤ 16384 ∧ c.p 2 ≤ 2 ∧ c.p 3 ≤ 1 ∧ c.p 4 < 2 ^ 14 ∧ c.p 6 < 2 ^ 63 ∧ c.p 5 % 64 = 0 ∧
        (b.ctx c.c).krf.jobEn = false ∧ b.region (c.p 5) = .hbm ∧ b.region (c.p 5 + 64 * n - 1) = .hbm) && hubOk b (c.p 5) (64 * n) fun _ => true) = true ∧
    starts live 1 (entry 0x50 none 0 0 [7, 4097, 2, 1, 0, 0x20000, 0]) 0x50 (fun _ c => decide (4096 < c.p 1)) = true ∧
    starts live 1 (entry 0x51 none 0 0 []) 0x51 (fun _ _ => true) = true ∧
    starts lostPeer 1 (entry 0x52 none 0 0 [0]) 0x52 (fun b c => decide (b.connOf c.c (c.p 0) = some 0 ∧ (b.conn 0).state = .lost)) = true ∧
    starts { joined with conns := [(0, { ctx := 0, state := .up })] } 1 (entry 0x52 none 0 0 [0]) 0x52 (fun b c =>
      decide (b.connOf c.c (c.p 0) = some 0 ∧ (b.conn 0).state ≠ .lost)) = true ∧
    starts joined 1 (entry 0x53 none 0 0 [1, 0xFF, 2 ^ 63 - 1]) 0x53 (fun b c =>
      decide ((b.ctx c.c).krf.jobEn = true ∧ c.p 0 ≤ 1 ∧ c.p 1 = 0xFF ∧ c.p 2 < 2 ^ 63)) = true ∧
    starts joined 1 (entry 0x53 none 0 0 [1, 1, 2 ^ 63 - 1]) 0x53 (fun b c =>
      decide ((b.ctx c.c).krf.jobEn = true ∧ c.p 0 ≤ 1 ∧ c.p 1 ≤ 1 ∧ c.p 2 < 2 ^ 63)) = true ∧
    starts live 1 (entry 0x53 none 0 0 [1, 1, 0]) 0x53 (fun b c => decide ((b.ctx c.c).krf.jobEn = false)) = true ∧
    (∀ begin ∈ [0, 1], starts { joined with chains := [chainAt 0] } 1 (entry 0x54 none 0 0 [9, begin, 0x30000]) 0x54 (fun b c =>
      decide (b.chains.find? (fun ch => ch.ctx == c.c && ch.descAddr == c.p 2) = some (chainAt 0) ∧ c.p 1 = begin ∧ b.sweeps.length < 4 ∧
        (chainDesc (chainAt 0).desc.toNat).pos = 0)) = true) ∧
    starts { joined with chains := [chainAt 0] } 1 (entry 0x54 none 0 0 [9, 2, 0x30000]) 0x54 (fun _ c => decide (1 < c.p 1)) = true ∧
    starts joined 1 (entry 0x54 none 0 0 [9, 0, 0x30000]) 0x54 (fun b c =>
      decide ((b.chains.find? fun ch => ch.ctx == c.c && ch.descAddr == c.p 2) = none)) = true := by
  refine ⟨?_, ?_, ?_, ?_, ?_, ?_, ?_, ?_, ?_, ?_, ?_⟩ <;> decide +kernel

/-- A stream entry of context 0 (Table 11.1) in state `k`: top-p 1.0, temperature 1.0, ring at 0x60000 of 64 slots, page list at
0x70000 of 16 entries, max_pos 16, at position `pos`, with `blocks` blocks. -/
def streamEntry (k pos blocks : Nat) : Nat :=
  k + f32One <<< 864 + f32One <<< 896 + 6 <<< 523 + 0x60000 <<< 528 + 0x70000 <<< 464 + 16 <<< 440 + 16 <<< 704 + pos <<< 640 + blocks <<< 416
def streamOf (k pos blocks : Nat) : Stream := { entry := BitVec.ofNat 1024 (streamEntry k pos blocks) }
/-- The stream table at 0x100000 and a pool of 8 pages of context 0 at 0x4000000, all free; entry 3 as the host wrote it; list and word of page 5. -/
def pooled (streams : Tab Stream) : Block :=
  (({ up with
      streamTable := some 0x100000, streams
      ctxs := [(0, { state := .live, pool := { base := 0x4000000, pages := 8, freePages := 8, pppLog2 := 1 } })] }).hubWrite 0x4080000
    ((List.range 8).flatMap fun k => leBytes 4 (if k = 5 then 1 else 0) ++ leBytes 4 k)).hubWrite (0x100000 + 128 * 3) (leBytes 128 (streamEntry 0 2 0))

/-- The premises that the stream commands share, on ring 1 for stream `id`. -/
def streamStarts (b : Block) (op : Nat) (ps : List Nat) (f : Sb → Block → Cmd → Bool) : Bool :=
  starts b 1 (entry op none 0x1000 128 ps) op fun b c =>
    !b.hubAsking 273 && b.streamTable.isSome && decide (c.p 0 < 131072) && (b.stream (c.p 0)).all (fun t => t.ctx == c.c) && f { b, who := 273 } b c

theorem test_met_StreamCommands :
    streamStarts (pooled []) 0x30 [3, 1] (fun x0 b c =>
      decide (b.stream 3 = none ∧ c.p 1 ≤ 1) && (match x0.hostEntry {} 3 with
        | (.success, h, x1) => !x1.b.entryBad c.c h &&
          (match x1.allocList {} c.c h.pageList 0 ((h.pos / (x1.b.pool c.c).ppp + 1) * (x1.b.pool c.c).groups) with
          | (.success, _, x2) => x2.miss == [] && x2.who == 273
          | _ => false)
        | _ => false)) = true ∧
    streamStarts (pooled [(3, streamOf 2 0 1)]) 0x30 [3, 1] (fun _ b _ => (b.stream 3).isSome) = true ∧
    streamStarts (pooled []) 0x31 [3, 4, 0] (fun _ b c => decide (b.stream (c.p 1) = none)) = true ∧
    streamStarts ((pooled [(4, streamOf 2 2 1)]).hubWrite 0x70000 (leBytes 4 5)) 0x31 [3, 4, 2] (fun x0 b c =>
      let p := b.pool c.c
      match b.stream 3, b.stream (c.p 1), x0.hostEntry {} 3 with
      | none, some par, (.success, h, x1) =>
        par.ctx == c.c && par.state != 6 && !x1.b.entryBad c.c h && decide (c.p 2 % p.ppp = 0 ∧ c.p 2 ≤ par.pos ∧ c.p 2 ≤ h.pos ∧ c.p 2 / p.ppp ≤ par.blocks) &&
        (match x1.pageList {} par.pageList 0 (c.p 2 / p.ppp * p.groups) with
        | (.success, l, x2) => l == [5] && l.all (fun k => decide (k < p.pages) &&
            (let w := (x2.num {} (p.word k) 4).2.1; w % 65536 != 65535 && w % 65536 != 0 && w / 2 ^ 28 == c.c)) &&
          (let r := x2.openStream {} c.c 3 h false l
           r.2.miss == [] && r.2.who == 273 && (match r.1 with
            | .done st _ _ => st == .success
            | _ => false))
        | _ => false)
      | _, _, _ => false) = true ∧
    (∀ k ∈ [2, 3], streamStarts (pooled [(3, streamOf k 0 1)]) 0x32 [3] (fun _ b _ => (b.stream 3).any fun t => t.state == k && !t.inStep) = true ∧
      streamStarts (pooled [(3, streamOf (k + 8) 0 1)]) 0x32 [3] (fun _ b _ => (b.stream 3).any fun t => t.state == k && t.inStep) = true) ∧
    streamStarts (pooled [(3, streamOf 1 0 1)]) 0x32 [3] (fun _ b _ => (b.stream 3).any fun t => t.state != 2 && t.state != 3) = true ∧
    streamStarts (pooled [(3, streamOf 1 0 1)]) 0x33 [3] (fun _ b _ => (b.stream 3).any fun t => t.state == 1) = true ∧
    streamStarts (pooled [(3, streamOf 2 0 1)]) 0x33 [3] (fun _ b _ => (b.stream 3).any fun t => t.state != 1) = true ∧
    streamStarts (pooled [(3, streamOf 2 0 1)]) 0x34 [3] (fun x0 b _ => (b.stream 3).any (fun t => !t.inStep) && (x0.closeStream {} 3).miss == [] &&
      (x0.closeStream {} 3).who == 273) = true ∧
    streamStarts (pooled [(3, streamOf 10 0 1)]) 0x34 [3] (fun _ b _ => (b.stream 3).any fun t => t.inStep) = true ∧
    streamStarts (pooled [(3, streamOf 2 0 1)]) 0x35 [3] (fun _ b c => (b.stream 3).isSome && bufOk c.entry 128) = true ∧
    starts (pooled []) 1 (entry 0x35 none 0x1000 127 [3]) 0x35 (fun b c => !bufOk c.entry 128 && !b.hubAsking 273 && b.streamTable.isSome && c.p 0 == 3) = true := by
  refine ⟨?_, ?_, ?_, ?_, ?_, ?_, ?_, ?_, ?_, ?_, ?_, ?_⟩ <;> decide +kernel

/-- A step descriptor (Table 11.7) of one row: batch list at 0x40000, rows at 0x41000, draws at 0x42000, results at 0x43000, cells 1, 2 and 3. -/
def stepWord : Nat := 1 <<< 480 + 2 <<< 448 + 3 <<< 416 + 1 <<< 384 + 0x40000 <<< 576 + 0x41000 <<< 640 + 0x42000 <<< 704 + 0x43000 <<< 768 + 100 <<< 832
/-- Lane 0 of context 0 in `k`, the step descriptor `v` at 0x30000. -/
def laned (k : Lane) (v : Nat) (streams : Tab Stream := [(0, streamOf 2 0 1)]) : Block :=
  ((({ pooled streams with tiles := [(0, { synPart := [(0, (0, 256))] })] } : Block).setLane 0 0 k).hubWrite 0x30000 (leBytes 128 v))

theorem test_met_GenerationSteps :
    starts (laned {} stepWord) 1 (entry 0x36 none 0 0 [3, 0x30000]) 0x36 (fun b c =>
      decide (b.streamTable.isSome = true ∧ c.p 0 ≤ 3 ∧ (b.lane c.c (c.p 0)).busy = false ∧ c.p 1 % 128 = 0 ∧ (b.memRange (c.p 1) 128).toOption.isSome = true) &&
      hubOk b (c.p 1) 128 fun bs => !b.stepCellsBad c.c (BitVec.ofNat 1024 (leNat bs))) = true ∧
    starts (laned {} stepWord) 1 (entry 0x36 none 0 0 [4, 0x30000]) 0x36 (fun b c => b.streamTable.isSome && decide (3 < c.p 0)) = true ∧
    (∀ v ∈ [stepWord, stepWord + 1 <<< 1023], let b := laned { busy := true, step := 0x30000 } v
     let k := b.lane 0 0
     k.busy = true ∧ k.waiting = none ∧ k.satisfied = false ∧ b.hubUp = true ∧ b.power = .a0 ∧ (b.ctx 0).state = .live ∧ b.hubAsking 289 = false ∧
     k.step % 128 = 0 ∧ (b.memRange k.step 128).toOption.isSome = true ∧
     (match Sb.num {} { b, who := 289 } k.step 128 with
      | (.success, u, x1) => match x1.b.stepBad 0 (BitVec.ofNat 1024 u) with
        | none => v == stepWord && (match x1.get {} (stepF (BitVec.ofNat 1024 u) 623 576) 4 with
          | (.success, bs, x2) =>
            let a := iter 1 ({ x := x2 } : PrepAcc) (prepRow {} 0 (BitVec.ofNat 1024 u) (words32 bs))
            (a.x.stepPhase k.step 1 .success).miss == [] && (a.x.stepPhase k.step 1 .success).who == 289
          | _ => false)
        | some st => v != stepWord && x1.miss == [] && (x1.stepPhase k.step 3 st).who == 289 && (x1.stepPhase k.step 3 st).miss == []
      | _ => false) = true) ∧
    (let k : Lane := { busy := true, step := 0x30000, desc := BitVec.ofNat 1024 stepWord, satisfied := true, active := [(0, 0)] }
     let b := (laned k stepWord [(0, streamOf 10 0 1)]).hubWrite 0x43000 [1]
     (b.lane 0 0).satisfied = true ∧ b.hubUp = true ∧ b.power = .a0 ∧ b.hubAsking 289 = false ∧
     (match Sb.num {} { b, who := 289 } (k.step + 120) 8 with
      | (.success, epoch, x1) =>
        let a := k.active.foldl (commitRow {} k.desc (epoch % 2 ^ 63)) ({ x := x1 } : CommitAcc)
        let counts := leBytes 2 a.committed ++ leBytes 2 k.parked ++ leBytes 2 k.skipped ++ leBytes 2 a.ended
        let x := (a.x.put (k.step + 108) counts).stepPhase k.step 2 .success
        x.miss == [] && x.who == 289 && a.committed == 1
      | _ => false) = true) ∧
    (up.lane 0 0).satisfied = false := by
  refine ⟨?_, ?_, ?_, ?_, ?_⟩ <;> decide +kernel

/-! ### Kerf -/

/-- The bytes of a packet's frame (Tables 16.3, 16.5). -/
def bytesOf (k : Packet) : List Byte :=
  let hdr := k.version <<< 252 + k.type <<< 248 + k.inc <<< 240 + k.conn <<< 224 + k.seq <<< 192 + k.src <<< 180 + k.sgrp <<< 172 + b2n k.sig <<< 171
    + b2n k.ev <<< 170 + k.op <<< 164 + k.fmt <<< 160 + k.epoch <<< 97 + k.addr <<< 48 + k.len <<< 32 + k.xfer
  let ext := if k.sig then beBytes 16 (k.amount.toNat <<< 64 + k.npre <<< 32 + k.cell <<< 15) else []
  let body := beBytes 32 hdr ++ ext ++ k.payload
  body ++ leBytes 4 (crc32c body)
/-- The frame of a packet on path 0, which is port 0. -/
def frameOf (k : Packet) : Frame :=
  { port := 0, hopLimit := 255, flow := BitVec.ofNat 20 (pathFlow k.conn 0), udp := true, src := 0, dst := 0, srcPort := BitVec.ofNat 16 (pathPort k.conn 0)
    dstPort := 0xB80A, bytes := bytesOf k }
/-- Connection 0 of context 0 is up on port 0. -/
def upConn : Conn := { ctx := 0, peer := 0, state := .up, peerInc := 3 }
def kerfed (c : Conn) (chains : List Chain := []) (sweeps : List Sweep := []) : Block :=
  { joined with conns := [(0, c)], ports := [(0, { linkUp := true })], tiles := [(0, { synPart := [(0, (0, 256))] })], chains, sweeps }
/-- The frame is heard in `b` and carries a packet that meets `f`. -/
def heardBy (b : Block) (f : Frame) (g : Packet → Bool) : Bool :=
  !b.hubLost && (b.port f.port).linkUp && (b.port f.port).rx == [] && f.dstPort.toNat == b.krfUdpPort && (match parsePacket f.bytes with
    | some k => b.frameOk f k.conn && k.version == 1 && k.resvZero && g k
    | none => false)
/-- It belongs to connection 0. -/
def mine (b : Block) (k : Packet) : Bool :=
  k.conn == 0 && (b.conn 0).isOpen && !(b.conn 0).loop && ((b.conn 0).peerInc == k.inc || k.type == 12) && (b.conn 0).addr == 0
def fresh (b : Block) (k : Packet) : Bool :=
  decide (0 ≤ serial k.seq (b.conn 0).rxBase ∧ serial k.seq (b.conn 0).rxBase ≤ 65535 ∧ k.seq ∉ (b.conn 0).rxSeen ∧ b.draining = false ∧ b.power = .a0)

theorem heardBy_spec {b : Block} {f : Frame} {g : Packet → Bool} (h : heardBy b f g = true) :
    ∃ k, b.hears f k ∧ g k = true := by
  unfold heardBy at h
  split at h
  · rename_i k hk
    simp only [Bool.and_eq_true, Bool.not_eq_true', beq_iff_eq] at h
    obtain ⟨⟨⟨⟨h1, h2⟩, h3⟩, h4⟩, ⟨⟨h5, h6⟩, h7⟩, h8⟩ := h
    exact ⟨k, ⟨h1, h2, h3, h4, hk, h5, h6, h7⟩, h8⟩
  · simp at h

def oldFrame : Frame := frameOf { inc := 3, seq := 4, addr := 0x10000, len := 4, payload := [1, 2, 3, 4] }
/-- Connection 0 has received number 4 and more. -/
def later : Block := kerfed { upConn with rxBase := 5 }

theorem test_met_UnsoundFramesAreDropped :
    (later.hubLost = false ∧ (later.port 0).linkUp = true ∧ (later.port 0).rx = [] ∧ oldFrame.dstPort.toNat = later.krfUdpPort ∧ chainFrameOp oldFrame = 0 ∧
     ({ oldFrame with dstPort := 1 } : Frame).dstPort.toNat ≠ later.krfUdpPort ∧ ({ later with hubLost := true } : Block).hubLost = true) ∧
    (parsePacket (oldFrame.bytes ++ [0]) = none ∧ ((later.framed oldFrame).dropFrame 0).stalled = false) ∧
    heardBy later oldFrame (fun k => mine later k && k.type == 0 && decide (serial k.seq (later.conn 0).rxBase < 0 ∧ ∀ x ∈ (later.conn 0).rxWork, x.1.seq ≠ k.seq) &&
      !(((later.framed oldFrame).setConn 0 { later.conn 0 with ackPath := framePath oldFrame }).ackOne 0).stalled) = true ∧
    (parsePacket (frameOf { version := 2, inc := 3 }).bytes).any (fun k => k.version != 1 && k.type == 0) = true ∧
    (later.frameOk { oldFrame with srcPort := 1 } 0 = false) ∧
    (parsePacket (frameOf { conn := 9, inc := 3 }).bytes).any (fun k => k.type != 11 && !(later.conn k.conn).isOpen) = true ∧
    unknownType (bits (beNat ((frameOf { type := 7 }).bytes.take 1)) 3 0) = true := by
  refine ⟨by decide +kernel, by decide +kernel, by decide +kernel, by decide +kernel, by decide +kernel, by decide +kernel, by decide +kernel⟩

def bigFrame (n : Nat) : Frame := { oldFrame with bytes := List.replicate n 0 }

theorem test_met_UnsoundFramesAreDropped_held :
    (∀ pfc ∈ [true, false], let b := { later with ports := [(0, { linkUp := true, pfcEn := pfc, rx := [oldFrame] })] }
     b.hubLost = false ∧ (b.port 0).linkUp = true ∧ (b.port 0).rx ≠ [] ∧ (b.port 0).pfcEn = pfc ∧
     ((b.port 0).rx.map fun f => f.bytes.length).sum + oldFrame.bytes.length < 0x180000) ∧
    ((([oldFrame].map fun f => f.bytes.length).sum + (List.replicate 0x200000 (0 : Byte)).length) > 0x200000) ∧
    ((([oldFrame].map fun f => f.bytes.length).sum + (List.replicate 0x180000 (0 : Byte)).length) ≥ 0x180000) := by
  refine ⟨by decide +kernel, ?_, ?_⟩ <;> simp only [List.length_replicate] <;> decide +kernel

theorem test_met_UnsoundFramesAreDropped_window :
    (let b := kerfed { upConn with rxBase := 5, rxSeen := [7] }
     let f := frameOf { inc := 3, seq := 7, addr := 0x10000, len := 4, payload := [1, 2, 3, 4] }
     heardBy b f (fun k => mine b k && decide (k.seq ∈ (b.conn 0).rxSeen)) = true ∧
     let g := frameOf { inc := 3, seq := 65541, addr := 0x10000, len := 4, payload := [1, 2, 3, 4] }
     heardBy b g (fun k => mine b k && decide (65535 < serial k.seq (b.conn 0).rxBase ∧ k.seq ∉ (b.conn 0).rxSeen)) = true) ∧
    (let f := frameOf { inc := 3, seq := 5, addr := 0x10000, len := 4, payload := [1, 2, 3, 4] }
     ∀ draining ∈ [true, false], let b := { later with draining, power := .a2 }
     heardBy b f (fun k => mine b k && decide (0 ≤ serial k.seq (b.conn 0).rxBase ∧ k.seq ∉ (b.conn 0).rxSeen) && needsTiles k && b.drained == [] &&
       b.draining == draining && !(({ b.taken f 0 k with wake := true }.nacked f 0 k 1).stalled)) = true) := by
  refine ⟨?_, ?_⟩ <;> decide +kernel

/-- A new packet is heard on connection 0 of `b`; `g` is told it, the frame, and the block once it is received, and gives the block at which the
packet ends, where its premise holds. -/
def acts (b : Block) (k : Packet) (g : Frame → Packet → Block → Option Block) : Bool :=
  let f := frameOf { k with inc := 3 }
  heardBy b f fun k => mine b k && fresh b k && (g f k (b.taken f 0 k)).any (fun b' => !b'.stalled)

def reader : Block := kerfed { upConn with reads := [{ pkt := { type := 1, xfer := 8, addr := 0x10000 } }] }
/-- What the checks of R289 and R297 say of a packet, and the block after them. -/
def checked (k : Packet) (t : Block) (pass : Block → Option Block) (stop : Status → Block → Option Block) : Option Block :=
  match t.peerCheck 0 (t.conn 0).ctx k with
  | (none, b1) => pass b1
  | (some st, b1) => stop st b1
def noBlock : Option Block := none

theorem test_met_SequencedPacketsAct :
    acts reader { addr := 0x10000, len := 4, payload := [1, 2, 3, 4] } (fun _ k t => checked k t (fun b1 =>
      some (b1.sendBytes .write (.kerf 0 k.seq) k.addr k.payload)) (fun _ _ => noBlock)) = true ∧
    acts reader { addr := 0x700000000000, len := 4, payload := [1, 2, 3, 4] } (fun f k t => checked k t (fun _ => noBlock) (fun st b1 =>
      some ((b1.nacked f 0 k (nackOf st)).groupRefuse 0 k))) = true ∧
    acts reader { type := 3, op := 4, fmt := 0xD, addr := 0x10000, len := 8, payload := leBytes 8 1 } (fun _ k t => checked k t (fun b1 =>
      if atomicOk k = true ∧ (readNow {} b1 k.addr 8).1 = false then
        some ((b1.sendBytes (.memOp (atomicOp k.op) k.fmt) (.kerf 0 k.seq) k.addr k.payload).queuePkt 0
          { type := 2, addr := k.addr, xfer := k.xfer, payload := (readNow {} b1 k.addr 8).2 } .none)
      else none) (fun _ _ => noBlock)) = true ∧
    acts reader { type := 3, op := 5, addr := 0x10000, len := 4, payload := [1, 2, 3, 4] } (fun f k t =>
      if atomicOk k = false then some ((t.nacked f 0 k 7).groupRefuse 0 k) else none) = true := by
  refine ⟨?_, ?_, ?_, ?_⟩ <;> decide +kernel

theorem test_met_SequencedPacketsAct_reads :
    acts reader { type := 1 } (fun _ k t => if k.type = 1 ∧ k.len = 0 then some (t.acted 0 k) else none) = true ∧
    acts reader { type := 1, addr := 0x10000, len := 64 } (fun _ k t => match hubRead {} t k.addr k.len with
      | (.success, bs, b1) => some ((b1.queuePkt 0 { type := 2, addr := k.addr, xfer := k.xfer, payload := bs } .none).acted 0 k)
      | _ => none) = true ∧
    acts reader { type := 1, addr := 0x700000000000, len := 64 } (fun f k t => match hubRead {} t k.addr k.len with
      | (.success, _, _) => none
      | (st, _, b1) => some ((b1.nacked f 0 k (nackOf st)).groupRefuse 0 k)) = true ∧
    acts reader { type := 2, xfer := 8, addr := 0x10000, len := 4, payload := [1, 2, 3, 4] } (fun _ k t =>
      ((t.conn 0).reads.find? fun o => o.pkt.xfer == k.xfer && o.pkt.addr == k.addr).map fun o =>
        ((t.setConn 0 { t.conn 0 with reads := eraseFirst (· == o) (t.conn 0).reads }).readDone {} 0 o k.payload).acted 0 k) = true ∧
    acts reader { type := 2, xfer := 9, addr := 0x10000, len := 4, payload := [1, 2, 3, 4] } (fun _ k t =>
      if ((t.conn 0).reads.find? fun o => o.pkt.xfer == k.xfer && o.pkt.addr == k.addr).isNone then some (t.acted 0 k) else none) = true ∧
    acts reader { type := 4, sig := true, amount := 1, cell := 255 } (fun _ k t => checked k t (fun b1 =>
      some ((b1.modConn 0 fun c => c.setGroup { c.group k.src k.sgrp with held := some k }).groupTry 0 k.src k.sgrp)) (fun _ _ => noBlock)) = true ∧
    acts reader { type := 4, sig := true, amount := 1, cell := 256 } (fun f k t => checked k t (fun _ => noBlock) (fun st b1 =>
      some ((b1.nacked f 0 k (nackOf st)).groupRefuse 0 k))) = true ∧
    (∀ op ∈ [0, 1, 2], acts reader { type := 5, op } (fun f k t => if reader.chains = [] then some (t.nacked f 0 k 2) else none) = true) ∧
    acts reader { type := 6 } (fun f k t => if reader.sweeps = [] then some (t.nacked f 0 k 2) else none) = true := by
  refine ⟨?_, ?_, ?_, ?_, ?_, ?_, ?_, ?_, ?_⟩ <;> decide +kernel

theorem test_met_SequencedPacketsAct_chains :
    acts (kerfed upConn [chainAt 1]) { type := 5, op := 0, xfer := 7, len := 16, payload := leBytes 16 0 } (fun _ k t =>
      let d := chainDesc (chainAt 1).desc.toNat
      let c := t.conn 0
      if d.id = k.xfer ∧ (chainAt 1).ctx = c.ctx ∧ 0 < d.pos ∧ d.prevPeer = c.peer ∧ k.addr % 4096 = 0 ∧ k.addr / 4096 < d.slices ∧
          k.payload.length = 4 * d.sliceLen (k.addr / 4096) then
        match t.epochTreat 0 k with
        | (true, b1) => match (b1.countCtx c.ctx 9 k.payload.length).memRange (d.recvAddr + k.addr) k.payload.length with
          | .ok _ => some ((((b1.countCtx c.ctx 9 k.payload.length).hubWrite (d.recvAddr + k.addr) k.payload).chainSlice {} (chainAt 1) (k.addr / 4096)
              (some (f32Of k.payload))).acted 0 k)
          | .error _ => none
        | _ => none
      else none) = true ∧
    acts (kerfed upConn [chainAt 1]) { type := 5, op := 2, xfer := 7 } (fun _ k t =>
      some ((t.chainBreakAt (chainAt 1) (bits k.addr 12 0) (bits k.addr 31 16) (some (t.conn 0).peer)).acted 0 k)) = true ∧
    acts (kerfed upConn [chainAt 1]) { type := 5, op := 0, xfer := 7, addr := 1, len := 16, payload := leBytes 16 0 } (fun f k t =>
      if k.addr % 4096 ≠ 0 then some ((t.nacked f 0 k 7).groupRefuse 0 k) else none) = true ∧
    (let c1 := { upConn with peer := 1 }
     acts (kerfed c1 [chainAt 1]) { type := 5, op := 1, xfer := 7, len := 16, payload := leBytes 16 0 } (fun _ k t =>
      let d := chainDesc (chainAt 1).desc.toNat
      let c := t.conn 0
      if d.id = k.xfer ∧ (chainAt 1).ctx = c.ctx ∧ d.last = false ∧ d.nextPeer = c.peer ∧ d.bcast = true ∧ k.addr % 4096 = 0 ∧
          k.addr / 4096 < d.slices ∧ k.payload.length = 4 * d.sliceLen (k.addr / 4096) then
        match t.epochTreat 0 k with
        | (true, b1) => some (((b1.countCtx c.ctx 9 k.payload.length).chainResultAt {} (chainAt 1) (k.addr / 4096) k.payload).acted 0 k)
        | _ => none
      else none) = true) ∧
    (let x : Sweep := { ctx := 0, number := 9, desc := (chainAt 1).desc }
     (∀ op ∈ [0, 1], acts (kerfed upConn [] [x]) { type := 6, op, xfer := 9 } (fun _ k t =>
      let d := chainDesc x.desc.toNat
      if x.ctx = (t.conn 0).ctx ∧ x.number = k.xfer ∧ d.prevPeer = (t.conn 0).peer ∧ 0 < d.pos then some ((t.sweepAt x (k.op == 1)).acted 0 k) else none) = true) ∧
     acts (kerfed upConn [] [x]) { type := 6, op := 2, xfer := 9 } (fun f k t => some ((t.nacked f 0 k 7).groupRefuse 0 k)) = true) := by
  refine ⟨?_, ?_, ?_, ?_, ?_⟩ <;> decide +kernel

def sent (seq : Nat) : OutPkt := { pkt := { seq, addr := 0x10000 } }
/-- A CONNECT or CONNECT_RESP payload (Table 16.9). -/
def connectBytes (job reason : Nat) : List Byte := beBytes 64 (0x0100 <<< 496 + 3 <<< 488 + job <<< 440 + 3 <<< 412 + reason <<< 408)

/-- A control packet is heard on connection 0 of `b` where it must be one of that connection; `g` gives the block at which it ends. -/
def told (b : Block) (k : Packet) (own : Bool) (g : Frame → Packet → Block → Option Block) : Bool :=
  let f := frameOf k
  heardBy b f fun k => (!own || mine b k) && (g f k (b.framed f)).any (fun b' => !b'.stalled)

theorem test_met_ControlPacketsAct :
    let b := kerfed { upConn with out := [sent 5] }
    let c := b.conn 0
    told b { type := 8, inc := 3, seq := 5, len := 32, payload := beBytes 32 0 } true (fun _ k t => if k.type = 8 ∧ ackCovers k 5 = true then
      some (((c.out.filter fun o => ackCovers k o.pkt.seq).foldl (fun b o => b.xferDone {} 0 o)
        (t.setConn 0 { c with out := c.out.filter fun o => !ackCovers k o.pkt.seq })).pump 0) else none) = true ∧
    told b { type := 9, inc := 3, seq := 6, op := 1 } true (fun _ k t => if (c.out.find? fun o => o.pkt.seq == k.seq).isNone then some t else none) = true ∧
    (∀ op ∈ [1, 2, 3], told b { type := 9, inc := 3, seq := 5, op } true (fun _ k t =>
      (c.out.find? fun o => o.pkt.seq == k.seq).map fun o =>
        let rest := { c with out := c.out.filter fun o => o.pkt.seq != k.seq }
        if k.op = 1 then (t.setConn 0 { rest with again := c.again ++ [{ o with retryLater := o.retryLater + 1 }] }).pump 0
        else if k.op = 2 then (t.setConn 0 { rest with again := c.again ++ [o] }).pump 0
        else ((t.setConn 0 ((rest.dropRead o).noteRefused o)).xferFail {} 0 o (nackStatus k.op)).pump 0) = true) ∧
    told b { type := 10, inc := 3, len := 32, payload := beBytes 32 0 } true (fun f k t => if k.type = 10 ∧ bits (beNat k.payload) 191 128 = 0 then
      some ((t.setConn 0 { c with hops := 255 - f.hopLimit.toNat, hbTime := 0, hbAt := b.time, opIndex := 0, throttled := false }).publishPeer 0) else none) = true := by
  refine ⟨?_, ?_, ?_, ?_⟩ <;> decide +kernel

theorem test_met_ControlPacketsAct_connect :
    let b := kerfed upConn
    let conning := kerfed { upConn with state := .connecting, peerInc := 256 }
    let answer (b : Block) (inc : Nat) (x : Nat) (fit : ConnectFit) (f : Frame) : Block :=
      b.emit 0 { type := 12, inc, conn := bits x 435 420, payload := b.answerPayload x fit, len := 64 } (framePath f)
    (∀ y ∈ [(0, 0), (99, 5)], told b { type := 11, len := 64, payload := connectBytes y.1 0 } false (fun f k t =>
      let x := beNat k.payload
      let fit := t.connectFit 0 x
      if fit.conn = some 0 ∧ fit.reason = 0 ∧ y.2 = 0 then
        let t1 := t.modConn 0 fun c => c.learn (bits x 435 420) (bits x 419 412)
        some (answer t1 (t1.conn 0).inc x fit f)
      else if fit.conn = none ∧ fit.reason = y.2 then some (answer t 0 x fit f) else none) = true) ∧
    told (kerfed { upConn with peer := 0 }) { type := 11, len := 64, payload := beBytes 64 (0x0101 <<< 496 + 3 <<< 488) } false (fun f k t =>
      let x := beNat k.payload
      let fit := t.connectFit 0 x
      if fit.conn = some 0 ∧ fit.reason ≠ 0 then some (answer t (t.conn 0).inc x fit f) else none) = true ∧
    (∀ r ∈ [0, 4, 5], told conning { type := 12, inc := 3, len := 64, payload := connectBytes 0 r } true (fun _ k t =>
      let x := beNat k.payload
      let c := conning.conn 0
      if c.state = .connecting ∧ bits x 411 408 = r then
        if r = 0 then some (((t.setConn 0 { c.learn (bits x 435 420) (bits x 419 412) with state := .up, reason := 0 }).publishPeer 0).pump 0)
        else if r = 5 then some ((t.setConn 0 { c with reason := r }).publishPeer 0)
        else some (((t.setConn 0 { c with state := .refused, reason := r }).publishPeer 0).failAll {} 0 .configMismatch)
      else none) = true) ∧
    told b { type := 12, inc := 3, len := 64, payload := connectBytes 0 0 } true (fun _ _ t => if (b.conn 0).state = .connecting then none else some t) = true := by
  refine ⟨?_, ?_, ?_, ?_⟩ <;> decide +kernel

theorem test_met_KerfTimersAct :
    (let b := kerfed { upConn with ackPending := 1, out := [sent 5], again := [{ sent 6 with retryLater := 4096 }] }
     let c := b.conn 0
     b.hubLost = false ∧ c.isOpen = true ∧ 0 < c.ackPending ∧ c.out.find? (fun o => o.pkt.seq == 5) = some (sent 5) ∧ c.state = .up ∧ (sent 5).attempts < 64 ∧
     tget 0 c.expiries (sent 5).path < 3 ∧ (b.nextLive c ((sent 5).path + 1)).isSome = true ∧ c.out.find? (fun o => o.pkt.seq == 7) = none ∧
     c.again.find? (fun o => o.pkt.seq == 6) = some { sent 6 with retryLater := 4096 } ∧ c.known = true ∧ b.conns = [(0, c)] ∧ b.followFloor = none) ∧
    (let b := kerfed { upConn with downPaths := [8] }
     let c := b.conn 0
     c.ackPending = 0 ∧ 0 ∉ c.downPaths ∧ c.state = .up ∧ 8 ∈ c.downPaths ∧ (b.port (8 % 8)).linkUp = true ∧ c.out = []) ∧
    ({ sent 5 with attempts := 64 } : OutPkt).attempts = 64 ∧ ({ sent 6 with retryLater := 4095 } : OutPkt).retryLater < 4096 ∧
    (let b := kerfed { upConn with state := .connecting }
     (b.conn 0).isOpen = true ∧ (b.conn 0).loop = false ∧ (b.conn 0).state = .connecting ∧ (b.port 0).linkUp = true ∧ ({ b with ports := [] } : Block).conns = b.conns) ∧
    (let b := (kerfed { upConn with throttled := true, opIndex := 3 }).modCtx 0 fun x => { x with krf := { x.krf with followEn := true } }
     b.followFloor.isSome = true) ∧
    (let b := kerfed upConn
     let c := b.conn 0
     c.isOpen = true ∧ c.loop = false ∧ c.state ≠ .lost ∧ c.out = [] ∧ c.again = [] ∧ c.waiting = [] ∧ c.reads = [] ∧ c.sigDue = [] ∧ b.chains = []) := by decide +kernel

theorem test_met_PortsTimeoutsAndTime :
    (let b : Block := { up with ports := [(0, { linkUp := true, pfcEn := true }), (1, {})], ptp := { source := 1 } }
     b.hubLost = false ∧ (b.port 0).linkUp = true ∧ b.conns = [] ∧ (b.port 1).linkUp = false ∧ b.power ≠ .a3 ∧ b.power ≠ .a4 ∧ (b.port 0).pfcEn = true ∧
     (b.port 0).pfcPrio = (3 : Fin 8).val ∧ (b.port 0).pfcPrio ≠ (2 : Fin 8).val ∧ b.ptp.source < 8 ∧ (b.port b.ptp.source).linkUp = false) ∧
    (let b := kerfed upConn [chainAt 1] [{ desc := (chainAt 3).desc }]
     b.chains[0]? = some (chainAt 1) ∧ (chainAt 1).silent = true ∧ ({ chainAt 1 with formed := 1 } : Chain).silent = false ∧
     b.sweeps[0]? = some { desc := (chainAt 3).desc } ∧ (chainDesc (chainAt 3).desc.toNat).last = true ∧ b.cnt.trigger = none ∧ b.cnt.writing = none) ∧
    (let b : Block := { up with ptp := { lastEdge := some 0, offsetWarn := true }, time := 499999999 }
     b.ptp.lastEdge = some 0 ∧ b.time < 0 + 500000000 ∧ b.ptp.offsetWarn = true ∧ 0 + 500000000 ≤ ({ b with time := 500000000 } : Block).time ∧
     (8 : Nat) = ({ b with ptp := { b.ptp with source := 8 } } : Block).ptp.source) ∧
    (up.ptp.lastEdge = none ∧ up.cnt.ppsEn = false ∧ ({ up with cnt := { ppsEn := true } } : Block).cnt.ppsEn = true) := by decide +kernel

/-! ### Gouge, host, supplies, power -/

/-- A table of 4 rows of 64 B at 0x100000 whose rows 0 and 1 have replicas at 0x200000 in each tile (Tables 6.1, 6.4). -/
def burlTable : Nat := 0x100000 + 4 <<< 64 + 64 <<< 128 + 64 <<< 160 + 5 <<< 224 + 2 <<< 208 + 1 <<< 202 + 0x200000 <<< 256 + 4096 <<< 320
/-- A gather of 16 rows of table 5 in progress on spindle 0, whose first batch is not sorted; `reqs` are its requests. -/
def gathering (reqs : List RowReq) : Block := run 0 fun s => { s with
  gougeQ := [{ idx := 1, w := BitVec.ofNat 128 (mkWord 0xE0 0), begun := true }], nextIdx := 2
  gouge := some (.gather { idx := 1, desc := BitVec.ofNat 1024 burlTable, descAddr := 0x20000, reqs }) }
def gouged (g : GougeRun) : Block := (run 0 fun s => { s with
  gougeQ := [{ idx := 1, w := BitVec.ofNat 128 (mkWord 0xE3 0), begun := true }], nextIdx := 2, gouge := some g }).hubWrite 0x20000 (leBytes 128 burlTable)
def burling : Block := gouged (.burl 1 0x20000 0 false [])
def someTag : TagStore := { slotAddr := 0x10000, slotLen := 64, tagAddr := 0x20000, tag := 3 }

/-- Request 0 of the gather in `b` gives the block `f`, which meets no full queue. -/
def returns (b : Block) (f : QCmd → GatherRun → RowReq → Option Block) : Bool :=
  b.clocked && (match (b.spd 0).gather with
    | some (q, g) => (match (g.reqs.take 1024)[0]? with
      | some r => (f q g r).any fun b' => !b'.stalled
      | none => false)
    | none => false)
def okBlock {α : Type} (e : Eff α) (f : α → Block) : Option Block := match e with
  | .ok x => some (f x)
  | .error _ => none
def faultBlock {α : Type} (e : Eff α) (f : Block → Status → Block) : Option Block := match e with
  | .error (.fault b st) => some (f b st)
  | _ => none

theorem test_met_GougeEvents :
    (let b := gathering [{ row := 0, addr := 0x100000, len := 64, positions := [0] }]
     returns b (fun q g r => if r.kind = .home then okBlock (readDev {} b 0 q r.addr r.len .reuse) (fun x => x.2.expandRow {} 0 q g r x.1) else none) = true ∧
     returns b (fun q g _ => some (b.sizerBatch {} 0 q g)) = true ∧
     (match (b.spd 0).gather with
       | some (_, g) => (g.reqs.take 1024)[1]? == none
       | none => false) = true) ∧
    (let b := gathering [{ row := 0, addr := 0x700000000000, len := 64, positions := [0] }]
     returns b (fun q _ r => faultBlock (readDev {} b 0 q r.addr r.len .reuse) (fun b1 st => b1.gatherFault 0 q st)) = true) ∧
    (let b := gathering [{ row := 0, kind := .burl, addr := 0x200000, len := 64, positions := [0] }]
     returns b (fun q g r => if r.kind = .burl then okBlock (readDev {} b 0 q r.addr r.len .burl) (fun x => x.2.expandRow {} 0 q g r x.1) else none) = true) ∧
    (let b := gathering [{ row := 0, kind := .host, addr := hostBase, len := 64, positions := [0] }]
     returns b (fun q _ r => if r.kind = .host then faultBlock (readDev {} b 0 q r.addr r.len .none) (fun b1 st => b1.gatherFault 0 q st) else none) = false) ∧
    (let b := gathering [{ row := 0, kind := .slot, addr := 0x110000, len := 64, positions := [0] }]
     returns b (fun q g r => if r.kind = .slot then okBlock (slotPiece {} b 0 q r.addr r.len) (fun x => x.2.expandRow {} 0 q g r x.1) else none) = true) ∧
    (let b := gathering [{ row := 0, kind := .slot, addr := 0x700000000000, len := 64, positions := [0] }]
     returns b (fun q _ r => faultBlock (slotPiece {} b 0 q r.addr r.len) (fun b1 st => b1.gatherFault 0 q st)) = true) ∧
    (let b := gathering [{ row := 0, kind := .burlCopy, addr := 0, len := 64, positions := [0] }]
     returns b (fun q g r => if r.kind = .burlCopy then okBlock (do
         let (a, b0) ← copyAddr {} b 0 (tileOf 0) q (tableDesc g.desc.toNat) (g.burlSel.getD 0) r.addr
         let (bs, b1) ← readDev {} b0 0 q a r.len .none
         .ok (b1.expandRow {} 0 q g r bs)) id else none) = true) ∧
    (let b := gathering [{ row := 0, kind := .peer, addr := 0, len := 64, positions := [0] }]
     returns b (fun _ _ r => if r.kind = .peer then some b else none) = true) ∧
    ((run 0).spd 0).gather = none := by
  refine ⟨?_, ?_, ?_, ?_, ?_, ?_, ?_, ?_, ?_⟩ <;> decide +kernel

def versioning (base : Nat) : Block := run 0 fun s => { s with
  gougeQ := [{ idx := 1, w := BitVec.ofNat 128 (mkWord 0xE0 0), begun := true }], nextIdx := 2
  gouge := some (.gather { idx := 1, desc := BitVec.ofNat 1024 (verTable + (base - 0x120000) <<< 736), descAddr := 0x20000
                           reqs := [{ row := 0, kind := .versioned, positions := [0] }] }) }

theorem test_met_GougeEvents_versioned :
    returns (versioning 0x120000) (fun q g r => if r.kind = .versioned then
      okBlock (versionedRow {} (versioning 0x120000) 0 q g (tableDesc g.desc.toNat) r) (fun x => x.2.2.2.2.expandRow {} 0 q
        { g with observed := max g.observed x.2.1, reqs := x.2.2.2.1 ++ g.reqs.map fun y => if y = r then x.2.2.1 else y } x.2.2.1 x.1) else none) = true ∧
    (let b := versioning 0x700000000000
     returns b (fun q g r => faultBlock (versionedRow {} b 0 q g (tableDesc g.desc.toNat) r) (fun b1 st => b1.gatherFault 0 q st)) = true) := by
  refine ⟨?_, ?_⟩ <;> decide +kernel

theorem test_met_GougeEvents_copies :
    (∃ q, (burling.spd 0).gougeQ.find? (fun q => q.idx == 1) = some q ∧ q.hostWait = false ∧ (match readDesc {} burling 0 q 0x20000 with
       | .ok (x, b0) =>
         let d := tableDesc x
         let rows := (List.range d.burlCount).map fun i => (i, d.homeLocal + i * d.stride)
         let b1 := [0, 1, 2, 3].foldl (fun b t => b.burlInvalidate t (d.repBase + 0 * d.repSetBytes) (d.burlCount * d.stride)) b0
         burling.burlCount d.tableId 0 == 0 && !d.remote && (burling.hostNeeds q (rows.map fun r => (r.2, d.rowBytes))).isEmpty && d.burlMode == 1 &&
         (match (rows.foldlM (fun b r => do
            let (bs, b) ← readDev {} b 0 q r.2 d.rowBytes (if d.stream then .none else .reuse)
            burlCopy {} b 0 q d 0 r.1 0 bs) b1 : Eff Block) with
          | .ok b2 => !(b2.burlFinish {} 0 q 0x20000 0).stalled
          | .error _ => false)
       | .error _ => false) = true) ∧
    ({ burling with burlReaders := [(10, 1)] } : Block).burlCount 5 0 ≠ 0 := by
  refine ⟨⟨{ idx := 1, w := BitVec.ofNat 128 (mkWord 0xE3 0), begun := true }, ?_, rfl, ?_⟩, ?_⟩ <;> decide +kernel

/-- The same copy of rows in the host window; and of rows of peer 0. -/
def farBurl (more : Nat) : Block := { (run 0 fun s => { s with
    gougeQ := [{ idx := 1, w := BitVec.ofNat 128 (mkWord 0xE3 0), begun := true }], nextIdx := 2, gouge := some (.burl 1 0x20000 0 false []) }).hubWrite 0x20000
  (leBytes 128 (burlTable + more)) with ctxs := [(0, { state := .live, krf := { jobEn := true, peers := 1 } })], conns := [(0, upConn)], ports := [(0, { linkUp := true })] }
def burlQ : QCmd := { idx := 1, w := BitVec.ofNat 128 (mkWord 0xE3 0), begun := true }

theorem test_met_GougeEvents_farCopies :
    (let b := farBurl (hostBase - 0x100000)
     (match readDesc {} b 0 burlQ 0x20000 with
       | .ok (x, _) =>
         let d := tableDesc x
         let needs := b.hostNeeds burlQ (((List.range d.burlCount).map fun i => d.homeLocal + i * d.stride).map fun a => (a, d.rowBytes))
         !d.remote && needs != [] && !(b.askHost 0 .gouge burlQ needs).stalled
       | .error _ => false) = true) ∧
    (let b := farBurl (1 <<< 198)
     (match readDesc {} b 0 burlQ 0x20000 with
       | .ok (x, b0) =>
         let d := tableDesc x
         let rows := (List.range d.burlCount).map fun i => (i, d.homeLocal + i * d.stride)
         let b1 := [0, 1, 2, 3].foldl (fun b t => b.burlInvalidate t d.repBase (d.burlCount * d.stride)) b0
         d.remote && (match b1.launchRows 0 1 d.peer (rows.flatMap fun r => (granulePieces r.2 d.rowBytes).map fun x =>
             { row := r.1, kind := .peer, addr := r.2 + x.1, off := x.1, len := x.2 }) with
           | (none, sent, b2) => sent != [] && !(b2.modSpd 0 fun x => { x with gouge := some (.burl 1 0x20000 0 true sent) }).stalled
           | _ => false)
       | .error _ => false) = true) := by
  refine ⟨?_, ?_⟩ <;> decide +kernel

/-- A table epoch `e` is due on the versioned table. -/
def advancing (e : Nat) : Block := (run 0 fun s => { s with
  gougeQ := [{ idx := 1, begun := true }], nextIdx := 2, gouge := some (.advance 1 0x20000 e false) }).hubWrite 0x20000 (leBytes 128 verTable)

theorem test_met_GougeEvents_epochs :
    (match descNow {} (advancing 0) 0 0x20000 with
      | .ok (d, b0) => decide (0 ≤ d.epoch) && !((b0.modSpd 0 fun s => { s with gouge := none }).markDone 0 .gouge 1).stalled
      | .error _ => false) = true ∧
    (match descNow {} (advancing 1) 0 0x20000 with
      | .ok (d, b0) =>
        let told := b0.tileMemSide {} (tileOf 0) .store 0xD (b0.memSrc 0) (0x20000 + 104) (leBytes 8 1)
        let fresh := [0, 1, 2, 3].foldl (fun b k => b.dcRange {} k 1 0x20000 128) told
        decide (d.epoch < 1) && b0.readerCount d.tableId (d.epoch + 1) == 0 && !b0.stalled && (match walkHold {} fresh 0 (b0.memSrc 0) d 1 with
          | .ok b2 => !((b2.modSpd 0 fun s => { s with gouge := none }).markDone 0 .gouge 1).stalled
          | .error _ => false)
      | .error _ => false) = true ∧
    ({ advancing 1 with readers := [(11, 1)] } : Block).readerCount 5 1 ≠ 0 ∧
    (let b : Block := { run 0 with tagStores := [someTag, someTag] }
     b.clocked = true ∧ b.tagStores[0]? = some someTag ∧ b.unaccepted someTag.slotAddr someTag.slotLen = false ∧ (∀ u ∈ b.tagStores.take 0, u.tagAddr ≠ someTag.tagAddr) ∧
     (({ b with tagStores := b.tagStores.eraseIdx 0 } : Block).tileMemSide {} (tileOf someTag.spindle) .store 0xD someTag.src someTag.tagAddr
       (leBytes 8 someTag.tag.toNat)).stalled = false ∧ (∃ u ∈ b.tagStores.take 1, u.tagAddr = someTag.tagAddr) ∧
     (b.hubWrite 0x10000 [1]).unaccepted someTag.slotAddr someTag.slotLen = true) := by
  refine ⟨?_, ?_, ?_, ?_⟩ <;> decide +kernel

theorem test_met_HostFunctionsAndWindows :
    (let b : Block := { up with funcs := [(0, { bar2Set := true, bar2Base := 0x100000, bar2Limit := 0x200000 })] }
     b.fnLive 0 = true ∧ b.fnLive 1 = false ∧ b.power = .a0 ∧ b.bar2Addr 0 0xFFFFF 1 = some 0x1FFFFF ∧ b.bar2Addr 0 0xFFFFF 2 = none ∧
     (hubRead {} b 0x1FFFFF 1).1 = .success ∧ b.hubUp = true ∧ b.fnEnabled 0 = true ∧ (b.func 0).d3hot = false ∧ b.numVfs = 0 ∧ 0 < (16 : Fin 17).val) ∧
    (let b : Block := { up with funcs := [(0, { bar2Set := true, bar2Base := 0x100000, bar2Limit := 0x200000, d3hot := true })], numVfs := 2 }
     (b.func 0).d3hot = true ∧ b.numVfs ≠ 0) ∧
    (let b : Block := { up with funcs := [(0, { bar2Set := true, bar2Base := 0x100000, bar2Limit := 0x200000 })] }
     let a := b.sendBytes .poison .hub 0x1FFFC0 (leBytes 64 0)
     a.bar2Addr 0 0xFFFC0 64 = some 0x1FFFC0 ∧ (hubRead {} a 0x1FFFC0 64).1 ≠ .success) ∧
    (8 < up.pcieWidth ∧ up.pcieWidth ≤ 16 ∧ up.pcieSpeed ≤ 64 ∧ ([1] : List Byte) ≠ []) ∧
    (let b : Block := { up with hostReads := [{ spindle := 272, haddr := 0, len := 64 }, { haddr := 4096, len := 64 }, { haddr := 0, len := 64 }, { spindle := 353, haddr := 8192, len := 8 },
       { spindle := 354, haddr := 12288, len := 0, wr := some [1] }] }
     b.hubUp = true ∧ (∃ h, b.hostReads[0]? = some h ∧ (b.hostReads.take 0).any (fun x => x.meets h) = false ∧ 272 ≤ h.spindle ∧ h.spindle ≠ 353 ∧ h.len = 64 ∧ h.wr = none) ∧
     (∃ h, b.hostReads[1]? = some h ∧ (b.hostReads.take 1).any (fun x => x.meets h) = false ∧ h.spindle < 272) ∧
     (∃ h, b.hostReads[2]? = some h ∧ (b.hostReads.take 2).any (fun x => x.meets h) = true) ∧
     (∃ h, b.hostReads[3]? = some h ∧ h.spindle = 353 ∧ h.len = 8 ∧ h.wr = none ∧ (b.hostReads.take 3).any (fun x => x.meets h) = false) ∧
     (∃ h, b.hostReads[4]? = some h ∧ h.wr ≠ none)) := by
  refine ⟨by decide +kernel, by decide +kernel, by decide +kernel, by decide +kernel, by decide +kernel, ⟨_, rfl, ?_⟩, ⟨_, rfl, ?_⟩, ⟨_, rfl, ?_⟩,
    ⟨_, rfl, ?_⟩, ⟨_, rfl, ?_⟩⟩ <;> decide +kernel

def someInputs : BootInputs := { failTraining := [3], failSpares := [], width := 8, speed := 32 }

theorem test_met_SuppliesResetsAndBoot :
    (up.mainOn = true ∧ up.auxGood = true ∧ up.pwrGood = true ∧ up.perst = false) ∧
    (let b : Block := { power := .a3, mainOn := true, pwrGood := false }; b.mainOn = true ∧ b.auxGood = true ∧ b.pwrGood = false) ∧
    (let b : Block := { power := .a4, mainOn := false, auxGood := false }; b.mainOn = false ∧ b.auxGood = false) ∧
    (({} : Block).pwrGood = true ∧ ({} : Block).perst = true ∧ ({} : Block).chans = []) ∧
    (let b : Block := { perst := false, bootStage := 2, boot := some someInputs }
     b.hubUp = true ∧ b.bootStage = 2 ∧ b.boot = some someInputs ∧ b.spindles = [] ∧ b.store.carried = [] ∧ b.store.hubLoss = [] ∧
     b.store.failedSpindles = [] ∧ b.store.mapOut = [] ∧ someInputs.failSpares = []) ∧
    (let b : Block := { perst := false, bootStage := 3, runTrial := true }
     b.hubUp = true ∧ b.bootStage = 3 ∧ b.ready = false ∧ b.runTrial = true ∧ b.store.trialFails < 2 ∧ 2 ≤ ({ b.store with trialFails := 2 } : Store).trialFails) ∧
    (let b : Block := { up with numVfs := 1 }
     b.hubUp = true ∧ b.ctxs = [] ∧ b.fnEnabled 1 = true ∧ b.fnEnabled 2 = false) ∧
    ((({ live with numVfs := 1 } : Block).ctx 0).state = .live ∧ ({ live with numVfs := 1 } : Block).fnEnabled 1 = true) := by decide +kernel

theorem test_met_SuppliesResetsAndBoot_slots :
    let b : Block := { perst := false, store := { minSvn := 0 } }
    b.hubUp = true ∧ b.bootStage = 0 ∧ b.store.trial = none ∧ b.slotPasses b.store.bootSlot = true := by
  refine ⟨by decide, rfl, rfl, ?_⟩
  simp [Block.slotPasses, Block.slot, tget, tfind, FwSlot.verifies]

/-- Whether the root key is fused is a value of the device that nothing constrains; where it is, no slot may pass. -/
theorem test_met_SuppliesResetsAndBoot_noSlot (h : Config.rootKeyFused = true) :
    let b : Block := { perst := false, store := { minSvn := 2 ^ 32 } }
    b.hubUp = true ∧ b.slotPasses b.store.bootSlot = false ∧ b.slotPasses (1 - b.store.bootSlot) = false := by
  have := Config.factorySvn.isLt
  refine ⟨by decide, ?_, ?_⟩ <;> simp [Block.slotPasses, Block.slot, tget, tfind, FwSlot.verifies, FwSlot.svn, h] <;> omega

theorem test_met_PowerStates :
    (up.hubUp = true ∧ up.power = .a0 ∧ up.quiet = true ∧ up.ready = true ∧ up.chains = [] ∧ up.sweeps = [] ∧ up.streams = [] ∧ up.tiles = [] ∧ up.chans = []) ∧
    (let b : Block := { up with funcs := [(0, { d3hot := true })] }; (∀ f, f ≤ b.numVfs → (b.func f).d3hot = true)) ∧
    (run 0).quiet = false ∧ (∃ c ∈ waiting.chans, c.2.transit ≠ []) ∧ (({ up with power := .a1 } : Block).hubUp = true) ∧
    (let b : Block := { up with power := .a2, a2Exiting := true, draining := true, handlesLost := [(0, 3)] }
     b.hubUp = true ∧ b.power = .a2 ∧ b.a2Exiting = true ∧ b.draining = true ∧ b.drained = [] ∧ b.handlesLost = [(0, 3)] ∧ (b.ring (1 + 0)).enable = false ∧
     (b.ring (1 + 0)).events = []) := by
  refine ⟨by decide +kernel, fun f h => ?_, by decide +kernel, by decide +kernel, by decide +kernel⟩
  obtain rfl : f = 0 := by simpa [up] using h
  decide

theorem test_met_CalipersFollowTheirRules :
    (up.hubUp = true ∧ up.restarting = false ∧ up.hottest ≤ 102 ∧ up.cal.sensorLost = false ∧ up.cal.measured = none ∧ up.cal.held = none ∧
     up.cal.msCount + 1 < 250 ∧ ({} : Block).hubUp = false) ∧
    (let b : Block := { up with restarting := true, cal := { sensorLost := true, msCount := 249, backstop := true, held := some {}, tileTemp := [103, 0, 0, 0] } }
     b.hubUp = true ∧ b.restarting = true ∧ 102 < b.hottest ∧ b.cal.sensorLost = true ∧ 250 ≤ b.cal.msCount + 1 ∧ b.cal.held = some {} ∧ b.cal.backstop = true) ∧
    (({ msCount := 249 } : Calipers).held = none) := by decide +kernel

def someImage : Image := { seq := 1, snap := { waiters := [(0, entry 0x61 none 0 0 [7])] } }

theorem test_met_SnapshotsWindowsAndControls :
    (up.cnt.trigger = none ∧ up.cnt.writing = none ∧ up.cnt.lenUs ≠ 0 ∧ up.cnt.restart = false ∧ up.cnt.freeze = false ∧ tabWf {} up.cnt.last = true ∧
     tabWf {} up.cnt.peak = true ∧ ({ up.cnt with lenUs := 0 } : Counters).lenUs = 0 ∧ ({ up.cnt with restart := true } : Counters).restart = true) ∧
    (let b : Block := { up with cnt := { trigger := some {} } }; b.cnt.trigger = some {}) ∧
    (let b : Block := { up with cnt := { writing := some someImage } }
     b.cnt.writing = some someImage ∧ b.cnt.queued = [] ∧ b.ctxs = []) ∧
    (up.cnt.owed = [] ∧ ({ up with jtagReset := true } : Block).jtagOff = true ∧ up.hubUp = true ∧ (up.func 0).d3hot = false ∧ (1 : FnId) ≠ 0) := by decide +kernel

theorem test_met_FaultsGoWhereTheyBelong :
    (let b := run 0
     b.hubUp = true ∧ (b.tile (tileOf 0)).powered = true ∧ (b.spd 0).inService = true ∧ (b.spd 0).faulted = false ∧ (b.spareOf 0).isSome = true) ∧
    (failed.spd 1).faulted = true ∧ ((up.spd 0).cur = none ∧ (up.spd 0).pre = none ∧ (up.spd 0).arriving = none ∧ (up.spd 0).handles = [] ∧ (up.ring 0).taken = []) ∧
    (failed.faultQueue.find? (fun f => tileOf f == tileOf 64) = some 1 ∧ failed.hubUp = true ∧ (failed.tile 0).powered = true ∧
     failed.spareOf (tileOf 64) = some 64 ∧ failed.spareOf (tileOf 65) ≠ some 65 ∧ (1 : Nat) ≠ 64 ∧ (failed.spd 1).cur = none ∧ (failed.spd 1).pre = none ∧
     (failed.spd 1).arriving = none ∧ (failed.spd 1).resetDue = false ∧ (failed.ring 0).taken = [] ∧ (failed.spd 1).handles = []) ∧
    (([0, 1].all fun dirty => (((({ up with tiles := [(0, { dc := [(5, { ways := [(3, { line := 5, dirty })] })] })] } : Block).tile 0).dcSet 5).find 5).any
      fun x => x.2.dirty == dirty) = true ∧ ((up.tile 0).dcSet 5).find 5 = none) ∧
    (up.vrFailed = [] ∧ ({ up with vrFailed := [(0, 1)] } : Block).vrFailed = [(0, 1)]) ∧ (up.pwrGood = true ∧ up.thermtripPin = false) := by
  refine ⟨?_, ?_, ?_, ?_, ?_, ?_, ?_⟩ <;> decide +kernel

theorem test_met_DroppedIndices :
    let z := sizeBatch 4 10 100 [3, 0xFFFFFFFF, 10, 3]
    z.missing = [101] ∧ z.oor = [102] ∧ z.rows = [(3, [100, 103])] := by decide +kernel

end Sys2Proof.Tests
end

section
/-!
SUPPORT. The scalar words of Table 3.3 (R402) and the scalar registers (R51).
-/
namespace Sys2Proof.Proofs
open Sys2Proof.Machine Sys2Proof.Claims

/-! ### Signed and unsigned readings of a 64-bit word -/

/-- SRA fills with copies of bit 63: the floor of the signed value over the power of two. -/
theorem sshiftRight_eq_ofInt_div (x : Word64) (n : Nat) : x.sshiftRight n = BitVec.ofInt 64 (x.toInt / (2 ^ n : Nat)) := by
  rw [← Int.shiftRight_eq_div_pow]
  rfl

/-- The low 64 bits of the exact signed product. -/
theorem mul_eq_ofInt_mul (x y : Word64) : x * y = BitVec.ofInt 64 (x.toInt * y.toInt) := by
  rw [BitVec.ofInt_mul, BitVec.ofInt_toInt, BitVec.ofInt_toInt]

/-- A choice by the signed comparison of two words is the choice by their signed values. -/
theorem ite_slt {α : Type} (x y : Word64) (a b : α) : (if x.slt y then a else b) = if x.toInt < y.toInt then a else b := by
  simp only [BitVec.slt_iff_toInt_lt]

/-- The ltu condition: below as unsigned values. -/
theorem brTaken_ltu (x y : Word64) : brTaken 4 x y = decide (x.toNat < y.toNat) := rfl

/-- The geu condition: not below as unsigned values. -/
theorem brTaken_geu (x y : Word64) : brTaken 5 x y = decide (y.toNat ≤ x.toNat) := (BitVec.ule_eq_not_ult y x).symm

/-! ### What exec does for a scalar word -/

theorem exec_sra (p : Spd) (w : W120) (s : State) : exec (.sra p w) s =
    nextOf s (s.blk.arith p (mkWord 0x08 w) fun x y => BitVec.ofInt 64 (x.toInt / (2 ^ (y.toNat % 64) : Nat))) := by
  simp only [← sshiftRight_eq_ofInt_div]
  rfl

theorem exec_mul (p : Spd) (w : W120) (s : State) : exec (.mul p w) s =
    nextOf s (s.blk.arith p (mkWord 0x09 w) fun x y => BitVec.ofInt 64 (x.toInt * y.toInt)) := by
  simp only [← mul_eq_ofInt_mul]
  rfl

theorem exec_min (p : Spd) (w : W120) (s : State) : exec (.min p w) s =
    nextOf s (s.blk.arith p (mkWord 0x0A w) fun x y => if x.toInt < y.toInt then x else y) := by
  simp only [← ite_slt]
  rfl

theorem exec_max (p : Spd) (w : W120) (s : State) : exec (.max p w) s =
    nextOf s (s.blk.arith p (mkWord 0x0B w) fun x y => if x.toInt < y.toInt then y else x) := by
  simp only [← ite_slt]
  rfl

theorem exec_slt (p : Spd) (w : W120) (s : State) : exec (.slt p w) s =
    nextOf s (s.blk.arith p (mkWord 0x0C w) fun x y => if x.toInt < y.toInt then 1 else 0) := by
  simp only [← ite_slt]
  rfl

/-- Every row of the table of scalar words is a three-operand word with the row's opcode and result. ADD to SHR are spelled alike in
the model and in the table; the signed words of R402 go through their values. -/
theorem exec_scalarRow : ∀ r ∈ scalarRows, ∀ (p : Spd) (w : W120) (s : State),
    exec (r.1 p w) s = nextOf s (s.blk.arith p (mkWord r.2.1 w) r.2.2) := by
  simp only [scalarRows, List.forall_mem_cons]
  exact ⟨fun _ _ _ => rfl, fun _ _ _ => rfl, fun _ _ _ => rfl, fun _ _ _ => rfl, fun _ _ _ => rfl, fun _ _ _ => rfl, fun _ _ _ => rfl,
    exec_sra, exec_mul, exec_min, exec_max, exec_slt, nofun⟩

/-! ### Scalar registers -/

@[simp] theorem reg_zero (s : Spindle) : s.reg 0 = 0 := rfl

theorem reg_of_ne_zero (s : Spindle) {k : Nat} (hk : k ≠ 0) : s.reg k = tget 0 s.sregs k := if_neg hk

@[simp] theorem setReg_zero (s : Spindle) (v : Word64) : s.setReg 0 v = s := rfl

theorem setReg_of_ne_zero (s : Spindle) {r : Nat} (v : Word64) (hr : r ≠ 0) :
    s.setReg r v = { s with sregs := tput 0 s.sregs r v } := if_neg hr

/-- Reading a scalar register after a write to one. -/
theorem reg_setReg {s : Spindle} (hs : tabWf 0 s.sregs = true) (r k : Nat) (v : Word64) :
    (s.setReg r v).reg k = if k = r ∧ r ≠ 0 then v else s.reg k := by
  by_cases hr : r = 0
  · simp [hr]
  · rw [setReg_of_ne_zero s v hr]
    by_cases hk : k = 0
    · simp [hk, Ne.symm hr]
    · rw [reg_of_ne_zero _ hk, reg_of_ne_zero _ hk, tget_tput 0 hs]
      simp [hr]

/-- A register write keeps the registers in canonical form. -/
theorem setReg_wf {s : Spindle} (hs : tabWf 0 s.sregs = true) (r : Nat) (v : Word64) : tabWf 0 (s.setReg r v).sregs = true := by
  by_cases hr : r = 0
  · simpa [hr] using hs
  · rw [setReg_of_ne_zero s v hr]
    exact tput_wf 0 hs

/-- Settles O2: every row is a three-operand word, and such a word writes sd and advances. -/
theorem scalarWordsAndRegisters : Obligations.ScalarWordsAndRegisters := by
  refine ⟨fun r hr p w s hi hz => ?_, fun s r v hs => ?_, fun x y => ?_⟩
  · rw [Gives, exec_scalarRow r hr, Block.arith_ok hi hz]
    rfl
  · exact ⟨fun k => reg_setReg hs r k v, setReg_wf hs r v, setReg_zero s v, reg_zero s⟩
  · exact ⟨brTaken_ltu x y, brTaken_geu x y⟩

end Sys2Proof.Proofs
end

section
/-!
SUPPORT. The sizer's classification of a batch's indices (R121).
-/
namespace Sys2Proof.Proofs
open Sys2Proof.Machine Sys2Proof.Claims

/-! ### Sorting and grouping keep every element -/

@[simp] theorem mem_insertBy {α : Type} {le : α → α → Bool} {a x : α} {l : List α} : a ∈ insertBy le x l ↔ a = x ∨ a ∈ l := by
  induction l with
  | nil => simp [insertBy]
  | cons y ys ih =>
    rw [insertBy]
    split
    · exact List.mem_cons
    · simp only [List.mem_cons, ih]
      exact or_left_comm

@[simp] theorem mem_sortBy {α : Type} {le : α → α → Bool} {a : α} {l : List α} : a ∈ sortBy le l ↔ a ∈ l := by
  induction l with
  | nil => rfl
  | cons x xs ih => rw [sortBy, mem_insertBy, ih, List.mem_cons]

/-- A pair in front of grouped pairs joins the first group when that group is of its row, and begins a group otherwise; either way
the groups name what they named before, and the pair. -/
theorem mem_groupSorted_cons {x : Nat × Nat} {l : List (Nat × Nat)} {row p : Nat} :
    (∃ ps, (row, ps) ∈ groupSorted (x :: l) ∧ p ∈ ps) ↔ (row, p) = x ∨ ∃ ps, (row, ps) ∈ groupSorted l ∧ p ∈ ps := by
  have hcons : groupSorted (x :: l) = match groupSorted l with
      | (i, ps) :: rest => if i = x.1 then (i, x.2 :: ps) :: rest else (x.1, [x.2]) :: groupSorted l
      | [] => [(x.1, [x.2])] := rfl
  obtain ⟨i, q⟩ := x
  rw [hcons]
  cases groupSorted l with
  | nil => simp
  | cons g rest =>
    obtain ⟨r, qs⟩ := g
    by_cases hr : r = i
    · subst hr
      simp [or_and_right, exists_or, and_assoc, and_or_left, or_assoc]
    · simp [hr, or_and_right, exists_or, and_assoc]

/-- The groups name exactly the pairs that were grouped. -/
theorem mem_groupSorted {l : List (Nat × Nat)} {row p : Nat} : (∃ ps, (row, ps) ∈ groupSorted l ∧ p ∈ ps) ↔ (row, p) ∈ l := by
  induction l with
  | nil => simp [groupSorted]
  | cons x xs ih => rw [mem_groupSorted_cons, ih, List.mem_cons]

/-! ### What the sizer makes of the position of an index -/

section
variable {w numRows k0 j : Nat} {idx : List Nat} (hj : j < idx.length)
include hj

/-- A batch's position stands among its pairs once, with the index that lies there. -/
theorem mem_batch_pairs {i : Nat} : (i, k0 + j) ∈ ((List.range idx.length).map fun k => (idx.getD k 0, k0 + k)) ↔ idx.getD j 0 = i := by
  simp [and_comm, hj]

/-- A filter of the batch's pairs keeps a position exactly when it accepts the position's pair. -/
theorem mem_filtered_positions {f : Nat × Nat → Bool} :
    k0 + j ∈ (((List.range idx.length).map fun k => (idx.getD k 0, k0 + k)).filter f).map (·.2) ↔ f (idx.getD j 0, k0 + j) = true := by
  rw [List.mem_map]
  simp only [List.mem_filter, Prod.exists, exists_eq_right, mem_batch_pairs hj, exists_eq_left']

theorem mem_missing_sizeBatch : k0 + j ∈ (sizeBatch w numRows k0 idx).missing ↔ idx.getD j 0 = 2 ^ (8 * w) - 1 := by
  simp only [sizeBatch, mem_filtered_positions hj, beq_iff_eq]

theorem mem_oor_sizeBatch : k0 + j ∈ (sizeBatch w numRows k0 idx).oor ↔ idx.getD j 0 ≠ 2 ^ (8 * w) - 1 ∧ numRows ≤ idx.getD j 0 := by
  simp only [sizeBatch, mem_filtered_positions hj, Bool.and_eq_true, bne_iff_ne, decide_eq_true_eq]

theorem mem_rows_sizeBatch {row : Nat} : (∃ ps, (row, ps) ∈ (sizeBatch w numRows k0 idx).rows ∧ k0 + j ∈ ps) ↔
    idx.getD j 0 = row ∧ row ≠ 2 ^ (8 * w) - 1 ∧ row < numRows := by
  simp only [sizeBatch, mem_groupSorted, mem_sortBy, List.mem_filter, mem_batch_pairs hj, Bool.and_eq_true, bne_iff_ne, decide_eq_true_eq]

end

/-- The sentinels of the two widths of an index. -/
theorem sentinel_of_width {w : Nat} (hw : w = 4 ∨ w = 8) :
    2 ^ (8 * w) - 1 = if w = 4 then 0xFFFFFFFF else 0xFFFFFFFFFFFFFFFF := by
  obtain rfl | rfl := hw <;> rfl

/-- Settles O59: the sizer's three filters split the batch's pairs, and sorting and grouping keep every pair. -/
theorem droppedIndices : Obligations.DroppedIndices := by
  intro w numRows k0 idx hw z v j hj
  rw [← sentinel_of_width hw]
  have hm : k0 + j ∈ z.missing ↔ _ := mem_missing_sizeBatch hj
  have ho : k0 + j ∈ z.oor ↔ _ := mem_oor_sizeBatch hj
  refine ⟨hm, ho, fun row => (mem_rows_sizeBatch hj).trans (and_congr_right ?_)⟩
  rintro rfl
  rw [hm, ho, not_and, not_le]
  exact ⟨fun ⟨hne, hlt⟩ => ⟨hne, fun _ => hlt⟩, fun ⟨hne, hlt⟩ => ⟨hne, hlt hne⟩⟩

end Sys2Proof.Proofs
end

section
/-!
SUPPORT. The generator of Grain (R191, R195).
-/
namespace Sys2Proof.Proofs
open Sys2Proof.Machine Sys2Proof.Claims

/-- Settles O60: each row of Table 10.3 is a closed run of the ten rounds. -/
theorem grainTestBlocks : Obligations.GrainTestBlocks := by
  constructor
  case left => decide
  case right => decide

end Sys2Proof.Proofs
end

section
/-!
SUPPORT. What every command answers: a next state with the queue as it was, and device memory in its canonical form.
-/
namespace Sys2Proof.Proofs
open Sys2Proof.Machine Sys2Proof.Claims

/-- Every command but the three that write device memory answers a next state that differs in its block alone. -/
theorem exec_keeps_dram {i : Instr} {s : State} (hs : ∀ ch found, i ≠ .channelServe ch found) (hc : i ≠ .coldReset)
    (hp : i ≠ .perstAssert) : ∃ b, exec i s = nextOf s b := by
  cases i with
  | channelServe ch found => exact absurd rfl (hs ch found)
  | coldReset => exact absurd rfl hc
  | perstAssert => exact absurd rfl hp
  | _ => exact ⟨_, rfl⟩

/-- A cold reset empties device memory where it acts (R403), and leaves it where it does not. -/
theorem exec_coldReset (s : State) : ∃ m b, exec .coldReset s = nextOf { s with dram := m } b ∧ (m = {} ∨ m = s.dram) := by
  change ∃ m b, execColdReset s = _ ∧ _
  unfold execColdReset
  dsimp only
  split
  · exact ⟨_, _, rfl, .inl rfl⟩
  · exact ⟨s.dram, _, rfl, .inr rfl⟩

/-- A module reset lets the accepted requests take effect (R377). -/
theorem exec_perstAssert (s : State) : ∃ m b, exec .perstAssert s = nextOf { s with dram := m } b ∧ (m = s.blk.settleChans s.dram ∨ m = s.dram) := by
  change ∃ m b, execPerstAssert s = _ ∧ _
  unfold execPerstAssert
  dsimp only
  split
  · exact ⟨_, _, rfl, .inl rfl⟩
  · exact ⟨s.dram, _, rfl, .inr rfl⟩

/-- Every command answers a next state: some block, and a memory that is canonical where the old one was. -/
theorem exec_answers (i : Instr) (s : State) :
    ∃ m b, exec i s = nextOf { s with dram := m } b ∧ (s.dram.wf = true → m.wf = true) := by
  by_cases hs : ∃ ch found, i = .channelServe ch found
  · obtain ⟨ch, found, rfl⟩ := hs
    exact ⟨_, _, rfl, fun h => chanServe_wf h s.blk ch found⟩
  by_cases hc : i = .coldReset
  · obtain ⟨m, b, hx, rfl | rfl⟩ := exec_coldReset s
    · exact ⟨_, b, hc ▸ hx, fun _ => Dram.empty_wf⟩
    · exact ⟨_, b, hc ▸ hx, id⟩
  by_cases hp : i = .perstAssert
  · obtain ⟨m, b, hx, rfl | rfl⟩ := exec_perstAssert s
    · exact ⟨_, b, hp ▸ hx, fun h => Block.settleChans_wf h s.blk⟩
    · exact ⟨_, b, hp ▸ hx, id⟩
  · obtain ⟨b, hb⟩ := exec_keeps_dram (s := s) (fun ch found h => hs ⟨ch, found, h⟩) hc hp
    exact ⟨s.dram, b, hb, id⟩

/-- A next state as `nextOf` forms it is sound exactly when its memory is canonical: the working flag is down. -/
theorem wf_nextOf {s t : State} {b : Block} (h : nextOf s b = .next t) : t.wf = s.dram.wf := by
  cases h
  simp [State.wf]

/-- Settles O26: an idle step leaves memory alone, and a command's answer keeps its form. -/
theorem everyStepKeepsMemoryForm : Obligations.EveryStepKeepsMemoryForm := by
  intro s t hs h
  have hm : s.dram.wf = true := by
    rw [State.wf, Bool.and_eq_true] at hs
    exact hs.1
  unfold step at h
  split at h
  case h_1 =>
    cases h
    simpa [idle, State.wf] using hm
  case h_2 i rest _ =>
    obtain ⟨m, b, hx, hw⟩ := exec_answers i { s with pending := rest }
    rw [hx] at h
    rw [wf_nextOf h]
    exact hw hm

/-- Settles O28: every answer is a next state that `nextOf` forms, which keeps the queue. -/
theorem everyCommandCompletes : Obligations.EveryCommandCompletes := by
  intro i s
  obtain ⟨m, b, hx, -⟩ := exec_answers i s
  exact ⟨_, hx, rfl⟩

/-- Settles O29: every other command changes the block alone. -/
theorem onlyChannelsWriteMemory : Obligations.OnlyChannelsWriteMemory := by
  intro i s t h hs hc hp
  obtain ⟨b, hb⟩ := exec_keeps_dram (s := s) hs hc hp
  rw [hb] at h
  cases h
  rfl

/-- Settles O1: `step` is defined by the front of the queue. -/
theorem stepRunsFrontCommand : Obligations.StepRunsFrontCommand := fun _ _ _ _ => rfl

end Sys2Proof.Proofs
end

section
/-!
SUPPORT. How an answer is read off `exec`, and the sequencer words of chapter 3.
-/
namespace Sys2Proof.Proofs
open Sys2Proof.Machine Sys2Proof.Claims

/-! ### Reading an answer off `exec` -/

/-- A command whose block comes out as `b'` answers it. -/
theorem gives {i : Instr} {s : State} {b b' : Block} (h : exec i s = nextOf s b) (hb : b = b') : Gives i s b' := hb ▸ h

/-- The same where no full channel queue is met. -/
theorem served {i : Instr} {s : State} {b b' : Block} (h : exec i s = nextOf s b) (hb : b'.stalled = false → b = b') : Served i s b' :=
  fun hs => gives h (hb hs)

/-- Work that meets no full channel queue takes effect (R244). -/
theorem orWait_clear {b : Block} {f : Block → Block} (h : (f b).stalled = false) : b.orWait f = f b := by
  simp [Block.orWait, h]

/-- Work that leaves the block as it is leaves it so under `orWait`. -/
theorem orWait_same {b : Block} {f : Block → Block} (h : f b = b) : b.orWait f = b := by
  simp [Block.orWait, h]

/-- An answer of work under `orWait`, in a block that meets no full channel queue. -/
theorem orWait_eq {b b' : Block} {f : Block → Block} (h : f b = b') (hs : b'.stalled = false) : b.orWait f = b' := by
  rw [orWait_clear (h ▸ hs), h]

/-! ### Sequencer words -/

/-- A word that Table 3.6 holds waits while it is speculative. -/
theorem seqWord_waits {b : Block} {p w : Nat} {rs : List Nat} {bad : Bool} {act : Block → Block} (h : b.confirmedNow p = false) :
    b.seqWord p w false rs bad act = b := by
  rw [Block.confirmedNow, Bool.not_eq_false'] at h
  unfold Block.seqWord
  simp [h]

/-- What a word that may issue does, its encoding being sound. -/
theorem seqWord_sound {b : Block} {p w : Nat} {rs : List Nat} {spec bad : Bool} {act : Block → Block}
    (h : b.canIssue p w rs = true) (hc : spec = true ∨ b.confirmedNow p = true) (hb : bad = false) :
    b.seqWord p w spec rs bad act = act b := hb ▸ Block.seqWord_ok h hc

/-- Nothing issues after RETIRE. -/
theorem retired_mayIssue (b : Block) (p v : Nat) (x : Spindle) (h : x.hold = .retired) : (b.setSpd p x).mayIssue p v = false := by
  simp [Block.mayIssue, h]

/-- R60, R68: a RETIRE that may issue. -/
theorem gives_retire {p : Spd} {w : W120} {s : State} (hi : s.blk.canIssue p (mkWord 0x2F w) [] = true)
    (hz : zeros (mkWord 0x2F w) [(31, 12), (127, 32)] = true) (hc : s.blk.confirmedNow p = true) :
    Gives (.retire p w) s (s.blk.setSpd p { (s.blk.spd p).issued with hold := .retired }) := by
  refine gives rfl ((seqWord_sound hi (.inr hc) (by simp [hz])).trans ?_)
  simp [Block.advance_eq, Block.modSpd, Spindle.issued]

/-- A register write leaves the program counter and the issue index. -/
@[simp] theorem setReg_pc (s : Spindle) (r : Nat) (v : Word64) : (s.setReg r v).pc = s.pc := by
  unfold Spindle.setReg
  split <;> rfl

@[simp] theorem setReg_nextIdx (s : Spindle) (r : Nat) (v : Word64) : (s.setReg r v).nextIdx = s.nextIdx := by
  unfold Spindle.setReg
  split <;> rfl

/-- R401: LOOP takes 1 from sd and goes where the new value says. -/
theorem gives_loop {p : Spd} {w : W120} {s : State} {pc : Nat} (hi : s.blk.canIssue p (mkWord 0x1A w) [bits (mkWord 0x1A w) 68 64] = true)
    (hz : zeros (mkWord 0x1A w) [(31, 12), (127, 69)] = true) :
    let sd := bits (mkWord 0x1A w) 68 64
    let spd := s.blk.spd p
    let less := spd.setReg sd (spd.reg sd - 1)
    (if less.reg sd ≠ 0 then ((spd.pc : Int) + 16 * sbits (mkWord 0x1A w) 63 32).toNat else spd.pc + 16) = pc →
    Gives (.loop p w) s (s.blk.setSpd p { less with pc, nextIdx := spd.nextIdx + 1 }) := by
  intro sd spd less hpc
  refine gives rfl ((seqWord_sound hi (.inl rfl) (by simp [hz])).trans ?_)
  simp only [Block.modSpd, setReg_pc, setReg_nextIdx, branchTo, ← hpc, sd, spd, less]

/-- The word after a register write. -/
theorem issued_setReg (s : Spindle) (r : Nat) (v : Word64) :
    (s.setReg r v).issued = { s.setReg r v with pc := s.pc + 16, nextIdx := s.nextIdx + 1 } := by
  simp only [Spindle.issued, setReg_pc, setReg_nextIdx]

/-- Settles O3: each word is a sequencer word with its own move of the program counter. -/
theorem controlWordsAdvance : Obligations.ControlWordsAdvance := by
  refine ⟨fun p w s => ⟨fun hi hz => ?nop, fun hi hz => ?li⟩, fun p w s => ⟨fun hi hz => ?jmp, fun hi hz => ⟨fun hn => ?again, fun h0 => ?past⟩⟩, ?retire⟩
  case nop => exact gives rfl ((seqWord_sound hi (.inl rfl) (by simp [hz])).trans (Block.advance_eq _ _))
  case li =>
    refine gives rfl ((seqWord_sound hi (.inl rfl) (by simp [hz])).trans ?_)
    simp [Block.advance_eq, Block.modSpd]
  case jmp => exact gives rfl (seqWord_sound hi (.inl rfl) (by simp [hz]))
  case again => exact gives_loop hi hz (if_pos hn)
  case past =>
    rw [issued_setReg]
    exact gives_loop hi hz (if_neg (not_not_intro h0))
  case retire =>
    intro p w s x after hi hz
    exact ⟨fun hc => ⟨gives_retire hi hz hc, fun v => retired_mayIssue _ _ _ _ rfl⟩, fun hc => gives rfl (seqWord_waits hc)⟩

/-! ### Scalar loads and stores -/

/-- Writing entries of the gathering buffer to their banks changes the buffer and the scratchpad alone. -/
theorem commitRange_eq (s : Spindle) (a n : Nat) : ∃ g r, s.commitRange a n = { s with gbuf := g, spad := r } := by
  obtain ⟨g, r, h, -⟩ := s.commitWhere_eq fun g => decide (n ≠ 0) && decide (a / 64 ≤ g.sector) && decide (g.sector ≤ (a + n - 1) / 64)
  exact ⟨g, r, h⟩

/-- A read by a port: its bytes, and a spindle that differs in its gathering buffer, its scratchpad and its counts. -/
theorem spadRead_eq (b : Block) (p a n : Nat) (spec : Option Nat) :
    ∃ b' g r t v, b.spadRead p a n spec = ((b.spd p).peek a n, b') ∧ OnlySpd p b b'
      ∧ b'.spd p = { b.spd p with gbuf := g, spad := r, cntProg := t, specEv := v } := by
  obtain ⟨g, r, hc⟩ := commitRange_eq (b.spd p) a n
  obtain ⟨t, v, ht⟩ := Block.modGb_spd b p (fun s => s.commitRange a n) 0 spec
  refine ⟨_, g, r, t, v, ?_, Block.modGb_only b p (fun s => s.commitRange a n) 0 spec, by rw [ht, hc]⟩
  simp [Block.spadRead, Block.commitRange, ht, Spindle.peek]

/-- A write of a port to its banks: entries of the sectors it touches first, then its bytes, the handle marked as written. -/
theorem spadWrite_eq (b : Block) (p a : Nat) {bs : List Byte} (spec : Option Nat) (hbs : bs ≠ []) :
    ∃ g h t v, OnlySpd p b (b.spadWrite p a bs spec)
      ∧ (b.spadWrite p a bs spec).spd p = { b.spd p with
          gbuf := g, spad := ((b.spd p).commitRange a bs.length).spad.write a bs, handles := h, cntProg := t, specEv := v } := by
  let f (s : Spindle) : Spindle := { s.commitRange a bs.length with spad := (s.commitRange a bs.length).spad.write a bs }.markWritten a
  have hw : b.spadWrite p a bs spec = b.modGb p f 0 spec := if_neg hbs
  rw [hw]
  obtain ⟨g, r, hc⟩ := commitRange_eq (b.spd p) a bs.length
  obtain ⟨t, v, ht⟩ := Block.modGb_spd b p f 0 spec
  refine ⟨(f (b.spd p)).gbuf, (f (b.spd p)).handles, t, v, Block.modGb_only b p f 0 spec, ht.trans ?_⟩
  simp only [f, Spindle.markWritten, hc]

@[simp] theorem leBytes_length (n x : Nat) : (leBytes n x).length = n := by
  induction n generalizing x with
  | zero => rfl
  | succ n ih => simp [leBytes, ih]

/-- A write of `n + 1` bytes is a write of some. -/
theorem leBytes_ne_nil (n x : Nat) : leBytes (n + 1) x ≠ [] := nofun

/-- An aligned access inside scratchpad passes the checks of an SLD's or SST's encoding. -/
theorem scalarAccess_sound {x a : Nat} {fs : List (Nat × Nat)} (hz : zeros x fs = true) (ha : a % 8 = 0) (hr : a + 8 ≤ 0x600000) :
    (!zeros x fs || a % 8 != 0 || !inSpad a 8) = false := by
  simpa [hz, ha, inSpad, spadSize] using hr

/-- R401: an SLD that may issue reads its 8 B and waits for SLD_RESULT. -/
theorem sld_issues {p : Spd} {w : W120} {s : State} {rd a : Nat} (hrd : bits (mkWord 0x11 w) 36 32 = rd) (haa : bits (mkWord 0x11 w) 95 64 = a)
    (hi : s.blk.canIssue p (mkWord 0x11 w) [rd] = true) (hz : zeros (mkWord 0x11 w) [(31, 12), (63, 37), (127, 96)] = true)
    (ha : a % 8 = 0) (hr : a + 8 ≤ 0x600000) (hok : ((s.blk.spd p).asOf (s.blk.spd p).nextIdx).readOk (s.blk.spd p).ctx a 8 = none) :
    Gives (.sld p w) s (((s.blk.spadRead p a 8 (s.blk.specNext p)).2.modSpd p fun z => { z with
      slds := z.slds ++ [{ idx := z.nextIdx, rd, val := BitVec.ofNat 64 (leNat (s.blk.spadRead p a 8 (s.blk.specNext p)).1) }] }).advance p) := by
  subst hrd haa
  refine gives rfl ((seqWord_sound hi (.inl rfl) (scalarAccess_sound hz ha hr)).trans ?_)
  simp only [hok]

/-- R401: a confirmed SST writes its register's 8 B. -/
theorem sst_issues {p : Spd} {w : W120} {s : State} {ra a : Nat} (hra : bits (mkWord 0x12 w) 36 32 = ra) (haa : bits (mkWord 0x12 w) 95 64 = a)
    (hi : s.blk.canIssue p (mkWord 0x12 w) [ra] = true) (hc : s.blk.confirmedNow p = true)
    (hz : zeros (mkWord 0x12 w) [(31, 12), (63, 37), (127, 96)] = true)
    (ha : a % 8 = 0) (hr : a + 8 ≤ 0x600000) (hok : ((s.blk.spd p).asOf (s.blk.spd p).nextIdx).writeOk (s.blk.spd p).ctx ownerSeq a 8 = none) :
    Gives (.sst p w) s ((s.blk.spadWrite p a (leBytes 8 ((s.blk.spd p).reg ra).toNat)).advance p) := by
  subst hra haa
  refine gives rfl ((seqWord_sound hi (.inr hc) (scalarAccess_sound hz ha hr)).trans ?_)
  simp only [hok]

/-- A change of one spindle after changes of that spindle alone. -/
theorem onlySpd_modSpd {p : Nat} {b b' : Block} (h : OnlySpd p b b') (f : Spindle → Spindle) : OnlySpd p b (b'.modSpd p f) :=
  OnlySpd.trans h (OnlySpd.setSpd p b' _)

theorem onlySpd_advance {p : Nat} {b b' : Block} (h : OnlySpd p b b') : OnlySpd p b (b'.advance p) := onlySpd_modSpd h _

/-- Settles O4: an SLD's read and an SST's write change the spindle's buffer, banks and counts, and SLD_RESULT delivers. -/
theorem scalarLoadsAndStores : Obligations.ScalarLoadsAndStores := by
  refine ⟨fun p w s => ⟨fun hi hz ha hr hok => ?sld, fun hi hc hz ha hr hok => ?sst⟩, ?result⟩
  case sld =>
    have hg := sld_issues rfl rfl hi hz ha hr hok
    obtain ⟨b', g, m, t, v, hread, honly, hspd⟩ := spadRead_eq s.blk p (bits (mkWord 0x11 w) 95 64) 8 (s.blk.specNext p)
    rw [hread] at hg
    refine ⟨_, hg, onlySpd_advance (onlySpd_modSpd honly _), ?_⟩
    simp [Block.advance_eq, hspd]
  case sst =>
    have hg := sst_issues rfl rfl hi hc hz ha hr hok
    obtain ⟨g, h, t, v, honly, hspd⟩ := spadWrite_eq s.blk p (bits (mkWord 0x12 w) 95 64) none
      (leBytes_ne_nil 7 ((s.blk.spd p).reg (bits (mkWord 0x12 w) 36 32)).toNat)
    refine ⟨_, hg, onlySpd_advance honly, ?_⟩
    simp [Block.advance_eq, hspd]
  case result =>
    intro p s r rest spd hrun hsl
    refine gives rfl ?_
    simp only [hrun, hsl, spd, Block.modSpd, sldDeliver]
    by_cases h : r.rd = 0 <;> simp [Spindle.setReg, h]

/-! ### FLAG -/

/-- With no LDT in progress, nothing else waits for a local flag. -/
theorem ldtPump_idle {m : Dram} {b : Block} {p : Nat} (h : (b.spd p).ldt = none) : b.ldtPump m p = b := by
  simp [Block.ldtPump, h]

theorem setFlag_idle {m : Dram} {b : Block} {p : Nat} (k : Nat) (h : (b.spd p).ldt = none) :
    b.setFlag m p k = b.modSpd p fun s => s.modFlag k LocalFlag.set := by
  unfold Block.setFlag
  rw [ldtPump_idle]
  simpa [Spindle.modFlag] using h

/-- What a FLAG word does once its wait is met: it takes from flag `i` and sets flag `j`, as its enables ask. -/
theorem flag_effect {m : Dram} {b : Block} {p : Nat} (h : (b.spd p).ldt = none) (i j : Nat) (wait sets : Bool) :
    (let b1 := if wait then b.modSpd p fun s => s.modFlag i LocalFlag.take else b
     (if sets then b1.setFlag m p j else b1).advance p)
      = b.setSpd p (let waited := if wait then (b.spd p).modFlag i LocalFlag.take else b.spd p
          if sets then waited.modFlag j LocalFlag.set else waited).issued := by
  have hld : ∀ f, ((b.modSpd p fun s => s.modFlag i f).spd p).ldt = none := by simp [Spindle.modFlag, h]
  cases wait <;> cases sets
  case false.false => rfl
  case true.false => simp [Block.advance_eq, Block.modSpd]
  case false.true => simp [setFlag_idle _ h, Block.advance_eq, Block.modSpd]
  case true.true => simp [setFlag_idle _ (hld _), Block.advance_eq]

/-- Settles O7: a FLAG word waits, or takes from its wait flag and sets. -/
theorem flagWaitsThenSets : Obligations.FlagWaitsThenSets := by
  intro p w s x spd hi hc hz hl hst
  have hz' : (!zeros x [(15, 12), (31, 28), (127, 32)]) = false := by simp [hz]
  constructor
  case left =>
    intro hb h0
    exact gives rfl (orWait_same ((seqWord_sound hi (.inr hc) hz').trans (if_pos ⟨hb, h0⟩)))
  case right =>
    intro hset waited done
    refine gives rfl (orWait_eq ((seqWord_sound hi (.inr hc) hz').trans ((if_neg fun h => hset h.1 h.2).trans ?_)) (by simpa using hst))
    exact flag_effect hl _ _ _ _

end Sys2Proof.Proofs
end

section
/-!
SUPPORT. A wrong guess may release what a hub block held back behind a squashed read (R22, R66, R218).
-/
namespace Sys2Proof.Proofs
open Sys2Proof.Machine Sys2Proof.Claims

/-- A part of the block that a command answers; a stop of the machine has none. -/
def answered {α : Type} (f : Block → α) (i : Instr) (s : State) : Option α :=
  match exec i s with
  | .next t => some (f t.blk)
  | _ => none

/-- A part of the answered block that the working flag is no part of is read off a `Gives`. -/
theorem answered_of_gives {α : Type} {f : Block → α} {i : Instr} {s : State} {b : Block} (h : Gives i s b)
    (hf : f { b with stalled := false } = f b) : answered f i s = some (f b) := by
  unfold answered
  rw [h]
  exact congrArg some hf

/-- A BR at issue index 2, guessed not taken, whose condition holds, behind an open BR at index 1. -/
def wrongGuess : BrEntry := { idx := 2, va := some 1, vb := some 1 }

/-- Spindle 0 runs both BRs and, beyond them, a speculative load that has asked for 64 B of the host window. A write to the same
granule waits behind that read, and a hub block's store to device memory waits for the write. -/
def heldStore : State :=
  { pending := [], dram := {}
    blk := { perst := false, ready := true, bootStage := 4
             spindles := [(0, { cur := some {}, started := true, nextIdx := 4, brs := [{ idx := 1 }, wrongGuess]
                                loadQ := [{ idx := 3, begun := true, hostWait := true }] })]
             hostReads := [{ spindle := 0, idx := 3, len := 64 }, { spindle := hostWriter, len := 64, wr := some (List.replicate 64 1) }]
             hubLater := [{ lines := [hostBase / 64], addr := 0x10000, bytes := [1] }] } }

/-- The squash forgets the read, so the write leaves for the host and the store for its channel. -/
theorem heldStore_released : answered Block.chans (.brResolve 0 1) heldStore ≠ some heldStore.blk.chans := by decide +kernel

/-- Refutes O5: the squash of a wrong guess drops the reads that younger words have asked of the host window, and the hub stores
that waited behind one of them go to their channels, so channels may change. -/
theorem not_branchesFollowHintAndResolve : ¬ Obligations.BranchesFollowHintAndResolve := by
  intro ⟨_, hresolve, _⟩
  obtain ⟨-, hwrong⟩ := hresolve 0 1 heldStore wrongGuess { idx := 1 } 1 1 (by decide +kernel) rfl rfl rfl rfl rfl rfl (by decide) rfl
  obtain ⟨b, hb, -, -, -, -, -, -, -, -, hchans, -⟩ := hwrong (by decide)
  exact heldStore_released ((answered_of_gives hb rfl).trans (congrArg some hchans))

end Sys2Proof.Proofs
end

section
/-!
SUPPORT. FENCE: what it writes to the banks, when it holds and when it resumes (R60, R97, R243).
-/
namespace Sys2Proof.Proofs
open Sys2Proof.Machine Sys2Proof.Claims

/-- Counting an event leaves the working flag as it is. -/
theorem onlySpd_stalled {p : Nat} {b b' : Block} (h : OnlySpd p b b') : b'.stalled = b.stalled := by
  have h1 := congrArg Block.stalled h.1
  exact h1

/-- The gathering buffers of some engines, written to their banks: the block, its spindle, and what the buffer still holds. -/
theorem modGb_commit (b : Block) (p : Nat) (f : GatherEntry → Bool) (n : Nat) (sp : Option Nat) :
    ∃ g r t v, (b.modGb p (fun s => s.commitWhere f) n sp).spd p = { b.spd p with gbuf := g, spad := r, cntProg := t, specEv := v }
      ∧ ∀ x ∈ g, f x = false := by
  obtain ⟨g, r, hc, hg⟩ := (b.spd p).commitWhere_eq f
  obtain ⟨t, v, ht⟩ := Block.modGb_spd b p (fun s => s.commitWhere f) n sp
  rw [hc] at ht
  exact ⟨g, r, t, v, ht, hg⟩

/-- An engine queue is a field of its own: a change of the other fields leaves it. -/
theorem queue_congr {s s' : Spindle} (h : (s'.matrixQ, s'.vectorQ, s'.loadQ, s'.storeQ, s'.gougeQ) = (s.matrixQ, s.vectorQ, s.loadQ, s.storeQ, s.gougeQ))
    (e : Engine) : s'.queue e = s.queue e := by
  simp only [Prod.mk.injEq] at h
  obtain ⟨hm, hv, hl, hs, hg⟩ := h
  cases e
  · exact hm
  · exact hv
  · exact hl
  · exact hs
  · exact hg

/-- What a FENCE that may issue does before it holds: the gathering buffers of its engines. -/
abbrev fenceWritten (b : Block) (p mask : Nat) : Block :=
  b.modGb p (fun z => z.commitWhere fun g => (maskEngines mask).contains g.engine) 0 (b.specNext p)

/-- R60: a FENCE that may issue and names an engine. -/
theorem exec_fence {p : Spd} {w : W120} {s : State} (hi : s.blk.canIssue p (mkWord 0x20 w) [] = true)
    (hz : zeros (mkWord 0x20 w) [(31, 12), (39, 37), (127, 41)] = true) (hm : bits (mkWord 0x20 w) 36 32 ≠ 0) :
    let mask := bits (mkWord 0x20 w) 36 32
    let memory := bit (mkWord 0x20 w) 40
    exec (.fence p w) s = nextOf s ((fenceWritten s.blk p mask).orWait fun b =>
      let b := if memory then b.fenceFlush s.dram p mask else b
      b.setSpd p { (b.spd p).issued with hold := .fence mask memory (b.spd p).nextIdx }) := by
  have hbad : (!zeros (mkWord 0x20 w) [(31, 12), (39, 37), (127, 41)] || bits (mkWord 0x20 w) 36 32 == 0) = false := by simp [hz, hm]
  refine congrArg (nextOf s) ((seqWord_sound hi (.inl rfl) hbad).trans ?_)
  simp only [Block.advance_eq, Block.modSpd, Block.spd_setSpd, Block.setSpd_setSpd, Spindle.issued]

/-- R60: what a held FENCE waits for among its engines' older commands. -/
theorem fence_waits_iff {s : Spindle} {mask idx : Nat} :
    ((maskEngines mask).any fun e => (s.queue e).any fun q => decide (q.idx < idx) && !q.completed) = false
      ↔ ∀ e ∈ maskEngines mask, ∀ q ∈ s.queue e, idx ≤ q.idx ∨ q.completed = true := by
  simp only [List.any_eq_false, Bool.not_eq_true, Bool.and_eq_false_iff, decide_eq_false_iff_not, Bool.not_eq_false', not_lt]

/-- R60: a held FENCE with an older command of its engines that is not complete. -/
theorem exec_fenceComplete_waits {p : Spd} {s : State} {mask idx : Nat} {memory : Bool} {e : Engine} {q : QCmd} (hr : s.blk.runs p = true)
    (hh : (s.blk.spd p).hold = .fence mask memory idx) (he : e ∈ maskEngines mask) (hq : q ∈ (s.blk.spd p).queue e) (hlt : q.idx < idx)
    (hc : q.completed = false) : exec (.fenceComplete p) s = nextOf s s.blk := by
  have hw : ((maskEngines mask).any fun e => ((s.blk.spd p).queue e).any fun q => decide (q.idx < idx) && !q.completed) = true := by
    simp only [List.any_eq_true, Bool.and_eq_true, decide_eq_true_eq, Bool.not_eq_true']
    exact ⟨e, he, q, hq, hlt, hc⟩
  refine congrArg (nextOf s) (orWait_same ?_)
  simp [hr, hh, hw]

/-- R60, R241: a held FENCE whose older commands are complete. -/
theorem exec_fenceComplete {p : Spd} {s : State} {mask idx : Nat} {memory : Bool} (hr : s.blk.runs p = true)
    (hh : (s.blk.spd p).hold = .fence mask memory idx)
    (hq : ∀ e ∈ maskEngines mask, ∀ q ∈ (s.blk.spd p).queue e, idx ≤ q.idx ∨ q.completed = true) :
    exec (.fenceComplete p) s = nextOf s (s.blk.orWait fun b =>
      let b := if memory then b.fenceFlush s.dram p mask else b
      if memory && b.fencePending p mask then b else b.modSpd p fun s => { s with hold := .none, fenceLines := [] }) := by
  change nextOf s _ = nextOf s _
  simp only [Block.orWait, hr, hh, fence_waits_iff.mpr hq]
  rfl

/-- Settles O6: a FENCE flushes and holds; the hold ends exactly when nothing it waits for is left. -/
theorem fencesHoldAndResume : Obligations.FencesHoldAndResume := by
  constructor
  case left =>
    intro p w s x spd mask hi hz hm
    constructor
    · intro hmem hst
      obtain ⟨g, r, t, v, hspd, hg⟩ := modGb_commit s.blk p (fun g => (maskEngines mask).contains g.engine) 0 (s.blk.specNext p)
      have honly : OnlySpd p s.blk (fenceWritten s.blk p mask) := Block.modGb_only _ _ _ _ _
      have hx := exec_fence hi hz hm
      simp only [x] at hmem
      simp only [hmem] at hx
      refine ⟨_, gives hx (orWait_clear ?stalled), ?_⟩
      case stalled => exact (onlySpd_stalled honly).trans hst
      simp only [Bool.false_eq_true, if_false, Block.spd_setSpd, Spindle.issued_pc, Spindle.issued_nextIdx]
      rw [hspd]
      refine ⟨rfl, OnlySpd.trans honly (OnlySpd.setSpd _ _ _), rfl, rfl, rfl, rfl, queue_congr rfl, fun y hy => ?_⟩
      simpa using hg y hy
    · intro hmem written sent
      have hx := exec_fence hi hz hm
      simp only [x] at hmem
      simp only [hmem, if_true] at hx
      exact served hx fun hst => orWait_clear hst
  case right =>
    intro p s mask idx memory spd hr hh
    constructor
    · intro e he q hq hlt hc
      exact gives (exec_fenceComplete_waits hr hh he hq hlt hc) rfl
    · intro hq
      have hx := exec_fenceComplete hr hh hq
      refine ⟨fun hm hst => gives hx ?_, fun hm => ⟨fun hp => served hx fun hst => ?_, fun hp => served hx fun hst => ?_⟩⟩
      · subst hm
        exact orWait_clear hst
      · subst hm
        refine orWait_eq ?_ hst
        simp only [if_true, Bool.true_and]
        exact if_pos hp
      · subst hm
        refine orWait_eq ?_ hst
        simp only [if_true, Bool.true_and]
        exact if_neg (by simp [hp])

end Sys2Proof.Proofs
end

section
/-!
SUPPORT. Blanks: choosing one, bringing it to a spindle, starting it, and fetching its code (R51, R255 to R258).
-/
namespace Sys2Proof.Proofs
open Sys2Proof.Machine Sys2Proof.Claims

/-! ### Start -/

/-- With the trace off no event of a blank enters it. -/
theorem traceEvent_off {b : Block} (h : b.trace.enable = false) (c : Nat) (d : BitVec 512) (e p i : Nat) : b.traceEvent c d e p i = b := by
  simp [Block.traceEvent, h]

/-- The spindle as the start of blank `k` leaves it (R51, R75); `tag` names the bowl's unspecified bytes. -/
def startedSpindle (s : Spindle) (k : Blank) (tag : Nat) : Spindle :=
  { s with
    cur := some { k with regsns := [] }, started := true, serial := s.serial + 1, phases := tset s.phases (s.serial + 1) (k.ctx, bits k.desc.toNat 127 120)
    pc := bits k.desc.toNat 47 0, sregs := tput 0 [] 1 (BitVec.ofNat 64 (bits k.desc.toNat 447 384)), flags := [], credit := 0, regsns := k.regsns, ibuf := []
    fenceLines := [], nextIdx := 1, bowl := s.bowl.forget 0 0x100000 tag, bowlNext := 0, bowlCtx := k.ctx
    epochObs := 0, epochValid := false, overflow := false, hold := .none, ending := none }

/-- A blank starts on a healthy spindle whose arrays work for no other. -/
theorem startOn_eq {b : Block} {p : Nat} (k : Blank) (hc : b.clocked = true) (hi : (b.spd p).inService = true) (hf : (b.spd p).faulted = false)
    (hr : (b.spd p).resetting = false) (ht : (b.spd p).thief = none) (htr : b.trace.enable = false) :
    b.startOn p k = b.bumpFree.setSpd p (startedSpindle (b.spd p) k b.freshTag) := by
  have hx : (b.clocked && (b.spd p).inService && !(b.spd p).faulted && !(b.spd p).resetting && (b.spd p).thief.isNone) = true := by
    simp [hc, hi, hf, hr, ht]
  unfold Block.startOn
  dsimp only
  rw [if_pos hx]
  exact traceEvent_off (b := b.bumpFree.setSpd p (startedSpindle (b.spd p) k b.freshTag)) htr ..

/-- After the start s1 holds the descriptor's argument and every other register reads zero (R51). -/
theorem startedAs_startedSpindle (b : Block) (s : Spindle) (k : Blank) (pre : Option Blank) (ibuf code : Tab (List Byte)) :
    StartedAs b s { startedSpindle s k b.freshTag with pre, ibuf, preCode := code } k := by
  refine ⟨rfl, rfl, rfl, ?_, fun r hr => ?_, fun f => rfl, rfl, rfl, rfl, rfl, rfl, rfl, rfl, rfl, rfl⟩
  · exact (tget_tput 0 (t := []) rfl).trans (if_pos rfl)
  · by_cases h0 : r = 0
    · exact if_pos h0
    · exact (if_neg h0).trans (tget_tput_ne 0 [] hr)

/-- The prefetched blank of an empty current slot starts, with the code lines read for it (R258). -/
theorem blankStart_prefetched {b : Block} {p : Nat} {k : Blank} {x : Spindle} (hcur : (b.spd p).cur = none) (hpre : (b.spd p).pre = some k)
    (h : b.startOn p k = b.bumpFree.setSpd p x) (hx : x.started = true) :
    b.blankStart p = b.bumpFree.setSpd p { x with pre := none, ibuf := x.preCode, preCode := [] } := by
  unfold Block.blankStart
  simp only [hcur, hpre, h, Block.spd_setSpd, hx, if_true, Block.setSpd_modSpd]

/-- A blank of the current slot that has not started does so (R357). -/
theorem blankStart_current {b : Block} {p : Nat} {k : Blank} (hcur : (b.spd p).cur = some k) (h : (b.spd p).started = false) :
    b.blankStart p = b.startOn p k := by
  unfold Block.blankStart
  simp only [hcur, h]
  rfl

/-! ### Code -/

/-- An aligned address is the base of its own line. -/
theorem alignDown_of_dvd {a n : Nat} (h : a % n = 0) : alignDown a n = a := by simp [alignDown, h]

/-- The line that an address lies in. -/
theorem alignDown_eq {a l : Nat} (hl : l % 128 = 0) (h1 : l ≤ a) (h2 : a < l + 128) : alignDown a 128 = l := by
  unfold alignDown
  omega

/-- R51: a line of the blank's code range that is read enters the instruction buffer. -/
theorem codeFetch_read {m : Dram} {b b' : Block} {p line : Nat} {r : Region} {bs : List Byte} (hl : line % 128 = 0) (hr : b.runs p = true)
    (he : (b.spd p).ending = none) (hpc : (b.spd p).inCode (b.spd p).pc = true) (h1 : (b.spd p).code.1 < line + 128)
    (h2 : line < (b.spd p).code.1 + 16 * (b.spd p).code.2) (hg : b.engineRange line 128 = .ok r)
    (ht : b.tileRead m p line 128 .reuse (b.specNext p) = (.success, bs, b')) :
    b.codeFetch m p line = (b'.modSpd p fun x => x.fillCode false line bs).countFor p 0x0F 1 (b.specNext p) := by
  unfold Block.codeFetch
  dsimp only
  rw [alignDown_of_dvd hl, if_neg (by simp [hr, he]), if_neg (by simp [hpc]), if_neg (by omega), hg]
  simp only [ht, if_true]

/-- R51: a confirmed program counter outside the code range ends the blank. -/
theorem codeFetch_outside {m : Dram} {b : Block} {p line : Nat} (hl : line % 128 = 0) (hr : b.runs p = true)
    (he : (b.spd p).ending = none) (hpc : (b.spd p).inCode (b.spd p).pc = false) (h1 : line ≤ (b.spd p).pc) (h2 : (b.spd p).pc < line + 128)
    (hh : (b.spd p).hold = .none) (hq : (b.spd p).haltReq = false) (hs : (b.spd p).isSpec (b.spd p).nextIdx = false) :
    b.codeFetch m p line
      = b.bumpFree.blankFault p (b.spd p).nextIdx .invalidField (Config.freeOpcode b.freeCtr).toNat ((b.spd p).pcOffset (b.spd p).pc) := by
  unfold Block.codeFetch
  dsimp only
  rw [alignDown_of_dvd hl, if_neg (by simp [hr, he]), if_pos (by simp [hpc, alignDown_eq hl h1 h2]), if_pos (by simp [hs, hh, hq])]

/-- Settles O8: a start writes the spindle's start state, and a code fetch reads a line or ends the blank. -/
theorem blankStartAndCodeFetch : Obligations.BlankStartAndCodeFetch := by
  constructor
  case left =>
    intro p s k spd hc hi hf hr ht htr
    have hon := startOn_eq k hc hi hf hr ht htr
    constructor
    · intro hcur hpre
      exact ⟨_, gives rfl (blankStart_prefetched hcur hpre hon rfl), startedAs_startedSpindle .., rfl, rfl⟩
    · intro hcur hst
      exact ⟨_, gives rfl ((blankStart_current hcur hst).trans hon), startedAs_startedSpindle s.blk _ k spd.pre [] spd.preCode, rfl, rfl⟩
  case right =>
    intro p line s b spd
    dsimp only
    intro hl hr he
    constructor
    · intro hpc h1 h2 r bs b' hg ht
      exact served rfl fun hst => orWait_eq (codeFetch_read hl hr he hpc h1 h2 hg ht) hst
    · intro hpc h1 h2 hh hq hs
      exact served rfl fun hst => orWait_eq (codeFetch_outside hl hr he hpc h1 h2 hh hq hs) hst

/-! ### Dispatch and arrival -/

/-- The first open spindle of tile `t`, from `start` on, for which there is a blank, with that blank (R257). -/
def firstChoice (b : Block) (t start : Nat) : Option (Nat × Nat × RackEntry × Bool) :=
  ((List.range 64).map fun j => 64 * t + (start + j) % 64).findSome? fun l =>
    if b.slotOpen l then (b.choose (b.physOf l) l).map fun x => (l, x) else none

/-- What a decision does with the choice. -/
theorem dispatch_eq {b : Block} {t l rack : Nat} {e : RackEntry} {guest : Bool} (hc : b.clocked = true) (htr : b.trace.enable = false) :
    let b1 := b.modTile t fun x => { x with rotate := (x.rotate + 1) % 64 }
    firstChoice b1 t (b.tile t).rotate = some (l, rack, e, guest) →
    b.dispatch t = (b1.setRack rack (eraseFirst (· == e) (b.rack rack))).modSpd (b.physOf l) fun s =>
      { s with arriving := some { e.blank with guest }, lastServed := e.blank.ctx } := by
  intro b1 h
  unfold firstChoice at h
  unfold Block.dispatch
  simp only [hc, h, b1]
  exact traceEvent_off (b := (b1.setRack rack (eraseFirst (· == e) (b.rack rack))).modSpd (b.physOf l) fun s =>
      { s with arriving := some { e.blank with guest }, lastServed := e.blank.ctx }) htr ..

/-- The spindle that the rotation names is looked at first. -/
theorem firstChoice_rotation {b : Block} {t start : Nat} {x : Nat × RackEntry × Bool} (ho : b.slotOpen (64 * t + start % 64) = true)
    (hx : b.choose (b.physOf (64 * t + start % 64)) (64 * t + start % 64) = some x) :
    firstChoice b t start = some (64 * t + start % 64, x) := by
  unfold firstChoice
  rw [show List.range 64 = 0 :: (List.range 63).map Nat.succ from List.range_succ_eq_map, List.map_cons, List.findSome?_cons, Nat.add_zero, if_pos ho, hx]
  rfl

/-- The dispatcher's first open spindle, where that is the one its rotation names, takes the blank that it chooses. -/
theorem dispatch_first {b : Block} {t rack : Nat} {e : RackEntry} {guest : Bool} (hc : b.clocked = true) (htr : b.trace.enable = false) :
    let l := 64 * t + (b.tile t).rotate % 64
    let b1 := b.modTile t fun x => { x with rotate := (x.rotate + 1) % 64 }
    b.slotOpen l = true → b1.choose (b1.physOf l) l = some (rack, e, guest) →
    b.dispatch t = (b1.setRack rack (eraseFirst (· == e) (b.rack rack))).modSpd (b.physOf l) fun s =>
      { s with arriving := some { e.blank with guest }, lastServed := e.blank.ctx } := by
  intro l b1 hopen hch
  exact dispatch_eq hc htr (firstChoice_rotation (b := b1) hopen hch)

/-- What a rack holds after a write of racks in canonical form. -/
theorem rack_setRack {b : Block} (h : tabWf [] b.racks = true) (r : Nat) (l : List RackEntry) : (b.setRack r l).rack r = l :=
  (tget_tput [] h).trans (if_pos rfl)

theorem rack_setRack_ne (b : Block) {r q : Nat} (l : List RackEntry) (h : q ≠ r) : (b.setRack r l).rack q = b.rack q :=
  tget_tput_ne [] b.racks h

@[simp] theorem setRack_tile (b : Block) (r : Nat) (l : List RackEntry) (t : Nat) : (b.setRack r l).tile t = b.tile t := rfl
@[simp] theorem setRack_spd (b : Block) (r : Nat) (l : List RackEntry) (p : Nat) : (b.setRack r l).spd p = b.spd p := rfl
@[simp] theorem modSpd_tile (b : Block) (p : Nat) (f : Spindle → Spindle) (t : Nat) : (b.modSpd p f).tile t = b.tile t := rfl
@[simp] theorem modSpd_rack (b : Block) (p : Nat) (f : Spindle → Spindle) (r : Nat) : (b.modSpd p f).rack r = b.rack r := rfl
@[simp] theorem modTile_spd (b : Block) (t : Nat) (f : Tile → Tile) (p : Nat) : (b.modTile t f).spd p = b.spd p := rfl
@[simp] theorem modTile_rack (b : Block) (t : Nat) (f : Tile → Tile) (r : Nat) : (b.modTile t f).rack r = b.rack r := rfl

/-- A dispatched blank enters the empty prefetched slot of a healthy spindle. -/
theorem chuckArrival_eq {m : Dram} {b : Block} {p : Nat} {k : Blank} (ha : (b.spd p).arriving = some k) (hc : b.clocked = true)
    (hi : (b.spd p).inService = true) (hf : (b.spd p).faulted = false) (hr : (b.spd p).resetting = false) (hp : (b.spd p).pre = none) :
    b.chuckArrival m p = (b.setSpd p { b.spd p with arriving := none, pre := some k }).prefetch m p k := by
  unfold Block.chuckArrival
  simp only [ha]
  exact if_neg (by simp [hc, hi, hf, hr, hp])

/-- A placement of a blank touches its tile, its rack and its spindle alone. -/
theorem placed_keeps (b : Block) (t rack p : Nat) (f : Tile → Tile) (l : List RackEntry) (g : Spindle → Spindle) :
    (((b.modTile t f).setRack rack l).modSpd p g).cells = b.cells ∧ (((b.modTile t f).setRack rack l).modSpd p g).chans = b.chans ∧
    (((b.modTile t f).setRack rack l).modSpd p g).ctxs = b.ctxs := ⟨rfl, rfl, rfl⟩

/-- Settles O11: the dispatcher looks first where its rotation points, and an arriving blank is prefetched. -/
theorem dispatchAndArrival : Obligations.DispatchAndArrival := by
  constructor
  case left =>
    intro t s l rack e guest b b1 hc htr hw hopen hl hch
    subst hl
    have hpre : (b.spd (b.physOf (64 * t + (b.tile t).rotate % 64))).pre = none := by
      simp only [Block.slotOpen, Bool.and_eq_true, Option.isNone_iff_eq_none] at hopen
      exact hopen.1.2
    have hd := dispatch_first hc htr hopen hch
    obtain ⟨hcells, hchans, hctxs⟩ := placed_keeps b t rack (b1.physOf (64 * t + (b.tile t).rotate % 64))
      (fun x => { x with rotate := (x.rotate + 1) % 64 }) (eraseFirst (· == e) (b.rack rack))
      fun s => { s with arriving := some { e.blank with guest }, lastServed := e.blank.ctx }
    refine ⟨_, gives rfl hd, ?_, ?_, ?_, ?_, ?_, hcells, hchans, hctxs, fun r hr => ?_, fun q hq => ?_⟩
    · rw [modSpd_rack, rack_setRack (b := b1) hw]
    · rw [Block.modSpd_spd]
    · rw [Block.modSpd_spd, setRack_spd, modTile_spd]
      exact hpre
    · rw [Block.modSpd_spd, setRack_spd, modTile_spd]
    · rw [modSpd_tile, setRack_tile, Block.modTile_tile]
    · rw [modSpd_rack, rack_setRack_ne _ _ hr, modTile_rack]
    · rw [Block.modSpd_spd_ne _ _ hq, setRack_spd, modTile_spd]
  case right =>
    intro p s k spd ha hc hi hf hr hp
    exact served rfl fun hst => orWait_eq (chuckArrival_eq ha hc hi hf hr hp) hst

end Sys2Proof.Proofs
end

section
/-!
SUPPORT. What leaves every spindle as it is: traffic, the host window, reader counts, completions, records and cells.
-/
namespace Sys2Proof.Proofs
open Sys2Proof.Machine Sys2Proof.Claims

/-- A run of changes, each of which keeps `f`, keeps `f`. -/
theorem foldl_keeps {α β σ : Type} {f : σ → α} {g : σ → β → σ} (h : ∀ s x, f (g s x) = f s) (l : List β) (s : σ) : f (l.foldl g s) = f s := by
  induction l generalizing s with
  | nil => rfl
  | cons x l ih => exact (ih _).trans (h s x)

theorem foldl_spd {β : Type} {q : Nat} {g : Block → β → Block} (h : ∀ b x, (g b x).spd q = b.spd q) (l : List β) (b : Block) :
    (l.foldl g b).spd q = b.spd q := foldl_keeps (f := fun b : Block => b.spd q) h l b

theorem iter_spd {q : Nat} {g : Block → Nat → Block} (h : ∀ b k, (g b k).spd q = b.spd q) (n : Nat) (b : Block) :
    (iter n b g).spd q = b.spd q := foldl_spd h _ b

/-- A spindle is read off two fields of the block. -/
theorem spd_congr {b b' : Block} {q : Nat} (hs : b'.spindles = b.spindles) (ht : b'.bootTag = b.bootTag) : b'.spd q = b.spd q := by
  rw [Block.spd, Block.spd, hs, ht]

section
variable (b : Block) (q : Nat)

/-! ### Traffic and requests -/

@[simp] theorem spd_countPort (p n) : (b.countPort p n).spd q = b.spd q := by unfold Block.countPort; split <;> rfl
@[simp] theorem spd_countRoute (s d g n) : (b.countRoute s d g n).spd q = b.spd q := foldl_spd (fun _ _ => spd_countPort _ q _ _) _ b
@[simp] theorem spd_hostWrite (a bs) : (b.hostWrite a bs).spd q = b.spd q := spd_countPort _ q _ _
@[simp] theorem spd_hubLink (t h n) : (b.hubLink t h n).spd q = b.spd q := by unfold Block.hubLink; split <;> exact spd_countRoute _ q _ _ _ _
@[simp] theorem spd_send (r) : (b.send r).spd q = b.spd q := rfl
@[simp] theorem spd_sendBytes (k s a bs) : (b.sendBytes k s a bs).spd q = b.spd q := foldl_spd (fun b _ => spd_send b q _) _ b
@[simp] theorem spd_hubWrite (a bs) : (b.hubWrite a bs).spd q = b.spd q := spd_sendBytes b q _ _ _ _

/-! ### The host window -/

@[simp] theorem spd_windowWrite (t h bs) : (b.windowWrite t h bs).spd q = b.spd q := by
  unfold Block.windowWrite
  refine (foldl_spd (fun b x => ?_) _ _).trans (spd_hubLink b q _ _ _)
  dsimp only
  split
  · rfl
  · exact spd_hostWrite b q _ _

@[simp] theorem spd_releaseWrites : b.releaseWrites.spd q = b.spd q := by
  unfold Block.releaseWrites
  refine (foldl_spd (fun b x => ?_) _ _).trans rfl
  split
  · split
    · rfl
    · exact spd_hostWrite b q _ _
  · rfl

@[simp] theorem spd_laterWrite (x) : (b.laterWrite x).spd q = b.spd q := by
  unfold Block.laterWrite
  split
  · exact spd_hubWrite b q _ _
  · exact spd_windowWrite b q _ _ _

@[simp] theorem spd_hubSettle : b.hubSettle.spd q = b.spd q := by
  unfold Block.hubSettle
  refine (foldl_spd (fun b x => ?_) _ _).trans rfl
  split
  · rfl
  · exact spd_laterWrite b q _

@[simp] theorem spd_dropReads (f) : (b.dropReads f).spd q = b.spd q := (spd_hubSettle _ q).trans (spd_releaseWrites _ q)

/-! ### Reader counts -/

@[simp] theorem spd_tableIdle (id) : (b.tableIdle id).spd q = b.spd q := by unfold Block.tableIdle; split <;> rfl
@[simp] theorem spd_subReader (id k) : (b.subReader id k).spd q = b.spd q := spd_tableIdle _ q id
@[simp] theorem spd_subBurl (id k) : (b.subBurl id k).spd q = b.spd q := spd_tableIdle _ q id

@[simp] theorem spd_dropRegs (l) : (b.dropRegs l).spd q = b.spd q := by
  refine foldl_spd (fun b r => ?_) l b
  split
  · rfl
  · exact spd_subReader b q _ _

@[simp] theorem spd_dropGather (p) : (b.dropGather p).spd q = b.spd q := by
  unfold Block.dropGather
  split
  · split
    · exact spd_subBurl b q _ _
    · rfl
  · rfl

/-! ### Contexts and racks -/

@[simp] theorem spd_modCtx (c f) : (b.modCtx c f).spd q = b.spd q := rfl
@[simp] theorem spd_subUsed (c n) : (b.subUsed c n).spd q = b.spd q := rfl
@[simp] theorem spd_countCtx (c k n) : (b.countCtx c k n).spd q = b.spd q := by unfold Block.countCtx; split <;> rfl
@[simp] theorem spd_modTile (t f) : (b.modTile t f).spd q = b.spd q := rfl

@[simp] theorem spd_pushReturn (c r) : (b.pushReturn c r).spd q = b.spd q := by
  refine foldl_spd (fun b prio => ?_) _ b
  dsimp only
  split <;> rfl

/-! ### Completions and events -/

@[simp] theorem spd_raiseRing (r) : (b.raiseRing r).spd q = b.spd q := rfl
@[simp] theorem spd_setRing (r g) : (b.setRing r g).spd q = b.spd q := rfl

@[simp] theorem spd_writeCpl (r e) : (b.writeCpl r e).spd q = b.spd q := by
  unfold Block.writeCpl
  dsimp only
  split
  · rfl
  · exact spd_hostWrite b q _ _

@[simp] theorem spd_drainEvents (r) : (b.drainEvents r).spd q = b.spd q := by
  refine iter_spd (fun b _ => ?_) 256 b
  dsimp only
  split
  · rfl
  · split
    · exact spd_writeCpl _ q _ _
    · rfl

@[simp] theorem spd_postEvent (r c v) : (b.postEvent r c v).spd q = b.spd q := by
  unfold Block.postEvent
  dsimp only
  split
  · exact spd_drainEvents _ q _
  · rfl

/-! ### The trace and the fault log -/

@[simp] theorem spd_tracePut (x) : (b.tracePut x).spd q = b.spd q := spd_sendBytes _ q _ _ _ _

@[simp] theorem spd_traceLost : b.traceLost.spd q = b.spd q := by
  unfold Block.traceLost
  dsimp only
  split
  · rfl
  · exact spd_tracePut _ q _

@[simp] theorem spd_traceEvent (c d e s i) : (b.traceEvent c d e s i).spd q = b.spd q := by
  unfold Block.traceEvent
  dsimp only
  split
  · rfl
  · split
    · exact spd_traceLost b q
    · exact (spd_tracePut _ q _).trans (spd_traceLost b q)

@[simp] theorem spd_logWrite (f) : (b.logWrite f).spd q = b.spd q := by
  unfold Block.logWrite
  split
  · exact spd_hubWrite b q _ _
  · rfl

@[simp] theorem spd_enterRecord (f) : (b.enterRecord f).spd q = b.spd q := by
  unfold Block.enterRecord
  dsimp only
  split
  all_goals simp only [spd_postEvent, spd_logWrite]
  all_goals exact spd_congr rfl rfl

@[simp] theorem spd_recordAt (t f) : (b.recordAt t f).spd q = b.spd q := by
  unfold Block.recordAt
  dsimp only
  split
  · exact spd_enterRecord b q _
  · exact spd_enterRecord b q _

@[simp] theorem spd_record (f) : (b.record f).spd q = b.spd q := spd_recordAt b q _ f

/-! ### Cells -/

@[simp] theorem spd_cellTraffic (p c) : (b.cellTraffic p c).spd q = b.spd q := spd_countRoute b q _ _ _ _
@[simp] theorem spd_signal (c a s p l af i) : (b.signal c a s p l af i).spd q = b.spd q := spd_cellTraffic _ q _ _

@[simp] theorem spd_applySig (g) : (b.applySig g).spd q = b.spd q := by
  unfold Block.applySig
  dsimp only
  split <;> rfl

@[simp] theorem spd_cellArrive (g) : (b.cellArrive g).spd q = b.spd q := by
  unfold Block.cellArrive
  split
  · rfl
  · split
    · rfl
    · exact spd_applySig b q g

@[simp] theorem spd_cellFirst (p c) : (b.cellFirst p c).spd q = b.spd q :=
  foldl_spd (fun b g => (spd_cellArrive { b with sigs := eraseFirst (· == g) b.sigs } q g).trans rfl) _ b

end

end Sys2Proof.Proofs
end

section
/-!
SUPPORT. What a squash and the end of a blank leave of the blank's spindle (R64, R66, R69).
-/
namespace Sys2Proof.Proofs
open Sys2Proof.Machine Sys2Proof.Claims

/-! ### Slots and thieves -/

/-- Slots that are posted change a spindle's top-down counters alone. -/
theorem addSlots_spd (b : Block) (x : Slots) (q : Nat) : ∃ t, (b.addSlots x).spd q = { b.spd q with cntTd := t } := by
  have hm : ∃ t, (b.modSpd x.spindle fun s => { s with cntTd := bumpTab s.cntTd (4 * x.src + x.cat) x.n }).spd q = { b.spd q with cntTd := t } := by
    by_cases h : q = x.spindle
    · subst h
      exact ⟨_, Block.modSpd_spd b _ _⟩
    · exact ⟨(b.spd q).cntTd, Block.modSpd_spd_ne b _ h⟩
  unfold Block.addSlots
  dsimp only
  split
  · exact hm
  · exact hm

theorem postSlots_spd (b : Block) (x : Slots) (q : Nat) : ∃ t, (b.postSlots x).spd q = { b.spd q with cntTd := t } := by
  unfold Block.postSlots
  split
  · exact ⟨_, rfl⟩
  · split
    · exact ⟨_, rfl⟩
    · exact addSlots_spd b x q

theorem postSlots_foldl_spd (l : List (Nat × Nat)) (g : Nat × Nat → Slots) (b : Block) (q : Nat) :
    ∃ t, (l.foldl (fun b x => b.postSlots (g x)) b).spd q = { b.spd q with cntTd := t } := by
  induction l generalizing b with
  | nil => exact ⟨_, rfl⟩
  | cons x l ih =>
    obtain ⟨t, ht⟩ := postSlots_spd b (g x) q
    obtain ⟨u, hu⟩ := ih (b.postSlots (g x))
    exact ⟨u, by rw [List.foldl_cons, hu, ht]⟩

/-- The blank's tally leaves its spindle for the counters. -/
theorem postTally_spd (b : Block) (p cat : Nat) : ∃ t, (b.postTally p cat).spd p = { b.spd p with tally := [], cntTd := t } := by
  unfold Block.postTally
  obtain ⟨t, ht⟩ := postSlots_foldl_spd (b.spd p).tally (fun x => { spindle := x.1 / 8, src := x.1 % 8, cat, n := x.2, ctx := some (b.spd p).ctx })
    (b.setSpd p { b.spd p with tally := [] }) p
  rw [Block.spd_setSpd] at ht
  exact ⟨t, ht⟩

/-- Looking up a map whose entries were changed one by one. -/
theorem tfind_map {α β : Type} (f : α → β) (t : Tab α) (k : Nat) : tfind (t.map fun e => (e.1, f e.2)) k = (tfind t k).map f := by
  induction t with
  | nil => rfl
  | cons e t ih =>
    obtain ⟨k', v⟩ := e
    simp only [List.map_cons, tfind_cons]
    split
    · rfl
    · exact ih

/-- A spindle as it is once its thieving from `p` is forgotten. -/
def dropThief (p : Nat) (s : Spindle) : Spindle := if s.thief.any (·.victim == p) then { s with thief := none } else s

theorem dropThieves_eq (b : Block) (p : Nat) : b.dropThieves p = { b with spindles := b.spindles.map fun e => (e.1, dropThief p e.2) } := by
  have h : (fun e : Nat × Spindle => if e.2.thief.any (·.victim == p) then (e.1, { e.2 with thief := none }) else e) = fun e => (e.1, dropThief p e.2) := by
    funext e
    unfold dropThief
    split <;> rfl
  unfold Block.dropThieves
  rw [h]

theorem dropThieves_spd (b : Block) (p q : Nat) : ∃ t, (b.dropThieves p).spd q = { b.spd q with thief := t } := by
  rw [dropThieves_eq]
  simp only [Block.spd, tfind_map]
  cases tfind b.spindles q with
  | none => exact ⟨_, rfl⟩
  | some s =>
    simp only [Option.map_some, Option.getD_some, dropThief]
    split
    · exact ⟨_, rfl⟩
    · exact ⟨_, rfl⟩

/-! ### Staging and registrations -/

/-- The buffer of a blank that ends is discarded. -/
theorem discardStaging_spd (b : Block) (p : Nat) :
    (b.discardStaging p).spd p = { b.spd p with staging := [], stagingUsed := 0, stageWait := [] } := by
  unfold Block.discardStaging
  simp only [Block.modSpd_spd]
  rw [foldl_spd (fun b x => ?_)]
  split
  · exact (spd_cellFirst _ p _ _).trans (spd_signal b p _ _ _ _ _ _ _)
  · exact spd_pushReturn b p _ _
  · rfl

theorem unregister_spd (b : Block) (p : Nat) : (b.unregister p).spd p = { b.spd p with regsns := [] } := by
  simp [Block.unregister]

/-! ### Squash -/

@[simp] theorem spd_bumpFree (b : Block) (q : Nat) : b.bumpFree.spd q = b.spd q := rfl

/-- Bytes that become unspecified change the scratchpad and the gathering buffer. -/
theorem forgetRange_spd (b : Block) (p : Nat) (l : List (Nat × Nat)) :
    ∃ r g, (l.foldl (fun b x => b.forgetRange p x) b).spd p = { b.spd p with spad := r, gbuf := g } := by
  induction l generalizing b with
  | nil => exact ⟨_, _, rfl⟩
  | cons x l ih =>
    obtain ⟨r, g, h⟩ := ih (b.forgetRange p x)
    refine ⟨r, g, ?_⟩
    rw [List.foldl_cons, h, Block.forgetRange, spd_bumpFree, Block.modSpd_spd]

/-- The spindle without the words younger than issue index `i`; `set` is the bowl set that is next again (R62, R66). -/
def cutYoung (s : Spindle) (i : Nat) (set : Option Nat) : Spindle :=
  let young (q : QCmd) : Bool := decide (i < q.idx)
  let aband := engines.flatMap fun e => ((s.queue e).filter fun q => young q && q.begun).map fun q => (e, q)
  let s := engines.foldl (fun s e => s.setQueue e ((s.queue e).filter fun q => !young q)) s
  { s with
    abandoned := s.abandoned ++ aband
    brs := s.brs.filter fun r => !decide (i < r.idx)
    slds := s.slds.filter fun r => !decide (i < r.idx)
    deferredSeq := s.deferredSeq.filter fun r => !decide (i < r.1)
    specEv := s.specEv.filter fun r => !decide (i < r.1)
    seqSlots := s.seqSlots.filter fun r => !decide (i < r.1)
    hold := match s.hold with
      | .fence _ _ k => if i < k then .none else s.hold
      | h => h
    job := s.job.filter fun j => !decide (i < j.idx)
    bowlNext := set.getD s.bowlNext
    held := (s.held.filter fun h => !decide (i < h.idx)).map fun h => if h.readBy.any (fun k => decide (i < k)) then { h with readBy := none } else h
    gouge := match s.gouge with
      | some (.gather g) => if i < g.idx then none else s.gouge
      | some (.burl k _ _ _ _) => if i < k then none else s.gouge
      | some (.advance k _ _ _) => if i < k then none else s.gouge
      | some (.pin k _ _ _ _) => if i < k then none else s.gouge
      | some (.writes k _) => if i < k then none else s.gouge
      | none => none
    ldt := s.ldt.filter fun l => !decide (i < l.idx) }

/-- A gather in flight that the squash abandons returns its registration (R127). -/
def dropYoungGather (b : Block) (p i : Nat) : Block :=
  match (b.spd p).gouge with
  | some (.gather g) => if i < g.idx then b.dropGather p else b
  | _ => b

/-- What the young commands have written, and the bowl set that the young tile commands took. -/
def youngWrote (s : Spindle) (i : Nat) : List (Nat × Nat) := engines.flatMap fun e => (s.queue e).flatMap fun q => if decide (i < q.idx) then q.wrote else []
def youngSet (s : Spindle) (i : Nat) : Option Nat := (s.matrixQ.filter fun q => decide (i < q.idx)).findSome? (·.bowlWas)

/-- Slots of the sequencer words that the squash removes. -/
def lostSlots (s : Spindle) (p i : Nat) : Slots :=
  { spindle := p, src := 0, cat := 1, n := ((s.seqSlots.filter fun x => decide (i < x.1)).map (·.2)).sum, ctx := some s.ctx }

theorem squash_eq (b : Block) (p i : Nat) : b.squash p i =
    let b1 := dropYoungGather b p i
    let b2 := b1.postSlots (lostSlots (b1.spd p) p i)
    let b3 := (youngWrote (b2.spd p) i).foldl (fun b r => b.forgetRange p r) b2
    (b3.modSpd p fun s => cutYoung s i (youngSet (b2.spd p) i)).dropReads fun h => h.spindle == p && decide (i < h.idx) := rfl

theorem spd_dropYoungGather (b : Block) (p i q : Nat) : (dropYoungGather b p i).spd q = b.spd q := by
  unfold dropYoungGather
  split
  · split
    · exact spd_dropGather b q p
    · rfl
  · rfl

/-- A squash cuts the young words; what they wrote is forgotten, and their slots are counted. -/
theorem squash_spd (b : Block) (p i : Nat) :
    ∃ t r g set, (b.squash p i).spd p = cutYoung { b.spd p with cntTd := t, spad := r, gbuf := g } i set := by
  rw [squash_eq]
  dsimp only
  rw [spd_dropReads, Block.modSpd_spd]
  obtain ⟨t, h2⟩ := postSlots_spd (dropYoungGather b p i) (lostSlots ((dropYoungGather b p i).spd p) p i) p
  obtain ⟨r, g, h3⟩ := forgetRange_spd ((dropYoungGather b p i).postSlots (lostSlots ((dropYoungGather b p i).spd p) p i)) p
    (youngWrote (((dropYoungGather b p i).postSlots (lostSlots ((dropYoungGather b p i).spd p) p i)).spd p) i)
  refine ⟨t, r, g, youngSet (((dropYoungGather b p i).postSlots (lostSlots ((dropYoungGather b p i).spd p) p i)).spd p) i, ?_⟩
  rw [h3, h2, spd_dropYoungGather]

@[simp] theorem cutYoung_queue (s : Spindle) (i : Nat) (set : Option Nat) (e : Engine) :
    (cutYoung s i set).queue e = (s.queue e).filter fun q => !decide (i < q.idx) := by cases e <;> rfl

/-! ### The end of a blank -/

/-- What SPD_FAULT shows (Table 3.12). -/
def faultRegs (s : Spindle) : Nat × Nat × Nat := (s.faultStatus, s.faultOpcode, s.faultPc)

theorem faultRegs_cutYoung (s : Spindle) (i : Nat) (set : Option Nat) : faultRegs (cutYoung s i set) = faultRegs s := by
  simp [faultRegs, cutYoung, engines]

theorem faultRegs_squash (b : Block) (p i : Nat) : faultRegs ((b.squash p i).spd p) = faultRegs (b.spd p) := by
  obtain ⟨t, r, g, set, h⟩ := squash_spd b p i
  rw [h, faultRegs_cutYoung]
  rfl

/-- The block once everything of a blank that does not retire is undone outside its spindle. -/
def undone (b : Block) (p : Nat) : Block :=
  (((((b.squash p 0).dropGather p).postTally p 1).discardStaging p).unregister p).dropThieves p

/-- Connections are no part of a spindle. -/
@[simp] theorem spd_conns (b : Block) (c : Tab Conn) (q : Nat) : ({ b with conns := c } : Block).spd q = b.spd q := rfl

/-- A blank that ends without retiring leaves its spindle clear. -/
theorem dropBlank_spd (b : Block) (p : Nat) : (b.dropBlank p).spd p = ((undone b p).spd p).clearBlank false := by
  unfold Block.dropBlank undone
  dsimp only
  rw [spd_conns, Block.modSpd_spd, spd_dropReads]

theorem faultRegs_postTally (b : Block) (p cat : Nat) : faultRegs ((b.postTally p cat).spd p) = faultRegs (b.spd p) := by
  obtain ⟨t, h⟩ := postTally_spd b p cat
  rw [h]
  rfl

theorem faultRegs_discardStaging (b : Block) (p : Nat) : faultRegs ((b.discardStaging p).spd p) = faultRegs (b.spd p) := by
  rw [discardStaging_spd]
  rfl

theorem faultRegs_unregister (b : Block) (p : Nat) : faultRegs ((b.unregister p).spd p) = faultRegs (b.spd p) := by
  rw [unregister_spd]
  rfl

theorem faultRegs_dropThieves (b : Block) (p q : Nat) : faultRegs ((b.dropThieves p).spd q) = faultRegs (b.spd q) := by
  obtain ⟨t, h⟩ := dropThieves_spd b p q
  rw [h]
  rfl

theorem faultRegs_undone (b : Block) (p : Nat) : faultRegs ((undone b p).spd p) = faultRegs (b.spd p) := by
  rw [undone, faultRegs_dropThieves, faultRegs_unregister, faultRegs_discardStaging, faultRegs_postTally, spd_dropGather, faultRegs_squash]

theorem blankEnd_spd {b : Block} {p : Nat} {k : Blank} (h : (b.spd p).cur = some k) (st : Status) (info : Nat) :
    (b.blankEnd p st info).spd p = ((undone b p).spd p).clearBlank false := by
  unfold Block.blankEnd
  simp only [h, spd_countCtx, spd_subUsed, spd_traceEvent, spd_record, spd_dropRegs, dropBlank_spd]

end Sys2Proof.Proofs
end

section
/-!
SUPPORT. A confirmed fault ends the blank once its older commands are complete (R64, R69).
-/
namespace Sys2Proof.Proofs
open Sys2Proof.Machine Sys2Proof.Claims

/-! ### The word at fault -/

/-- A word of another context, or with a breach of its encoding, faults. -/
theorem seqWord_faults {b : Block} {p w : Nat} {rs : List Nat} {act : Block → Block} (h : b.mayIssue p w = true) :
    b.seqWord p w true rs true act = b.wordFault p (w % 256) (if bits w 11 8 = (b.spd p).ctx then .invalidField else .accessDenied) := by
  unfold Block.seqWord
  by_cases hc : bits w 11 8 = (b.spd p).ctx <;> simp [h, hc]

theorem wordFault_confirmed {b : Block} {p : Nat} (h : b.confirmedNow p = true) (op : Nat) (st : Status) :
    b.wordFault p op st = b.blankFault p (b.spd p).nextIdx st op ((b.spd p).pcOffset (b.spd p).pc) := by
  rw [Block.confirmedNow, Bool.not_eq_true'] at h
  simp [Block.wordFault, h]

/-- While speculative the fault is deferred, and the sequencer goes on (R64). -/
theorem wordFault_deferred {b : Block} {p : Nat} (h : b.confirmedNow p = false) (op : Nat) (st : Status) :
    b.wordFault p op st = b.setSpd p { (b.spd p).issued with deferredSeq := (b.spd p).deferredSeq ++ [((b.spd p).nextIdx, (b.spd p).pc, op, st)] } := by
  rw [Block.confirmedNow, Bool.not_eq_false'] at h
  simp [Block.wordFault, h, Block.advance_eq, Spindle.issued]

/-! ### The end -/

/-- The spindle as a confirmed fault of the word of issue index `idx` leaves it: younger words and the word itself are gone, and the
blank is ending. -/
def faultedSpd (s : Spindle) (idx : Nat) (f : Ending) : Spindle :=
  let s := engines.foldl (fun s e => s.setQueue e ((s.queue e).filter fun q => q.idx != idx)) s
  { s with ending := some f, hold := .none, brs := s.brs.filter fun r => r.idx != idx }

theorem blankFault_eq {b : Block} {p idx : Nat} {k : Blank} (hc : (b.spd p).cur = some k) (he : (b.spd p).ending = none)
    (st : Status) (op off : Nat) : b.blankFault p idx st op off =
      ((b.squash p idx).modSpd p fun s => faultedSpd s idx { status := st, opcode := op, pcOffset := off, idx }).tryEnd p := by
  unfold Block.blankFault
  simp only [hc, he, Option.any_none, Bool.false_eq_true, if_false]
  rfl

@[simp] theorem faultedSpd_queue (s : Spindle) (idx : Nat) (f : Ending) (e : Engine) :
    (faultedSpd s idx f).queue e = (s.queue e).filter fun q => q.idx != idx := by cases e <;> rfl
@[simp] theorem faultedSpd_ending (s : Spindle) (idx : Nat) (f : Ending) : (faultedSpd s idx f).ending = some f := rfl
@[simp] theorem faultedSpd_cur (s : Spindle) (idx : Nat) (f : Ending) : (faultedSpd s idx f).cur = s.cur := by simp [faultedSpd, engines]
@[simp] theorem faultedSpd_faultStatus (s : Spindle) (idx : Nat) (f : Ending) : (faultedSpd s idx f).faultStatus = s.faultStatus := by
  simp [faultedSpd, engines]
@[simp] theorem cutYoung_cur (s : Spindle) (i : Nat) (set : Option Nat) : (cutYoung s i set).cur = s.cur := by simp [cutYoung, engines]
@[simp] theorem cutYoung_faultStatus (s : Spindle) (i : Nat) (set : Option Nat) : (cutYoung s i set).faultStatus = s.faultStatus := by
  simp [cutYoung, engines]

/-- The spindle between the squash and the end: what is left of its queues, its blank, and SPD_FAULT as before. -/
theorem faulted_spd (b : Block) (p idx : Nat) (f : Ending) :
    let x := faultedSpd ((b.squash p idx).spd p) idx f
    (∀ e, x.queue e = ((b.spd p).queue e).filter fun q => decide (q.idx < idx)) ∧ x.cur = (b.spd p).cur
      ∧ x.faultStatus = (b.spd p).faultStatus := by
  obtain ⟨t, r, g, set, h⟩ := squash_spd b p idx
  rw [h]
  refine ⟨fun e => ?_, ?_, ?_⟩
  · rw [faultedSpd_queue, cutYoung_queue, List.filter_filter]
    refine (congrArg _ (queue_congr rfl e)).trans (List.filter_congr fun q _ => ?_)
    rw [Bool.eq_iff_iff]
    simp only [Bool.and_eq_true, bne_iff_ne, Bool.not_eq_true', decide_eq_false_iff_not, decide_eq_true_eq]
    omega
  · rw [faultedSpd_cur, cutYoung_cur]
  · rw [faultedSpd_faultStatus, cutYoung_faultStatus]

/-- No command older than index `i` is left. -/
theorem noOlder_iff {s : Spindle} {i : Nat} :
    (engines.any fun e => (s.queue e).any fun q => decide (q.idx < i)) = false ↔ ∀ e, ∀ q ∈ s.queue e, i ≤ q.idx := by
  have hall : ∀ e : Engine, e ∈ engines := fun e => by cases e <;> decide
  simp only [List.any_eq_false, Bool.not_eq_true, decide_eq_false_iff_not, not_lt]
  exact ⟨fun h e => h e (hall e), fun h e _ => h e⟩

/-- R69: the end of a blank whose older commands are complete writes SPD_FAULT and clears the spindle. -/
theorem tryEnd_ends {b : Block} {p : Nat} {f : Ending} {k : Blank} (he : (b.spd p).ending = some f) (hc : (b.spd p).cur = some k)
    (hq : ∀ e, ∀ q ∈ (b.spd p).queue e, f.idx ≤ q.idx) :
    ∃ x, (b.tryEnd p).spd p = x.clearBlank false ∧ faultRegs x = (f.status.code, f.opcode, f.pcOffset) := by
  unfold Block.tryEnd
  simp only [he, noOlder_iff.mpr hq, Bool.false_eq_true, if_false]
  rw [blankEnd_spd (k := k) (by rw [Block.spd_setSpd]; exact hc)]
  refine ⟨_, rfl, ?_⟩
  rw [faultRegs_undone, Block.spd_setSpd]
  rfl

/-- While an older command is left the blank is ending. -/
theorem tryEnd_waits {b : Block} {p : Nat} {f : Ending} (he : (b.spd p).ending = some f) {e : Engine} {q : QCmd}
    (hq : q ∈ (b.spd p).queue e) (hlt : q.idx < f.idx) : b.tryEnd p = b := by
  have hold : (engines.any fun e => ((b.spd p).queue e).any fun q => decide (q.idx < f.idx)) = true := by
    refine Bool.eq_true_of_not_eq_false fun h => ?_
    have := noOlder_iff.mp h e q hq
    omega
  unfold Block.tryEnd
  simp only [he, hold, if_true]

@[simp] theorem clearBlank_queue (s : Spindle) (x : Bool) (e : Engine) : (s.clearBlank x).queue e = [] := by cases e <;> rfl

/-- Settles O9: a bad word faults by its context, and a confirmed fault ends the blank or leaves it ending. -/
theorem blankFaults : Obligations.BlankFaults := by
  constructor
  case left =>
    intro p w s b spd op st hres hi
    have hx : exec (.reservedOpcode p w) s = nextOf s (b.wordFault p op st) :=
      congrArg (nextOf s) ((if_pos hres).trans (seqWord_faults hi))
    exact ⟨fun hc => gives hx (wordFault_confirmed hc op st), fun hc => gives hx (wordFault_deferred hc op st)⟩
  case right =>
    intro b p idx st op off k spd hcur hend b'
    have hb : b' = _ := blankFault_eq hcur hend st op off
    obtain ⟨hqueue, hcur', hstat⟩ := faulted_spd b p idx { status := st, opcode := op, pcOffset := off, idx }
    constructor
    · intro hq
      obtain ⟨x, hx, hf⟩ := tryEnd_ends (b := (b.squash p idx).modSpd p fun s => faultedSpd s idx { status := st, opcode := op, pcOffset := off, idx })
        (p := p) (f := { status := st, opcode := op, pcOffset := off, idx }) (k := k) (by rw [Block.modSpd_spd]; rfl)
        (by rw [Block.modSpd_spd, hcur']; exact hcur)
        (by
          intro e q hmem
          rw [Block.modSpd_spd, hqueue, List.mem_filter, decide_eq_true_eq] at hmem
          exact absurd hmem.2 (not_lt.mpr (hq e q hmem.1)))
      rw [hb, hx]
      simp only [faultRegs, Prod.mk.injEq] at hf
      obtain ⟨h1, h2, h3⟩ := hf
      exact ⟨rfl, rfl, h1, h2, h3, rfl, clearBlank_queue x false, rfl, rfl⟩
    · intro e q hq hlt
      have hstay := tryEnd_waits (b := (b.squash p idx).modSpd p fun s => faultedSpd s idx { status := st, opcode := op, pcOffset := off, idx })
        (p := p) (f := { status := st, opcode := op, pcOffset := off, idx }) (e := e) (q := q) (by rw [Block.modSpd_spd]; rfl)
        (by rw [Block.modSpd_spd, hqueue]; exact List.mem_filter.mpr ⟨hq, decide_eq_true hlt⟩) hlt
      rw [hb, hstay, Block.modSpd_spd]
      refine ⟨hcur'.trans hcur, rfl, hstat, fun g z hz => ?_⟩
      rw [hqueue, List.mem_filter, decide_eq_true_eq] at hz
      exact hz.2

end Sys2Proof.Proofs
end

section
/-!
SUPPORT. Retirement, and the signal of done_cell (R68, R140, R259).
-/
namespace Sys2Proof.Proofs
open Sys2Proof.Machine Sys2Proof.Claims

/-- R68: a drained blank behind its RETIRE retires. -/
theorem blankRetire_eq {m : Dram} {b : Block} {p : Nat} {k : Blank} (hr : b.runs p = true) (hc : (b.spd p).cur = some k)
    (hh : (b.spd p).hold = .retired) (hd : (b.spd p).drained = true) (he : (b.spd p).ending = none) :
    b.blankRetire m p = retiredOf m b p k := by
  unfold Block.blankRetire
  simp only [hc]
  exact if_neg (by simp [hr, hh, hd, he])

/-- The spindle of a blank that retires with nothing staged, tallied or registered. -/
def retiredSpd (s : Spindle) : Spindle := ({ s with tally := [], regsns := [] } : Spindle).clearBlank true

/-- The block without its staging, tally and registrations to see to: the spindle cleared and an entry that waits for done_cell. -/
theorem retiredOf_plain {m : Dram} {b : Block} {p : Nat} (k : Blank) (hs : (b.spd p).staging = []) (hw : (b.spd p).stageWait = [])
    (ht : (b.spd p).tally = []) (hr : (b.spd p).regsns = []) (htr : b.trace.enable = false) :
    retiredOf m b p k = ({ b.setSpd p (retiredSpd (b.spd p)) with
      dones := b.dones ++ [{ blank := k, spindle := p, serial := (b.spd p).serial }] } : Block).countCtx k.ctx 4 1 := by
  have hpump : b.stagePump m p = b := by simp [Block.stagePump, hw, iter]
  have hclear : ((b.postTally p 0).unregister p).modSpd p (·.clearBlank true) = b.setSpd p (retiredSpd (b.spd p)) := by
    simp only [Block.postTally, ht, List.foldl_nil, Block.unregister, Block.spd_setSpd, hr, Block.dropRegs, Block.setSpd_modSpd, retiredSpd]
  unfold retiredOf
  simp only [hpump, hs, hclear, List.foldl_nil]
  rw [traceEvent_off (b := b.setSpd p (retiredSpd (b.spd p))) htr]
  rfl

/-- A context counter is a part of its context alone. -/
theorem countCtx_eq (b : Block) (c k n : Nat) : ∃ t, b.countCtx c k n = { b with ctxs := t } := by
  unfold Block.countCtx
  split
  · exact ⟨b.ctxs, rfl⟩
  · exact ⟨_, rfl⟩

/-- R259: an entry whose effects are accepted signals its done_cell and leaves. -/
theorem doneSignal_eq {b : Block} {k : Nat} {d : Done} (hd : b.dones[k]? = some d) (hc : b.clocked = true) (he : b.effectWaits d = false) :
    b.doneSignal k =
      (let x := d.blank.desc.toNat
       let b' : Block := { b with dones := b.dones.eraseIdx k }
       (if bit x 145 then b'.signal (bits x 144 128) 1 (0x3000 + d.spindle) else b').subUsed d.blank.ctx 1) := by
  unfold Block.doneSignal
  simp only [hd]
  exact if_neg (by simp [hc, he])

theorem doneSignal_waits {b : Block} {k : Nat} {d : Done} (hd : b.dones[k]? = some d) (he : b.effectWaits d = true) : b.doneSignal k = b := by
  unfold Block.doneSignal
  simp only [hd]
  exact if_pos (by simp [he])

/-- Settles O10: retirement is `retiredOf`, plain where nothing is staged, and its entry waits for its effects. -/
theorem blankRetirement : Obligations.BlankRetirement := by
  refine ⟨?whole, ?plain, ?done⟩
  case whole =>
    intro p s k b spd hr hc hh hd he
    exact served rfl fun hst => orWait_eq (blankRetire_eq hr hc hh hd he) hst
  case plain =>
    intro p s k b spd hr hst hc hh hd he hs hw ht hrg htr
    obtain ⟨t, htc⟩ := countCtx_eq { b.setSpd p (retiredSpd (b.spd p)) with
      dones := b.dones ++ [{ blank := k, spindle := p, serial := (b.spd p).serial }] } k.ctx 4 1
    have heq := ((blankRetire_eq hr hc hh hd he).trans (retiredOf_plain (m := s.dram) k hs hw ht hrg htr)).trans htc
    have hspd : ({ b.setSpd p (retiredSpd (b.spd p)) with
      dones := b.dones ++ [{ blank := k, spindle := p, serial := (b.spd p).serial }], ctxs := t } : Block).spd p = retiredSpd (b.spd p) :=
      Block.spd_setSpd b p _
    refine ⟨_, gives rfl (orWait_eq heq hst), ?_⟩
    rw [hspd]
    exact ⟨rfl, rfl, rfl, rfl, rfl, rfl, rfl, rfl, rfl, fun q hq => Block.spd_setSpd_ne b _ hq⟩
  case done =>
    intro k s d b hd hc
    exact ⟨fun he => gives rfl (doneSignal_eq hd hc he), fun he => gives rfl (doneSignal_waits hd he)⟩

end Sys2Proof.Proofs
end

section
/-!
SUPPORT. Engine words: issue into the engine's queue, and beginning at once on a free engine (R52 to R57).
-/
namespace Sys2Proof.Proofs
open Sys2Proof.Machine Sys2Proof.Claims

/-! ### Issue -/

/-- Every row of the table of engine words issues with the row's opcode; VPIN's does so unless its op is that of VPIN_RELEASE. -/
theorem exec_engineRow : ∀ r ∈ engineRows, ∀ (p : Spd) (w : W120) (s : State), (r.2 = 0xF2 → gwOp (mkWord r.2 w) ≠ 1) →
    exec (r.1 p w) s = nextOf s (s.blk.issueEng s.dram p r.2 w) := by
  simp only [engineRows, List.cons_append, List.nil_append, List.forall_mem_cons]
  repeat refine ⟨fun _ _ _ _ => rfl, ?_⟩
  refine ⟨fun p w s h => congrArg (nextOf s) (if_neg (h trivial)), ?_⟩
  repeat refine ⟨fun _ _ _ _ => rfl, ?_⟩
  nofun

/-- A sound word whose engine's queue has room enters it, and the engine may begin it. -/
theorem issueEng_eq {m : Dram} {b : Block} {p op : Nat} {w : W120} {o : OpSpec} (ho : opSpec op = some o)
    (h : b.canQueue p o (mkWord op w) = true) :
    b.issueEng m p op w = (b.enqueued p o (mkWord op w)).orWait fun b => b.tryBegin m p o.eng := by
  simp only [Block.canQueue, Block.canIssue, Bool.and_eq_true, Bool.not_eq_true', beq_iff_eq, decide_eq_true_eq, Bool.or_eq_true] at h
  obtain ⟨⟨⟨⟨⟨⟨⟨hmay, hctx⟩, hregs⟩, hz⟩, hrel⟩, hbad⟩, hroom⟩, hspec⟩ := h
  have hfull : ¬ ((b.spd p).isSpec (b.spd p).nextIdx && decide (128 ≤ (b.spd p).specCmds)) = true := by
    rcases hspec with h | h
    · simp [h]
    · simp [h]
  unfold Block.issueEng
  simp only [ho]
  rw [if_neg (by simp [hmay]), if_neg (not_not_intro hctx), if_neg (by simp [hz, hrel, hbad]), if_neg (by simp [hregs]), if_neg (by omega),
    if_neg hfull]
  simp only [Block.enqueued, Block.advance_eq, Block.spd_setSpd, Block.setSpd_setSpd, Spindle.newCmd]

/-! ### What begins next -/

/-- A queue in which nothing can begin behind a command under way stays so when a word enters behind. -/
theorem nextToBegin_append {l : List QCmd} {q : QCmd} (x : QCmd) (hn : nextToBegin l = none) (hq : q ∈ l)
    (hd : q.done = false) : nextToBegin (l ++ [x]) = none := by
  induction l with
  | nil => cases hq
  | cons y l ih =>
    rw [nextToBegin] at hn
    rw [List.cons_append, nextToBegin]
    by_cases hy : (!y.begun || (y.resume && !y.done)) = true
    · rw [if_pos hy] at hn
      cases hn
    · rw [if_neg hy] at hn ⊢
      by_cases hyd : y.done = true
      · rw [if_pos hyd] at hn ⊢
        rcases List.mem_cons.mp hq with rfl | hq
        · rw [hd] at hyd
          cases hyd
        · exact ih hn hq
      · rw [if_neg hyd]

/-- An engine with nothing to begin begins nothing. -/
theorem tryBegin_none {m : Dram} {b : Block} {p : Nat} {e : Engine} (h : nextToBegin ((b.spd p).queue e) = none) : b.tryBegin m p e = b := by
  unfold Block.tryBegin
  simp only [h]
  split <;> rfl

theorem enqueued_spd (b : Block) (p : Nat) (o : OpSpec) (w : Nat) :
    (b.enqueued p o w).spd p = ((b.spd p).setQueue o.eng ((b.spd p).queue o.eng ++ [(b.spd p).newCmd o w])).issued := Block.spd_setSpd ..

theorem queue_issued (s : Spindle) (e : Engine) : s.issued.queue e = s.queue e := queue_congr rfl e

theorem enqueued_queue (b : Block) (p : Nat) (o : OpSpec) (w : Nat) :
    ((b.enqueued p o w).spd p).queue o.eng = (b.spd p).queue o.eng ++ [(b.spd p).newCmd o w] := by
  rw [enqueued_spd, queue_issued, Spindle.queue_setQueue]

/-- Settles O12: the word enters behind a command under way, and the engine begins nothing. -/
theorem engineWordsEnterQueue : Obligations.EngineWordsEnterQueue := by
  intro r hr p w s o q x ho hv hcan hq _ hd hn
  refine gives (exec_engineRow r hr p w s hv) ((issueEng_eq ho hcan).trans (orWait_same (tryBegin_none ?_)))
  rw [enqueued_queue]
  exact nextToBegin_append _ hn hq hd

/-! ### Beginning -/

section
variable {m : Dram} {b : Block} {p : Nat} {e : Engine} {q : QCmd} {o : OpSpec}

/-- What an engine does with the command that it is to begin or to go on with (R55 to R57). -/
theorem tryBegin_eq (hr : b.arraysRun p = true) (ha : ∀ a ∈ (b.spd p).abandoned, a.1 ≠ e) (hn : nextToBegin ((b.spd p).queue e) = some q)
    (ho : opSpec (q.w.toNat % 256) = some o) :
    b.tryBegin m p e =
      if q.hostWait then b
      else if q.begun then b.beginEnd p e q b (o.eff m b p q ((b.spd p).isSpec q.idx))
      else if ((b.spd p).isSpec q.idx && !o.mayBeSpec) || (hdrWait q.w.toNat).any (fun k => ((b.spd p).flag k).count == 0)
          || (o.credit && decide (16 ≤ (b.spd p).credit)) || !b.lineRoom p (e == .store) then b
      else
        let b1 := (b.takeBegin p o q).relBegin p e q ((b.spd p).isSpec q.idx)
        let b1 := if e = .vector then b1.cmdEvent p q 0x07 (vwLen q.w.toNat * vwRows q.w.toNat) else b1
        b.beginEnd p e q b1 (o.eff m b1 p { q with begun := true } ((b.spd p).isSpec q.idx)) := by
  have hab : (b.spd p).abandoned.any (fun a => a.1 == e) = false := by simpa using ha
  unfold Block.tryBegin
  simp only [hr, hab, hn, ho]
  cases hdrWait q.w.toNat <;> rfl

/-- A confirmed command that nothing holds begins. -/
theorem tryBegin_begins (hr : b.arraysRun p = true) (ha : ∀ a ∈ (b.spd p).abandoned, a.1 ≠ o.eng)
    (hn : nextToBegin ((b.spd p).queue o.eng) = some q) (ho : opSpec (q.w.toNat % 256) = some o) (hh : q.hostWait = false) (hb : q.begun = false)
    (hs : (b.spd p).isSpec q.idx = false) (hf : ∀ k, hdrWait q.w.toNat = some k → ((b.spd p).flag k).count ≠ 0)
    (hc : o.credit = true → (b.spd p).credit < 16) (hl : b.lineRoom p (o.eng == .store) = true) :
    b.tryBegin m p o.eng
      = b.beginEnd p o.eng q (b.begun p o q) (o.eff m (b.begun p o q) p { q with begun := true } false) := by
  have hflag : (hdrWait q.w.toNat).any (fun k => ((b.spd p).flag k).count == 0) = false := by
    rw [Option.any_eq_false]
    intro k hk
    simpa using hf k hk
  have hcredit : (o.credit && decide (16 ≤ (b.spd p).credit)) = false := by
    by_cases h : o.credit = true
    · simpa [h] using hc h
    · simp [h]
  rw [tryBegin_eq hr ha hn ho]
  simp only [hh, hb, hs, hflag, hcredit, hl]
  rfl

end

/-! ### Words -/

theorem mkWord_lt {op : Nat} (h : op < 256) (w : W120) : mkWord op w < 2 ^ 128 := by
  have hw := w.isLt
  rw [mkWord, Nat.shiftLeft_eq]
  omega

/-- The engine's entry holds the word. -/
theorem newCmd_word {op : Nat} (h : op < 256) (w : W120) (s : Spindle) (o : OpSpec) : (s.newCmd o (mkWord op w)).w.toNat = mkWord op w := by
  simp only [Spindle.newCmd, BitVec.toNat_ofNat]
  exact Nat.mod_eq_of_lt (mkWord_lt h w)

/-- A word's low byte is its opcode. -/
theorem mkWord_mod {op : Nat} (h : op < 256) (w : W120) : mkWord op w % 256 = op := by
  rw [mkWord, Nat.shiftLeft_eq]
  omega

theorem engineRow_op_lt : ∀ r ∈ engineRows, r.2 < 256 := by decide

/-- Into a free engine a confirmed word begins at once: its operation meets the opened block. -/
theorem issueEng_startsNow {m : Dram} {b : Block} {p op : Nat} {w : W120} {o : OpSpec} (hlt : op < 256) (ho : opSpec op = some o)
    (h : b.startsNow p o (mkWord op w) = true) :
    let q := (b.spd p).newCmd o (mkWord op w)
    let b1 := b.opened p o (mkWord op w)
    b.issueEng m p op w = (b.enqueued p o (mkWord op w)).orWait fun b =>
      b.beginEnd p o.eng q b1 (o.eff m b1 p { q with begun := true } false) := by
  intro q b1
  have hw : q.w.toNat = mkWord op w := newCmd_word hlt w _ _
  simp only [Block.startsNow, Block.engineFree, Block.confirmedNow, Bool.and_eq_true, Bool.not_eq_true', List.isEmpty_iff, Option.isNone_iff_eq_none,
    Bool.or_eq_true, decide_eq_true_eq] at h
  obtain ⟨⟨hcan, hconf⟩, ⟨⟨⟨⟨⟨hrun, -⟩, hab⟩, hempty⟩, hwait⟩, hcredit⟩, hline⟩ := h
  rw [issueEng_eq ho hcan]
  refine congrArg (fun x : Block => if x.stalled then b.enqueued p o (mkWord op w) else x) ?_
  refine tryBegin_begins ?_ ?_ ?_ ?_ rfl rfl ?_ ?_ ?_ ?_
  · rw [← hrun, Block.arraysRun, enqueued_spd]
    simp [Block.arraysRun]
    rfl
  · rw [enqueued_spd]
    simpa using hab
  · rw [enqueued_queue, hempty]
    rfl
  · rw [hw, mkWord_mod hlt]
    exact ho
  · rw [enqueued_spd]
    simpa [Spindle.isSpec, q, Spindle.newCmd] using hconf
  · intro k hk
    rw [hw, hwait] at hk
    cases hk
  · intro hc
    rw [enqueued_spd]
    simpa [hc] using hcredit
  · exact hline

/-- The outcomes of a word that begins at once, by its operation's answer (R22, R55). -/
theorem startsNow_outcomes {i : Instr} {p : Spd} {op : Nat} {w : W120} {s : State} {o : OpSpec} (hi : exec i s = nextOf s (s.blk.issueEng s.dram p op w))
    (hlt : op < 256) (ho : opSpec op = some o) (h : s.blk.startsNow p o (mkWord op w) = true) (b' : Block) :
    let x := mkWord op w
    let q := (s.blk.spd p).newCmd o x
    let b1 := s.blk.opened p o x
    (o.eff s.dram b1 p { q with begun := true } false = .ok b' → Served i s (b'.carried p o q)) ∧
    (o.eff s.dram b1 p { q with begun := true } false = .run b' → Served i s (b'.modCmd p o.eng q.idx fun z => { z with resume := false })) ∧
    (∀ st, o.eff s.dram b1 p { q with begun := true } false = .fault b' st → Served i s (b'.cmdFault p o.eng q st)) ∧
    (o.eff s.dram b1 p { q with begun := true } false = .hold → Gives i s (s.blk.enqueued p o x)) ∧
    (∀ rs, o.eff s.dram b1 p { q with begun := true } false = .host b' rs →
      Served i s ((b1.modCmd p o.eng q.idx fun z => { z with resume := true }).askHost p o.eng q rs)) := by
  intro x q b1
  have hx := issueEng_startsNow (m := s.dram) hlt ho h
  refine ⟨fun he => ?_, fun he => ?_, fun st he => ?_, fun he => ?_, fun rs he => ?_⟩
  · exact served hi fun hst => hx.trans (orWait_eq (congrArg _ he) hst)
  · exact served hi fun hst => hx.trans (orWait_eq (congrArg _ he) hst)
  · exact served hi fun hst => hx.trans (orWait_eq (congrArg _ he) hst)
  · exact gives hi (hx.trans (orWait_same (congrArg _ he)))
  · exact served hi fun hst => hx.trans (orWait_eq (congrArg _ he) hst)

/-- Settles O13: each engine word has the outcomes of its operation's answer, and VPIN_RELEASE is VPIN's word with op 0001. -/
theorem engineWordsBegin : Obligations.EngineWordsBegin := by
  constructor
  case left =>
    intro r hr p w s o b' x q b1 ho hv hs
    exact startsNow_outcomes (exec_engineRow r hr p w s hv) (engineRow_op_lt r hr) ho hs b'
  case right =>
    intro p w s b' x q hop hs
    have hi : exec (.vpinRelease p w) s = nextOf s (s.blk.issueEng s.dram p 0xF2 w) := congrArg (nextOf s) (if_pos hop)
    exact ⟨(startsNow_outcomes hi (by decide) rfl hs b').1, gives rfl (if_pos hop)⟩

end Sys2Proof.Proofs
end

section
/-!
SUPPORT. Queued commands: beginning, completion, leaving and abandonment (R54 to R57, R66, R67).
-/
namespace Sys2Proof.Proofs
open Sys2Proof.Machine Sys2Proof.Claims

/-! ### Beginning in queue order -/

section
variable {m : Dram} {b : Block} {p : Nat} {e : Engine} {q : QCmd} {o : OpSpec}

/-- What holds a command back: confirmation, its flag, a credit or the room for its requests. -/
def heldBack (b : Block) (p : Nat) (e : Engine) (q : QCmd) (o : OpSpec) : Prop :=
  ((b.spd p).isSpec q.idx = true ∧ o.mayBeSpec = false) ∨ (∃ k, hdrWait q.w.toNat = some k ∧ ((b.spd p).flag k).count = 0)
    ∨ (o.credit = true ∧ 16 ≤ (b.spd p).credit) ∨ b.lineRoom p (e == .store) = false

theorem tryBegin_waits (hr : b.arraysRun p = true) (ha : ∀ a ∈ (b.spd p).abandoned, a.1 ≠ e) (hn : nextToBegin ((b.spd p).queue e) = some q)
    (ho : opSpec (q.w.toNat % 256) = some o) (hh : q.hostWait = false) (hb : q.begun = false) (hx : heldBack b p e q o) : b.tryBegin m p e = b := by
  rw [tryBegin_eq hr ha hn ho]
  simp only [hh, hb, Bool.false_eq_true, if_false]
  refine if_pos ?_
  simp only [Bool.or_eq_true, Bool.and_eq_true, Bool.not_eq_true', Option.any_eq_true, beq_iff_eq, decide_eq_true_eq, or_assoc]
  exact hx

/-! ### Completion -/

/-- What a command that completes has told its issuer: KPUT and KGET with a status address write their status there. -/
def toldBlock (b : Block) (p : Nat) (e : Engine) (q : QCmd) : Block :=
  if (q.w.toNat % 256 = 0xA5 ∨ q.w.toNat % 256 = 0xC5) ∧ bits q.w.toNat 48 44 ≠ 0 then
    b.engWrite p e q (q.rf 48 44) (leBytes 8 ((q.failed.map Status.code).getD 0))
  else b

theorem remoteEnd_told (h : ((q.w.toNat % 256 = 0xA5 ∨ q.w.toNat % 256 = 0xC5) ∧ bits q.w.toNat 48 44 ≠ 0) ∨ q.failed = none) :
    b.remoteEnd p e q = some (toldBlock b p e q) := by
  unfold Block.remoteEnd toldBlock
  dsimp only
  split
  · cases q.failed <;> rfl
  · rcases h with h | h
    · contradiction
    · simp only [h]

theorem remoteEnd_fails {st : Status} (h : ¬ ((q.w.toNat % 256 = 0xA5 ∨ q.w.toNat % 256 = 0xC5) ∧ bits q.w.toNat 48 44 ≠ 0))
    (hf : q.failed = some st) : b.remoteEnd p e q = none := by
  unfold Block.remoteEnd
  dsimp only
  rw [if_neg h, hf]

/-- An engine's oldest command that is not complete, while it still waits for something. -/
theorem engComplete_waits (hr : b.arraysRun p = true) (hq : ((b.spd p).queue e).find? (!·.completed) = some q)
    (h : q.begun = false ∨ q.done = false ∨ q.outstanding ≠ 0 ∨ q.deferred ≠ none ∨ b.linesWait q.awaits = true) : b.engComplete m p e = b := by
  unfold Block.engComplete
  simp only [hr, hq, Bool.not_true, Bool.false_eq_true, if_false]
  refine if_pos ?_
  simp only [Bool.or_eq_true, Bool.not_eq_true', bne_iff_ne, Option.isSome_iff_ne_none, or_assoc]
  exact h

/-- The same once it waits for nothing. -/
theorem engComplete_eq (hr : b.arraysRun p = true) (hq : ((b.spd p).queue e).find? (!·.completed) = some q) (hb : q.begun = true) (hd : q.done = true)
    (ho : q.outstanding = 0) (hdef : q.deferred = none) (hl : b.linesWait q.awaits = false) :
    b.engComplete m p e = (match b.remoteEnd p e q with
      | none => b.blankFault p q.idx (q.failed.getD .success) (q.w.toNat % 256) ((b.spd p).pcOffset q.pc)
      | some b' => if (b.spd p).isSpec q.idx then b'.modCmd p e q.idx fun q => { q with completed := true } else b'.cmdLeave m p e q) := by
  unfold Block.engComplete
  simp only [hr, hq, Bool.not_true, Bool.false_eq_true, if_false]
  exact if_neg (by simp [hb, hd, ho, hdef, hl])

/-! ### Leaving -/

/-- Entries that no engine of the command's holds are not touched. -/
theorem commitWhere_none {s : Spindle} {f : GatherEntry → Bool} (h : ∀ g ∈ s.gbuf, f g = false) : s.commitWhere f = s := by
  have hf : s.gbuf.filter f = [] := List.filter_eq_nil_iff.mpr fun g hg => by simp [h g hg]
  unfold Spindle.commitWhere
  rw [hf]
  exact if_pos rfl

/-- With nothing to write to the banks, a change of a spindle is that change. -/
theorem modGb_idle {b : Block} {p : Nat} {f : Spindle → Spindle} (h : f (b.spd p) = b.spd p) : b.modGb p f = b.setSpd p (b.spd p) := by
  unfold Block.modGb
  simp only [Block.modSpd, h, Block.spd_setSpd, Nat.add_zero, Nat.sub_self]
  exact Block.countEvent_zero _ _ _ _

/-- The command at the head of its queue leaves it, with nothing that waited for it. -/
theorem cmdLeave_plain {rest : List QCmd} (hq : (b.spd p).queue e = q :: rest) (hobs : q.obs = none) (hsl : q.slots = 0)
    (hg : ∀ g ∈ (b.spd p).gbuf, g.engine ≠ e) (hw : (b.spd p).stageWait = []) (hl : (b.spd p).lateSigs = []) (hldt : (b.spd p).ldt = none)
    (hend : (b.spd p).ending = none) :
    b.cmdLeave m p e q = b.setSpd p (match hdrSet q.w.toNat with
      | some k => ((b.spd p).setQueue e rest).modFlag k LocalFlag.set
      | none => (b.spd p).setQueue e rest) := by
  have hgb : b.modGb p (fun s => s.commitWhere fun g => g.engine == e) = b.setSpd p (b.spd p) :=
    modGb_idle (commitWhere_none fun g hgm => by simpa using hg g hgm)
  have herase : eraseFirst (fun x => x.idx == q.idx) ((b.spd p).queue e) = rest := by
    rw [hq]
    exact if_pos (beq_self_eq_true _)
  unfold Block.cmdLeave
  simp only [hgb, hobs, hsl, Spindle.addTally, if_true, Block.setSpd_modSpd, herase]
  have hpump : (b.setSpd p ((b.spd p).setQueue e rest)).stagePump m p = b.setSpd p ((b.spd p).setQueue e rest) := by
    simp [Block.stagePump, hw, iter]
  have hlate : (b.setSpd p ((b.spd p).setQueue e rest)).lateOut m p = b.setSpd p ((b.spd p).setQueue e rest) := by
    simp [Block.lateOut, hl, iter]
  rw [hpump, hlate]
  cases hdrSet q.w.toNat with
  | none =>
    simp only [Block.tryEnd, Block.spd_setSpd, Spindle.setQueue_ending, hend]
  | some k =>
    simp only []
    rw [setFlag_idle (m := m) k (by simpa using hldt), Block.setSpd_modSpd]
    simp only [Block.tryEnd, Block.spd_setSpd, Spindle.modFlag, Spindle.setQueue_ending, hend]

end

/-! ### Abandonment -/

/-- An abandoned command has given back what it took: its credit, and the counters of waste (R66, R67). -/
def abandonedSpd (s : Spindle) (e : Engine) (q : QCmd) (frozen : Bool) (cycles bytes : Nat) : Spindle :=
  { s with
    abandoned := eraseFirst (· == (e, q)) s.abandoned
    credit := if q.credit then s.credit - 1 else s.credit
    wasteCycles := if frozen then s.wasteCycles else s.wasteCycles.add cycles
    wasteBytes := if frozen then s.wasteBytes else s.wasteBytes.add bytes }

/-- The work spent on it is counted as its context's waste. -/
def wasted (b : Block) (p : Nat) (e : Engine) (q : QCmd) (cycles bytes : Nat) : Block :=
  ((b.setSpd p (abandonedSpd (b.spd p) e q b.cnt.freeze cycles bytes)).countCtx (bits q.w.toNat 11 8) 11 cycles).postSlots
    { spindle := p, src := 1 + engNum e, cat := 1, n := cycles, ctx := some (bits q.w.toNat 11 8) }

/-- Slots that are posted reach the counters, of a spindle, a context or the device. -/
theorem postSlots_eq (b : Block) (x : Slots) : ∃ t c d, b.postSlots x = { b with spindles := t, ctxs := c, cnt := d } := by
  unfold Block.postSlots
  split
  · exact ⟨b.spindles, b.ctxs, b.cnt, rfl⟩
  · split
    · exact ⟨b.spindles, b.ctxs, _, rfl⟩
    · unfold Block.addSlots
      dsimp only
      split
      · exact ⟨_, _, b.cnt, rfl⟩
      · exact ⟨_, b.ctxs, _, rfl⟩

theorem wasted_eq (b : Block) (p : Nat) (e : Engine) (q : QCmd) (cycles bytes : Nat) :
    ∃ t c d, wasted b p e q cycles bytes = { b with spindles := t, ctxs := c, cnt := d } := by
  unfold wasted
  obtain ⟨c, hc⟩ := countCtx_eq (b.setSpd p (abandonedSpd (b.spd p) e q b.cnt.freeze cycles bytes)) (bits q.w.toNat 11 8) 11 cycles
  obtain ⟨t, c', d, h⟩ := postSlots_eq ((b.setSpd p (abandonedSpd (b.spd p) e q b.cnt.freeze cycles bytes)).countCtx (bits q.w.toNat 11 8) 11 cycles)
    { spindle := p, src := 1 + engNum e, cat := 1, n := cycles, ctx := some (bits q.w.toNat 11 8) }
  exact ⟨t, c', d, by rw [h, hc]; rfl⟩

theorem wasted_spd (b : Block) (p : Nat) (e : Engine) (q : QCmd) (cycles bytes : Nat) :
    ∃ t, (wasted b p e q cycles bytes).spd p = { abandonedSpd (b.spd p) e q b.cnt.freeze cycles bytes with cntTd := t } := by
  unfold wasted
  obtain ⟨t, ht⟩ := postSlots_spd ((b.setSpd p (abandonedSpd (b.spd p) e q b.cnt.freeze cycles bytes)).countCtx (bits q.w.toNat 11 8) 11 cycles)
    { spindle := p, src := 1 + engNum e, cat := 1, n := cycles, ctx := some (bits q.w.toNat 11 8) } p
  rw [spd_countCtx, Block.spd_setSpd] at ht
  exact ⟨t, ht⟩

/-- The stage boundary of an abandoned command, while no LDT waits for its flag. -/
theorem engAbandon_eq {m : Dram} {b : Block} {p : Nat} {e : Engine} {q : QCmd} (cycles bytes : Nat)
    (h : (b.spd p).abandoned.find? (fun a => a.1 == e) = some (e, q)) (hl : (b.spd p).ldt = none) :
    b.engAbandon m p e cycles bytes = (match (if q.flagTaken then hdrWait q.w.toNat else none) with
      | some k => (wasted b p e q cycles bytes).modSpd p fun s => s.modFlag k LocalFlag.giveBack
      | none => wasted b p e q cycles bytes) := by
  unfold Block.engAbandon
  simp only [h]
  cases hk : (if q.flagTaken then hdrWait q.w.toNat else none) with
  | none => rfl
  | some k =>
    obtain ⟨t, ht⟩ := wasted_spd b p e q cycles bytes
    refine ldtPump_idle (b := (wasted b p e q cycles bytes).modSpd p fun s => s.modFlag k LocalFlag.giveBack) ?_
    rw [Block.modSpd_spd, ht]
    exact hl

/-- Settles O14: beginning, completion, leaving and abandonment of queued commands, each by the lemma of its case. -/
theorem engineCommandsRunInOrder : Obligations.EngineCommandsRunInOrder := by
  refine ⟨?begins, ?completes, ?leaves, ?abandons⟩
  case begins =>
    intro p e s q o b spd w hr ha hn ho he
    subst he
    refine ⟨fun hh => ?_, fun hh hb => ?_, fun hh hb => ⟨fun hs hm => ?_, fun k hk h0 => ?_, fun hc h16 => ?_, fun hl => ?_, fun hs hf hc hl => ?_⟩⟩
    · refine gives rfl (orWait_same ((tryBegin_eq hr ha hn ho).trans (if_pos hh)))
    · refine served rfl fun hst => orWait_eq ((tryBegin_eq hr ha hn ho).trans ?_) hst
      simp only [hh, hb, Bool.false_eq_true, if_false, if_true]
      rfl
    · exact gives rfl (orWait_same (tryBegin_waits hr ha hn ho hh hb (.inl ⟨hs, hm⟩)))
    · exact gives rfl (orWait_same (tryBegin_waits hr ha hn ho hh hb (.inr (.inl ⟨k, hk, h0⟩))))
    · exact gives rfl (orWait_same (tryBegin_waits hr ha hn ho hh hb (.inr (.inr (.inl ⟨hc, h16⟩)))))
    · exact gives rfl (orWait_same (tryBegin_waits hr ha hn ho hh hb (.inr (.inr (.inr hl)))))
    · exact served rfl fun hst => orWait_eq (tryBegin_begins hr ha hn ho hh hb hs hf hc hl) hst
  case completes =>
    intro p e s q b spd w hr hq
    refine ⟨fun h => gives rfl (orWait_same (engComplete_waits hr hq h)), fun hb hd ho hdef hl => ?_⟩
    intro status told
    refine ⟨fun st hns hf => ?_, fun h => ⟨fun hs => ?_, fun hs => ?_⟩⟩
    all_goals refine served rfl fun hst => orWait_eq ((engComplete_eq hr hq hb hd ho hdef hl).trans ?_) hst
    · rw [remoteEnd_fails hns hf, hf]
      rfl
    · rw [remoteEnd_told h]
      exact if_pos hs
    · rw [remoteEnd_told h]
      exact if_neg (by simpa [spd] using hs)
  case leaves =>
    intro p e b m q rest spd hq hobs hsl hg hw hl hldt hend
    exact cmdLeave_plain hq hobs hsl hg hw hl hldt hend
  case abandons =>
    intro p e cycles bytes s q spd h hl hst
    have heq := engAbandon_eq (m := s.dram) cycles bytes h hl
    obtain ⟨t, hspd⟩ := wasted_spd s.blk p e q cycles bytes
    obtain ⟨ts, c, d, hrest⟩ := wasted_eq s.blk p e q cycles bytes
    have hfree : s.blk.cnt.freeze = false →
        (abandonedSpd spd e q s.blk.cnt.freeze cycles bytes).wasteCycles = spd.wasteCycles.add cycles ∧
        (abandonedSpd spd e q s.blk.cnt.freeze cycles bytes).wasteBytes = spd.wasteBytes.add bytes := by
      intro hf
      simp [abandonedSpd, hf]
    cases hk : (if q.flagTaken then hdrWait q.w.toNat else none) with
    | none =>
      simp only [hk] at heq
      refine ⟨_, gives rfl (orWait_eq heq (by rw [hrest]; exact hst)), ?_⟩
      rw [hspd]
      exact ⟨rfl, rfl, rfl, hfree, rfl, rfl, by rw [hrest], by rw [hrest]⟩
    | some k =>
      simp only [hk] at heq
      refine ⟨_, gives rfl (orWait_eq heq (by rw [Block.modSpd, hrest]; exact hst)), ?_⟩
      rw [Block.modSpd_spd, hspd]
      exact ⟨rfl, rfl, rfl, hfree, rfl, rfl, by rw [Block.modSpd, hrest]; rfl, by rw [Block.modSpd, hrest]; rfl⟩

end Sys2Proof.Proofs
end

section
/-!
SUPPORT. What vector words and handle words compute (R38, R39, R92, R93, R101, R102, R176, R197).
-/
namespace Sys2Proof.Proofs
open Sys2Proof.Machine Sys2Proof.Claims

/-! ### What beginning and reading leave unchanged -/

/-- `b'` has the blank, the handles and the windows of spindle `p`, the context registers and the working flag of `b`. -/
structure SameBlank (p : Nat) (b b' : Block) : Prop where
  stalled : b'.stalled = b.stalled
  ctxs : b'.ctxs = b.ctxs
  cur : (b'.spd p).cur = (b.spd p).cur
  handles : (b'.spd p).handles = (b.spd p).handles
  windows : (b'.spd p).windows = (b.spd p).windows

namespace SameBlank
variable {p : Nat} {a b c : Block}

theorem refl (p : Nat) (b : Block) : SameBlank p b b := ⟨rfl, rfl, rfl, rfl, rfl⟩

theorem trans (h : SameBlank p a b) (k : SameBlank p b c) : SameBlank p a c :=
  ⟨k.stalled.trans h.stalled, k.ctxs.trans h.ctxs, k.cur.trans h.cur, k.handles.trans h.handles, k.windows.trans h.windows⟩

/-- A change of other fields of the spindle. -/
theorem modSpd (b : Block) (p : Nat) {f : Spindle → Spindle} (h1 : (f (b.spd p)).cur = (b.spd p).cur) (h2 : (f (b.spd p)).handles = (b.spd p).handles)
    (h3 : (f (b.spd p)).windows = (b.spd p).windows) : SameBlank p b (b.modSpd p f) := by
  refine ⟨rfl, rfl, ?_, ?_, ?_⟩ <;> rw [Block.modSpd_spd] <;> assumption

theorem modCmd (b : Block) (p : Nat) (e : Engine) (idx : Nat) (f : QCmd → QCmd) : SameBlank p b (b.modCmd p e idx f) :=
  modSpd b p (Spindle.setQueue_cur ..) (Spindle.setQueue_handles ..) (Spindle.setQueue_windows ..)

theorem countFor (b : Block) (p code n : Nat) (sp : Option Nat) : SameBlank p b (b.countFor p code n sp) := by
  obtain ⟨t, v, h⟩ := Block.countFor_spd b p code n sp
  have ho := Block.countFor_only b p code n sp
  exact ⟨onlySpd_stalled ho, (congrArg (fun x : Block => x.ctxs) ho.1 : _), by rw [h], by rw [h], by rw [h]⟩

theorem commitRange (b : Block) (p a n : Nat) (sp : Option Nat) : SameBlank p b (b.commitRange p a n sp) := by
  refine (modSpd b p ?_ ?_ ?_).trans (countFor _ _ _ _ _) <;>
  · obtain ⟨g, r, h, -⟩ := Spindle.commitWhere_eq (b.spd p) fun g => decide (n ≠ 0) && decide (a / 64 ≤ g.sector) && decide (g.sector ≤ (a + n - 1) / 64)
    rw [Spindle.commitRange, h]

theorem cmdSpad (b : Block) (p idx : Nat) : SameBlank p b (b.cmdSpad p idx).2 := by
  unfold Block.cmdSpad
  dsimp only
  split
  · exact refl p b
  · exact ⟨rfl, rfl, rfl, rfl, rfl⟩

/-- A read of a command. -/
theorem engRead (b : Block) (p : Nat) (q : QCmd) (a n : Nat) : SameBlank p b (b.engRead p q a n).2 :=
  (commitRange b p a n _).trans (cmdSpad _ p q.idx)

theorem cmdEvent (b : Block) (p : Nat) (q : QCmd) (code n : Nat) : SameBlank p b (b.cmdEvent p q code n) := countFor ..

theorem creditRelease (b : Block) (p : Nat) : SameBlank p b (b.creditRelease p) := by
  refine modSpd b p ?_ ?_ ?_ <;> split <;> rfl

theorem takeBegin (b : Block) (p : Nat) (o : OpSpec) (q : QCmd) : SameBlank p b (b.takeBegin p o q) := by
  have hflag : SameBlank p b (match hdrWait q.w.toNat with
      | some k => b.modSpd p fun s => s.modFlag k LocalFlag.take
      | none => b) := by
    split
    · exact modSpd b p rfl rfl rfl
    · exact refl p b
  unfold Block.takeBegin
  dsimp only
  split
  · exact (hflag.trans (modSpd _ p rfl rfl rfl)).trans (modCmd ..)
  · exact hflag.trans (modCmd ..)

/-- A confirmed command begins. -/
theorem begun (b : Block) (p : Nat) (o : OpSpec) (q : QCmd) : SameBlank p b (b.begun p o q) := by
  have hrel : SameBlank p b ((b.takeBegin p o q).relBegin p o.eng q false) := by
    refine (takeBegin b p o q).trans ?_
    unfold Block.relBegin
    split
    · exact refl p _
    · exact creditRelease _ p
  unfold Block.begun
  dsimp only
  split
  · exact hrel.trans (cmdEvent _ p q _ _)
  · exact hrel

/-- A word enters its queue and begins. -/
theorem opened (b : Block) (p : Nat) (o : OpSpec) (w : Nat) : SameBlank p b (b.opened p o w) := by
  refine trans (b := b.enqueued p o w) ⟨rfl, rfl, ?_, ?_, ?_⟩ (begun _ p o _)
  · rw [enqueued_spd]
    exact Spindle.setQueue_cur ..
  · rw [enqueued_spd]
    exact Spindle.setQueue_handles ..
  · rw [enqueued_spd]
    exact Spindle.setQueue_windows ..

theorem ctx_eq (h : SameBlank p a b) : (b.spd p).ctx = (a.spd p).ctx := by
  unfold Spindle.ctx
  rw [h.cur]

theorem context_eq (h : SameBlank p a b) (k : Nat) : b.ctx k = a.ctx k := by
  unfold Block.ctx
  rw [h.ctxs]

end SameBlank

/-! ### Writing and marking leave the working flag -/

theorem modCmd_stalled (b : Block) (p : Nat) (e : Engine) (idx : Nat) (f : QCmd → QCmd) : (b.modCmd p e idx f).stalled = b.stalled := rfl

theorem modGb_stalled (b : Block) (p : Nat) (f) (n : Nat) (sp : Option Nat) : (b.modGb p f n sp).stalled = b.stalled :=
  onlySpd_stalled (Block.modGb_only ..)

theorem spadWrite_stalled (b : Block) (p a : Nat) (bs : List Byte) (sp : Option Nat) : (b.spadWrite p a bs sp).stalled = b.stalled := by
  unfold Block.spadWrite
  split
  · rfl
  · exact modGb_stalled ..

theorem gatherWrite_stalled (b : Block) (p : Nat) (e : Engine) (a : Nat) (bs : List Byte) (sp : Option Nat) :
    (b.gatherWrite p e a bs sp).stalled = b.stalled := by
  unfold Block.gatherWrite
  dsimp only
  split
  · exact modGb_stalled ..
  · exact spadWrite_stalled ..

theorem engWrite_stalled (b : Block) (p : Nat) (e : Engine) (q : QCmd) (a : Nat) (bs : List Byte) : (b.engWrite p e q a bs).stalled = b.stalled := by
  have hnote : (if (b.spd p).isSpec q.idx then b.modCmd p e q.idx fun q => { q with wrote := q.wrote ++ [(a, bs.length)] } else b).stalled = b.stalled := by
    split <;> rfl
  unfold Block.engWrite
  dsimp only
  split
  · exact (gatherWrite_stalled ..).trans hnote
  · exact (gatherWrite_stalled ..).trans hnote
  · exact (spadWrite_stalled ..).trans hnote

theorem carried_stalled (b : Block) (p : Nat) (o : OpSpec) (q : QCmd) : (b.carried p o q).stalled = b.stalled := rfl

/-! ### Words that are carried out as they begin -/

theorem startsNow_clear {b : Block} {p : Nat} {o : OpSpec} {w : Nat} (h : b.startsNow p o w = true) : b.stalled = false := by
  simp only [Block.startsNow, Block.engineFree, Bool.and_eq_true, Bool.not_eq_true'] at h
  exact h.2.1.1.1.1.1.2

/-- A word that begins at once and whose operation carries it out without meeting a channel's queue. -/
theorem startsNow_done {i : Instr} {p : Spd} {op : Nat} {w : W120} {s : State} {o : OpSpec} {b' : Block}
    (hi : exec i s = nextOf s (s.blk.issueEng s.dram p op w)) (hlt : op < 256) (ho : opSpec op = some o) (h : s.blk.startsNow p o (mkWord op w) = true)
    (he : o.eff s.dram (s.blk.opened p o (mkWord op w)) p { (s.blk.spd p).newCmd o (mkWord op w) with begun := true } false = .ok b')
    (hs : b'.stalled = (s.blk.opened p o (mkWord op w)).stalled) : Gives i s (b'.carried p o ((s.blk.spd p).newCmd o (mkWord op w))) :=
  (startsNow_outcomes hi hlt ho h b').1 he (by rw [carried_stalled, hs, (SameBlank.opened ..).stalled, startsNow_clear h])

/-- A word fits its 128 bits. -/
theorem word_toNat {op : Nat} (h : op < 256) (w : W120) : (BitVec.ofNat 128 (mkWord op w)).toNat = mkWord op w := by
  rw [BitVec.toNat_ofNat]
  exact Nat.mod_eq_of_lt (mkWord_lt h w)

/-! ### Element-wise and row words -/

/-- Every element-wise word issues with its opcode to the operation of its row. -/
theorem exec_laneRow : ∀ r ∈ laneRows, r.2.1 < 256 ∧
    opSpec r.2.1 = some { eng := .vector, mayBeSpec := true, regs := vwRegs, bad := laneBad r.2.2.2, eff := effLane r.2.2.1 r.2.2.2 } ∧
    ∀ (p : Spd) (w : W120) (s : State), exec (r.1 p w) s = nextOf s (s.blk.issueEng s.dram p r.2.1 w) := by
  simp only [laneRows, List.forall_mem_cons]
  repeat refine ⟨⟨by decide, rfl, fun _ _ _ => rfl⟩, ?_⟩
  nofun

/-- Every row word, likewise. -/
theorem exec_rowRow : ∀ r ∈ rowRows, r.2.1 < 256 ∧
    opSpec r.2.1 = some { eng := .vector, mayBeSpec := true, regs := vwRegs, bad := rowOpBad, eff := effRow r.2.2.1 r.2.2.2 } ∧
    ∀ (p : Spd) (w : W120) (s : State), exec (r.1 p w) s = nextOf s (s.blk.issueEng s.dram p r.2.1 w) := by
  simp only [rowRows, List.forall_mem_cons]
  repeat refine ⟨⟨by decide, rfl, fun _ _ _ => rfl⟩, ?_⟩
  nofun

section
variable {m : Dram} {b : Block} {p : Nat} {q : QCmd}

/-- The results of an element-wise word with sound operands. -/
theorem effLane_ok {op : FOp} {ops : Nat} {spec : Bool} {w es n : Nat} {two : Prop} [Decidable two] (hw : q.w.toNat = w) (hes : es = if vwFmt w = 1 then 2 else 4)
    (hn : n = vwLen w * vwRows w) (htwo : two ↔ 2 ≤ ops ∧ vwBsc w = false) :
    let srcs := [(q.ra, n * es)] ++ (if two then [(q.rb, n * es)] else []) ++ (if 3 ≤ ops then [(q.rc, n * es)] else [])
    (∀ a ∈ (q.rd, n * es) :: srcs, a.1 % es = 0) → (∀ a ∈ srcs, overlapBad (q.rd, n * es) a es es = false) →
    rangeCheck b p .vector q srcs [(q.rd, n * es)] = none →
    let ra := b.engRead p q q.ra (n * es)
    let rb := if two then ra.2.engRead p q q.rb (n * es) else ([], ra.2)
    let rc := if 3 ≤ ops then rb.2.engRead p q q.rc (n * es) else ([], rb.2)
    effLane op ops m b p q spec = .ok (rc.2.engWrite p .vector q q.rd (packRow (vwFmt w) ((List.range n).map fun k =>
      fopLane op (vwFmt w == 1) ((unpackRow (vwFmt w) n ra.1).getD k .nan)
        (if vwBsc w then decodeElem (vwFmt w) (q.rb % 2 ^ (8 * es)) else (unpackRow (vwFmt w) n rb.1).getD k .nan)
        ((unpackRow (vwFmt w) n rc.1).getD k .nan)))) := by
  intro srcs halign hover hrange
  have hbsc : (2 ≤ ops ∧ (!vwBsc q.w.toNat) = true) ↔ two := by rw [htwo, hw, Bool.not_eq_true']
  have halign' : ((q.rd, n * es) :: srcs).any (fun r => r.1 % es != 0) = false := by
    rw [List.any_eq_false]
    intro a ha
    simp [halign a ha]
  have hover' : srcs.any (fun r => overlapBad (q.rd, n * es) r es es) = false := by
    rw [List.any_eq_false]
    intro a ha
    simp [hover a ha]
  unfold effLane
  rw [hw] at hbsc ⊢
  simp only [beq_iff_eq, ← hes, ← hn, hbsc]
  rw [if_neg (by rw [halign', hover']; simp), hrange]

/-- The results of a row word with sound operands. -/
theorem effRow_ok {size : Nat} {f : List Val → List Byte} {spec : Bool} {w : Nat} (hw : q.w.toNat = w) :
    let es := elemBits (vwFmt w) / 8
    let src := (q.ra, vwRows w * vwLen w * es)
    let dst := (q.rd, vwRows w * size)
    q.ra % es = 0 → q.rd % size = 0 → overlapBad dst src size es = false → rangeCheck b p .vector q [src] [dst] = none →
    effRow size f m b p q spec = .ok ((b.engRead p q src.1 src.2).2.engWrite p .vector q q.rd ((List.range (vwRows w)).flatMap fun r =>
      f (unpackRow (vwFmt w) (vwLen w) (slice (b.engRead p q src.1 src.2).1 (r * vwLen w * es) (vwLen w * es))))) := by
  intro es src dst ha hd hover hrange
  subst hw
  unfold effRow
  dsimp only
  rw [if_neg (by simp only [not_or, not_not]; exact ⟨ha, hd, by simpa using hover⟩), hrange]

/-- Reads that a word makes only where it has the operand. -/
theorem sameBlank_readIf (c : Prop) [Decidable c] (b : Block) (p : Nat) (q : QCmd) (a n : Nat) :
    SameBlank p b (if c then b.engRead p q a n else ([], b)).2 := by
  split
  · exact SameBlank.engRead ..
  · exact SameBlank.refl p b

end

/-- Settles O15: both kinds of words are carried out as they begin, once their operands are sound. -/
theorem laneAndRowWords : Obligations.LaneAndRowWords := by
  constructor
  case left =>
    rintro ⟨mk, opc, op, ops⟩ hr p w s
    obtain ⟨hlt, ho, hi⟩ := exec_laneRow _ hr
    intro hs halign hover hrange ra rb rc bro
    refine startsNow_done (hi p w s) hlt ho hs ?_ ?_
    · change effLane op ops s.dram _ _ _ false = _
      exact effLane_ok (word_toNat hlt w) rfl rfl Iff.rfl halign hover hrange
    · rw [engWrite_stalled]
      exact (((SameBlank.engRead _ _ _ _ _).trans (sameBlank_readIf _ ..)).trans (sameBlank_readIf (3 ≤ ops) ..)).stalled
  case right =>
    rintro ⟨mk, opc, size, f⟩ hr p w s
    obtain ⟨hlt, ho, hi⟩ := exec_rowRow _ hr
    intro hs ha hd hover hrange rd
    refine startsNow_done (hi p w s) hlt ho hs ?_ ?_
    · change effRow size f s.dram _ _ _ false = _
      exact effRow_ok (word_toNat hlt w) ha hd hover hrange
    · rw [engWrite_stalled]
      exact (SameBlank.engRead ..).stalled

/-! ### Conversion, draws and marks -/

section
variable {m : Dram} {b : Block} {p : Nat} {q : QCmd} {spec : Bool} {w : Nat}

/-- The rows of a VCVT to a format that is not block-scaled. -/
theorem effCvt_ok (hw : q.w.toNat = w) (hmx : isMx (convOf (vwConv w)).fmt = false) :
    let c := convOf (vwConv w)
    let ses := elemBits (vwFmt w) / 8
    let src := (q.ra, vwRows w * vwLen w * ses)
    let dst := (q.rd, vwRows w * rowBytes c.fmt (vwLen w))
    q.ra % ses = 0 → q.rd % elemAlign c.fmt = 0 → overlapBad dst src (elemBits c.fmt) (elemBits (vwFmt w)) = false →
    overlapBad (q.rb, 0) src 8 (elemBits (vwFmt w)) = false → rangeCheck b p .vector q [src] [dst, (q.rb, 0)] = none →
    let rd := b.engRead p q src.1 src.2
    effCvt m b p q spec = .ok ((rd.2.cmdEvent p q 0x19 (convBlocks c q.rc (vwRows w * vwLen w))).engWrite p .vector q q.rd
      ((List.range (vwRows w)).flatMap fun r => packRow c.fmt ((List.range (vwLen w)).map fun j =>
        convAt c (b.ctx (b.spd p).ctx).seed.toNat ((q.rc + r * vwLen w + j) % 2 ^ 64)
          ((unpackRow (vwFmt w) (vwLen w) (slice rd.1 (r * vwLen w * ses) (vwLen w * ses))).getD j .nan)))) := by
  intro c ses src dst ha hd hover hscale hrange rd
  have hrd : SameBlank p b rd.2 := SameBlank.engRead ..
  have hlen (bs : List Byte) : (unpackRow (vwFmt w) (vwLen w) bs).length = vwLen w := by simp [unpackRow]
  subst hw
  unfold effCvt
  simp only [hmx, Bool.false_eq_true, if_false]
  rw [if_neg (by simp only [not_or, not_not]; exact ⟨ha, hd, by simpa using hover, by simpa using hscale⟩), hrange]
  simp only [cvtRow, hmx, Bool.false_eq_true, if_false, hlen, List.flatMap_map]
  rw [hrd.ctx_eq, hrd.context_eq]

/-- The words that a draw writes. -/
theorem effDraw_ok {f : Nat → Nat} (hw : q.w.toNat = w) :
    let n := vwLen w * vwRows w
    let rd := b.engRead p q q.rb 64
    q.rb % 64 = 0 → q.rd % 4 = 0 → overlapBad (q.rd, 4 * n) (q.rb, 64) 4 64 = false →
    rangeCheck b p .vector q [(q.rb, 64)] [(q.rd, 4 * n)] = none → bits (leNat rd.1) 511 256 = 0 → bits (leNat rd.1) 191 128 = 0 →
    effDraw f m b p q spec = .ok ((rd.2.cmdEvent p q 0x19 (grainBlocks (drawParam (leNat rd.1)).elemBase n)).engWrite p .vector q q.rd
      ((List.range n).flatMap fun k => leBytes 4 (f ((drawParam (leNat rd.1)).word k)))) := by
  intro n rd hb hd hover hrange hz hz'
  subst hw
  unfold effDraw
  dsimp only
  rw [if_neg (by simp only [not_or, not_not]; exact ⟨hb, hd, by simpa using hover⟩), hrange]
  exact if_neg (by simp only [not_or, not_not]; exact ⟨hz, hz'⟩)

/-- The bytes of a VMKOR of two bitmaps. -/
theorem effVmkOr_ok (hw : q.w.toNat = w) (hbsc : vwBsc w = false) :
    let n := vwLen w
    overlapBad (q.rd, n) (q.ra, n) 1 1 = false → overlapBad (q.rd, n) (q.rb, n) 1 1 = false →
    rangeCheck b p .vector q [(q.ra, n), (q.rb, n)] [(q.rd, n)] = none →
    let ra := b.engRead p q q.ra n
    let rb := ra.2.engRead p q q.rb n
    effVmkOr m b p q spec = .ok (rb.2.engWrite p .vector q q.rd ((List.range n).map fun k => ra.1.getD k 0 ||| rb.1.getD k 0)) := by
  intro n ha hb hrange
  subst hw
  have hover : ([(q.ra, n), (q.rb, n)].any fun r => overlapBad (q.rd, n) r 1 1) = false := by simp [ha, hb]
  unfold effVmkOr
  simp only [hbsc, Bool.false_eq_true, if_false]
  rw [if_neg (by rw [hover]; simp), hrange]

end

/-- The bytes of a VMKCLR. -/
theorem effVmkClr_ok {m : Dram} {b : Block} {p : Nat} {q : QCmd} {spec : Bool} {w : Nat} (hw : q.w.toNat = w)
    (hrange : rangeCheck b p .vector q [] [(q.rd, vwLen w)] = none) :
    effVmkClr m b p q spec = .ok (b.engWrite p .vector q q.rd (List.replicate (vwLen w) 0)) := by
  subst hw
  unfold effVmkClr
  simp only [hrange]

/-- A draw is carried out as it begins. -/
theorem draw_gives {i : Instr} {p : Spd} {op : Nat} {w : W120} {s : State} {o : OpSpec} {f : Nat → Nat}
    (hi : exec i s = nextOf s (s.blk.issueEng s.dram p op w)) (hlt : op < 256) (ho : opSpec op = some o) (hf : o.eff = effDraw f) :
    let x := mkWord op w
    let q := (s.blk.spd p).newCmd o x
    let b := s.blk.opened p o x
    let n := vwLen x * vwRows x
    let rd := b.engRead p { q with begun := true } q.rb 64
    s.blk.startsNow p o x = true → q.rb % 64 = 0 → q.rd % 4 = 0 → overlapBad (q.rd, 4 * n) (q.rb, 64) 4 64 = false →
    rangeCheck b p .vector { q with begun := true } [(q.rb, 64)] [(q.rd, 4 * n)] = none →
    bits (leNat rd.1) 511 256 = 0 → bits (leNat rd.1) 191 128 = 0 →
    Gives i s (((rd.2.cmdEvent p { q with begun := true } 0x19 (grainBlocks (drawParam (leNat rd.1)).elemBase n)).engWrite p .vector
      { q with begun := true } q.rd ((List.range n).flatMap fun k => leBytes 4 (f ((drawParam (leNat rd.1)).word k)))).carried p o q) := by
  intro x q b n rd hs hb hd hover hrange hz hz'
  refine startsNow_done hi hlt ho hs ?_ ?_
  · rw [hf]
    exact effDraw_ok (m := s.dram) (spec := false) (b := b) (p := p) (q := { q with begun := true }) (word_toNat hlt w) hb hd hover hrange hz hz'
  · rw [engWrite_stalled]
    exact ((SameBlank.engRead ..).trans (SameBlank.cmdEvent ..)).stalled

/-- Settles O16: VCVT, the two draws, VMKOR and VMKCLR are carried out as they begin. -/
theorem conversionDrawAndMarkWords : Obligations.ConversionDrawAndMarkWords := by
  intro p w s spd
  refine ⟨?vcvt, ?draws, ?vmkor, ?vmkclr⟩
  case vcvt =>
    intro x q b c ses src dst seed hs hmx ha hd hover hscale hrange rd
    have hb : SameBlank p s.blk b := SameBlank.opened ..
    refine startsNow_done rfl (by decide) rfl hs ?_ ?_
    · change effCvt s.dram _ _ _ false = _
      have h := effCvt_ok (m := s.dram) (spec := false) (b := b) (p := p) (q := { q with begun := true }) (word_toNat (by decide) w) hmx ha hd hover hscale hrange
      rw [hb.ctx_eq, hb.context_eq] at h
      exact h
    · rw [engWrite_stalled]
      exact ((SameBlank.engRead ..).trans (SameBlank.cmdEvent ..)).stalled
  case draws =>
    simp only [List.forall_mem_cons]
    exact ⟨draw_gives rfl (by decide) rfl rfl, draw_gives rfl (by decide) rfl rfl, nofun⟩
  case vmkor =>
    intro x q b n hs hbsc ha hb hrange
    refine startsNow_done rfl (by decide) rfl hs ?_ ?_
    · change effVmkOr s.dram _ _ _ false = _
      exact effVmkOr_ok (word_toNat (by decide) w) hbsc ha hb hrange
    · rw [engWrite_stalled]
      exact ((SameBlank.engRead ..).trans (SameBlank.engRead ..)).stalled
  case vmkclr =>
    intro x q b hs hrange
    refine startsNow_done rfl (by decide) rfl hs ?_ ?_
    · change effVmkClr s.dram _ _ _ false = _
      exact effVmkClr_ok (word_toNat (by decide) w) hrange
    · rw [engWrite_stalled]

/-! ### Handles -/

section
variable {m : Dram} {b : Block} {p : Nat} {q : QCmd} {spec : Bool} {w : Nat}

/-- A HALLOC of free pages inside its context's window makes its entry live. -/
theorem effHalloc_ok (hw : q.w.toNat = w) (hlo : (tget {} (b.spd p).windows (b.spd p).ctx).handleLo ≤ bits w 63 58)
    (hhi : bits w 63 58 ≤ (tget {} (b.spd p).windows (b.spd p).ctx).handleHi)
    (hbase : (tget {} (b.spd p).windows (b.spd p).ctx).basePage ≤ bits w 74 64)
    (hend : bits w 74 64 + bits w 50 40 ≤ (tget {} (b.spd p).windows (b.spd p).ctx).basePage + (tget {} (b.spd p).windows (b.spd p).ctx).pages)
    (hsize : 0 < bits w 50 40) (howners : 8 ≤ bits w 57 52) (hfree : (tget {} (b.spd p).handles (bits w 63 58)).state = .free)
    (hmeet : ∀ k ∈ (b.spd p).handles, k.2.state = .free ∨ pagesMeet (bits w 74 64) (bits w 50 40) k.2.basePage k.2.sizePages = false) :
    effHalloc m b p q spec = .ok ((b.forgetRange p (bits w 74 64 * 4096, bits w 50 40 * 4096)).modSpd p fun z => { z with
      handles := tset z.handles (bits w 63 58) { state := .live, context := (b.spd p).ctx, owners := bits w 57 52, prefetch := bit w 51
                                                 sizePages := bits w 50 40, basePage := bits w 74 64 } }) := by
  subst hw
  have howner : ∀ x : Fin 64, 8 ≤ x.val → x.val &&& 0b111000 ≠ 0 := by decide
  have hbits : bits q.w.toNat 57 52 < 64 := by
    unfold bits
    omega
  have hnone (st : HandleState) (hst : st ≠ .free) : ((b.spd p).handles.any fun x =>
      x.2.state == st && pagesMeet (bits q.w.toNat 74 64) (bits q.w.toNat 50 40) x.2.basePage x.2.sizePages) = false := by
    rw [List.any_eq_false]
    intro k hk
    rcases hmeet k hk with h | h
    · simp [h, hst.symm]
    · simp [h]
  unfold effHalloc
  dsimp only
  rw [if_neg (by simp only [not_or, not_lt]; exact ⟨hlo, hhi, hbase, hend, by omega⟩),
    if_neg (by simp only [not_or]; exact ⟨by omega, howner ⟨_, hbits⟩ howners, by rw [hfree]; decide⟩),
    if_neg (by rw [hnone .live (by decide)]; decide), if_neg (by rw [hnone .freeing (by decide), hfree]; decide)]

/-- A free by an owner of a live handle of the blank's context. -/
theorem effHfree_ok {eng : Engine} (hw : q.w.toNat = w) :
    let e := tget {} (b.spd p).handles (bits w 63 58)
    e.state = .live → e.context = (b.spd p).ctx → bit e.owners (ownerOf eng) = true →
    effHfree eng m b p q spec = .ok (b.modSpd p fun z => { z with handles := tset z.handles (bits w 63 58) { e with state := .freeing, freeIdx := q.idx } }) := by
  intro e hl hc ho
  subst hw
  unfold effHfree
  dsimp only
  rw [if_neg (by simp only [not_or, not_not]; exact ⟨hl, hc⟩), if_neg (by rw [ho]; decide)]

/-- The entry of a handle that is being freed, while no older command names a range in it. -/
theorem handleFreed_ends {h : Nat} (hf : (tget {} (b.spd p).handles h).state = .freeing)
    (hq : ∀ e, ∀ q ∈ (b.spd p).queue e, (tget {} (b.spd p).handles h).freeIdx ≤ q.idx ∨ q.completed = true ∨ b.namesHandle m p h q = false) :
    b.handleFreed m p h = b.setSpd p { b.spd p with handles := tdel (b.spd p).handles h } := by
  have hnone : (engines.any fun g => ((b.spd p).queue g).any fun q =>
      decide (q.idx < (tget {} (b.spd p).handles h).freeIdx) && !q.completed && b.namesHandle m p h q) = false := by
    simp only [List.any_eq_false]
    intro e _ heq
    rw [List.any_eq_true] at heq
    obtain ⟨q, hm, hx⟩ := heq
    rcases hq e q hm with h | h | h
    · simp [Nat.not_lt.mpr h] at hx
    · simp [h] at hx
    · simp [h] at hx
  exact if_pos ⟨hf, by rw [hnone]; rfl⟩

/-- The same while one does. -/
theorem handleFreed_waits {h : Nat} {e : Engine} (hm : q ∈ (b.spd p).queue e) (hi : q.idx < (tget {} (b.spd p).handles h).freeIdx)
    (hc : q.completed = false) (hn : b.namesHandle m p h q = true) : b.handleFreed m p h = b := by
  have hsome : (engines.any fun g => ((b.spd p).queue g).any fun q =>
      decide (q.idx < (tget {} (b.spd p).handles h).freeIdx) && !q.completed && b.namesHandle m p h q) = true := by
    refine List.any_eq_true.mpr ⟨e, by cases e <;> decide, List.any_eq_true.mpr ⟨q, hm, ?_⟩⟩
    simp [hi, hc, hn]
  exact if_neg fun hx => by rw [hsome] at hx; exact absurd hx.2 (by decide)

end

theorem forgetRange_modSpd_stalled (b : Block) (p : Nat) (r : Nat × Nat) (f : Spindle → Spindle) :
    ((b.forgetRange p r).modSpd p f).stalled = b.stalled := rfl

/-- A free is carried out as it begins. -/
theorem hfree_gives {i : Instr} {p : Spd} {op : Nat} {w : W120} {s : State} {o : OpSpec}
    (hi : exec i s = nextOf s (s.blk.issueEng s.dram p op w)) (hlt : op < 256) (ho : opSpec op = some o) (hf : o.eff = effHfree o.eng) :
    let spd := s.blk.spd p
    let x := mkWord op w
    let e := tget {} spd.handles (bits x 63 58)
    s.blk.startsNow p o x = true → e.state = .live → e.context = spd.ctx → bit e.owners (ownerOf o.eng) = true →
    Gives i s (((s.blk.opened p o x).modSpd p fun z => { z with
      handles := tset z.handles (bits x 63 58) { e with state := .freeing, freeIdx := spd.nextIdx } }).carried p o (spd.newCmd o x)) := by
  intro spd x e hs hl hc howns
  have hb : SameBlank p s.blk (s.blk.opened p o x) := SameBlank.opened ..
  refine startsNow_done hi hlt ho hs ?_ rfl
  rw [hf]
  have h := effHfree_ok (m := s.dram) (spec := false) (b := s.blk.opened p o x) (p := p) (q := { spd.newCmd o x with begun := true }) (eng := o.eng)
    (word_toNat hlt w)
  rw [hb.handles, hb.ctx_eq] at h
  exact h hl hc howns

/-- Settles O17: HALLOC and the frees are carried out as they begin, and an entry becomes free behind the commands that name it. -/
theorem handleWords : Obligations.HandleWords := by
  intro p w s spd
  refine ⟨?halloc, ?frees, ?freed⟩
  case halloc =>
    intro x q b hs
    have hb : SameBlank p s.blk b := SameBlank.opened ..
    have h := effHalloc_ok (m := s.dram) (spec := false) (b := b) (p := p) (q := { q with begun := true }) (word_toNat (by decide) w)
    rw [hb.handles, hb.ctx_eq, hb.windows] at h
    intro hlo hhi hbase hend hsize howners hfree hmeet
    exact startsNow_done rfl (by decide) rfl hs (h hlo hhi hbase hend hsize howners hfree hmeet) (forgetRange_modSpd_stalled ..)
  case frees =>
    simp only [List.forall_mem_cons]
    exact ⟨hfree_gives rfl (by decide) rfl rfl, hfree_gives rfl (by decide) rfl rfl, hfree_gives rfl (by decide) rfl rfl, nofun⟩
  case freed =>
    intro h hf
    exact ⟨fun hq => gives rfl (handleFreed_ends hf hq), fun e q hm hi hc hn => gives rfl (handleFreed_waits hm hi hc hn)⟩

end Sys2Proof.Proofs
end

section
/-!
SUPPORT. Tile words on sound descriptors (R81, R83, R105, R174, R178).
-/
namespace Sys2Proof.Proofs
open Sys2Proof.Machine Sys2Proof.Claims

/-- A word that begins at once and whose operation goes on through later events. -/
theorem startsNow_runs {i : Instr} {p : Spd} {op : Nat} {w : W120} {s : State} {o : OpSpec} {b' : Block}
    (hi : exec i s = nextOf s (s.blk.issueEng s.dram p op w)) (hlt : op < 256) (ho : opSpec op = some o) (h : s.blk.startsNow p o (mkWord op w) = true)
    (he : o.eff s.dram (s.blk.opened p o (mkWord op w)) p { (s.blk.spd p).newCmd o (mkWord op w) with begun := true } false = .run b') :
    Served i s (b'.modCmd p o.eng ((s.blk.spd p).newCmd o (mkWord op w)).idx fun z => { z with resume := false }) :=
  (startsNow_outcomes hi hlt ho h b').2.1 he

/-- A word that begins at once passes its operation's own checks. -/
theorem startsNow_sound {b : Block} {p : Nat} {o : OpSpec} {w : Nat} (h : b.startsNow p o w = true) : o.bad w = false := by
  simp only [Block.startsNow, Block.canQueue, Bool.and_eq_true, Bool.not_eq_true'] at h
  exact h.1.1.1.1.2

/-- A sound tile word names an aligned descriptor. -/
theorem tileWord_aligned {w : Nat} (h : tileWordBad w = false) : bits w 55 32 % 128 = 0 := by
  simp only [tileWordBad, Bool.or_eq_false_iff, bne_eq_false_iff_eq] at h
  exact h.2

section
variable {m : Dram} {b : Block} {p : Nat} {q : QCmd} {w : Nat} {d : TDesc} {n : Nest}

theorem effMtile_ok {spec : Bool} (hw : q.w.toNat = w) (h : loadTile b p q.idx (bits w 55 32) (fun _ _ => []) (fun _ => false) = .ok (d, n)) :
    effMtile m b p q spec = .run (b.startJob m p q 0 d n []) := by
  subst hw
  unfold effMtile
  rw [h]

theorem effRtile_ok {spec : Bool} (hw : q.w.toNat = w) (halign : bits w 55 32 % 128 = 0) :
    let a := bits w 55 32
    let v := (b.spd p).asOf q.idx
    let d := tileDescOf (leNat (v.peek a 128))
    inSpad a 128 = true → v.readOk v.ctx a 128 = none → rtileBad d = false → tileBad { d with drainMode := drainNowhere } (nestOf 0) = false →
    firstBad ((operandRanges d 0 ++ maskRange d 0 d.k d.n).map fun r => v.readOk v.ctx r.addr r.len) = none →
    effRtile m b p q spec = .run (b.startJob m p q 1 d (nestOf 0) []) := by
  intro a v d hin hread hrt htile hranges
  subst hw
  unfold effRtile
  dsimp only
  rw [if_neg (by simp only [not_or, not_not]; exact ⟨halign, by rw [hin]; decide⟩), hread]
  dsimp only
  rw [if_neg (by simp only [not_or]; exact ⟨by rw [hrt]; decide, by rw [htile]; decide⟩), hranges]

theorem effFtile_ok {spec : Bool} {ms : List Byte × Block} (hw : q.w.toNat = w) (hms : b.engRead p q (ftMarkAddr w) (markBytes d n w) = ms) :
    let h := leNat ((b.spd p).peek (ftHacc w) 64)
    (ftHash w = true → haccOpen (b.spd p) h = true ∧ bit h 1 = false ∧ bits h 319 304 ≤ ftPart w) →
    loadTile b p q.idx (bits w 55 32) (ftileRanges w) (ftileBad w) (hashView w) = .ok (d, n) →
    effFtile m b p q spec = .run (ms.2.startJob m p q 2 d n ms.1) := by
  intro h hh hload
  subst hw hms
  unfold effFtile
  dsimp only
  rw [hload]
  refine if_neg ?_
  rintro ⟨hhash, hbad⟩
  obtain ⟨hopen, hdone, hpart⟩ := hh hhash
  rcases hbad with hbad | hbad | hbad
  · rw [hopen] at hbad
    cases hbad
  · rw [hdone] at hbad
    cases hbad
  · exact absurd hbad (Nat.not_lt.mpr hpart)

theorem effLdt_ok {ds ns : List Byte × Block} (hw : q.w.toNat = w) (hds : b.engRead p q (bits w 55 32) 128 = ds)
    (hns : ds.2.engRead p q d.nestAddr 128 = ns) :
    let a := bits w 55 32
    let v := (b.spd p).asOf q.idx
    let ws := [0, n.bufOffset].flatMap fun o => (operandRanges d o).map fun r => (r.addr, r.len)
    loadTile b p q.idx a (fun _ _ => []) (fun d => !d.nestEn) = .ok (d, n) →
    (∀ r ∈ ws, overlap r.1 r.2 a 128 = false ∧ overlap r.1 r.2 d.nestAddr 128 = false) →
    firstBad (ws.map fun r => v.writeOk v.ctx (ownerOf .load) r.1 r.2) = none →
    effLdt m b p q false = .run ((ns.2.modSpd p fun z => { z with ldt := some { idx := q.idx, desc := BitVec.ofNat 1024 (leNat ds.1), nest := BitVec.ofNat 1024 (leNat ns.1), visit := 0 } }).ldtPump m p) := by
  intro a v ws hload hapart hranges
  subst hw hds hns
  have hover : (ws.any fun r => overlap r.1 r.2 a 128 || overlap r.1 r.2 d.nestAddr 128) = false := by
    rw [List.any_eq_false]
    intro r hr
    simp [hapart r hr]
  unfold effLdt
  dsimp only
  rw [hload]
  dsimp only
  rw [if_neg (by rw [hover]; decide), if_neg (by simp), hranges]

end

/-- Settles O19: each tile word begins at once and starts its job, or its visits. -/
theorem tileWordsStartJobs : Obligations.TileWordsStartJobs := by
  intro p w s d n spd going
  refine ⟨?mtile, ?rtile, ?ftile, ?ldt⟩
  case mtile =>
    intro x q b hs hload
    exact startsNow_runs rfl (by decide) rfl hs (effMtile_ok (spec := false) (q := q) (word_toNat (by decide) w) hload)
  case rtile =>
    intro x q b a v d hs hin hread hrt htile hranges
    exact startsNow_runs rfl (by decide) rfl hs
      (effRtile_ok (spec := false) (q := q) (word_toNat (by decide) w) (tileWord_aligned (startsNow_sound hs)) hin hread hrt htile hranges)
  case ftile =>
    intro x q b h ms hs hh hload
    exact startsNow_runs rfl (by decide) rfl hs (effFtile_ok (spec := false) (q := q) (ms := ms) (word_toNat (by decide) w) rfl hh hload)
  case ldt =>
    intro x q b a v ws ds ns hs hload hapart hranges
    have hw : q.w.toNat = x := word_toNat (by decide) w
    have key := effLdt_ok (m := s.dram) (b := b) (p := p) (q := q) (ds := ds) (ns := ns) hw rfl rfl hload hapart hranges
    clear_value ds ns
    refine startsNow_runs rfl (by decide) rfl hs ?_
    change effLdt s.dram _ _ _ false = _
    exact key

end Sys2Proof.Proofs
end

section
/-!
SUPPORT. Halting, spindle reset, registers, management and JTAG (R18, R70, R373, R395, R397).
-/
namespace Sys2Proof.Proofs
open Sys2Proof.Machine Sys2Proof.Claims

/-! ### Accesses to a tile's registers -/

section
variable {b : Block} {who : Initiator}

/-- The headstock, and JTAG where nothing holds it off, reach a tile that is on. -/
theorem asTile_reaches {t : Nat} {f : Block → Block} (hu : b.hubUp = true) (ht : (b.tile t).powered = true) (hw : mayAccess b who) :
    b.asTile who t f = f b := by
  have hf : (if (b.tile t).powered then f b else b.answer .domainOff) = f b := if_pos ht
  rcases hw with rfl | ⟨rfl, hj⟩
  · exact (if_neg (by simp [hu])).trans hf
  · exact (if_neg (by simp [hu])).trans ((if_neg (by simp [hj])).trans hf)

/-- What the others get. -/
theorem asTile_refuses {p : Nat} {b' : Block} {f : Block → Block} (h : ctlRefusal b who p = some b') : b.asTile who (tileOf p) f = b' := by
  unfold ctlRefusal at h
  unfold Block.asTile Block.asAdmin
  by_cases hu : b.hubUp = true
  case neg =>
    rw [if_pos (.inl (by simpa using hu))] at h
    cases h
    exact if_pos (by simpa using hu)
  case pos =>
    rw [if_neg (by simp [hu])]
    cases who with
    | headstock =>
      simp only [hu, Bool.true_eq_false, reduceCtorEq, false_and, or_self, if_false, ne_eq, not_true_eq_false] at h
      split at h
      · next hoff =>
        cases h
        exact if_neg (by simp [hoff])
      · cases h
    | jtag =>
      by_cases hj : b.jtagOff = true
      · rw [if_pos (.inr ⟨rfl, hj⟩)] at h
        cases h
        exact if_pos hj
      · simp only [hu, hj, Bool.true_eq_false, reduceCtorEq, and_false, or_self, if_false, ne_eq, not_true_eq_false] at h
        split at h
        · next hoff =>
          cases h
          exact (if_neg hj).trans (if_neg (by simp [hoff]))
        · cases h
    | _ =>
      simp only [hu, Bool.true_eq_false, reduceCtorEq, false_and, or_self, if_false, ne_eq, not_false_eq_true, and_self, if_true] at h
      cases h
      rfl

end

/-! ### Halting -/

section
variable {m : Dram} {b : Block} {p : Nat}

/-- A wait of a sequencer that halts gives up its polls (R70). -/
theorem seqHalt_swait {w : Wait} (hc : b.clocked = true) (hr : (b.spd p).haltReq = true) (hh : (b.spd p).halted = false) (hd : (b.spd p).drained = true)
    (hw : (b.spd p).hold = .swait w) : b.seqHalt p = b.setSpd p { b.spd p with halted := true, hold := .none, pc := w.pc } := by
  refine (if_neg (by simp [hc, hr, hh, hd])).trans ?_
  split
  · next x hx =>
    cases hw.symm.trans hx
    rfl
  · next hx => cases hw.symm.trans hx
  · next hx _ => exact absurd hw (hx w)

theorem seqHalt_fence {mask idx : Nat} {memory : Bool} (hw : (b.spd p).hold = .fence mask memory idx) : b.seqHalt p = b := by
  unfold Block.seqHalt
  dsimp only
  split
  · rfl
  · split
    · next hx => cases hw.symm.trans hx
    · rfl
    · next hx => exact absurd hw (hx mask memory idx)

theorem seqHalt_other (hc : b.clocked = true) (hr : (b.spd p).haltReq = true) (hh : (b.spd p).halted = false) (hd : (b.spd p).drained = true)
    (h1 : ∀ w, (b.spd p).hold ≠ .swait w) (h2 : ∀ mask memory idx, (b.spd p).hold ≠ .fence mask memory idx) :
    b.seqHalt p = b.setSpd p { b.spd p with halted := true } := by
  refine (if_neg (by simp [hc, hr, hh, hd])).trans ?_
  split
  · next w hx => exact absurd hx (h1 w)
  · next mask memory idx hx => exact absurd hx (h2 mask memory idx)
  · rfl

theorem seqHalt_waits (hd : (b.spd p).drained = false) : b.seqHalt p = b := if_pos (by simp [hd])

/-! ### Spindle reset -/

/-- After a blank's end the spindle has no blank. -/
theorem blankEnd_cur (b : Block) (p : Nat) (st : Status) (info : Nat) : ((b.blankEnd p st info).spd p).cur = none := by
  cases h : (b.spd p).cur with
  | none =>
    unfold Block.blankEnd
    simp only [h]
  | some k =>
    rw [blankEnd_spd h]
    rfl

theorem resetStart_resetting (hf : (b.spd p).faulted = false) (hr : (b.spd p).resetting = true) : b.resetStart m p = b :=
  (if_neg (by simp [hf])).trans (if_pos (by simp [hr]))

/-- The spindle `s` when its reset is done; `tag` numbers what its memories hold (R373). -/
def resetSpd (s : Spindle) (tag : Nat) : Spindle :=
  { s with
    resetting := false, handles := [], flags := [], credit := 0, creditUnderflow := false
    faultStatus := 0, faultOpcode := 0, faultPc := 0, haltReq := false, halted := false, debugEn := false, gbuf := []
    spad := { undef := [(0, 0x600000, tag)] }, bowl := { undef := [(0, 0x100000, tag + 1)] } }

theorem resetDone_eq (hr : (b.spd p).resetting = true) (hu : b.hubUp = true) :
    b.resetDone p = (b.bumpFree.bumpFree.setSpd p (resetSpd (b.spd p) b.freshTag)).finishParked 0
      (resetOf ((b.bumpFree.bumpFree.setSpd p (resetSpd (b.spd p) b.freshTag)).logicalOf p)) .success := if_neg (by simp [hr, hu])

/-- A reset that starts leaves the spindle with no blank and its prefetched slot empty. -/
theorem resetStart_empties (hf : (b.spd p).faulted = false) (hr : (b.spd p).resetting = false) (hi : (b.spd p).inService = true) :
    ((b.resetStart m p).spd p).cur = none ∧ ((b.resetStart m p).spd p).pre = none := by
  unfold Block.resetStart
  dsimp only
  rw [if_neg (by simp [hf]), if_neg (by simp [hr, hi])]
  have hcur := blankEnd_cur ((b.modSpd p fun s => { s with resetting := true, resetDue := false }).settleSpindle m p) p .spindleFault 0
  generalize (((b.modSpd p fun s => { s with resetting := true, resetDue := false }).settleSpindle m p).blankEnd p .spindleFault 0) = x at hcur
  cases hp : (x.spd p).pre with
  | none => exact ⟨hcur, hp⟩
  | some k =>
    simp only [Block.requeue, setRack_spd, Block.modSpd_spd]
    exact ⟨hcur, trivial⟩

end

/-- A memory of one unspecified range reads as its free bytes. -/
theorem byte_undef {n tag a : Nat} (h : a < n) : Ram.byte { undef := [(0, n, tag)] } a = Config.freeByte tag a := by
  simp [Ram.byte, tfind, h]

/-- Settles O20: halting, resume, debug enable and spindle reset, by who asks and by what the spindle is doing. -/
theorem haltingAndSpindleReset : Obligations.HaltingAndSpindleReset := by
  refine ⟨?access, ?halts, ?commands, ?starts, ?done⟩
  case access =>
    intro who p on s b spd ok
    refine ⟨fun hu ht hw => ?_, fun b' h => ?_⟩
    · exact ⟨gives rfl (asTile_reaches hu ht hw), gives rfl (asTile_reaches hu ht hw), gives rfl (asTile_reaches hu ht hw),
        gives rfl (asTile_reaches hu ht hw)⟩
    · exact ⟨gives rfl (asTile_refuses h), gives rfl (asTile_refuses h), gives rfl (asTile_refuses h), gives rfl (asTile_refuses h)⟩
  case halts =>
    intro p s b spd hc hr hh
    exact ⟨fun hd => ⟨fun w hw => gives rfl (seqHalt_swait hc hr hh hd hw), fun mask memory idx hw => gives rfl (seqHalt_fence hw),
      fun h1 h2 => gives rfl (seqHalt_other hc hr hh hd h1 h2)⟩, fun hd => gives rfl (seqHalt_waits hd)⟩
  case commands =>
    intro r e s c h b1
    refine ⟨fun hl => ?_, fun hl hi => ?_, fun hl hi => ?_⟩
    · exact gives rfl (startCmd_done h (if_pos hl))
    · exact gives rfl (startCmd_done h ((if_neg (Nat.not_lt.mpr hl)).trans (if_pos hi)))
    · exact gives rfl (startCmd_parked h ((if_neg (Nat.not_lt.mpr hl)).trans (if_neg (by rw [hi]; decide))))
  case starts =>
    intro p m b spd b'
    refine ⟨fun hf => if_pos hf, fun hf hr => ?_, fun hf hr hi => resetStart_empties hf hr hi⟩
    exact resetStart_resetting hf hr
  case done =>
    intro p s b spd hr hu
    refine ⟨_, gives rfl (resetDone_eq hr hu), ?_⟩
    exact ⟨rfl, rfl, rfl, rfl, rfl, rfl, rfl, rfl, rfl, rfl, rfl, rfl, fun a ha => byte_undef ha, fun a ha => byte_undef ha, rfl, rfl, rfl, rfl, rfl, rfl⟩

/-! ### Management and JTAG -/

section
variable {b : Block} {msg : List Byte}

/-- A management message is answered while its transport is up (R395). -/
theorem mctp_pcie_up (hp : b.perst = false) (hw : b.power = .a0 ∨ b.power = .a1 ∨ b.power = .a2) (hl : b.pcieWidth ≠ 0) :
    b.mctp true msg = { b.bumpFree with mctpOut := b.mctpOut ++ Config.mctpAnswer b.freeCtr true msg } :=
  if_pos (by simp [hp, hl, hw, or_assoc])

theorem mctp_pcie_down (h : b.perst = true ∨ b.pcieWidth = 0) : b.mctp true msg = b := by
  refine if_neg ?_
  rcases h with h | h <;> simp [h]

end

/-- Settles O22: SMBus, MCTP and JTAG, each by the state of its transport. -/
theorem managementAndJtag : Obligations.ManagementAndJtag := by
  constructor
  case left =>
    intro s msg b answered
    refine ⟨fun h => gives rfl (if_pos h), fun h => gives rfl (if_neg (by rw [h]; decide)), fun h => ?_, fun h => ?_, fun hp hw hl => ?_, fun h => ?_⟩
    · exact gives rfl (if_pos (by simpa using h))
    · exact gives rfl (if_neg (by simpa using h))
    · exact gives rfl (mctp_pcie_up hp hw hl)
    · exact gives rfl (mctp_pcie_down h)
  case right =>
    intro s j low
    refine ⟨rfl, fun h => gives rfl (if_pos (.inl h)), fun h hp => ⟨gives rfl (if_neg (by simp [h, hp])), gives rfl (if_neg (by simp [h, hp]))⟩⟩

/-! ### Registers and the debug window -/

/-- A block in service with the channels `l`. -/
def servedBy (l : List Nat) : Block := { perst := false, ready := true, bootStage := 4, inservice := l }

/-- With so many channels in service that every local address lies below the top of HBM, the debug window's addresses do. -/
theorem servedBy_region {l : List Nat} (h : l.length = 0x20000) : (servedBy l).region 0xF80000000001 = .hbm := by
  have htop : (servedBy l).hbmTop = l.length * 2 ^ 31 := if_neg Bool.false_ne_true
  rw [Block.region, htop, h]
  exact if_pos (by decide)

/-- An access of the debug window then finds none there. -/
theorem debugAt_unmapped {b : Block} {a size : Nat} {wr : Option Word64} (h : b.region a ≠ .debug) : b.debugAt a size wr = b.answer .addressUnmapped := if_pos h

theorem exec_debugAccess {b : Block} (a : Word64) (size : Nat) (wr : Option Word64) (hu : b.hubUp = true) :
    exec (.debugAccess .headstock a size wr) { pending := [], dram := {}, blk := b } =
      nextOf { pending := [], dram := {}, blk := b } (b.debugAt a.toNat size wr) := congrArg (nextOf _) (if_neg (by simp [hu]))

theorem servedBy_unmapped {l : List Nat} (h : l.length = 0x20000) :
    answered (fun b => b.resp.status) (.debugAccess .headstock 0xF80000000001 8 none) { pending := [], dram := {}, blk := servedBy l } =
      some .addressUnmapped := by
  have ha : (0xF80000000001 : Word64).toNat = 0xF80000000001 := by simp
  have hx : (servedBy l).debugAt (0xF80000000001 : Word64).toNat 8 none = (servedBy l).answer .addressUnmapped := by
    rw [ha]
    exact debugAt_unmapped (by rw [servedBy_region h]; decide)
  exact answered_of_gives (gives (exec_debugAccess _ _ _ rfl) hx) rfl

theorem debugClaim_fails {l : List Nat} (hl : l.length = 0x20000) : ¬ Obligations.RegisterAndDebugAccess := by
  intro h
  have hclaim := (h.2 0 1 0 { pending := [], dram := {}, blk := servedBy l } rfl (by decide)).2.1 (by decide)
  have hst := (answered_of_gives (f := fun b => b.resp.status) hclaim rfl).symm.trans (servedBy_unmapped hl)
  cases hst

/-- Refutes O21: with so many channels in service an unaligned access of the debug window is answered ADDRESS_UNMAPPED and not
INVALID_FIELD. -/
theorem not_registerAndDebugAccess : ¬ Obligations.RegisterAndDebugAccess := debugClaim_fails (l := List.replicate 0x20000 0) List.length_replicate

end Sys2Proof.Proofs
end

section
/-!
SUPPORT. Reset values, on-chip bytes, the gathering and write-combining buffers and the die cache (R94, R97, R109, R113, R242, R243).
-/
namespace Sys2Proof.Proofs
open Sys2Proof.Machine Sys2Proof.Claims

/-! ### Reset -/

/-- Settles O27: each register at its initial value. -/
theorem resetState : Obligations.ResetState := by
  refine ⟨⟨rfl, rfl, fun _ => rfl, fun _ => rfl⟩, ?_⟩
  intro b
  refine ⟨rfl, rfl, rfl, rfl, rfl, rfl, rfl, rfl, rfl, rfl, rfl, rfl, rfl, rfl, rfl, rfl, rfl, rfl, rfl, rfl, rfl, rfl, rfl, rfl, rfl, rfl, rfl,
    rfl, rfl, ?spindles, fun _ => ⟨rfl, rfl, rfl, rfl⟩, fun _ => ⟨rfl, rfl, rfl, rfl, rfl⟩, fun _ => ⟨rfl, rfl, rfl, rfl⟩, fun _ => ⟨rfl, rfl, rfl⟩⟩
  intro p _
  refine ⟨fun r => ite_self _, fun _ => rfl, rfl, rfl, rfl, rfl, rfl, rfl, rfl, ?_, ?_⟩
  · exact decide_eq_true_iff
  · exact decide_eq_true_iff

/-! ### Bytes of scratchpad and bowl -/

/-- The tag of the first unspecified range that holds an address. -/
def undefTag (u : List (Nat × Nat × Nat)) (a : Nat) : Option Nat := (u.find? fun x => decide (x.1 ≤ a) && decide (a < x.2.1)).map (·.2.2)

/-- A byte of a memory in canonical form: what was written there, or what an unspecified range gives. -/
theorem byte_eq {r : Ram} (h : tabWf 0 r.mem = true) (a : Nat) :
    r.byte a = if tget 0 r.mem a = 0 then ((undefTag r.undef a).map fun tag => Config.freeByte tag a).getD 0 else tget 0 r.mem a := by
  unfold Ram.byte
  cases hf : tfind r.mem a with
  | none =>
    rw [if_pos (by rw [tget, hf]; rfl), undefTag]
    cases r.undef.find? fun x => decide (x.1 ≤ a) && decide (a < x.2.1) <;> rfl
  | some v =>
    have hv : v ≠ 0 := fun hv => tfind_ne_default 0 h (hv ▸ hf)
    have hg : tget 0 r.mem a = v := by rw [tget, hf]; rfl
    rw [hg, if_neg hv]

theorem undefTag_append (u v : List (Nat × Nat × Nat)) (a : Nat) : undefTag (u ++ v) a = (undefTag u a).or (undefTag v a) := by
  unfold undefTag
  rw [List.find?_append]
  cases u.find? fun x => decide (x.1 ≤ a) && decide (a < x.2.1) <;> rfl

theorem undefTag_cons (l e t : Nat) (u : List (Nat × Nat × Nat)) (a : Nat) :
    undefTag ((l, e, t) :: u) a = if l ≤ a ∧ a < e then some t else undefTag u a := by
  unfold undefTag
  by_cases h : l ≤ a ∧ a < e
  · simp [h]
  · rw [if_neg h, List.find?_cons_of_neg]
    simpa using h

/-- A range that is kept only where it is not empty holds the same addresses. -/
theorem undefTag_keep (l e t a : Nat) : undefTag (if l < e then [(l, e, t)] else []) a = if l ≤ a ∧ a < e then some t else none := by
  split
  · exact undefTag_cons l e t [] a
  · rw [if_neg (by omega)]
    rfl

/-- Cutting a range out of the unspecified ones leaves what lies outside it, and nothing inside. -/
theorem undefTag_cut (lo hi a : Nat) (u : List (Nat × Nat × Nat)) : undefTag (cutUndef lo hi u) a = if lo ≤ a ∧ a < hi then none else undefTag u a := by
  induction u with
  | nil => exact (ite_self _).symm
  | cons x u ih =>
    obtain ⟨l, e, t⟩ := x
    rw [cutUndef, undefTag_append, undefTag_cons, ih]
    by_cases hout : hi ≤ l ∨ e ≤ lo
    · rw [if_pos hout, undefTag_cons]
      by_cases hx : lo ≤ a ∧ a < hi
      · rw [if_pos hx, if_pos hx, if_neg (by omega)]
        rfl
      · rw [if_neg hx, if_neg hx]
        split <;> rfl
    · rw [if_neg hout, undefTag_append, undefTag_keep, undefTag_keep]
      have hleft : (l ≤ a ∧ a < min e lo) ↔ (l ≤ a ∧ a < e) ∧ a < lo := by omega
      have hright : (max l hi ≤ a ∧ a < e) ↔ (l ≤ a ∧ a < e) ∧ hi ≤ a := by omega
      simp only [hleft, hright]
      by_cases hin : l ≤ a ∧ a < e
      · by_cases hlo : a < lo
        · simp [hin, hlo]
        · by_cases hhi : hi ≤ a
          · simp [hin, hlo, hhi]
          · simp [hin, hlo, hhi, Nat.le_of_not_lt hlo, Nat.lt_of_not_le hhi]
      · simp [hin]

/-- Settles O25: byte by byte, inside the range written and outside it. -/
theorem scratchpadReadsLastWrite : Obligations.ScratchpadReadsLastWrite := by
  intro r a bs h
  have hwf : tabWf 0 (r.write a bs).mem = true := iter_tput_wf 0 bs.length r.mem (fun k => a + k) _ h
  refine ⟨fun x => ?_, hwf⟩
  have hget := tget_iter_tput 0 bs.length r.mem a (fun k => bs.getD k 0) h x
  have hcut := undefTag_cut a (a + bs.length) x r.undef
  rw [byte_eq hwf, byte_eq h, Ram.write, hget, hcut]
  by_cases hx : a ≤ x ∧ x < a + bs.length
  · simp only [if_pos hx]
    split
    · next h0 => exact h0.symm
    · rfl
  · simp only [if_neg hx]

/-! ### Buffers and the die cache -/

section
variable {m : Dram} {b : Block}

/-- An engine's write of memory while its blank runs. -/
theorem wcWrite_eq {p : Nat} {e : Engine} {a : Nat} {back : Bool} {bs : List Byte} (hr : b.runs p = true) (hd : bs ≠ [])
    (hm : b.inMemory a bs.length = true) : b.wcWrite m p e a back bs = b.tileWrite m p e back a bs := if_neg (by simp [hr, hd, hm])

theorem wcWrite_outside {p : Nat} {e : Engine} {a : Nat} {back : Bool} {bs : List Byte} (hm : b.inMemory a bs.length = false) :
    b.wcWrite m p e a back bs = b := if_pos (by simp [hm])

/-- The oldest fill, by what its set holds (R109, R113). -/
theorem dieCacheFill_eq {t : Nat} {g : Fill} {rest : List Fill} (hf : (b.tile t).fills = g :: rest) (hc : b.clocked = true) :
    b.dieCacheFill t =
      let b1 := b.modTile t fun tl => { tl with fills := rest }
      if (b.tile t).repartBusy = true ∨ (((b1.tile t).dcSet g.line).find g.line).isSome = true then b1
      else b1.dcInstall t { line := g.line, data := g.data } g.burl := by
  have hbusy : ((b.modTile t fun tl => { tl with fills := rest }).tile t).repartBusy = (b.tile t).repartBusy := by rw [Block.modTile_tile]
  unfold Block.dieCacheFill
  simp only [hf, hc, Bool.not_true, Bool.false_eq_true, if_false, hbusy, Bool.or_eq_true]

/-- A repartition that ends completes the TILE_CONFIG commands of its tile. -/
theorem repartDone_eq {t : Nat} (h : (b.tile t).repartBusy = true) :
    b.repartDone t = (b.setTile t { b.tile t with repartBusy := false }).finishParked 0
      (fun e => entOpcode e == 0x06 && bits e.toNat 199 192 == t) .success := by
  unfold Block.repartDone Block.finishParked
  rw [if_neg (by rw [h]; decide)]
  simp only [Bool.and_assoc]
  rfl

end

/-- Settles O24: each buffer and the die cache, by the model's own steps. -/
theorem buffersAndDieCache : Obligations.BuffersAndDieCache := by
  refine ⟨?gather, ?combine, ?fills, ?repart⟩
  case gather =>
    intro p e sector s spd idle hr
    obtain ⟨t, v, hspd⟩ := Block.modGb_spd s.blk p (fun x => x.commitWhere idle) 0 none
    refine ⟨_, gives rfl (if_pos hr), Block.modGb_only .., ?_⟩
    rw [hspd]
    unfold Spindle.commitWhere
    dsimp only
    split
    · next hnone =>
      rw [List.filter_eq_nil_iff] at hnone
      refine ⟨(List.filter_eq_self.mpr fun g hg => by simpa using hnone g hg).symm, ?_, rfl, rfl⟩
      rw [List.filter_eq_nil_iff.mpr hnone]
      rfl
    · exact ⟨rfl, rfl, rfl, rfl⟩
  case combine =>
    intro p t e a back data k s b
    refine ⟨fun hr hd hm => served rfl fun hst => orWait_eq (wcWrite_eq hr hd hm) hst, fun hr hm => gives rfl (orWait_same (wcWrite_outside hm)),
      fun x hc hk => ?_⟩
    have hexec : exec (.wcAgeFlush t k) s = nextOf s (b.orWait fun b => b.flushWhere s.dram t (· == x)) := by
      change nextOf s (match (b.tile t).wc[k]? with
        | some e => if b.clocked then b.orWait fun b => b.flushWhere s.dram t (· == e) else b
        | none => b) = _
      simp only [hk, hc, if_true]
    exact served hexec fun hst => orWait_eq rfl hst
  case fills =>
    intro t s g rest b b1 hf hc
    refine ⟨fun h => gives rfl ((dieCacheFill_eq hf hc).trans (if_pos h)), fun h1 h2 => gives rfl ((dieCacheFill_eq hf hc).trans (if_neg ?_))⟩
    rw [Option.isNone_iff_eq_none] at h2
    rintro (h | h)
    · exact Bool.false_ne_true (h1.symm.trans h)
    · exact Bool.false_ne_true ((congrArg Option.isSome h2).symm.trans h)
  case repart =>
    intro t s h
    exact gives rfl (repartDone_eq h)

end Sys2Proof.Proofs
end

section
/-!
SUPPORT. The bytes of a line of device memory: as a number, merged under a mask, and stored (R240, R403).
-/
namespace Sys2Proof.Proofs
open Sys2Proof.Machine Sys2Proof.Claims

/-! ### Numbers spelt by bytes -/

/-- Bits of a number spelt by bytes at rising positions. -/
theorem testBit_sum_bytes {β : Type} (pos : β → Nat) (val : β → Byte) {l : List β} (h : l.Pairwise fun x y => pos x < pos y) (i : Nat) :
    ((l.map fun e => (val e).toNat <<< (8 * pos e)).sum).testBit i = l.any fun e => pos e == i / 8 && (val e).getLsbD (i % 8) := by
  induction l with
  | nil => simp
  | cons x l ih =>
    rw [List.pairwise_cons] at h
    obtain ⟨hx, hl⟩ := h
    have hdvd : 2 ^ (8 * (pos x + 1)) ∣ (l.map fun e => (val e).toNat <<< (8 * pos e)).sum := by
      refine List.dvd_sum fun y hy => ?_
      obtain ⟨e, he, rfl⟩ := List.mem_map.mp hy
      rw [Nat.shiftLeft_eq]
      exact Dvd.dvd.mul_left (Nat.pow_dvd_pow 2 (Nat.mul_le_mul_left 8 (hx e he))) _
    have hlt : (val x).toNat <<< (8 * pos x) < 2 ^ (8 * (pos x + 1)) := by
      rw [Nat.shiftLeft_eq, Nat.mul_add, Nat.pow_add, Nat.mul_comm]
      exact Nat.mul_lt_mul_of_pos_left (val x).isLt (Nat.two_pow_pos _)
    have hhead : ((val x).toNat <<< (8 * pos x)).testBit i = (pos x == i / 8 && (val x).getLsbD (i % 8)) := by
      rw [Nat.testBit_shiftLeft, BitVec.testBit_toNat]
      by_cases hp : pos x = i / 8
      · rw [show i - 8 * pos x = i % 8 by omega]
        simp [hp, Nat.mul_div_le]
      · by_cases hi : 8 * pos x ≤ i
        · rw [BitVec.getLsbD_of_ge _ _ (by omega)]
          simp [hp]
        · simp [hp, hi]
    rw [List.map_cons, List.sum_cons, List.any_cons, ← ih hl, ← hhead]
    obtain ⟨a, ha⟩ := hdvd
    rw [ha, Nat.add_comm, Nat.two_pow_add_eq_or_of_lt hlt, Nat.testBit_or, Bool.or_comm]

/-- The keys of a canonical map rise. -/
theorem pairwise_of_tabWfFrom {α : Type} [DecidableEq α] {d : α} {lo : Nat} {t : Tab α} (h : tabWfFrom d lo t = true) :
    (∀ e ∈ t, lo ≤ e.1) ∧ t.Pairwise fun x y => x.1 < y.1 := by
  induction t generalizing lo with
  | nil => exact ⟨nofun, .nil⟩
  | cons e t ih =>
    obtain ⟨k, v⟩ := e
    simp only [tabWfFrom, Bool.and_eq_true, decide_eq_true_eq] at h
    obtain ⟨⟨hk, -⟩, ht⟩ := h
    obtain ⟨hlo, hp⟩ := ih ht
    refine ⟨fun e he => ?_, List.pairwise_cons.mpr ⟨fun e he => hlo e he, hp⟩⟩
    rcases List.mem_cons.mp he with rfl | he
    · exact hk
    · exact (Nat.le_succ_of_le hk).trans (hlo e he)

/-- What a map with rising keys lists. -/
theorem tfind_eq_some_iff {α : Type} {t : Tab α} (h : t.Pairwise fun x y => x.1 < y.1) (k : Nat) (v : α) : tfind t k = some v ↔ (k, v) ∈ t := by
  induction t with
  | nil => simp [tfind]
  | cons e t ih =>
    obtain ⟨k', v'⟩ := e
    rw [List.pairwise_cons] at h
    obtain ⟨he, ht⟩ := h
    rw [tfind_cons, List.mem_cons, ← ih ht]
    by_cases hk : k' = k
    · rw [if_pos hk]
      refine ⟨fun hv => .inl (by rw [← hk, Option.some.inj hv]), fun hv => ?_⟩
      rcases hv with hv | hv
      · rw [(Prod.mk.inj hv).2]
      · have hlt : k' < k := he _ ((ih ht).mp hv)
        omega
    · rw [if_neg hk]
      refine ⟨fun hv => .inr hv, fun hv => ?_⟩
      rcases hv with hv | hv
      · exact absurd (Prod.mk.inj hv).1.symm hk
      · exact hv

/-- A line's number as a sum over the bytes listed. -/
theorem tabNat_eq_sum (t : Tab Byte) (lo n : Nat) :
    tabNat t lo n = ((t.filter fun e => decide (lo ≤ e.1 ∧ e.1 < lo + n)).map fun e => e.2.toNat <<< (8 * (e.1 - lo))).sum := by
  have hacc (t : Tab Byte) (acc : Nat) : t.foldl (fun acc e => if lo ≤ e.1 ∧ e.1 < lo + n then acc + e.2.toNat <<< (8 * (e.1 - lo)) else acc) acc =
      acc + ((t.filter fun e => decide (lo ≤ e.1 ∧ e.1 < lo + n)).map fun e => e.2.toNat <<< (8 * (e.1 - lo))).sum := by
    induction t generalizing acc with
    | nil => rfl
    | cons e t ih =>
      rw [List.foldl_cons, ih]
      by_cases he : lo ≤ e.1 ∧ e.1 < lo + n
      · simp [he, Nat.add_assoc]
      · rw [if_neg he, List.filter_cons_of_neg (by simpa using he)]
  exact (hacc t 0).trans (Nat.zero_add _)

/-- Bits of a line's number. -/
theorem testBit_tabNat {t : Tab Byte} (h : tabWf 0 t = true) (lo n i : Nat) :
    (tabNat t lo n).testBit i = (decide (i / 8 < n) && (tget 0 t (lo + i / 8)).getLsbD (i % 8)) := by
  have hp := (pairwise_of_tabWfFrom h).2
  have hpos : (t.filter fun e => decide (lo ≤ e.1 ∧ e.1 < lo + n)).Pairwise fun x y => x.1 - lo < y.1 - lo := by
    refine (hp.filter _).imp_of_mem fun {x y} hx hy hxy => ?_
    have hx' := (List.mem_filter.mp hx).2
    simp only [decide_eq_true_eq] at hx'
    omega
  rw [tabNat_eq_sum, testBit_sum_bytes (fun e : Nat × Byte => e.1 - lo) (fun e => e.2) hpos, Bool.eq_iff_iff, List.any_eq_true]
  simp only [List.mem_filter, Bool.and_eq_true, decide_eq_true_eq, beq_iff_eq]
  constructor
  · rintro ⟨e, ⟨he, hlo⟩, hk, hb⟩
    have hf : tfind t (lo + i / 8) = some e.2 := (tfind_eq_some_iff hp _ _).mpr (by rw [← hk, Nat.add_sub_cancel' hlo.1]; exact he)
    exact ⟨by omega, by rw [tget, hf]; exact hb⟩
  · rintro ⟨hk, hb⟩
    cases hf : tfind t (lo + i / 8) with
    | none =>
      rw [tget, hf] at hb
      simp at hb
    | some v =>
      rw [tget, hf] at hb
      exact ⟨_, ⟨(tfind_eq_some_iff hp _ _).mp hf, by omega⟩, by omega, hb⟩

/-- A byte of a line's number is the byte listed. -/
theorem byte_tabNat {t : Tab Byte} (h : tabWf 0 t = true) {lo n j : Nat} (hj : j < n) :
    BitVec.ofNat 8 (tabNat t lo n >>> (8 * j)) = tget 0 t (lo + j) := by
  refine BitVec.eq_of_getLsbD_eq fun r hr => ?_
  rw [BitVec.getLsbD_ofNat, Nat.testBit_shiftRight, testBit_tabNat h]
  simp [hr, show (8 * j + r) / 8 = j by omega, show (8 * j + r) % 8 = r by omega, hj]

/-! ### Merging under a byte mask -/

theorem testBit_expandMask (mask i : Nat) : (expandMask mask).testBit i = (decide (i / 8 < 64) && bit mask (i / 8)) := by
  have hp : (bitList 64 mask).Pairwise fun x y => x < y := List.pairwise_lt_range.filter _
  have hsum : expandMask mask = ((bitList 64 mask).map fun k => (0xFF : Byte).toNat <<< (8 * k)).sum := by
    have hacc (l : List Nat) (acc : Nat) : l.foldl (fun acc k => acc + 0xFF <<< (8 * k)) acc =
        acc + (l.map fun k => (0xFF : Byte).toNat <<< (8 * k)).sum := by
      induction l generalizing acc with
      | nil => rfl
      | cons k l ih =>
        rw [List.foldl_cons, ih, List.map_cons, List.sum_cons, Nat.add_assoc]
        rfl
    exact (hacc _ 0).trans (Nat.zero_add _)
  have hones (r : Nat) (hr : r < 8) : (0xFF : Byte).getLsbD r = true := by
    interval_cases r <;> rfl
  rw [hsum, testBit_sum_bytes (fun k : Nat => k) (fun _ => 0xFF) hp, Bool.eq_iff_iff, List.any_eq_true]
  simp only [bitList, List.mem_filter, List.mem_range, Bool.and_eq_true, decide_eq_true_eq, beq_iff_eq, hones _ (Nat.mod_lt i (by decide)), and_true]
  constructor
  · rintro ⟨k, hk, rfl⟩
    exact hk
  · exact fun hk => ⟨_, hk, rfl⟩

/-- A byte of merged data is the new one where the mask has its bit. -/
theorem byte_mergeNat (old new mask : Nat) {j : Nat} (hj : j < 64) :
    BitVec.ofNat 8 (mergeNat old new mask >>> (8 * j)) = if bit mask j then BitVec.ofNat 8 (new >>> (8 * j)) else BitVec.ofNat 8 (old >>> (8 * j)) := by
  refine BitVec.eq_of_getLsbD_eq fun r hr => ?_
  have hbit : (expandMask mask).testBit (8 * j + r) = bit mask j := by
    rw [testBit_expandMask]
    simp [show (8 * j + r) / 8 = j by omega, hj]
  have hfull : (2 ^ 512 - 1).testBit (8 * j + r) = true := by
    rw [Nat.testBit_two_pow_sub_one]
    exact decide_eq_true (by omega)
  rw [BitVec.getLsbD_ofNat, Nat.testBit_shiftRight, mergeNat]
  simp only [Nat.testBit_or, Nat.testBit_and, Nat.testBit_xor, hbit, hfull]
  cases bit mask j
  · rw [if_neg Bool.false_ne_true, BitVec.getLsbD_ofNat, Nat.testBit_shiftRight]
    simp
  · rw [if_pos rfl, BitVec.getLsbD_ofNat, Nat.testBit_shiftRight]
    simp

/-! ### Lines in memory -/

section
variable {m : Dram}

/-- A byte of a line as the controller reads it. -/
theorem line_byte (h : m.wf = true) (key : Nat) {j : Nat} (hj : j < 64) :
    BitVec.ofNat 8 ((m.line key).data >>> (8 * j)) = tget 0 m.mem (key * 64 + j) := byte_tabNat (Dram.wf_mem h) hj

/-- A line stored as it was read. -/
theorem setLine_line_byte (h : m.wf = true) (key : Nat) (l : LineSt) (hl : l.data = (m.line key).data) (k : Nat) :
    tget 0 (m.setLine key l).mem k = tget 0 m.mem k := by
  rw [Dram.setLine_byte h]
  split
  · next hk =>
    rw [hl, line_byte h key (by omega), Nat.add_sub_cancel' hk.1]
  · rfl

/-- A write stores the bytes of its mask. -/
theorem serveLine_write_data (l : LineSt) {q : Req} (hq : q.kind = .write) :
    (serveLine false l q).1.data = mergeNat l.data q.data.toNat q.mask.toNat := by
  unfold serveLine
  simp only [hq, Bool.false_eq_true, if_false]
  split <;> rfl

/-- Its line stays poisoned unless the write is whole. -/
theorem serveLine_write_poisoned (l : LineSt) {q : Req} (hq : q.kind = .write) :
    (serveLine false l q).1.poisoned = (l.poisoned && q.mask.toNat != 2 ^ 64 - 1) := by
  unfold serveLine
  simp only [hq, Bool.false_eq_true, if_false]
  split
  · next hm => simp [hm, fullMask]
  · next hm =>
    have hne : (q.mask.toNat != 2 ^ 64 - 1) = true := bne_iff_ne.mpr hm
    rw [hne, Bool.and_true]

end

/-! ### Service -/

section
variable {m : Dram} {b : Block} {c : Nat} {q : Req} {rest : List Req}

/-- A controller that finds nothing changes nothing. -/
theorem findLine_clean (b : Block) (c line cause : Nat) (poisoned : Bool) : b.findLine c line cause poisoned .clean = (false, b) := by
  simp [Block.findLine]

/-- The line that a served request stores. -/
theorem chanServe_stores {found : LineFinding} (hs : (b.chan c).selfRefresh = false) (hq : (b.chan c).queue = q :: rest) (hf : (b.chan c).state ≠ .failed)
    (hk : q.kind = .mark ∨ found = .clean) :
    (chanServe m b c found).1 = m.setLine (memKey (b.place (64 * q.line)) / 64) (serveLine false (m.line (memKey (b.place (64 * q.line)) / 64)) q).1 := by
  unfold chanServe
  simp only [hs, hq, hf, Bool.false_eq_true, if_false]
  split
  · rfl
  · next hm =>
    obtain rfl := hk.resolve_left hm
    simp only [findLine_clean, Bool.or_false]
    rfl

end

/-- Settles O30: the line is merged under the mask, byte by byte. -/
theorem servedWriteStoresMaskedBytes : Obligations.ServedWriteStoresMaskedBytes := by
  intro ch s t q rest b line hwf hq hs hf hk he
  have hm : s.dram.wf = true := by
    simp only [State.wf, Bool.and_eq_true] at hwf
    exact hwf.1
  have hdram : t.dram = s.dram.setLine line (serveLine false (s.dram.line line) q).1 := by
    rw [← chanServe_stores (c := ch) hs hq hf (.inr rfl)]
    cases he
    rfl
  rw [hdram]
  refine ⟨fun k hkl => ?_, fun j hj => ?_, fun l hl => ?_, ?_⟩
  · rw [Dram.setLine_byte hm, if_neg (by omega)]
  · rw [Dram.setLine_byte hm, if_pos (by omega), show 64 * line + j - line * 64 = j by omega, serveLine_write_data _ hk, byte_mergeNat _ _ _ hj,
      line_byte hm line hj, Nat.mul_comm line 64]
  · rw [Dram.setLine_poison hm, if_neg hl]
  · rw [Dram.setLine_poison hm, if_pos rfl, serveLine_write_poisoned _ hk]
    rfl

end Sys2Proof.Proofs
end

section
/-!
SUPPORT. Channel controllers: acceptance, service, late outcomes, the patrol scrub and channel loss (R237 to R246).
-/
namespace Sys2Proof.Proofs
open Sys2Proof.Machine Sys2Proof.Claims

/-! ### What reporting leaves unchanged -/

/-- `b'` has the accepted requests and the registers of every channel of `b`, the cells, the connections and the map-out list; only traffic,
rings, the log and the requests on their way may differ. -/
structure Reports (b b' : Block) : Prop where
  chan : ∀ c, ∃ tr, b'.chan c = { b.chan c with transit := tr }
  cells : b'.cells = b.cells
  conns : b'.conns = b.conns
  mapOut : b'.store.mapOut = b.store.mapOut

namespace Reports
variable {a b c : Block}

theorem refl (b : Block) : Reports b b := ⟨fun _ => ⟨_, rfl⟩, rfl, rfl, rfl⟩

theorem trans (h : Reports a b) (k : Reports b c) : Reports a c := by
  refine ⟨fun x => ?_, k.cells.trans h.cells, k.conns.trans h.conns, k.mapOut.trans h.mapOut⟩
  obtain ⟨t, ht⟩ := h.chan x
  obtain ⟨u, hu⟩ := k.chan x
  exact ⟨u, by rw [hu, ht]⟩

theorem foldl {β : Type} {g : Block → β → Block} (h : ∀ b x, Reports b (g b x)) (l : List β) (b : Block) : Reports b (l.foldl g b) := by
  induction l generalizing b with
  | nil => exact refl b
  | cons x l ih => exact (h b x).trans (ih _)

/-- A change of fields that are no part of these. -/
theorem of_eq (hc : b.chans = a.chans) (h1 : b.cells = a.cells) (h2 : b.conns = a.conns) (h3 : b.store.mapOut = a.store.mapOut) : Reports a b :=
  ⟨fun x => ⟨(a.chan x).transit, by rw [Block.chan, hc]; rfl⟩, h1, h2, h3⟩

theorem countPort (b : Block) (p n : Nat) : Reports b (b.countPort p n) := by
  unfold Block.countPort
  split
  · exact refl b
  · exact of_eq rfl rfl rfl rfl

theorem countRoute (b : Block) (s d : Option Nat) (g n : Nat) : Reports b (b.countRoute s d g n) := foldl (fun b _ => countPort b _ _) _ b

theorem hostWrite (b : Block) (a : Nat) (bs : List Byte) : Reports b (b.hostWrite a bs) :=
  trans (b := { b with hostOut := b.hostOut ++ [(BitVec.ofNat 64 a, bs)] }) (of_eq rfl rfl rfl rfl) (countPort ..)

theorem send (b : Block) (q : Req) : Reports b (b.send q) := by
  refine ⟨fun x => ?_, rfl, rfl, rfl⟩
  by_cases hx : x = b.chanOf (64 * q.line)
  · subst hx
    exact ⟨_, Block.modChan_chan ..⟩
  · exact ⟨_, Block.modChan_chan_ne _ _ hx⟩

theorem hubWrite (b : Block) (a : Nat) (bs : List Byte) : Reports b (b.hubWrite a bs) := foldl (fun b _ => send b _) _ b

theorem setRing (b : Block) (r : Nat) (g : Ring) : Reports b (b.setRing r g) := of_eq rfl rfl rfl rfl
theorem raiseRing (b : Block) (r : Nat) : Reports b (b.raiseRing r) := of_eq rfl rfl rfl rfl

theorem writeCpl (b : Block) (r e : Nat) : Reports b (b.writeCpl r e) := by
  unfold Block.writeCpl
  dsimp only
  split
  · exact (setRing ..).trans (raiseRing ..)
  · exact (hostWrite ..).trans (setRing ..)

theorem drainEvents (b : Block) (r : Nat) : Reports b (b.drainEvents r) := by
  refine foldl (fun b _ => ?_) _ b
  dsimp only
  split
  · exact refl b
  · split
    · exact ((setRing ..).trans (writeCpl ..)).trans (raiseRing ..)
    · exact refl b

theorem postEvent (b : Block) (r c v : Nat) : Reports b (b.postEvent r c v) := by
  unfold Block.postEvent
  dsimp only
  split
  · exact (setRing ..).trans (drainEvents ..)
  · exact setRing ..

theorem logWrite (b : Block) (f : FaultRec) : Reports b (b.logWrite f) := by
  unfold Block.logWrite
  split
  · exact hubWrite ..
  · exact refl b

theorem enterRecord (b : Block) (f : FaultRec) : Reports b (b.enterRecord f) := by
  unfold Block.enterRecord
  dsimp only
  have hlog (t : Trace) (g : FaultRec) (n : Nat) : Reports b ((({ b with trace := t } : Block).logWrite g).postEvent 0 0x2005 n) :=
    ((of_eq (a := b) (b := { b with trace := t }) rfl rfl rfl rfl).trans (logWrite _ g)).trans (postEvent _ 0 0x2005 n)
  split
  · exact (hlog ..).trans (postEvent ..)
  · exact hlog ..

theorem record (b : Block) (f : FaultRec) : Reports b (b.record f) := by
  unfold Block.record Block.recordAt
  dsimp only
  split
  · exact enterRecord ..
  · exact (enterRecord ..).trans (of_eq rfl rfl rfl rfl)

theorem queue (h : Reports a b) (x : Nat) : (b.chan x).queue = (a.chan x).queue := by
  obtain ⟨tr, ht⟩ := h.chan x
  rw [ht]

end Reports

/-! ### What a controller finds -/

section
variable (b : Block) (c : Nat)

/-- The block with the channel's new state and its place in the map-out list. -/
def stateSet (b : Block) (c : Nat) (st : ChanState) : Block :=
  let b := b.modChan c fun x => { x with state := st }
  { b with store := { b.store with mapOut := if b.store.mapOut.contains c then b.store.mapOut else sortBy (fun x y => decide (x ≤ y)) (c :: b.store.mapOut) } }

theorem stateSet_chan (st : ChanState) : (stateSet b c st).chan c = { b.chan c with state := st } :=
  Block.modChan_chan b c fun x => { x with state := st }

theorem channelState_reports (st : ChanState) : Reports (stateSet b c st) (b.channelState c st) := (Reports.postEvent ..).trans (Reports.record ..)

theorem channelState_chan (st : ChanState) : ∃ tr, (b.channelState c st).chan c = { b.chan c with state := st, transit := tr } := by
  obtain ⟨tr, h⟩ := (channelState_reports b c st).chan c
  exact ⟨tr, by rw [h, stateSet_chan]⟩

/-- Other channels see of it only what is sent to them. -/
theorem channelState_queue (st : ChanState) (x : Nat) : ((b.channelState c st).chan x).queue = (b.chan x).queue := by
  rw [(channelState_reports b c st).queue]
  by_cases hx : x = c
  · subst hx
    rw [stateSet_chan]
  · exact congrArg Channel.queue (Block.modChan_chan_ne b (fun x => { x with state := st }) hx)

theorem channelState_mapOut (st : ChanState) : c ∈ (b.channelState c st).store.mapOut := by
  rw [(channelState_reports b c st).mapOut]
  unfold stateSet
  dsimp only
  split
  · next h => simpa using h
  · refine (mem_sortBy ..).mpr ?_
    exact List.mem_cons_self

/-- One uncorrectable line more, before the threshold is looked at. -/
def ueNoted (b : Block) (c : Nat) : Block :=
  let x := b.chan c
  let times := (x.ueTimes.filter fun t => decide (b.time < t + max 1 b.memUeWindowH * 3600000000000)) ++ [b.time]
  let b := b.setChan c { x with ueCount := min 65535 (x.ueCount + 1), ueTimes := times }
  { b with store := { b.store with ueTotal := tset b.store.ueTotal c (tget 0 b.store.ueTotal c + 1) } }

theorem ueNoted_chan : ∃ times, (ueNoted b c).chan c = { b.chan c with ueCount := min 65535 ((b.chan c).ueCount + 1), ueTimes := times } :=
  ⟨_, Block.chan_setChan b c _⟩

theorem countUe_eq : b.countUe c = ueNoted b c ∨ b.countUe c = ((ueNoted b c).modChan c fun x => { x with ueAlert := true }).channelState c .pendingOut := by
  unfold Block.countUe
  dsimp only
  split
  · exact .inr rfl
  · exact .inl rfl

theorem countUe_chan : ∃ times al st tr, (b.countUe c).chan c =
    { b.chan c with ueCount := min 65535 ((b.chan c).ueCount + 1), ueTimes := times, ueAlert := al, state := st, transit := tr } := by
  obtain ⟨times, hn⟩ := ueNoted_chan b c
  rcases countUe_eq b c with h | h
  · exact ⟨times, _, _, _, by rw [h, hn]⟩
  · obtain ⟨tr, hs⟩ := channelState_chan ((ueNoted b c).modChan c fun x => { x with ueAlert := true }) c .pendingOut
    rw [Block.modChan_chan, hn] at hs
    exact ⟨times, true, .pendingOut, tr, by rw [h, hs]⟩

theorem countUe_queue (x : Nat) : ((b.countUe c).chan x).queue = (b.chan x).queue := by
  by_cases hx : x = c
  · subst hx
    obtain ⟨_, _, _, _, h⟩ := countUe_chan b x
    rw [h]
  · have hn : (ueNoted b c).chan x = b.chan x := Block.chan_setChan_ne b _ hx
    rcases countUe_eq b c with h | h
    · rw [h, hn]
    · rw [h, channelState_queue, Block.modChan_chan_ne _ _ hx, hn]

theorem countCe_chan : (b.countCe c).chan c = { b.chan c with ceCount := min (2 ^ 32 - 1) ((b.chan c).ceCount + 1) } :=
  Block.modChan_chan b c fun x => { x with ceCount := min (2 ^ 32 - 1) (x.ceCount + 1) }

/-- A change of a channel's own registers leaves every queue. -/
theorem modChan_queue (f : Channel → Channel) (hf : ∀ x, (f x).queue = x.queue) (x : Nat) : ((b.modChan c f).chan x).queue = (b.chan x).queue := by
  by_cases hx : x = c
  · subst hx
    rw [Block.modChan_chan, hf]
  · rw [Block.modChan_chan_ne _ _ hx]

/-- What a controller finds leaves every queue. -/
theorem findLine_queue (line cause : Nat) (poisoned : Bool) (found : LineFinding) (x : Nat) :
    ((b.findLine c line cause poisoned found).2.chan x).queue = (b.chan x).queue := by
  have hretry (d : Prop) [Decidable d] : ((if d then b.modChan c fun x => { x with linkRetry := true } else b).chan x).queue = (b.chan x).queue := by
    split
    · exact modChan_queue b c (fun x => { x with linkRetry := true }) (fun _ => rfl) x
    · rfl
  have hce (b : Block) (d : Prop) [Decidable d] : ((if d then b.countCe c else b).chan x).queue = (b.chan x).queue := by
    split
    · exact modChan_queue b c (fun x => { x with ceCount := min (2 ^ 32 - 1) (x.ceCount + 1) }) (fun _ => rfl) x
    · rfl
  unfold Block.findLine
  dsimp only
  split
  · rw [Block.poisonRecord, (Reports.record ..).queue, countUe_queue, hce, hretry]
  · rw [hce, hretry]

end

/-! ### Service and acceptance -/

section
variable {m : Dram} {b : Block} {c : Nat} {q : Req} {rest : List Req}

/-- The traffic of a served request is counted, and nothing else changes. -/
theorem countServed_eq (b : Block) (c : Nat) (q : Req) : ∃ n t, b.countServed c q = { b with cnt := n, ctxs := t } := by
  have hport (b : Block) (p n : Nat) : ∃ t, b.countPort p n = { b with cnt := t } := by
    unfold Block.countPort
    split
    · exact ⟨b.cnt, rfl⟩
    · exact ⟨_, rfl⟩
  have hroute (l : List Nat) (n : Nat) (b : Block) : ∃ t, l.foldl (fun b p => Block.countPort b p n) b = { b with cnt := t } := by
    induction l generalizing b with
    | nil => exact ⟨b.cnt, rfl⟩
    | cons p l ih =>
      obtain ⟨t, ht⟩ := hport b p n
      obtain ⟨u, hu⟩ := ih (b.countPort p n)
      exact ⟨u, by rw [List.foldl_cons, hu, ht]⟩
  have hread : ∃ t, (if q.fullStore then b.countPort (writePort c) 64 else (b.countPort (writePort c) 64).countPort (readPort c) 64) = { b with cnt := t } := by
    obtain ⟨t, ht⟩ := hport b (writePort c) 64
    rw [ht]
    split
    · exact ⟨t, rfl⟩
    · exact hport _ (readPort c) 64
  obtain ⟨t, ht⟩ := hread
  unfold Block.countServed
  dsimp only
  rw [ht]
  split
  · obtain ⟨u, hu⟩ := hroute (route _ (some (chanTile c)) (q.line / 64)) 64 { b with cnt := t }
    rw [Block.countRoute, hu]
    obtain ⟨v, hv⟩ := countCtx_eq { b with cnt := u } _ 7 64
    exact ⟨u, v, hv⟩
  · obtain ⟨u, hu⟩ := hroute (route _ (some (chanTile c)) (q.line / 64)) 64 { b with cnt := t }
    exact ⟨u, b.ctxs, hu⟩

theorem lateOutcome_eq (b : Block) (q : Req) : ∃ l, b.lateOutcome q = { b with outcomes := l } := by
  unfold Block.lateOutcome
  split
  · exact ⟨_, rfl⟩
  · exact ⟨_, rfl⟩
  · exact ⟨b.outcomes, rfl⟩

/-- A failing outcome and the traffic of a request are no part of what reporting leaves. -/
theorem lateOutcome_reports (b : Block) (q : Req) : Reports b (b.lateOutcome q) := by
  obtain ⟨l, hl⟩ := lateOutcome_eq b q
  rw [hl]
  exact .of_eq rfl rfl rfl rfl

theorem countServed_reports (b : Block) (c : Nat) (q : Req) : Reports b (b.countServed c q) := by
  obtain ⟨n, t, h⟩ := countServed_eq b c q
  rw [h]
  exact .of_eq rfl rfl rfl rfl

theorem reports_ite {b b' : Block} (d : Prop) [Decidable d] (h : Reports b b') : Reports b (if d then b' else b) := by
  split
  · exact h
  · exact .refl b

/-- The channel's queue without the request that it serves. -/
def popped (b : Block) (c : Nat) (rest : List Req) : Block := b.setChan c { b.chan c with queue := rest }

theorem popped_queue (b : Block) (c : Nat) (rest : List Req) : ((popped b c rest).chan c).queue = rest := congrArg Channel.queue (Block.chan_setChan ..)

theorem popped_transit (b : Block) (c : Nat) (rest : List Req) : ((popped b c rest).chan c).transit = (b.chan c).transit :=
  (congrArg Channel.transit (Block.chan_setChan b c { b.chan c with queue := rest })).trans rfl

/-- With no request waiting, what the controller finds waits for the next line that it reads. -/
theorem chanServe_empty {m : Dram} {b : Block} {c : Nat} (found : LineFinding) (hs : (b.chan c).selfRefresh = false) (hq : (b.chan c).queue = []) :
    chanServe m b c found = (m, b.setChan c { b.chan c with nextFind := found }) := by
  unfold chanServe
  simp only [hs, hq, Bool.false_eq_true, if_false]

/-- The service of the request at the head of the queue. -/
theorem chanServe_eq (found : LineFinding) (hs : (b.chan c).selfRefresh = false) (hq : (b.chan c).queue = q :: rest) :
    chanServe m b c found = (let b1 := popped b c rest
      if (b.chan c).state = .failed then (m, b1.lateOutcome q)
      else
        let key := memKey (b1.place (64 * q.line)) / 64
        let l := m.line key
        if q.kind = .mark then (m.setLine key (serveLine false l q).1, b1)
        else
          let r := b1.findLine c q.line 1 (l.poisoned || q.fullStore) found
          let l := { l with poisoned := l.poisoned || r.1 }
          let out := serveLine false l q
          let b2 := r.2.countServed c q
          let b3 := if q.kind = .poison then b2.poisonRecord c q.line 3 else b2
          (m.setLine key out.1, if out.2 then b3.lateOutcome q else b3)) := by
  unfold chanServe popped
  simp only [hs, hq, Bool.false_eq_true, if_false]

/-- What the service of a request leaves of the block: what was found is counted, the traffic too, and an outcome may wait. -/
theorem chanServe_block (found : LineFinding) (hs : (b.chan c).selfRefresh = false) (hq : (b.chan c).queue = q :: rest) :
    (Reports (popped b c rest) (chanServe m b c found).2) ∨
    ∃ poisoned, Reports ((popped b c rest).findLine c q.line 1 poisoned found).2 (chanServe m b c found).2 := by
  rw [chanServe_eq found hs hq]
  dsimp only
  split
  · exact .inl (lateOutcome_reports _ q)
  · split
    · exact .inl (.refl _)
    · exact .inr ⟨_, ((countServed_reports _ c q).trans (reports_ite _ (Reports.record ..))).trans (reports_ite _ (lateOutcome_reports _ q))⟩

/-- A served request leaves its channel's queue. -/
theorem chanServe_queue (found : LineFinding) (hs : (b.chan c).selfRefresh = false) (hq : (b.chan c).queue = q :: rest) :
    ((chanServe m b c found).2.chan c).queue = rest := by
  rcases chanServe_block (m := m) found hs hq with h | ⟨p, h⟩
  · rw [h.queue, popped_queue]
  · rw [h.queue, findLine_queue, popped_queue]

theorem chanServe_failed (found : LineFinding) (hs : (b.chan c).selfRefresh = false) (hq : (b.chan c).queue = q :: rest) (hf : (b.chan c).state = .failed) :
    (chanServe m b c found).1 = m := by
  rw [chanServe_eq found hs hq]
  exact congrArg Prod.fst (if_pos hf)

/-- A clean service of a request that marks nothing touches its own channel, the counters and the outcomes that wait. -/
theorem chanServe_clean (hs : (b.chan c).selfRefresh = false) (hq : (b.chan c).queue = q :: rest) (hk : q.kind ≠ .poison) :
    ∃ n t l, (chanServe m b c .clean).2 = { popped b c rest with cnt := n, ctxs := t, outcomes := l } := by
  rw [chanServe_eq _ hs hq]
  simp only [findLine_clean, hk, if_false]
  generalize popped b c rest = b1
  split
  · obtain ⟨l, hl⟩ := lateOutcome_eq b1 q
    exact ⟨b1.cnt, b1.ctxs, l, hl⟩
  · split
    · exact ⟨b1.cnt, b1.ctxs, b1.outcomes, rfl⟩
    · obtain ⟨n, t, h⟩ := countServed_eq b1 c q
      rw [h]
      split
      · obtain ⟨l, hl⟩ := lateOutcome_eq { b1 with cnt := n, ctxs := t } q
        exact ⟨n, t, l, hl⟩
      · exact ⟨n, t, b1.outcomes, rfl⟩

/-- A controller that takes nothing. -/
theorem chanAccept_full (ht : (b.chan c).transit = q :: rest) (h : (b.chan c).selfRefresh = true ∨ 4096 ≤ (b.chan c).queue.length) : chanAccept m b c = b := by
  unfold chanAccept
  simp only [ht]
  exact if_pos (by simpa using h)

/-- The block once the controller has taken the next request, and what waited for that has gone on (R244). -/
def accepted (b : Block) (c : Nat) (q : Req) (rest : List Req) : Block :=
  (b.setChan c { b.chan c with transit := rest, queue := (b.chan c).queue ++ [q] }).chainsSettle.hubSettle.leaveSettle

theorem chanAccept_eq (ht : (b.chan c).transit = q :: rest) (hs : (b.chan c).selfRefresh = false) (hl : (b.chan c).queue.length < 4096)
    (hk : ∀ i n, q.src ≠ .kerf i n) :
    chanAccept m b c = (accepted b c q rest).conns.foldl (fun b e => if e.2.waiting.any (fun o => o.lines != []) then b.pump e.1 else b) (accepted b c q rest) := by
  unfold chanAccept
  simp only [ht]
  rw [if_neg (by simp [hs, hl])]
  cases hsrc : q.src with
  | kerf i n => exact absurd hsrc (hk i n)
  | _ => rfl

theorem hubSettle_idle {b : Block} (h : b.hubLater = []) : b.hubSettle = b := by
  unfold Block.hubSettle
  rw [h]
  change ({ b with hubLater := [] } : Block) = b
  rw [← h]

theorem leaveSettle_idle {b : Block} (h : b.leaving = []) : b.leaveSettle = b := by
  unfold Block.leaveSettle
  rw [h]
  change ({ b with leaving := [] } : Block) = b
  rw [← h]

/-- Where nothing waits for a request to be taken, nothing goes on. -/
theorem accepted_idle (hch : b.chains = []) (hh : b.hubLater = []) (hl : b.leaving = []) :
    accepted b c q rest = b.setChan c { b.chan c with transit := rest, queue := (b.chan c).queue ++ [q] } := by
  have hsettle : (b.setChan c { b.chan c with transit := rest, queue := (b.chan c).queue ++ [q] }).chainsSettle
      = b.setChan c { b.chan c with transit := rest, queue := (b.chan c).queue ++ [q] } := by
    unfold Block.chainsSettle
    rw [show (b.setChan c { b.chan c with transit := rest, queue := (b.chan c).queue ++ [q] }).chains = [] from hch]
    rfl
  unfold accepted
  rw [hsettle, hubSettle_idle (b := b.setChan c _) hh, leaveSettle_idle (b := b.setChan c _) hl]

theorem foldl_pump_idle {l : List (Nat × Conn)} (h : ∀ e ∈ l, ∀ o ∈ e.2.waiting, o.lines = []) (b : Block) :
    l.foldl (fun b e => if e.2.waiting.any (fun o => o.lines != []) then Block.pump b e.1 else b) b = b := by
  induction l with
  | nil => rfl
  | cons e l ih =>
    have hnone : (e.2.waiting.any fun o => o.lines != []) = false := by
      rw [List.any_eq_false]
      intro o ho
      simp [h e List.mem_cons_self o ho]
    rw [List.foldl_cons, hnone, if_neg Bool.false_ne_true]
    exact ih fun e he => h e (List.mem_cons_of_mem _ he)

/-- A late outcome reaches its blank while that runs, and is recorded for its context otherwise (R131, R241). -/
theorem lateFault_runs {o : Issuer} {a : Nat} {st : Status} (h1 : (b.spd o.p).cur.isSome = true) (h2 : (b.spd o.p).started = true)
    (h3 : (b.spd o.p).serial = o.serial) :
    b.lateFault o a st =
      (b.setSpd o.p { b.spd o.p with faultStatus := st.code, faultOpcode := 0, faultPc := (b.spd o.p).pcOffset (b.spd o.p).oldestPc }).blankEnd o.p st
        ((b.spd o.p).pcOffset (b.spd o.p).oldestPc % 2 ^ 24) :=
  if_pos (by simp [Block.stillRuns, h1, h2, h3])

theorem lateFault_gone {o : Issuer} {a : Nat} {st : Status} (h : (b.spd o.p).cur = none ∨ (b.spd o.p).started = false ∨ (b.spd o.p).serial ≠ o.serial) :
    b.lateFault o a st = b.record
      { context := some o.ctx, severity := 1, cls := 0x04, status := st.code, unitKind := 1, unit := o.p, addr := a, blank := o.blank.toNat } := by
  refine if_neg ?_
  rcases h with h | h | h <;> simp [Block.stillRuns, h]

/-- A write outcome is delivered to the blank that sent the write. -/
theorem exec_writeOutcome {k : Nat} {s : State} {o : LateOutcome} {p c serial e : Nat} {blank : Word64} (hk : s.blk.outcomes[k]? = some o)
    (hsrc : o.src = .memSide p blank c serial ∨ o.src = .wc p blank c serial e) :
    exec (.writeOutcome k) s = nextOf s (Block.lateFault { s.blk with outcomes := s.blk.outcomes.eraseIdx k } { p, ctx := c, blank, serial } o.addr .poisonedTarget) := by
  change nextOf s (match s.blk.outcomes[k]? with
    | none => s.blk
    | some o =>
      let b' : Block := { s.blk with outcomes := s.blk.outcomes.eraseIdx k }
      match o.src with
      | .wc p blank ctx serial _ => b'.lateFault { p, ctx, blank, serial } o.addr .poisonedTarget
      | .memSide p blank ctx serial => b'.lateFault { p, ctx, blank, serial } o.addr .poisonedTarget
      | _ => b') = _
  rcases hsrc with h | h <;> simp only [hk, h]

end

/-- Settles O31: acceptance, service and late outcomes. -/
theorem channelsServeInOrder : Obligations.ChannelsServeInOrder := by
  refine ⟨?serves, ?accepts, ?late⟩
  case serves =>
    intro ch found s b hs
    refine ⟨fun hq => ?_, fun q rest hq => ?_⟩
    · change nextOf { s with dram := (chanServe s.dram s.blk ch found).1 } (chanServe s.dram s.blk ch found).2 = _
      rw [chanServe_empty found hs hq]
      rfl
    · refine ⟨_, rfl, chanServe_queue found hs hq, fun hf => ?_, ?_⟩
      · exact chanServe_failed found hs hq hf
      · rintro rfl hk
        obtain ⟨n, t, l, h⟩ := chanServe_clean (m := s.dram) hs hq hk
        change ((chanServe s.dram s.blk ch .clean).2.chan ch).transit = _ ∧ (∀ c : Nat, c ≠ ch → (chanServe s.dram s.blk ch .clean).2.chan c = _) ∧
          (chanServe s.dram s.blk ch .clean).2.cells = _ ∧ (chanServe s.dram s.blk ch .clean).2.spindles = _
        rw [h]
        exact ⟨popped_transit .., fun c hc => Block.chan_setChan_ne _ _ hc, rfl, rfl⟩
  case accepts =>
    intro ch s q rest b x took on ht
    refine ⟨fun hs hl hk => ⟨gives rfl (chanAccept_eq ht hs hl hk), fun hch hh hlv hw => gives rfl ?_⟩, fun h => gives rfl (chanAccept_full ht h)⟩
    rw [chanAccept_eq ht hs hl hk, accepted_idle hch hh hlv]
    exact foldl_pump_idle hw _
  case late =>
    intro k s o p c serial e blank b b' spd off hk hsrc
    exact ⟨fun h1 h2 h3 => gives (exec_writeOutcome hk hsrc) (lateFault_runs h1 h2 h3), fun h => gives (exec_writeOutcome hk hsrc) (lateFault_gone h)⟩

end Sys2Proof.Proofs
end

section
/-!
SUPPORT. The patrol scrub, marks, and the loss of a channel (R237, R238, R244 to R246, R403).
-/
namespace Sys2Proof.Proofs
open Sys2Proof.Machine Sys2Proof.Claims

section
variable {m : Dram} {b : Block} {c : Nat}

/-! ### What a controller finds in a line that is not poisoned -/

theorem findLine_correctable (b : Block) (c line cause : Nat) : b.findLine c line cause false .correctable = (false, b.countCe c) := by
  simp [Block.findLine]

theorem findLine_uncorrectable (b : Block) (c line cause : Nat) :
    b.findLine c line cause false .uncorrectable = (true, (b.countUe c).poisonRecord c line cause) := by
  simp [Block.findLine]

/-! ### The patrol scrub -/

/-- The line under the scrub, behind the requests that its controller has accepted (R244). -/
def scrubbed (m : Dram) (b : Block) (c : Nat) : LineSt :=
  (b.chan c).queue.foldl (fun l q => if q.line = b.lineOf c (b.chan c).scrubPos then (serveLine false l q).1 else l)
    (m.line (memKey (c, 64 * (b.chan c).scrubPos) / 64))

/-- The scrub has read a line and goes on to the next. -/
def scrubRead (b : Block) (c : Nat) : Block :=
  (b.setChan c { b.chan c with scrubPos := ((b.chan c).scrubPos + 1) % chanLines c }).countPort (readPort c) 64

theorem scrubRead_chan (b : Block) (c : Nat) :
    ∃ tr, (scrubRead b c).chan c = { b.chan c with scrubPos := ((b.chan c).scrubPos + 1) % chanLines c, transit := tr } := by
  obtain ⟨tr, h⟩ := (Reports.countPort (b.setChan c { b.chan c with scrubPos := ((b.chan c).scrubPos + 1) % chanLines c }) (readPort c) 64).chan c
  rw [Block.chan_setChan] at h
  exact ⟨tr, h⟩

/-- The scrub of a channel in service whose queue has room. -/
theorem scrubLine_eq {found : LineFinding} (he : b.memScrubEn = true) (hp : b.perst = false) (hs : (b.chan c).selfRefresh = false)
    (hst : (b.chan c).state = .inService ∨ (b.chan c).state = .pendingOut) (hd : b.memoryDegraded = false) (hl : (b.chan c).queue.length < 4096) :
    b.scrubLine m c found =
      (let r := (scrubRead b c).findLine c (b.lineOf c (b.chan c).scrubPos) 2 (scrubbed m b c).poisoned found
       if r.1 then r.2.modChan c fun x => { x with queue := x.queue ++ [{ kind := .mark, line := b.lineOf c (b.chan c).scrubPos }] } else r.2) := by
  refine if_neg ?_
  rcases hst with hst | hst <;> simp [he, hp, hs, hst, hd, hl]

end

/-- The exec of a scrub changes the block alone. -/
theorem exec_scrubLine (ch : Chan) (found : LineFinding) (s : State) : exec (.scrubLine ch found) s = nextOf s (s.blk.scrubLine s.dram ch found) := rfl

/-- Settles O32: the scrub by what is found, a mark as it is served, and the loss of a channel. -/
theorem scrubbingAndChannelLoss : Obligations.ScrubbingAndChannelLoss := by
  refine ⟨?scrub, ?marks, ?lost⟩
  case scrub =>
    intro ch s b x line l hp hs hst hd hl
    refine ⟨fun he found => gives rfl (if_pos (by simp [show s.blk.memScrubEn = false from he])), fun he hpois => ?_⟩
    have hclear : (scrubbed s.dram s.blk ch).poisoned = false := hpois
    have hscrub (found : LineFinding) := scrubLine_eq (m := s.dram) (found := found) he hp hs hst hd hl
    rw [hclear] at hscrub
    obtain ⟨tr, hread⟩ := scrubRead_chan s.blk ch
    refine ⟨?clean, ?correctable, ?uncorrectable⟩
    case clean =>
      refine ⟨_, exec_scrubLine .., rfl, ?_⟩
      change ((s.blk.scrubLine s.dram ch .clean).chan ch).scrubPos = _ ∧ ((s.blk.scrubLine s.dram ch .clean).chan ch).ceCount = _ ∧
        ((s.blk.scrubLine s.dram ch .clean).chan ch).ueCount = _ ∧ ((s.blk.scrubLine s.dram ch .clean).chan ch).queue = _
      rw [hscrub, findLine_clean]
      change ((scrubRead s.blk ch).chan ch).scrubPos = _ ∧ ((scrubRead s.blk ch).chan ch).ceCount = _ ∧ ((scrubRead s.blk ch).chan ch).ueCount = _ ∧
        ((scrubRead s.blk ch).chan ch).queue = _
      rw [hread]
      exact ⟨rfl, rfl, rfl, rfl⟩
    case correctable =>
      refine ⟨_, exec_scrubLine .., rfl, ?_⟩
      change ((s.blk.scrubLine s.dram ch .correctable).chan ch).ceCount = _ ∧ ((s.blk.scrubLine s.dram ch .correctable).chan ch).queue = _
      rw [hscrub, findLine_correctable]
      change (((scrubRead s.blk ch).countCe ch).chan ch).ceCount = _ ∧ (((scrubRead s.blk ch).countCe ch).chan ch).queue = _
      rw [countCe_chan, hread]
      exact ⟨rfl, rfl⟩
    case uncorrectable =>
      refine ⟨_, exec_scrubLine .., rfl, ?_⟩
      change ((s.blk.scrubLine s.dram ch .uncorrectable).chan ch).ueCount = _ ∧ ((s.blk.scrubLine s.dram ch .uncorrectable).chan ch).scrubPos = _ ∧
        ((s.blk.scrubLine s.dram ch .uncorrectable).chan ch).queue = _
      rw [hscrub, findLine_uncorrectable]
      dsimp only
      rw [if_pos rfl, Block.modChan_chan]
      obtain ⟨times, al, st, tr', hue⟩ := countUe_chan (scrubRead s.blk ch) ch
      obtain ⟨tr'', hrec⟩ := (Reports.record ((scrubRead s.blk ch).countUe ch) _).chan ch
      rw [Block.poisonRecord, hrec, hue, hread]
      exact ⟨rfl, rfl, rfl⟩
  case marks =>
    intro ch found s t q rest b key hwf hq hk hs hf he
    have hm : s.dram.wf = true := by
      simp only [State.wf, Bool.and_eq_true] at hwf
      exact hwf.1
    have hdram : t.dram = s.dram.setLine key { s.dram.line key with poisoned := true } := by
      have hserve : (serveLine false (s.dram.line key) q).1 = { s.dram.line key with poisoned := true } := by
        unfold serveLine
        simp only [hk, Bool.false_eq_true, if_false]
      rw [← hserve, ← chanServe_stores (c := ch) (found := found) hs hq hf (.inl hk)]
      cases he
      rfl
    rw [hdram]
    refine ⟨?_, fun k => setLine_line_byte hm key _ rfl k, fun l hl => ?_⟩
    · rw [Dram.setLine_poison hm, if_pos rfl]
    · rw [Dram.setLine_poison hm, if_neg hl]
  case lost =>
    intro ch s b x
    refine ⟨fun hst hh hp => ⟨gives rfl (if_neg ?_), ?_, channelState_mapOut ..⟩, fun hp => gives rfl (if_neg ?_)⟩
    · rcases hst with hst | hst <;> simp [show (s.blk.chan ch).state = _ from hst, show s.blk.hubLost = false from hh, show s.blk.perst = false from hp]
    · obtain ⟨tr, h⟩ := channelState_chan b ch .failed
      rw [h]
    · rw [show s.blk.perst = false from hp]
      exact Bool.false_ne_true

end Sys2Proof.Proofs
end

section
/-!
SUPPORT. Tile jobs at work: weight tiles, drains, nest visits and stolen N tiles (R73, R84, R91, R182, R183).
-/
namespace Sys2Proof.Proofs
open Sys2Proof.Machine Sys2Proof.Claims

section
variable {m : Dram} {b : Block} {p : Nat} {j : TileJob}

/-! ### The spindle's own job -/

/-- A job with no move to make stands. -/
theorem matrixPump_idle (h : b.jobMove m p = none) : b.matrixPump m p = b := by
  unfold Block.matrixPump
  split
  · rfl
  · dsimp only
    rw [Block.jobMoves, h]

/-- Gathering-buffer entries that reach their banks leave the open branches. -/
theorem commitRange_brs (s : Spindle) (a n : Nat) : (s.commitRange a n).brs = s.brs := by
  obtain ⟨g, r, h, -⟩ := Spindle.commitWhere_eq s fun g => decide (n ≠ 0) && decide (a / 64 ≤ g.sector) && decide (g.sector ≤ (a + n - 1) / 64)
  rw [Spindle.commitRange, h]

/-- The operands' spindle has the open branches of the tile's owner. -/
theorem operands_isSpec (b : Block) (t : TileCtx) (idx : Nat) : (b.operands t).1.isSpec idx = (b.spd t.owner).isSpec idx := by
  have hcmd (b : Block) : ((b.cmdSpad t.owner t.idx).2.spd t.owner).brs = (b.spd t.owner).brs := by
    unfold Block.cmdSpad
    dsimp only
    split <;> rfl
  have hbrs : (b.operands t).1.brs = (b.spd t.owner).brs := by
    unfold Block.operands
    dsimp only
    rw [hcmd]
    obtain ⟨u, v, h⟩ := Block.modGb_spd b t.owner (fun s =>
      (operandRanges t.d t.off ++ maskRange t.d t.off t.storedExtent.1 t.storedExtent.2).foldl (fun s r => s.commitRange r.addr r.len) s) 0
      (if (b.spd t.owner).isSpec t.idx then some t.idx else none)
    rw [h]
    exact foldl_keeps (f := fun s : Spindle => s.brs) (fun s (r : SRange) => commitRange_brs s r.addr r.len) _ _
  unfold Spindle.isSpec
  rw [hbrs]

/-- The next weight tile of the spindle's own job (R73). -/
theorem weightTile_own {nt : Nat} (hr : b.arraysRun p = true) (ht : (b.spd p).thief = none) (hj : (b.spd p).job = some j) (hc : j.curNt = some nt)
    (hm : b.jobMove m p = none) (hk : j.kc < (j.ctx p).chunks) :
    b.weightTile m p = (let t := j.ctx p
      let o := b.operands t
      let sp := if (b.spd p).isSpec j.idx then some j.idx else none
      if t.nibbleBad o.1 nt j.kc then o.2.jobFault p j.idx .invalidField
      else (((((o.2.countFor p 0x04 1 sp).countFor p (t.rowEvent nt).1 (t.rowEvent nt).2 sp).accumulate p o.1 t j.set nt j.kc false).modJob p
        fun j => { j with kc := j.kc + 1 }).matrixPump m p)) := by
  have hspec : (b.operands (j.ctx p)).1.isSpec j.idx = (b.spd p).isSpec j.idx := operands_isSpec b (j.ctx p) j.idx
  unfold Block.weightTile
  simp only [hr, ht, matrixPump_idle hm, hj, hc, Nat.not_le.mpr hk, if_false, Bool.not_true, Bool.false_eq_true, hspec]

/-- The drain of a finished N tile of the spindle's own job (R84). -/
theorem bowlDrain_own {nt set : Nat} {rest : List (Nat × Nat)} {q : QCmd} {b' : Block} (hr : b.arraysRun p = true) (hl : b.lineRoom p true = true)
    (ht : (b.spd p).thief = none) (hj : (b.spd p).job = some j) (hm : b.jobMove m p = none) (hd : j.toDrain = (nt, set) :: rest)
    (hq : ((b.spd p).matrixQ.find? fun q => q.idx == j.idx) = some q) (hdr : b.drainTile m p q (j.ctx p) set nt = (none, b')) :
    b.bowlDrain m p = (b'.modJob p fun j => { j with toDrain := rest }).matrixPump m p := by
  unfold Block.bowlDrain
  simp only [hr, hl, ht, matrixPump_idle hm, hj, hd, hq, hdr, Bool.not_true, Bool.or_self, Bool.false_eq_true, if_false]

theorem bowlDrain_breach {nt set : Nat} {rest : List (Nat × Nat)} {q : QCmd} {b' : Block} {st : Status} (hr : b.arraysRun p = true)
    (hl : b.lineRoom p true = true) (ht : (b.spd p).thief = none) (hj : (b.spd p).job = some j) (hm : b.jobMove m p = none)
    (hd : j.toDrain = (nt, set) :: rest) (hq : ((b.spd p).matrixQ.find? fun q => q.idx == j.idx) = some q)
    (hdr : b.drainTile m p q (j.ctx p) set nt = (some st, b')) : b.bowlDrain m p = b'.jobFault p j.idx st := by
  unfold Block.bowlDrain
  simp only [hr, hl, ht, matrixPump_idle hm, hj, hd, hq, hdr, Bool.not_true, Bool.or_self, Bool.false_eq_true, if_false]

/-- A nest visit that finds its ready flag (R91). -/
theorem nestVisit_takes (hr : b.arraysRun p = true) (hj : (b.spd p).job = some j) (hv : j.visiting = false) (hn : (j.ctx p).d.nestEn = true)
    (hf : ((b.spd p).flag (j.ctx p).x.ready).count ≠ 0) :
    b.nestVisit m p = (let t := j.ctx p
      let taken := (b.spd p).modFlag t.x.ready LocalFlag.take
      if tensorScaleBad taken t.d t.off then (b.setSpd p taken).jobFault p j.idx .invalidField
      else (b.setSpd p { taken with job := some { j with visiting := true, nextNt := 0, ntEnd := t.d.n / 64, curNt := none, kc := 0 } }).matrixPump m p) := by
  have hjob : ((b.spd p).modFlag (j.ctx p).x.ready LocalFlag.take).job = some j := hj
  unfold Block.nestVisit
  simp only [hr, hj, hv, hn, hf, Bool.not_true, Bool.false_eq_true, if_false, or_self, Block.modJob, Block.modSpd, Block.spd_setSpd,
    Block.setSpd_setSpd, hjob, Option.map_some]

theorem nestVisit_waits (hj : (b.spd p).job = some j) (hf : ((b.spd p).flag (j.ctx p).x.ready).count = 0) : b.nestVisit m p = b := by
  unfold Block.nestVisit
  split
  · rfl
  · simp only [hj, hf, or_true, if_true]

/-! ### Stolen N tiles -/

/-- The next weight tile of an N tile that the spindle stole (R182). -/
theorem weightTile_stolen {x : Stolen} (hr : b.arraysRun p = true) (ht : (b.spd p).thief = some x) (hj : (b.spd x.victim).job = some j) (hf : x.full = false)
    (hk : x.kc < (j.ctx x.victim).chunks) (hrows : (j.ctx x.victim).rows x.nt ≠ [])
    (hb : (j.ctx x.victim).nibbleBad (b.operands (j.ctx x.victim)).1 x.nt x.kc = false) :
    b.weightTile m p = (let t := j.ctx x.victim
      let o := b.operands t
      let skip := t.skipped o.1 x.nt x.kc
      let counted := if skip then o.2 else (o.2.countEvent p o.1.ctx 0x04 1).countEvent p o.1.ctx (t.rowEvent x.nt).1 (t.rowEvent x.nt).2
      (counted.accumulate p o.1 t x.set x.nt x.kc skip).modSpd p fun z =>
        { z with thief := some { x with kc := x.kc + 1, full := decide (t.chunks ≤ x.kc + 1) } }) := by
  unfold Block.weightTile
  simp only [hr, ht, hj, hf, hrows, hb, Nat.not_le.mpr hk, Bool.not_true, Bool.false_eq_true, or_self, if_false]

/-- The drain of a stolen N tile, through the thief (R183). -/
theorem bowlDrain_stolen {x : Stolen} {q : QCmd} {b' : Block} (hr : b.arraysRun p = true) (hl : b.lineRoom p true = true) (ht : (b.spd p).thief = some x)
    (hj : (b.spd x.victim).job = some j) (hf : x.full = true ∨ (j.ctx x.victim).rows x.nt = [])
    (hq : ((b.spd x.victim).matrixQ.find? fun q => q.idx == j.idx) = some q) (hdr : b.drainTile m p q (j.ctx x.victim) x.set x.nt = (none, b')) :
    b.bowlDrain m p = ((b'.modSpd p fun z => { z with thief := none }).modJob x.victim fun j =>
      { j with stolen := j.stolen.filter (· ≠ x.nt) }).matrixPump m x.victim := by
  have hfull : (!x.full && !((j.ctx x.victim).rows x.nt).isEmpty) = false := by
    rcases hf with h | h <;> simp [h]
  unfold Block.bowlDrain
  simp only [hr, hl, ht, hj, hq, hdr, hfull, Bool.not_true, Bool.or_self, Bool.false_eq_true, if_false]

/-- What the thief looks at in turn: the first of the spindles seen that has most N tiles to take. -/
def bestVictim (n : Nat → Nat) (p base k : Nat) : Nat × Nat :=
  (List.range k).foldl (fun a i => if a.2 < n (base + i) ∧ base + i ≠ p then (base + i, n (base + i)) else a) (p, 0)

theorem bestVictim_succ (n : Nat → Nat) (p base k : Nat) : bestVictim n p base (k + 1) =
    if (bestVictim n p base k).2 < n (base + k) ∧ base + k ≠ p then (base + k, n (base + k)) else bestVictim n p base k := by
  unfold bestVictim
  rw [List.range_succ, List.foldl_append]
  rfl

theorem bestVictim_none {n : Nat → Nat} {base k : Nat} (h : ∀ i, i < k → base + i ≠ p → n (base + i) = 0) : bestVictim n p base k = (p, 0) := by
  induction k with
  | zero => rfl
  | succ k ih =>
    rw [bestVictim_succ, ih fun i hi => h i (by omega)]
    refine if_neg fun hx => ?_
    rw [h k (by omega) hx.2] at hx
    exact absurd hx.1 (Nat.not_lt_zero _)

/-- The spindle with most of them, the lowest on a tie. -/
theorem bestVictim_eq {n : Nat → Nat} {base i k : Nat} (hi : i < k) (hp : base + i ≠ p) (hn : n (base + i) ≠ 0)
    (hmax : ∀ l, l < k → base + l ≠ p → l ≠ i → n (base + l) < n (base + i) ∨ n (base + l) = n (base + i) ∧ i < l) :
    bestVictim n p base k = (base + i, n (base + i)) := by
  have hbelow (l : Nat) (hl : l ≤ i) : (bestVictim n p base l).2 < n (base + i) := by
    induction l with
    | zero => exact Nat.pos_of_ne_zero hn
    | succ l ih =>
      rw [bestVictim_succ]
      split
      · next hx =>
        rcases hmax l (by omega) hx.2 (by omega) with h | h
        · exact h
        · omega
      · exact ih (by omega)
  induction k with
  | zero => cases hi
  | succ k ih =>
    rw [bestVictim_succ]
    rcases Nat.lt_succ_iff_lt_or_eq.mp hi with hk | rfl
    · rw [ih hk fun l hl => hmax l (by omega)]
      refine if_neg fun hx => ?_
      rcases hmax k (by omega) hx.2 (by omega) with h | h <;> omega
    · exact if_pos ⟨hbelow i (Nat.le_refl i), hp⟩

/-- What an idle spindle takes from `v` (R182). -/
def stolenFrom (b : Block) (p v : Nat) (j : TileJob) : Block :=
  let b1 := (b.countEvent p (b.spd v).ctx 0x1D 1).countEvent v (b.spd v).ctx 0x1E 1
  (b1.modJob v fun x => { x with ntEnd := j.ntEnd - 1, stolen := x.stolen ++ [j.ntEnd - 1] }).modSpd p fun s =>
    { s with thief := some { victim := v, idx := j.idx, nt := j.ntEnd - 1 }, bowlCtx := (b1.spd v).ctx }

theorem stolenFrom_keeps {v : Nat} (hvp : v ≠ p) (hj : (b.spd v).job = some j) :
    ((stolenFrom b p v j).spd p).thief = some { victim := v, idx := j.idx, nt := j.ntEnd - 1 } ∧ ((stolenFrom b p v j).spd p).bowlCtx = (b.spd v).ctx
      ∧ ((stolenFrom b p v j).spd v).job = some { j with ntEnd := j.ntEnd - 1, stolen := j.stolen ++ [j.ntEnd - 1] }
      ∧ ((stolenFrom b p v j).spd v).matrixQ = (b.spd v).matrixQ ∧ ((stolenFrom b p v j).spd v).bowl = (b.spd v).bowl
      ∧ ((stolenFrom b p v j).spd p).bowl = (b.spd p).bowl ∧ ∀ u : Nat, u ≠ p → u ≠ v → (stolenFrom b p v j).spd u = b.spd u := by
  obtain ⟨t, ht⟩ := Block.countEvent_spd b p (b.spd v).ctx 0x1D 1
  obtain ⟨-, hrest⟩ := Block.countEvent_only b p (b.spd v).ctx 0x1D 1
  unfold stolenFrom
  generalize b.countEvent p (b.spd v).ctx 0x1D 1 = c at ht hrest
  obtain ⟨t', ht'⟩ := Block.countEvent_spd c v (b.spd v).ctx 0x1E 1
  obtain ⟨-, hrest'⟩ := Block.countEvent_only c v (b.spd v).ctx 0x1E 1
  generalize c.countEvent v (b.spd v).ctx 0x1E 1 = d at ht' hrest'
  have hv : d.spd v = { b.spd v with cntProg := t' } := by rw [ht', hrest v hvp]
  have hp : d.spd p = { b.spd p with cntProg := t } := by rw [hrest' p hvp.symm, ht]
  refine ⟨?_, ?_, ?_, ?_, ?_, ?_, fun u hup huv => ?_⟩
  · simp only [Block.modSpd_spd]
  · simp only [Block.modSpd_spd, hv, Spindle.ctx]
  · simp only [Block.modSpd_spd_ne _ _ hvp, Block.modJob, Block.modSpd_spd, hv, hj, Option.map_some]
  · simp only [Block.modSpd_spd_ne _ _ hvp, Block.modJob, Block.modSpd_spd, hv]
  · simp only [Block.modSpd_spd_ne _ _ hvp, Block.modJob, Block.modSpd_spd, hv]
  · simp only [Block.modSpd_spd, Block.modJob, Block.modSpd_spd_ne _ _ hvp.symm, hp]
  · simp only [Block.modSpd_spd_ne _ _ hup, Block.modJob, Block.modSpd_spd_ne _ _ huv]
    rw [hrest' u huv, hrest u hup]

theorem stealTake_none (hr : b.arraysRun p = true) (hc : (b.spd p).cur = none) (ht : (b.spd p).thief = none)
    (h : ∀ i, i < 68 → 68 * tileOf p + i ≠ p → b.stealable (tileOf p) (68 * tileOf p + i) = 0) : b.stealTake p = b := by
  have hbest := bestVictim_none (n := b.stealable (tileOf p)) h
  unfold bestVictim at hbest
  unfold Block.stealTake
  simp only [hr, hc, ht, hbest, Bool.not_true, Option.isSome_none, Bool.or_self, Bool.false_eq_true, if_false, if_true]

theorem stealTake_eq {v : Nat} (hr : b.arraysRun p = true) (hc : (b.spd p).cur = none) (ht : (b.spd p).thief = none) (htile : tileOf v = tileOf p) (hvp : v ≠ p)
    (hj : (b.spd v).job = some j) (hn : b.stealable (tileOf p) v ≠ 0)
    (hmax : ∀ u, tileOf u = tileOf p → u ≠ p → u ≠ v → b.stealable (tileOf p) u < b.stealable (tileOf p) v
      ∨ b.stealable (tileOf p) u = b.stealable (tileOf p) v ∧ v < u) : b.stealTake p = stolenFrom b p v j := by
  have hv : 68 * tileOf p + v % 68 = v := by
    simp only [tileOf] at htile ⊢
    omega
  have hbest : bestVictim (b.stealable (tileOf p)) p (68 * tileOf p) 68 = (v, b.stealable (tileOf p) v) := by
    have h := bestVictim_eq (n := b.stealable (tileOf p)) (p := p) (base := 68 * tileOf p) (i := v % 68) (k := 68) (by omega) (by rwa [hv]) (by rwa [hv])
    rw [hv] at h
    refine h fun l hl hlp hne => ?_
    rcases hmax (68 * tileOf p + l) (by simp only [tileOf]; omega) hlp (by omega) with h | h
    · exact .inl h
    · exact .inr ⟨h.1, by omega⟩
  unfold bestVictim at hbest
  unfold Block.stealTake stolenFrom
  simp only [hr, hc, ht, hbest, hn, hj, Bool.not_true, Option.isSome_none, Bool.or_self, Bool.false_eq_true, if_false]

end

/-- Settles O23: each event of the matrix array, and the choice of a stolen tile. -/
theorem matrixEventsAndStealing : Obligations.MatrixEventsAndStealing := by
  refine ⟨?own, ?stolen, ?steals⟩
  case own =>
    intro p s j q b spd t sp hr ht hj
    refine ⟨fun nt hv hc hm hk => ?_, fun nt set rest b' hl hm hd hq => ⟨fun hdr => ?_, fun st hdr => ?_⟩, fun hv hn => ⟨fun hf => ?_, fun hf => ?_⟩⟩
    · intro o
      refine ⟨fun hb => ?_, fun hb => ?_⟩
      · exact served rfl fun hst => orWait_eq ((weightTile_own hr ht hj hc hm hk).trans (if_pos hb)) hst
      · exact served rfl fun hst => orWait_eq ((weightTile_own hr ht hj hc hm hk).trans (if_neg (by simpa using hb))) hst
    · exact served rfl fun hst => orWait_eq (bowlDrain_own hr hl ht hj hm hd hq hdr) hst
    · exact served rfl fun hst => orWait_eq (bowlDrain_breach hr hl ht hj hm hd hq hdr) hst
    · exact gives rfl (orWait_same (nestVisit_waits hj hf))
    · intro taken
      refine ⟨fun hb => ?_, fun hb => ?_⟩
      · exact served rfl fun hst => orWait_eq ((nestVisit_takes hr hj hv hn hf).trans (if_pos hb)) hst
      · exact served rfl fun hst => orWait_eq ((nestVisit_takes hr hj hv hn hf).trans (if_neg (by simpa using hb))) hst
  case stolen =>
    intro p s x j q b t hr ht hj
    refine ⟨fun hf hk hrows => ?_, fun b' hl hf hq hdr => ?_⟩
    · intro o skip counted hb
      exact served rfl fun hst => orWait_eq (weightTile_stolen hr ht hj hf hk hrows hb) hst
    · exact served rfl fun hst => orWait_eq (bowlDrain_stolen hr hl ht hj hf hq hdr) hst
  case steals =>
    intro p s b hr hcur hth
    refine ⟨fun hnone => ?_, fun v j htile hvp hj hn hmax => ?_⟩
    · refine gives rfl (stealTake_none hr hcur hth fun i _ hne => ?_)
      exact hnone _ (by simp only [tileOf]; omega) hne
    · have htake := stealTake_eq (v := v.val) hr hcur hth (by exact htile) (fun h => hvp (Fin.ext h)) hj hn fun u hu hup huv => hmax u hu hup huv
      exact ⟨_, gives rfl htake, stolenFrom_keeps (fun h => hvp (Fin.ext h)) hj⟩

end Sys2Proof.Proofs
end

section
/-!
SUPPORT. Cells: what an operation at a bank may change, the cell words, signals, polls and timeouts (R265 to R279).
-/
namespace Sys2Proof.Proofs
open Sys2Proof.Machine Sys2Proof.Claims

/-! ### What operations at the banks leave unchanged -/

/-- `b'` is `b` but for the cells, the signals on their way, the sticky registers of the tiles, a freeze's held operations and the
traffic counters. -/
def CellOnly (b b' : Block) : Prop :=
  ∃ ts cs ss fz n, b' = { b with tiles := ts, cells := cs, sigs := ss, frozen := fz, cnt := n }

namespace CellOnly
variable {a b c : Block}

theorem refl (b : Block) : CellOnly b b := ⟨b.tiles, b.cells, b.sigs, b.frozen, b.cnt, rfl⟩

theorem trans (h : CellOnly a b) (k : CellOnly b c) : CellOnly a c := by
  obtain ⟨_, _, _, _, _, rfl⟩ := h
  obtain ⟨_, _, _, _, _, rfl⟩ := k
  exact ⟨_, _, _, _, _, rfl⟩

theorem foldl {β : Type} {g : Block → β → Block} (h : ∀ b x, CellOnly b (g b x)) (l : List β) (b : Block) : CellOnly b (l.foldl g b) := by
  induction l generalizing b with
  | nil => exact refl b
  | cons x l ih => exact (h b x).trans (ih _)

theorem countPort (b : Block) (p n : Nat) : CellOnly b (b.countPort p n) := by
  unfold Block.countPort
  split
  · exact refl b
  · exact ⟨_, _, _, _, _, rfl⟩

theorem countRoute (b : Block) (s d : Option Nat) (g n : Nat) : CellOnly b (b.countRoute s d g n) := foldl (fun b _ => countPort b _ _) _ b

theorem applySig (b : Block) (g : Sig) : CellOnly b (b.applySig g) := by
  unfold Block.applySig
  dsimp only
  split
  · exact ⟨_, _, _, _, _, rfl⟩
  · exact ⟨_, _, _, _, _, rfl⟩

theorem cellArrive (b : Block) (g : Sig) : CellOnly b (b.cellArrive g) := by
  unfold Block.cellArrive
  split
  · exact ⟨_, _, _, _, _, rfl⟩
  · split
    · exact ⟨_, _, _, _, _, rfl⟩
    · exact applySig b g

theorem arrive (b : Block) (l : List Sig) (g : Sig) : CellOnly b (({ b with sigs := l } : Block).cellArrive g) :=
  trans (b := { b with sigs := l }) ⟨_, _, _, _, _, rfl⟩ (cellArrive ..)

theorem cellFirst (b : Block) (p : Option Nat) (c : Nat) : CellOnly b (b.cellFirst p c) := foldl (fun b _ => arrive b _ _) _ b

theorem cellMet (b : Block) (p : Option Nat) (c : Nat) : CellOnly b (b.cellMet p c) :=
  ((cellFirst b p c).trans (countRoute ..)).trans (countRoute ..)

theorem spd (h : CellOnly a b) (q : Nat) : b.spd q = a.spd q := by
  obtain ⟨_, _, _, _, _, rfl⟩ := h
  rfl

theorem spindles (h : CellOnly a b) : b.spindles = a.spindles := by
  obtain ⟨_, _, _, _, _, rfl⟩ := h
  rfl

theorem stalled (h : CellOnly a b) : b.stalled = a.stalled := by
  obtain ⟨_, _, _, _, _, rfl⟩ := h
  rfl

end CellOnly

/-- Counting traffic leaves everything but the counters. -/
theorem countPort_cnt (b : Block) (p n : Nat) : ∃ t, b.countPort p n = { b with cnt := t } := by
  unfold Block.countPort
  split
  · exact ⟨b.cnt, rfl⟩
  · exact ⟨_, rfl⟩

theorem countRoute_cnt (b : Block) (s d : Option Nat) (g n : Nat) : ∃ t, b.countRoute s d g n = { b with cnt := t } := by
  unfold Block.countRoute
  generalize route s d g = l
  induction l generalizing b with
  | nil => exact ⟨b.cnt, rfl⟩
  | cons p l ih =>
    obtain ⟨t, ht⟩ := countPort_cnt b p n
    obtain ⟨u, hu⟩ := ih (b.countPort p n)
    exact ⟨u, by rw [List.foldl_cons, hu, ht]⟩

/-- The trip to a bank and back is counted and nothing else. -/
theorem cellMet_cnt (b : Block) (p : Option Nat) (c : Nat) : ∃ t, b.cellMet p c = { b.cellFirst p c with cnt := t } := by
  obtain ⟨t, ht⟩ := countRoute_cnt (b.cellFirst p c) (p.map tileOf) (some (cellTile c)) 0 64
  obtain ⟨u, hu⟩ := countRoute_cnt ({ b.cellFirst p c with cnt := t }) (some (cellTile c)) (p.map tileOf) 0 64
  exact ⟨u, by rw [Block.cellMet, Block.cellTrip, Block.cellTraffic, ht, hu]⟩

/-- Without a freeze nothing that arrives is held. -/
theorem cellArrive_frozen {b : Block} (h : b.frozen = none) (g : Sig) : (b.cellArrive g).frozen = none := by
  unfold Block.cellArrive
  split
  · next z hz => exact absurd (h.symm.trans hz) (by simp)
  · split
    · exact h
    · unfold Block.applySig
      dsimp only
      split <;> exact h

theorem cellFirst_frozen {b : Block} (h : b.frozen = none) (p : Option Nat) (c : Nat) : (b.cellFirst p c).frozen = none := by
  unfold Block.cellFirst
  generalize b.sigs.filter _ = l
  induction l generalizing b with
  | nil => exact h
  | cons g l ih => exact ih (cellArrive_frozen (b := { b with sigs := eraseFirst (· == g) b.sigs }) h g)

theorem cellMet_frozen {b : Block} (h : b.frozen = none) (p : Option Nat) (c : Nat) : (b.cellMet p c).frozen = none := by
  obtain ⟨t, ht⟩ := cellMet_cnt b p c
  rw [ht]
  exact cellFirst_frozen h p c

/-- The cells after an arrival that no freeze holds (R267, R269). -/
def arriveCells (t : Tab Cell) (g : Sig) : Tab Cell :=
  tput {} t g.cell (if g.isSet then { count := g.amount } else signalled (tget {} t g.cell) g)

theorem applySig_cells (b : Block) (g : Sig) : (b.applySig g).cells = tput {} b.cells g.cell (signalled (b.cell g.cell) g) := by
  have hv : clampI (-(2 ^ 63)) (2 ^ 63 - 1) ((b.cell g.cell).count + g.amount) = (signalled (b.cell g.cell) g).count := rfl
  have hs : ((b.cell g.cell).sat || (decide (2 ^ 63 - 1 < (b.cell g.cell).count + g.amount) || decide ((b.cell g.cell).count + g.amount < -(2 ^ 63))))
      = (signalled (b.cell g.cell) g).sat := (Bool.or_assoc ..).symm
  unfold Block.applySig
  dsimp only
  rw [hv, hs]
  split <;> rfl

theorem cellArrive_cells {b : Block} (h : b.frozen = none) (g : Sig) : (b.cellArrive g).cells = arriveCells b.cells g := by
  unfold Block.cellArrive arriveCells
  split
  · next z hz => exact absurd (h.symm.trans hz) (by simp)
  · split
    · rfl
    · exact applySig_cells b g

theorem cellFirst_cells {b : Block} (h : b.frozen = none) (p : Option Nat) (c : Nat) : (b.cellFirst p c).cells =
    (b.sigs.filter fun g => g.island == p && cellTile g.cell == cellTile c && b.sigReady g).foldl arriveCells b.cells := by
  unfold Block.cellFirst
  generalize b.sigs.filter _ = l
  induction l generalizing b with
  | nil => rfl
  | cons g l ih =>
    let b' : Block := { b with sigs := eraseFirst (· == g) b.sigs }
    rw [List.foldl_cons, List.foldl_cons, ← cellArrive_cells (b := b') h g]
    exact ih (cellArrive_frozen (b := b') h g)

theorem arriveCells_wf {t : Tab Cell} (h : tabWf {} t = true) (g : Sig) : tabWf {} (arriveCells t g) = true := tput_wf _ h

theorem cellFirst_wf {b : Block} (h : tabWf {} b.cells = true) (hf : b.frozen = none) (p : Option Nat) (c : Nat) : tabWf {} (b.cellFirst p c).cells = true := by
  rw [cellFirst_cells hf]
  generalize b.sigs.filter _ = l
  generalize b.cells = t at h
  induction l generalizing t with
  | nil => exact h
  | cons g l ih => exact ih _ (arriveCells_wf h g)

theorem cellMet_cells (b : Block) (p : Option Nat) (c : Nat) : (b.cellMet p c).cells = (b.cellFirst p c).cells := by
  obtain ⟨t, ht⟩ := cellMet_cnt b p c
  rw [ht]

/-- An island's cells do not depend on its spindles. -/
theorem cellFirst_setSpd_cells {b : Block} (h : b.frozen = none) (q : Nat) (x : Spindle) (p : Option Nat) (c : Nat) :
    ((b.setSpd q x).cellFirst p c).cells = (b.cellFirst p c).cells := by
  rw [cellFirst_cells h, cellFirst_cells (b := b.setSpd q x) h]
  rfl

/-! ### Staging an effect -/

/-- Effects enter the buffer in issue order: alone and with nothing older to come, at once (R140). -/
theorem stage_now {b : Block} {m : Dram} {p i : Nat} {x : Effect} (hw : (b.spd p).stageWait = []) (hb : (b.spd p).stagesBefore i = false) :
    b.stage m p i x = (b.setSpd p (b.spd p)).stageOne m p x := by
  have hclear : ({ b.spd p with stageWait := [] } : Spindle) = b.spd p := by rw [← hw]
  have hbefore : ({ b.spd p with stageWait := [(i, x)] } : Spindle).stagesBefore i = false := hb
  simp only [Block.stage, Block.modSpd, hw, List.filter_nil, List.nil_append, Block.stagePump, Block.spd_setSpd, List.length_cons, List.length_nil, iter,
    List.range_succ, List.range_zero, List.foldl_cons, List.foldl_nil, hbefore, Bool.false_eq_true, if_false, Block.setSpd_setSpd]
  exact congrArg (fun s => (b.setSpd p s).stageOne m p x) hclear

/-- Behind an older command that may still stage an effect it waits (R140). -/
theorem stage_later {b : Block} {m : Dram} {p i : Nat} {x : Effect} (hw : (b.spd p).stageWait = []) (hb : (b.spd p).stagesBefore i = true) :
    b.stage m p i x = b.setSpd p { b.spd p with stageWait := [(i, x)] } := by
  have hbefore : ({ b.spd p with stageWait := [(i, x)] } : Spindle).stagesBefore i = true := hb
  simp only [Block.stage, Block.modSpd, hw, List.filter_nil, List.nil_append, Block.stagePump, Block.spd_setSpd, List.length_cons, List.length_nil, iter,
    List.range_succ, List.range_zero, List.foldl_cons, List.foldl_nil, hbefore, if_true]

/-- An effect that fits is staged, and its bytes are counted (R140). -/
theorem stageOne_fits {b : Block} {m : Dram} {p : Nat} {x : Effect} (ho : (b.spd p).overflow = false)
    (hf : (b.spd p).stagingUsed + effectSize x ≤ 0x40000) : ∃ t, b.stageOne m p x = b.setSpd p
      { b.spd p with staging := (b.spd p).staging ++ [x], stagingUsed := (b.spd p).stagingUsed + effectSize x, cntProg := t } := by
  have hcount (b : Block) (c k n : Nat) (s : Spindle) : ∃ t, (b.setSpd p s).countEvent p c k n = b.setSpd p { s with cntProg := t } := by
    unfold Block.countEvent
    dsimp only
    split
    · exact ⟨s.cntProg, rfl⟩
    · exact ⟨_, by rw [Block.setSpd_setSpd, Block.spd_setSpd]⟩
  unfold Block.stageOne
  simp only [ho, Bool.false_eq_true, if_false, if_pos hf]
  exact hcount ..

/-- After an overflow an effect applies without staging (R140). -/
theorem stageOne_overflow {b : Block} {m : Dram} {p : Nat} {x : Effect} (ho : (b.spd p).overflow = true) :
    b.stageOne m p x = b.applyEffect m (b.issuer p) x := if_pos ho

/-! ### SSIG, SREAD, SWAIT -/

/-- A confirmed cell word that breaks a check ends its blank with INVALID_FIELD or ACCESS_DENIED. -/
theorem cellBad_range {b : Block} {c cell : Nat} (h : 131072 ≤ cell) : b.cellBad c cell = some .invalidField := if_pos h

theorem cellBad_foreign {b : Block} {c cell : Nat} (h : cell < 131072) (ho : b.cellOwned c cell = false) : b.cellBad c cell = some .accessDenied := by
  simp [Block.cellBad, Nat.not_le.mpr h, ho]

section
variable {b : Block} {m : Dram} {p w cell : Nat}

/-- What SSIG asks of its operands (R271, R272). -/
def SsigSound (b : Block) (p w cell : Nat) : Prop :=
  if bit w 99 then cell < 131072 ∧ (b.connOf (b.spd p).ctx (bits w 111 100)).isSome else bits w 111 100 = 0 ∧ b.cellBad (b.spd p).ctx cell = none

/-- The signal that SSIG stages. -/
def ssigEffect (b : Block) (p w cell : Nat) : Effect :=
  .signal (b.spd p).nextIdx (if bit w 99 then some (bits w 111 100) else none) cell
    (sext 64 (trunc 64 ((((b.spd p).reg (bits w 41 37)).toNat : Int) + sbits w 127 112)))

/-- Why SSIG is refused (R271). -/
def ssigRefusal (b : Block) (p w cell : Nat) : Option Status :=
  if 131072 ≤ cell then some .invalidField
  else if bit w 99 then (if (b.connOf (b.spd p).ctx (bits w 111 100)).isNone then some .invalidField else none)
  else if bits w 111 100 ≠ 0 then some .invalidField
  else b.cellBad (b.spd p).ctx cell

theorem ssig_sound (hcell : (b.spd p).cellArg w = cell) (h : ssigRefusal b p w cell = none) :
    b.ssig m p w = (b.advance p).stage m p (b.spd p).nextIdx (ssigEffect b p w cell) := by
  subst hcell
  unfold Block.ssig
  dsimp only
  unfold ssigRefusal at h
  rw [h]
  rfl

theorem ssig_refused {st : Status} (hcell : (b.spd p).cellArg w = cell) (h : ssigRefusal b p w cell = some st) : b.ssig m p w = b.wordFault p 0x30 st := by
  subst hcell
  unfold Block.ssig
  dsimp only
  unfold ssigRefusal at h
  rw [h]

theorem ssigRefusal_none (h : SsigSound b p w cell) : ssigRefusal b p w cell = none := by
  unfold SsigSound at h
  unfold ssigRefusal
  by_cases hb : bit w 99 = true
  · obtain ⟨hc, hk⟩ := (if_pos hb).mp h
    rw [if_neg (Nat.not_le.mpr hc), if_pos hb, if_neg (by simp [Option.isSome_iff_ne_none.mp hk])]
  · obtain ⟨hz, hk⟩ := (if_neg hb).mp h
    have hc : ¬ 131072 ≤ cell := fun hc => by simp [cellBad_range hc] at hk
    rw [if_neg hc, if_neg hb, if_neg (by simp [hz]), hk]

theorem ssigRefusal_field (h : 131072 ≤ cell ∨ (bit w 99 = true ∧ b.connOf (b.spd p).ctx (bits w 111 100) = none) ∨ (bit w 99 = false ∧ bits w 111 100 ≠ 0)) :
    ssigRefusal b p w cell = some .invalidField := by
  unfold ssigRefusal
  split
  · rfl
  · next hc =>
    rcases h with h | ⟨hb, hk⟩ | ⟨hb, hk⟩
    · exact absurd h hc
    · rw [if_pos hb, hk]
      rfl
    · rw [if_neg (by simp [hb]), if_pos hk]

theorem ssigRefusal_foreign (hb : bit w 99 = false) (hz : bits w 111 100 = 0) (hc : cell < 131072) (ho : b.cellOwned (b.spd p).ctx cell = false) :
    ssigRefusal b p w cell = some .accessDenied := by
  unfold ssigRefusal
  rw [if_neg (Nat.not_le.mpr hc), if_neg (by simp [hb]), if_neg (by simp [hz]), cellBad_foreign hc ho]

/-- SREAD meets its cell behind what its island has sent there (R13, R270). -/
theorem sread_reads (hcell : (b.spd p).cellArg w = cell) (h : b.cellBad (b.spd p).ctx cell = none) (hf : ((b.advance p).cellMet (some p) cell).frozen = none) :
    b.sread p w = ((b.advance p).cellMet (some p) cell).sreadDone p cell (bits w 36 32) := by
  subst hcell
  unfold Block.sread
  simp only [h, hf]

theorem sread_held {z : Freeze} (hcell : (b.spd p).cellArg w = cell) (h : b.cellBad (b.spd p).ctx cell = none)
    (hf : ((b.advance p).cellMet (some p) cell).frozen = some z) :
    b.sread p w = ({ (b.advance p).cellMet (some p) cell with
      frozen := some { z with held := z.held ++ [.read p (b.spd p).serial cell (bits w 36 32)] } } : Block).setSpd p
        { (b.spd p).issued with hold := .sread (b.spd p).pc } := by
  subst hcell
  have hm : ((b.advance p).cellMet (some p) ((b.spd p).cellArg w)).spd p = (b.spd p).issued := ((CellOnly.cellMet ..).spd p).trans (Block.spd_setSpd b p _)
  unfold Block.sread
  simp only [h, hf]
  generalize (b.advance p).cellMet (some p) ((b.spd p).cellArg w) = m at hm
  rw [← hm]
  rfl

theorem sread_refused {st : Status} (hcell : (b.spd p).cellArg w = cell) (h : b.cellBad (b.spd p).ctx cell = some st) : b.sread p w = b.wordFault p 0x32 st := by
  subst hcell
  unfold Block.sread
  simp only [h]

/-- Why SWAIT is refused (R276). -/
def swaitRefusal (b : Block) (p w cell theta : Nat) : Option Status :=
  if 131072 ≤ cell ∨ theta = 0 ∨ 2 ^ 63 ≤ theta ∨ (bit w 99 && bit w 79) ∨ (bit w 99 = false ∧ bits w 111 100 ≠ 0) then some .invalidField
  else if bit w 99 && (b.connOf (b.spd p).ctx (bits w 111 100)).isNone then some .invalidField
  else b.cellBad (b.spd p).ctx cell

/-- The wait that SWAIT begins. -/
def swaitOf (b : Block) (p w cell theta : Nat) : Wait :=
  { cell, theta, consume := bit w 81, hot := bit w 80, watchEn := bit w 99, watchPeer := bits w 111 100, watchAll := bit w 79
    rd := bits w 36 32, started := b.time, pc := (b.spd p).pc }

variable {theta : Nat}

theorem swait_sound (hcell : (b.spd p).cellArg w = cell) (ht : (((b.spd p).reg (bits w 41 37)).toNat + bits w 127 112) % 2 ^ 64 = theta)
    (h : swaitRefusal b p w cell theta = none) : b.swait p w = b.setSpd p { (b.spd p).issued with
      hold := .swait { swaitOf b p w cell theta with peerLostDue := b.watchedLost (b.spd p).ctx (swaitOf b p w cell theta) } } := by
  subst hcell ht
  unfold Block.swait
  dsimp only
  unfold swaitRefusal at h
  rw [h, Block.advance_eq, Block.modSpd, Block.spd_setSpd, Block.setSpd_setSpd]
  rfl

theorem swait_refused {st : Status} (hcell : (b.spd p).cellArg w = cell) (ht : (((b.spd p).reg (bits w 41 37)).toNat + bits w 127 112) % 2 ^ 64 = theta)
    (h : swaitRefusal b p w cell theta = some st) : b.swait p w = b.wordFault p 0x31 st := by
  subst hcell ht
  unfold Block.swait
  dsimp only
  unfold swaitRefusal at h
  rw [h]

/-- What breaks the form of a SWAIT (R276). -/
def SwaitBreach (b : Block) (p w cell theta : Nat) : Prop :=
  131072 ≤ cell ∨ theta = 0 ∨ 2 ^ 63 ≤ theta ∨ (bit w 99 = true ∧ bit w 79 = true) ∨ (bit w 99 = false ∧ bits w 111 100 ≠ 0)
    ∨ (bit w 99 = true ∧ b.connOf (b.spd p).ctx (bits w 111 100) = none)

theorem swaitRefusal_breach (h : SwaitBreach b p w cell theta) : swaitRefusal b p w cell theta = some .invalidField := by
  unfold swaitRefusal
  split
  · rfl
  · next hn =>
    rcases h with h | h | h | h | h | ⟨hb, hk⟩
    · exact absurd (.inl h) hn
    · exact absurd (.inr (.inl h)) hn
    · exact absurd (.inr (.inr (.inl h))) hn
    · exact absurd (.inr (.inr (.inr (.inl (by simp [h]))))) hn
    · exact absurd (.inr (.inr (.inr (.inr h)))) hn
    · rw [if_pos (by simp [hb, hk])]

theorem swaitRefusal_cell (h : ¬ SwaitBreach b p w cell theta) : swaitRefusal b p w cell theta = b.cellBad (b.spd p).ctx cell := by
  unfold SwaitBreach at h
  unfold swaitRefusal
  rw [if_neg, if_neg]
  · simp only [Bool.and_eq_true, Option.isNone_iff_eq_none]
    tauto
  · simp only [Bool.and_eq_true]
    tauto

end

/-- A word issues only where nothing holds the sequencer. -/
theorem hold_of_canIssue {b : Block} {p w : Nat} {rs : List Nat} (h : b.canIssue p w rs = true) : (b.spd p).hold = .none := by
  simp only [Block.canIssue, Block.mayIssue, Bool.and_eq_true, beq_iff_eq] at h
  obtain ⟨⟨⟨⟨⟨⟨⟨⟨-, h⟩, -⟩, -⟩, -⟩, -⟩, -⟩, -⟩, -⟩ := h
  exact h

/-- Settles O33: each cell word, by what is refused first. -/
theorem cellWords : Obligations.CellWords := by
  refine ⟨fun p w s => ?ssig, fun p w s => ?sread, fun p w s => ?swait⟩
  case ssig =>
    intro b spd x cell dst amount sound breach hi hst
    refine ⟨fun hc hz => ?_, fun hc => gives rfl (orWait_same (seqWord_waits hc))⟩
    have hword (b' : Block) (h : b.ssig s.dram p x = b') : Served (.ssig p w) s b' :=
      served rfl fun hs => orWait_eq ((seqWord_sound hi (.inr hc) (by rw [hz]; rfl)).trans h) hs
    have hfault (st : Status) (h : ssigRefusal b p x cell = some st) :
        Served (.ssig p w) s (b.blankFault p spd.nextIdx st 0x30 (spd.pcOffset spd.pc)) :=
      hword _ ((ssig_refused rfl h).trans (wordFault_confirmed hc 0x30 st))
    have hissued : (b.advance p).spd p = spd.issued := Block.spd_setSpd _ _ _
    refine ⟨fun hs hw hb ho hf => ?_, fun hs hw hb => ?_, fun hs hw hb ho => ?_, fun h => hfault _ (ssigRefusal_field h),
      fun h1 h2 h3 h4 => hfault _ (ssigRefusal_foreign h1 h2 h3 h4)⟩
    · obtain ⟨t, ht⟩ := stageOne_fits (b := b.setSpd p spd.issued) (m := s.dram) (p := p) (x := ssigEffect b p x cell)
        (by rw [Block.spd_setSpd]; exact ho) (by rw [Block.spd_setSpd]; exact hf)
      rw [Block.setSpd_setSpd, Block.spd_setSpd] at ht
      refine ⟨t, hword _ (((ssig_sound rfl (ssigRefusal_none hs)).trans ?_).trans ht) hst⟩
      have hnow := stage_now (b := b.advance p) (m := s.dram) (p := p) (i := spd.nextIdx) (x := ssigEffect b p x cell)
        (by rw [hissued]; exact hw) (by rw [hissued]; exact hb)
      rw [hissued, Block.advance_eq, Block.setSpd_setSpd] at hnow
      exact hnow
    · have hlater := stage_later (b := b.advance p) (m := s.dram) (p := p) (i := spd.nextIdx) (x := ssigEffect b p x cell)
        (by rw [hissued]; exact hw) (by rw [hissued]; exact hb)
      rw [hissued, Block.advance_eq, Block.setSpd_setSpd] at hlater
      exact hword _ ((ssig_sound rfl (ssigRefusal_none hs)).trans hlater) hst
    · intro a
      have hnow := stage_now (b := b.advance p) (m := s.dram) (p := p) (i := spd.nextIdx) (x := ssigEffect b p x cell)
        (by rw [hissued]; exact hw) (by rw [hissued]; exact hb)
      rw [hissued, Block.advance_eq, Block.setSpd_setSpd] at hnow
      refine hword _ (((ssig_sound rfl (ssigRefusal_none hs)).trans hnow).trans (stageOne_overflow ?_))
      rw [Block.spd_setSpd]
      exact ho
  case sread =>
    intro b spd x cell rd m hi
    refine ⟨fun hc hz => ?_, fun hc => gives rfl (seqWord_waits hc)⟩
    have hword (b' : Block) (h : b.sread p x = b') : Gives (.sread p w) s b' :=
      gives rfl ((seqWord_sound hi (.inr hc) (by rw [hz]; rfl)).trans h)
    have hfault (st : Status) (h : b.cellBad spd.ctx cell = some st) :
        Gives (.sread p w) s (b.blankFault p spd.nextIdx st 0x32 (spd.pcOffset spd.pc)) :=
      hword _ ((sread_refused rfl h).trans (wordFault_confirmed hc 0x32 st))
    have hm : m.spd p = spd.issued := ((CellOnly.cellMet ..).spd p).trans (Block.spd_setSpd b p _)
    refine ⟨fun hcell hf => ⟨?_, ?_⟩, fun hcell z hz => ?_, fun h => hfault _ (cellBad_range h), fun h1 h2 => hfault _ (cellBad_foreign h1 h2)⟩
    · refine hword _ ((sread_reads rfl hcell (cellMet_frozen (b := b.advance p) hf _ _)).trans ?_)
      have hhold : (spd.issued.setReg rd (BitVec.ofInt 64 (m.cell cell).count)).hold = .none := by
        unfold Spindle.setReg
        split <;> exact hold_of_canIssue hi
      show m.setSpd p { (m.spd p).setReg rd (BitVec.ofInt 64 (m.cell cell).count) with hold := .none } = _
      rw [hm, ← hhold]
    · show (tget {} m.cells cell).count = (tget {} (b.cellFirst (some p.val) cell).cells cell).count
      rw [cellMet_cells, cellFirst_setSpd_cells hf]
    · exact hword _ (sread_held rfl hcell hz)
  case swait =>
    intro b spd x cell theta k breach hi
    refine ⟨fun hc hz => ?_, fun hc => gives rfl (seqWord_waits hc)⟩
    have hword (b' : Block) (h : b.swait p x = b') : Gives (.swait p w) s b' :=
      gives rfl ((seqWord_sound hi (.inr hc) (by rw [hz]; rfl)).trans h)
    have hfault (st : Status) (h : swaitRefusal b p x cell theta = some st) :
        Gives (.swait p w) s (b.blankFault p spd.nextIdx st 0x31 (spd.pcOffset spd.pc)) :=
      hword _ ((swait_refused rfl rfl h).trans (wordFault_confirmed hc 0x31 st))
    refine ⟨fun hn ho => ?_, fun h => hfault _ (swaitRefusal_breach h), fun hn ho => ?_⟩
    · have hcell : cell < 131072 := Nat.not_le.mp fun h => hn (.inl h)
      refine hword _ (swait_sound rfl rfl ((swaitRefusal_cell hn).trans ?_))
      simp [Block.cellBad, Nat.not_le.mpr hcell, show b.cellOwned (b.spd p).ctx cell = true from ho]
    · exact hfault _ ((swaitRefusal_cell hn).trans (cellBad_foreign (Nat.not_le.mp fun h => hn (.inl h)) ho))

end Sys2Proof.Proofs
end

section
/-!
SUPPORT. Signals at their banks, polls and timeouts (R267 to R278).
-/
namespace Sys2Proof.Proofs
open Sys2Proof.Machine Sys2Proof.Claims

/-! ### Signals (R267, R269) -/

theorem find_first {α : Type} {f : α → Bool} {older rest : List α} {g : α} (ho : ∀ x ∈ older, f x = false) (hg : f g = true) :
    (older ++ g :: rest).find? f = some g := by
  rw [List.find?_append, List.find?_eq_none.mpr fun x hx => by simp [ho x hx], List.find?_cons_of_pos hg]
  rfl

theorem eraseFirst_append {α : Type} [BEq α] [LawfulBEq α] {older rest : List α} {g : α} (h : g ∉ older) :
    eraseFirst (· == g) (older ++ g :: rest) = older ++ rest := by
  induction older with
  | nil => simp [eraseFirst]
  | cons x older ih =>
    have hx : (x == g) = false := beq_eq_false_iff_ne.mpr fun h' => h (h' ▸ List.mem_cons_self)
    simp [eraseFirst, hx, ih fun h' => h (List.mem_cons_of_mem _ h')]

theorem applySig_keeps (b : Block) (g : Sig) : (b.applySig g).sigs = b.sigs ∧ (b.applySig g).chans = b.chans := by
  unfold Block.applySig
  dsimp only
  split <;> exact ⟨rfl, rfl⟩

theorem cellArrive_free {b : Block} (h : b.frozen = none) (g : Sig) : b.cellArrive g = if g.isSet then b.setCell g.cell g.amount else b.applySig g := by
  unfold Block.cellArrive
  simp only [h]

theorem cellArrive_keeps {b : Block} (h : b.frozen = none) (g : Sig) : (b.cellArrive g).sigs = b.sigs ∧ (b.cellArrive g).chans = b.chans := by
  rw [cellArrive_free h]
  split
  · exact ⟨rfl, rfl⟩
  · exact applySig_keeps b g

theorem cellArrive_held {b : Block} {z : Freeze} (h : b.frozen = some z) (g : Sig) :
    b.cellArrive g = { b with frozen := some { z with held := z.held ++ [.signal g] } } := by
  unfold Block.cellArrive
  simp only [h]

/-- What an arrival does to its cell and to every other one. -/
theorem cellArrive_cell {b : Block} (h : b.frozen = none) (hwf : tabWf {} b.cells = true) (g : Sig) :
    (b.cellArrive g).cell g.cell = (if g.isSet then { count := g.amount } else signalled (b.cell g.cell) g)
      ∧ ∀ c, c ≠ g.cell → (b.cellArrive g).cell c = b.cell c := by
  refine ⟨?_, fun c hc => ?_⟩
  · show tget {} (b.cellArrive g).cells g.cell = _
    rw [cellArrive_cells h, arriveCells, tget_tput _ hwf, if_pos rfl]
    rfl
  · show tget {} (b.cellArrive g).cells c = _
    rw [cellArrive_cells h, arriveCells, tget_tput _ hwf, if_neg hc]
    rfl

theorem signalApply_some {b : Block} {t : Nat} {g : Sig} (hup : b.hubUp = true) (ht : b.thermtripPin = false)
    (hg : b.sigs.find? (fun g => cellTile g.cell == t && b.sigReady g) = some g) :
    b.signalApply t = ({ b with sigs := eraseFirst (· == g) b.sigs } : Block).cellArrive g := by
  unfold Block.signalApply
  simp only [hup, ht, hg, Bool.not_true, Bool.or_self, Bool.false_eq_true, if_false]

theorem signalApply_none {b : Block} {t : Nat} (hg : b.sigs.find? (fun g => cellTile g.cell == t && b.sigReady g) = none) : b.signalApply t = b := by
  unfold Block.signalApply
  rw [hg]
  exact ite_self _

/-- Settles O34: the first signal of the tile that is ready, and what its arrival does. -/
theorem signalAddsToCell : Obligations.SignalAddsToCell := by
  refine ⟨fun t s g older rest => ?ready, fun t s hwait => ?none⟩
  case ready =>
    intro b hsigs holder htile hready hmem hup htrip
    have hfind : b.sigs.find? (fun g => cellTile g.cell == t && b.sigReady g) = some g := by
      rw [hsigs]
      refine find_first (fun x hx => ?_) (by simp [htile, hready])
      rcases holder x hx with h | h <;> simp [h]
    have hgo : b.signalApply t = ({ b with sigs := older ++ rest } : Block).cellArrive g := by
      rw [signalApply_some hup htrip hfind]
      exact congrArg (fun l => ({ b with sigs := l } : Block).cellArrive g) (hsigs ▸ eraseFirst_append hmem)
    refine ⟨fun hf => ⟨_, gives rfl hgo, ?_, fun hwf => ?_, ?_, ?_⟩, fun z hz => gives rfl (hgo.trans (cellArrive_held (b := { b with sigs := older ++ rest }) hz g))⟩
    · exact (cellArrive_keeps (b := { b with sigs := older ++ rest }) hf g).1
    · exact cellArrive_cell (b := { b with sigs := older ++ rest }) hf hwf g
    · exact (CellOnly.arrive b (older ++ rest) g).spindles
    · exact (cellArrive_keeps (b := { b with sigs := older ++ rest }) hf g).2
  case none =>
    refine gives rfl (signalApply_none (List.find?_eq_none.mpr fun g hg => ?_))
    by_cases ht : cellTile g.cell = t
    · simp [Block.sigReady, hwait g hg ht]
    · simp [ht]

/-! ### Polls and timeouts (R268, R276 to R278) -/

section
variable {b : Block} {m : Dram} {p : Nat} {w : Wait} {final : Bool}

/-- What a poll of a wait comes to, once its cell has been met. -/
def pollEnd (m : Dram) (b : Block) (p : Nat) (w : Wait) (final : Bool) : Block :=
  let r := b.pollCell w
  if r.1 then
    let b := if w.consume then r.2.stage m p ((r.2.spd p).nextIdx - 1) (.receipt w.cell w.theta) else r.2
    b.waitDone p w .success
  else if w.peerLostDue then b.waitDone p w .peerLost
  else if final then b.waitDone p w .timeout else b

theorem pollSpindle_meets (hr : b.runs p = true) (hh : (b.spd p).hold = .swait w) (hf : b.frozen = none) :
    b.pollSpindle m p final = pollEnd m (b.cellMet (some p) w.cell) p w final := by
  unfold Block.pollSpindle pollEnd
  simp only [hh, hr, hf, Bool.not_true, Option.isSome_none, Bool.or_self, Bool.false_eq_true, if_false]

theorem pollSpindle_frozen (hh : (b.spd p).hold = .swait w) (hf : b.frozen ≠ none) : b.pollSpindle m p final = b := by
  unfold Block.pollSpindle
  simp only [hh, Option.isSome_iff_ne_none.mpr hf, Bool.or_true, if_true]

theorem pollCell_below (h : (b.cell w.cell).count < w.theta) : b.pollCell w = (false, b) := if_pos h

theorem pollCell_met (h : w.theta ≤ (b.cell w.cell).count) : b.pollCell w = (true, if w.consume then
    { b with cells := tput {} b.cells w.cell { b.cell w.cell with count := (b.cell w.cell).count - w.theta } } else b) := if_neg (Int.not_lt.mpr h)

theorem pollEnd_met (h : w.theta ≤ (b.cell w.cell).count) (hc : w.consume = false) : pollEnd m b p w final = b.waitDone p w .success := by
  unfold pollEnd
  simp only [pollCell_met h, hc, if_true, Bool.false_eq_true, if_false]

theorem pollEnd_consumes (h : w.theta ≤ (b.cell w.cell).count) (hc : w.consume = true) : pollEnd m b p w final =
    (({ b with cells := tput {} b.cells w.cell { b.cell w.cell with count := (b.cell w.cell).count - w.theta } } : Block).stage m p
      ((b.spd p).nextIdx - 1) (.receipt w.cell w.theta)).waitDone p w .success := by
  unfold pollEnd
  simp only [pollCell_met h, hc, if_true]
  rfl

theorem pollEnd_lost (h : (b.cell w.cell).count < w.theta) (hl : w.peerLostDue = true) : pollEnd m b p w final = b.waitDone p w .peerLost := by
  unfold pollEnd
  simp only [pollCell_below h, hl, Bool.false_eq_true, if_false, if_true]

theorem pollEnd_below (h : (b.cell w.cell).count < w.theta) (hl : w.peerLostDue = false) :
    pollEnd m b p w final = if final then b.waitDone p w .timeout else b := by
  unfold pollEnd
  simp only [pollCell_below h, hl, Bool.false_eq_true, if_false]

theorem waitDone_goes {st : Status} (h : st = .success ∨ w.rd ≠ 0) :
    b.waitDone p w st = b.setSpd p { (b.spd p).setReg w.rd (BitVec.ofNat 64 st.code) with hold := .none } := if_pos h

theorem waitDone_ends {st : Status} (hs : st ≠ .success) (h : w.rd = 0) :
    b.waitDone p w st = b.blankFault p ((b.spd p).nextIdx - 1) st 0x31 ((b.spd p).pcOffset w.pc) := if_neg (by simp [hs, h])

theorem tget_tput_self {α : Type} [DecidableEq α] {d : α} {t : Tab α} (h : tabWf d t = true) (k : Nat) (v : α) : tget d (tput d t k v) k = v :=
  (tget_tput d h).trans (if_pos rfl)

/-- Polls and timeouts differ in whether the poll is the last one. -/
theorem exec_poll {mk : Waiter → Instr} (h : (mk, final) ∈ [(Instr.cellPoll, false), (Instr.waitTimeout, true)]) (x : Waiter) (s : State) :
    exec (mk x) s = exec (if final then .waitTimeout x else .cellPoll x) s := by
  simp only [List.mem_cons, Prod.mk.injEq, List.not_mem_nil, or_false] at h
  rcases h with ⟨rfl, rfl⟩ | ⟨rfl, rfl⟩ <;> rfl

theorem exec_pollSpindle {mk : Waiter → Instr} (h : (mk, final) ∈ [(Instr.cellPoll, false), (Instr.waitTimeout, true)]) (p : Spd) (s : State) :
    exec (mk (.spindle p)) s = nextOf s (s.blk.orWait fun b => b.pollSpindle s.dram p final) := by
  rw [exec_poll h]
  cases final <;> rfl

theorem exec_pollLane {mk : Waiter → Instr} (h : (mk, final) ∈ [(Instr.cellPoll, false), (Instr.waitTimeout, true)]) (c : Fin 16) (l : Fin 4) (s : State) :
    exec (mk (.lane c l)) s = nextOf s (s.blk.pollLane s.dram c l final) := by
  rw [exec_poll h]
  cases final <;> rfl

/-- A consuming poll takes its threshold from the cell, and stages it as a receipt of its blank (R140, R268). -/
theorem pollEnd_receipt (hmet : w.theta ≤ (b.cell w.cell).count) (hc : w.consume = true) (ho : (b.spd p).overflow = false)
    (hfit : (b.spd p).stagingUsed + 16 ≤ 0x40000) (hw : (b.spd p).stageWait = []) (hb : (b.spd p).stagesBefore ((b.spd p).nextIdx - 1) = false) :
    ∃ t, pollEnd m b p w final = ({ b with
      cells := tput {} b.cells w.cell { b.cell w.cell with count := (b.cell w.cell).count - w.theta } } : Block).setSpd p
        { ({ b.spd p with staging := (b.spd p).staging ++ [.receipt w.cell w.theta], stagingUsed := (b.spd p).stagingUsed + 16, cntProg := t } : Spindle).setReg
            w.rd 0 with hold := .none } := by
  rw [pollEnd_consumes hmet hc]
  generalize hb' : ({ b with cells := tput {} b.cells w.cell { b.cell w.cell with count := (b.cell w.cell).count - w.theta } } : Block) = b'
  have hspd : b'.spd p = b.spd p := hb' ▸ rfl
  rw [← hspd] at ho hfit hw hb ⊢
  obtain ⟨t, ht⟩ := stageOne_fits (b := b'.setSpd p (b'.spd p)) (m := m) (p := p) (x := .receipt w.cell w.theta)
    (by rw [Block.spd_setSpd]; exact ho) (by rw [Block.spd_setSpd]; exact hfit)
  rw [stage_now hw hb, ht, waitDone_goes (.inl rfl), Block.setSpd_setSpd, Block.setSpd_setSpd, Block.spd_setSpd, Block.spd_setSpd]
  exact ⟨t, rfl⟩

/-- What a poll of a stream lane `k` comes to, once its cell has been met. -/
def laneEnd (m : Dram) (b : Block) (c l : Nat) (k : Lane) (w : Wait) (final : Bool) : Block :=
  let r := b.pollCell w
  if r.1 then r.2.setLane c l { k with waiting := none, satisfied := true }
  else if w.peerLostDue then b.stepAbandon m c l .peerLost
  else if final then b.stepAbandon m c l .timeout else b

theorem pollLane_meets {c l : Nat} (hw : (b.lane c l).waiting = some w) (hup : b.hubUp = true) (hf : b.frozen = none)
    (ha : b.hubAsking (289 + 4 * c + l) = false) : b.pollLane m c l final = laneEnd m (b.cellMet none w.cell) c l (b.lane c l) w final := by
  unfold Block.pollLane laneEnd
  simp only [hw, hup, hf, ha, Bool.not_true, Option.isSome_none, Bool.or_self, Bool.false_eq_true, if_false]

theorem laneEnd_met {c l : Nat} {k : Lane} (h : w.theta ≤ (b.cell w.cell).count) : laneEnd m b c l k w final =
    (if w.consume then { b with cells := tput {} b.cells w.cell { b.cell w.cell with count := (b.cell w.cell).count - w.theta } } else b).setLane c l
      { k with waiting := none, satisfied := true } := by
  unfold laneEnd
  simp only [pollCell_met h, if_true]

theorem laneEnd_lost {c l : Nat} {k : Lane} (h : (b.cell w.cell).count < w.theta) (hl : w.peerLostDue = true) :
    laneEnd m b c l k w final = b.stepAbandon m c l .peerLost := by
  unfold laneEnd
  simp only [pollCell_below h, hl, Bool.false_eq_true, if_false, if_true]

theorem laneEnd_below {c l : Nat} {k : Lane} (h : (b.cell w.cell).count < w.theta) (hl : w.peerLostDue = false) :
    laneEnd m b c l k w final = if final then b.stepAbandon m c l .timeout else b := by
  unfold laneEnd
  simp only [pollCell_below h, hl, Bool.false_eq_true, if_false]

end

/-- Settles O35: the ends of a wait in their order of precedence. -/
theorem pollsAndTimeoutsEndWaits : Obligations.PollsAndTimeoutsEndWaits := by
  refine ⟨?spindle, ?lane, fun _ _ _ => rfl, ?met⟩
  case spindle =>
    intro p s w mk final b spd m hmk hr hst hh
    have hm : m.spd p = spd := (CellOnly.cellMet ..).spd p
    have hms : m.stalled = false := (CellOnly.cellMet ..).stalled.trans hst
    have hserved (b' : Block) (h : b.pollSpindle s.dram p final = b') : Served (mk (.spindle p)) s b' :=
      served (exec_pollSpindle hmk p s) fun hs => orWait_eq h hs
    refine ⟨fun hf => ?_, fun hf => gives (exec_pollSpindle hmk p s) (orWait_same (pollSpindle_frozen hh hf))⟩
    have hgo (b' : Block) (h : pollEnd s.dram m p w final = b') : Served (mk (.spindle p)) s b' := hserved b' ((pollSpindle_meets hr hh hf).trans h)
    refine ⟨fun hmet hc => ?_, fun hmet hc ho hfit hw hb hwf => ?_, fun hlt hl => ⟨fun hrd => ?_, fun hrd => ?_⟩,
      fun hlt hl hfin => ⟨fun hrd => ?_, fun hrd => ?_⟩, fun hlt hl hfin => ⟨?_, (CellOnly.cellMet ..).spindles⟩⟩
    · exact hm ▸ hgo _ ((pollEnd_met hmet hc).trans (waitDone_goes (.inl rfl))) hms
    · obtain ⟨t, ht⟩ := pollEnd_receipt (m := s.dram) (final := final) hmet hc (hm ▸ ho) (hm ▸ hfit) (hm ▸ hw) (hm ▸ hb)
      have hwfm : tabWf {} m.cells = true := (cellMet_cells ..).symm ▸ cellFirst_wf hwf hf _ _
      refine ⟨_, hgo _ ht hms, ?_, ?_, ?_, fun c hne => ?_, fun q hq => ?_⟩
      · exact congrArg Cell.count (tget_tput_self hwfm ..)
      · rw [Block.spd_setSpd]
      · rw [Block.spd_setSpd, hm]
        unfold Spindle.setReg
        split <;> rfl
      · exact tget_tput_ne _ _ hne
      · exact (Block.spd_setSpd_ne _ _ hq).trans ((CellOnly.cellMet ..).spd q)
    · exact hm ▸ hgo _ ((pollEnd_lost hlt hl).trans (waitDone_goes (.inr hrd))) hms
    · exact hm ▸ hgo _ ((pollEnd_lost hlt hl).trans (waitDone_ends (by decide) hrd))
    · exact hm ▸ hgo _ (((pollEnd_below hlt hl).trans (if_pos hfin)).trans (waitDone_goes (.inr hrd))) hms
    · exact hm ▸ hgo _ (((pollEnd_below hlt hl).trans (if_pos hfin)).trans (waitDone_ends (by decide) hrd))
    · exact hgo _ ((pollEnd_below hlt hl).trans (if_neg (by simp [hfin]))) hms
  case lane =>
    intro c l hc hl s w mk final b k m hmk hw hup hf ha i
    have hgo (b' : Block) (h : b.pollLane s.dram c l final = b') : Gives i s b' := gives (exec_pollLane hmk ⟨c, hc⟩ ⟨l, hl⟩ s) h
    have hmeets := pollLane_meets (m := s.dram) (final := final) hw hup hf ha
    refine ⟨fun hmet hcons => ?_, fun hmet hcons => ?_, fun hlt hlost => hgo _ (hmeets.trans (laneEnd_lost hlt hlost)),
      fun hlt hlost => hgo _ (hmeets.trans (laneEnd_below hlt hlost))⟩
    · refine hgo _ ((hmeets.trans (laneEnd_met hmet)).trans ?_)
      rw [hcons]
      rfl
    · intro v
      refine hgo _ ((hmeets.trans (laneEnd_met hmet)).trans ?_)
      rw [hcons]
      rfl
  case met =>
    intro b p cell h c
    have hnone : b.sigs.filter (fun g => g.island == p && cellTile g.cell == cellTile cell && b.sigReady g) = [] := by
      refine List.filter_eq_nil_iff.mpr fun g hg => ?_
      by_cases hp : g.island = p
      · by_cases ht : cellTile g.cell = cellTile cell
        · simp [h g hg hp ht]
        · simp [ht]
      · simp [hp]
    show tget {} (b.cellMet p cell).cells c = tget {} b.cells c
    rw [cellMet_cells, Block.cellFirst, hnone]
    rfl

end Sys2Proof.Proofs
end

section
/-!
SUPPORT. Sets and signals by the hub's blocks, the synchronisation dump and CELL_NOTIFY (R269, R279, R311, R312).
-/
namespace Sys2Proof.Proofs
open Sys2Proof.Machine Sys2Proof.Claims

/-! ### Sets (R269, R311) -/

section
variable {b : Block} {cell : Nat}

/-- The set of a cell behind what the hub has sent to its tile. -/
theorem cellSet_cell (hf : b.frozen = none) (hwf : tabWf {} b.cells = true) (v : Int) :
    (b.cellSet cell v).cell cell = { count := v } ∧ ∀ c, c ≠ cell → (b.cellSet cell v).cell c = (b.cellFirst none cell).cell c := by
  obtain ⟨t, ht⟩ := countRoute_cnt (b.cellFirst none cell) none (some (cellTile cell)) 0 64
  have htraffic : (b.cellFirst none cell).cellTraffic none cell = { b.cellFirst none cell with cnt := t } := ht
  rw [Block.cellSet, htraffic]
  exact cellArrive_cell (b := { b.cellFirst none cell with cnt := t }) (cellFirst_frozen hf none cell) (cellFirst_wf hwf hf none cell)
    { cell, amount := v, isSet := true }

/-- The address of a cell in the control window. -/
theorem cellAddr_toNat (hc : cell < 131072) : (BitVec.ofNat 64 (0xF02000000000 + 8 * cell)).toNat = cellBase + 8 * cell := by
  rw [BitVec.toNat_ofNat, Nat.mod_eq_of_lt (by omega)]
  rfl

/-- Both ends of a cell lie in one region: HBM ends between lines. -/
theorem region_cell (hc : cell < 131072) : (b.region (cellBase + 8 * cell) = .hbm ∧ b.region (cellBase + 8 * cell + 7) = .hbm)
    ∨ (b.region (cellBase + 8 * cell) = .control ∧ b.region (cellBase + 8 * cell + 7) = .control) := by
  have htop : ∃ n, b.hbmTop = 8 * n := by
    unfold Block.hbmTop
    split
    · exact ⟨0, rfl⟩
    · exact ⟨b.inservice.length * 2 ^ 28, by omega⟩
  obtain ⟨n, hn⟩ := htop
  have hcontrol (a : Nat) (h : ¬ a < b.hbmTop) (hlo : 0xF02000000000 ≤ a) (hhi : a < 0xF02000100000) : b.region a = .control := by
    unfold Block.region
    rw [if_neg h, if_neg (by simp only [deepEnd]; omega), if_neg (by omega), if_neg (by omega), if_neg (by omega), if_pos ⟨hlo, hhi⟩]
  simp only [cellBase]
  by_cases h : 0xF02000000000 + 8 * cell < b.hbmTop
  · exact .inl ⟨if_pos h, if_pos (by omega)⟩
  · exact .inr ⟨hcontrol _ h (by omega) (by omega), hcontrol _ (by omega) (by omega) (by omega)⟩

/-- The cell window is no hole in the address map (R16). -/
theorem rangeOf_cell (hc : cell < 131072) : ∃ r, b.rangeOf (cellBase + 8 * cell) 8 = .ok r := by
  have hdeep : ¬ (b.memoryDegraded = true ∧ cellBase + 8 * cell < deepEnd) := by
    rintro ⟨-, h⟩
    simp only [cellBase, deepEnd] at h
    omega
  have hlen : cellBase + 8 * cell + 8 - 1 = cellBase + 8 * cell + 7 := by omega
  unfold Block.rangeOf
  rw [if_neg hdeep]
  dsimp only
  rw [hlen]
  rcases region_cell (b := b) hc with h
  rcases h with ⟨h, h'⟩ | ⟨h, h'⟩
  · exact ⟨.hbm, by simp [h, h']⟩
  · refine ⟨.control, ?_⟩
    have hend : cellBase + 8 * cell + 8 ≤ 2 ^ 48 := by
      simp only [cellBase]
      omega
    have hle : cellBase + 8 * cell ≤ 281474976710648 := by omega
    simp [h, h', hle]

theorem adminCellSet_word (hc : cell < 131072) (v : Word64) :
    b.adminCellSet (cellBase + 8 * cell) 8 v = (b.cellSet cell v.toInt).answer .success := by
  unfold Block.adminCellSet
  rw [if_neg (by simp only [cellBase]; omega), if_neg (by simp only [cellBase]; omega)]
  have h : (cellBase + 8 * cell - cellBase) / 8 = cell := by omega
  rw [h]

theorem adminCellSet_size {size : Nat} (hc : cell < 131072) (hs : size ≠ 8) (v : Word64) :
    b.adminCellSet (cellBase + 8 * cell) size v = b.answer .invalidField := by
  unfold Block.adminCellSet
  rw [if_neg (by simp only [cellBase]; omega), if_pos (.inl hs)]

theorem asAdminAt_may {who : Initiator} (hup : b.hubUp = true) (h : mayAccess b who) (a size : Nat) (f : Block → Block) : b.asAdminAt who a size f = f b := by
  rcases h with rfl | ⟨rfl, hj⟩
  · simp [Block.asAdminAt, Block.asAdmin, hup]
  · simp [Block.asAdminAt, Block.asAdmin, hup, hj]

theorem asAdminAt_other {who : Initiator} {a size : Nat} {r : Region} (hup : b.hubUp = true) (h1 : who ≠ .headstock) (h2 : who ≠ .jtag)
    (hr : b.rangeOf a size = .ok r) (f : Block → Block) : b.asAdminAt who a size f = b.answer .accessDenied := by
  cases who with
  | headstock => exact absurd rfl h1
  | jtag => exact absurd rfl h2
  | host _ | engine | kerf => simp [Block.asAdminAt, hup, hr]

/-- The bytes of a host write are counted, and a gated module wakes; the partitions stay. -/
theorem touch_cellOwned (b : Block) (n x c : Nat) : ((b.countPort 64 n).ungate).cellOwned x c = b.cellOwned x c := by
  obtain ⟨t, ht⟩ := countPort_cnt b 64 n
  rw [ht]
  unfold Block.ungate
  split <;> rfl

theorem hostCell_acts {fn : Nat} {act : Block → Nat → Block} (hl : b.fnLive fn = true) (hc : cell < 131072) (ho : fn = 0 ∨ b.cellOwned (fn - 1) cell = true) :
    b.hostCell fn (8 * cell) 8 act = act ((b.countPort 64 8).ungate) cell := by
  have hcell : 8 * cell / 8 = cell := by omega
  have hgood : ¬ (8 ≠ 8 ∨ 8 * cell % 8 ≠ 0 ∨ 131072 ≤ cell ∨ (fn ≠ 0 ∧ b.cellOwned (fn - 1) cell = false)) := by
    rcases ho with rfl | ho
    · omega
    · rw [ho]
      simp only [Bool.true_eq_false, and_false, or_false]
      omega
  unfold Block.hostCell Block.hostTouch
  simp only [hl, hcell, touch_cellOwned, Bool.not_true, Bool.false_eq_true, if_false]
  rw [if_neg hgood]

theorem hostCell_errs {fn size : Nat} {act : Block → Nat → Block} (hl : b.fnLive fn = true)
    (h : size ≠ 8 ∨ (fn ≠ 0 ∧ b.cellOwned (fn - 1) cell = false)) :
    b.hostCell fn (8 * cell) size act = { (b.countPort 64 size).ungate with cellErr := true } := by
  have hcell : 8 * cell / 8 = cell := by omega
  have hbad : size ≠ 8 ∨ 8 * cell % 8 ≠ 0 ∨ 131072 ≤ cell ∨ (fn ≠ 0 ∧ b.cellOwned (fn - 1) cell = false) := h.imp_right fun h => .inr (.inr h)
  unfold Block.hostCell Block.hostTouch
  simp only [hl, hcell, touch_cellOwned, Bool.not_true, Bool.false_eq_true, if_false]
  rw [if_pos hbad]

theorem hostCell_dead {fn off size : Nat} {act : Block → Nat → Block} (hl : b.fnLive fn = false) : b.hostCell fn off size act = b := by
  unfold Block.hostCell
  simp [hl]

end

/-- Settles O36: a set in the cell window, and the two views of the host. -/
theorem cellSets : Obligations.CellSets := by
  intro fn cell val who s b set a touched hc
  have ha : a.toNat = cellBase + 8 * cell := cellAddr_toNat hc
  refine ⟨fun hup => ⟨fun hw => ⟨?_, fun size hs => ?_⟩, fun h1 h2 => ?_⟩, fun hf hwf => cellSet_cell hf hwf _, fun hl ho => ⟨⟨fun hall => ?_, fun hany => ?_⟩, ?_⟩,
    fun hl size h => ?_, fun hl => ⟨gives rfl (hostCell_dead hl), gives rfl (hostCell_dead hl)⟩⟩
  · refine gives rfl ((asAdminAt_may hup hw ..).trans ?_)
    rw [ha]
    exact adminCellSet_word hc val
  · refine gives rfl ((asAdminAt_may hup hw ..).trans ?_)
    rw [ha]
    exact adminCellSet_size hc hs val
  · obtain ⟨r, hr⟩ := rangeOf_cell (b := b) hc
    exact gives rfl (asAdminAt_other hup h1 h2 (ha ▸ hr) _)
  · refine gives rfl ((hostCell_acts hl hc (ho.imp_left (congrArg Fin.val))).trans (if_neg ?_))
    simp only [List.any_eq_true, not_exists, not_and]
    intro g hg
    have h := List.all_eq_true.mp hall g hg
    simp only [Bool.or_eq_true, bne_iff_ne] at h
    simp only [Bool.and_eq_true, beq_iff_eq]
    tauto
  · exact gives rfl ((hostCell_acts hl hc (ho.imp_left (congrArg Fin.val))).trans (if_pos hany))
  · exact gives rfl (hostCell_acts hl hc (ho.imp_left (congrArg Fin.val)))
  · intro err
    have hbad : size ≠ 8 ∨ (fn.val ≠ 0 ∧ b.cellOwned (fn.val - 1) cell = false) := h.imp_right (And.imp_left fun hne h0 => hne (Fin.ext h0))
    exact ⟨gives rfl (hostCell_errs hl hbad), gives rfl (hostCell_errs hl hbad)⟩

/-! ### The synchronisation dump (R279) -/

/-- A dump into a buffer that holds it, or into the trace region where that is on and has room. -/
theorem dump_allowed {n need at_ : Nat} {fits on : Bool} (h : n = 0 ∧ fits = true ∨ n = 1 ∧ on = true ∧ at_ + need ≤ 0x400000) :
    ¬ (1 < n ∨ ((n == 1) = false ∧ fits = false) ∨ ((n == 1) = true ∧ (on = false ∨ 0x400000 < at_ + need))) := by
  rcases h with ⟨rfl, hf⟩ | ⟨rfl, ho, hn⟩
  · simp [hf]
  · simp [ho, Nat.not_lt.mpr hn]

theorem dumpResume_idle {b : Block} (h : b.frozen = none) : b.dumpResume = b := by
  unfold Block.dumpResume
  simp only [h]

/-- The block once the copied dump is written, what was held has taken effect, and the command has completed. -/
def dumpDone (b : Block) (z : Freeze) : Block :=
  let copied : Block := if z.dump.toTrace then ({ b with frozen := none } : Block).hubWrite z.dump.dest z.bytes
    else ({ b with frozen := none } : Block).hostWrite z.dump.dest z.bytes
  (z.held.foldl Block.cellOp copied).finish z.dump.ring z.dump.entry .success 0

theorem dumpResume_last {b : Block} {z : Freeze} (h : b.frozen = some z) (hd : (dumpDone b z).dumps = []) : b.dumpResume = dumpDone b z := by
  unfold Block.dumpResume
  simp only [h]
  unfold dumpDone at hd ⊢
  dsimp only at hd ⊢
  rw [hd]

theorem dumpResume_next {b : Block} {z : Freeze} {d : Dump} {rest : List Dump} (h : b.frozen = some z) (hd : (dumpDone b z).dumps = d :: rest) :
    b.dumpResume = ({ dumpDone b z with dumps := rest } : Block).freeze d := by
  unfold Block.dumpResume
  simp only [h]
  unfold dumpDone at hd ⊢
  dsimp only at hd ⊢
  rw [hd]

/-! ### CELL_NOTIFY (R312) -/

/-- The vectors of CELL_NOTIFY, by the first that its function has for it (R312). -/
theorem notifyVec_eq (fn vec : Nat) : notifyVec fn vec = decide ((if fn = 0 then 17 else 1) ≤ vec ∧ vec ≤ 63) := by
  unfold notifyVec
  split <;> simp

theorem notify_fired {b m : Block} (h : CellOnly b m) (n : Notify) :
    ({ m with notifies := m.notifies.filter (· ≠ n), wake := m.wake || m.power == .a2 } : Block) =
      { m with notifies := b.notifies.filter (· ≠ n), wake := b.wake || b.power == .a2 } := by
  obtain ⟨_, _, _, _, _, rfl⟩ := h
  rfl

theorem notifyPoll_meets {b : Block} {fn vec : Nat} {n : Notify} (hn : b.notifies.find? (fun x => x.fn == fn && x.vec == vec) = some n)
    (hup : b.hubUp = true) (hf : b.frozen = none) : b.notifyPoll fn vec =
      (let m := b.cellMet none n.cell
      if (m.cell n.cell).count < n.theta then m
      else (({ m with notifies := m.notifies.filter (· ≠ n), wake := m.wake || m.power == .a2 } : Block).raise fn vec).postEvent n.ring 0x2007 n.cell) := by
  unfold Block.notifyPoll
  simp only [hn, hup, hf, Bool.not_true, Option.isSome_none, Bool.or_self, Bool.false_eq_true, if_false]

/-- Settles O37: the dump's start and end, and the notification's arming and firing. -/
theorem dumpsAndNotifications : Obligations.DumpsAndNotifications := by
  refine ⟨?dump, ?resume, ?arm, ?fire⟩
  case dump =>
    intro r e s c b ha
    refine ⟨fun scope hs => ?_, fun hs => gives rfl (startCmd_done ha (by simp only [hs]; rfl))⟩
    intro need d hok
    refine ⟨fun hf => ?_, fun hf => ?_⟩
    · refine gives rfl (startCmd_parked ha ?_)
      simp only [hs]
      refine (if_neg (dump_allowed hok)).trans (congrArg CmdRes.parked ?_)
      simp only [beq_iff_eq]
      exact if_neg (by rw [show (b.started r).frozen = none from hf]; exact Bool.false_ne_true)
    · refine gives rfl (startCmd_parked ha ?_)
      simp only [hs]
      refine (if_neg (dump_allowed hok)).trans (congrArg CmdRes.parked ?_)
      simp only [beq_iff_eq]
      exact if_pos (Option.isSome_iff_ne_none.mpr hf)
  case resume =>
    intro s z b
    refine ⟨fun hz => ?_, fun hf => gives rfl (dumpResume_idle hf)⟩
    intro copied done
    exact ⟨fun hd => gives rfl (dumpResume_last hz hd), fun d rest hd => gives rfl (dumpResume_next hz hd)⟩
  case arm =>
    intro r e s c b fn arm kept ha
    refine ⟨fun hc hlo hhi hown => gives rfl (startCmd_done ha ?_), fun h => gives rfl (startCmd_done ha ?_)⟩
    · have hvec : ¬ (131072 ≤ c.p 0 ∨ notifyVec fn (c.p 1) = false) := by
        rw [notifyVec_eq]
        simp [hc, hlo, hhi]
      cases hctx : c.ctx with
      | none =>
        simp only [hctx, fn, arm, kept] at hvec ⊢
        rw [if_neg hvec]
        rfl
      | some x =>
        simp only [hctx, fn, arm, kept] at hvec ⊢
        refine (if_neg hvec).trans ?_
        refine (if_neg ?_).trans rfl
        simp [show (s.blk.started r).cellOwned x (c.p 0) = true from hown x hctx]
    · have hvec : 131072 ≤ c.p 0 ∨ notifyVec fn (c.p 1) = false := by
        rw [notifyVec_eq]
        simp only [decide_eq_false_iff_not, not_and, Nat.not_le]
        omega
      cases hctx : c.ctx with
      | none =>
        simp only [hctx, fn] at hvec ⊢
        exact if_pos hvec
      | some x =>
        simp only [hctx, fn] at hvec ⊢
        exact if_pos hvec
  case fire =>
    intro s fn vec n mk b hmk hn hup hf m
    have hpoll : exec mk s = nextOf s (b.notifyPoll fn vec) := by
      simp only [List.mem_cons, List.not_mem_nil, or_false] at hmk
      rcases hmk with rfl | rfl <;> rfl
    have hmeets := notifyPoll_meets hn hup hf
    refine ⟨fun hmet => ?_, fun hlt => gives hpoll (hmeets.trans (if_pos hlt))⟩
    intro fired
    refine gives hpoll ((hmeets.trans (if_neg (Int.not_lt.mpr hmet))).trans ?_)
    exact congrArg (fun x : Block => (x.raise fn vec).postEvent n.ring 0x2007 n.cell) (notify_fired (CellOnly.cellMet b none n.cell) n)

end Sys2Proof.Proofs
end

section
/-!
SUPPORT. Rings: what completions and events leave unchanged, the ring pages, and the fetch of commands (R313 to R319).
-/
namespace Sys2Proof.Proofs
open Sys2Proof.Machine Sys2Proof.Claims

/-! ### What completions leave unchanged -/

/-- `b'` is `b` but for the rings, what has been written to the host, the interrupts and the traffic counters. -/
def RingsOnly (b b' : Block) : Prop := ∃ g o x n, b' = { b with rings := g, hostOut := o, msix := x, cnt := n }

namespace RingsOnly
variable {a b c : Block}

theorem refl (b : Block) : RingsOnly b b := ⟨b.rings, b.hostOut, b.msix, b.cnt, rfl⟩

theorem trans (h : RingsOnly a b) (k : RingsOnly b c) : RingsOnly a c := by
  obtain ⟨_, _, _, _, rfl⟩ := h
  obtain ⟨_, _, _, _, rfl⟩ := k
  exact ⟨_, _, _, _, rfl⟩

theorem foldl {β : Type} {g : Block → β → Block} (h : ∀ b x, RingsOnly b (g b x)) (l : List β) (b : Block) : RingsOnly b (l.foldl g b) := by
  induction l generalizing b with
  | nil => exact refl b
  | cons x l ih => exact (h b x).trans (ih _)

theorem setRing (b : Block) (r : Nat) (g : Ring) : RingsOnly b (b.setRing r g) := ⟨_, _, _, _, rfl⟩
theorem raiseRing (b : Block) (r : Nat) : RingsOnly b (b.raiseRing r) := ⟨_, _, _, _, rfl⟩

theorem hostWrite (b : Block) (a : Nat) (bs : List Byte) : RingsOnly b (b.hostWrite a bs) := by
  obtain ⟨t, ht⟩ := countPort_cnt { b with hostOut := b.hostOut ++ [(BitVec.ofNat 64 a, bs)] } 65 bs.length
  rw [Block.hostWrite, ht]
  exact ⟨_, _, _, _, rfl⟩

theorem writeCpl (b : Block) (r e : Nat) : RingsOnly b (b.writeCpl r e) := by
  unfold Block.writeCpl
  dsimp only
  split
  · exact ⟨_, _, _, _, rfl⟩
  · exact (hostWrite ..).trans (setRing ..)

theorem drainEvents (b : Block) (r : Nat) : RingsOnly b (b.drainEvents r) := by
  refine foldl (fun b _ => ?_) _ b
  dsimp only
  split
  · exact refl b
  · split
    · exact ((setRing ..).trans (writeCpl ..)).trans (raiseRing ..)
    · exact refl b

theorem cplOne (b : Block) (r tag op : Nat) (st : Status) (v : Nat) (irq : Bool) : RingsOnly b (b.cplOne r tag op st v irq) := by
  unfold Block.cplOne
  dsimp only
  split
  · exact ((setRing ..).trans (writeCpl ..)).trans (raiseRing ..)
  · exact (setRing ..).trans (writeCpl ..)

theorem finish (b : Block) (r : Nat) (e : Entry) (st : Status) (v : Nat) : RingsOnly b (b.finish r e st v) := by
  unfold Block.finish
  dsimp only
  split
  · exact refl b
  · split
    · exact setRing ..
    · refine RingsOnly.trans ?_ ((foldl (fun b _ => cplOne b ..) _ _).trans (drainEvents ..))
      split
      · exact setRing ..
      · exact (setRing ..).trans (cplOne ..)

theorem postEvent (b : Block) (r code v : Nat) : RingsOnly b (b.postEvent r code v) := by
  unfold Block.postEvent
  dsimp only
  split
  · exact (setRing ..).trans (drainEvents ..)
  · exact setRing ..

end RingsOnly

/-! ### Ring pages (R309, R313) -/

section
variable {b : Block} {r : Nat}

theorem touch_ring (b : Block) (n r : Nat) : (b.hostTouch n).ring r = b.ring r := by
  obtain ⟨t, ht⟩ := countPort_cnt b 64 n
  rw [Block.hostTouch, ht]
  unfold Block.ungate
  split <;> rfl

theorem touch_msix (b : Block) (n : Nat) : (b.hostTouch n).msix = b.msix ∧ (b.hostTouch n).numVfs = b.numVfs := by
  obtain ⟨t, ht⟩ := countPort_cnt b 64 n
  rw [Block.hostTouch, ht]
  unfold Block.ungate
  split <;> exact ⟨rfl, rfl⟩

theorem ringStop_eq (b : Block) (r : Nat) (f : Ring → Ring) : (b.ringStop r f).ring r = { f (b.ring r) with stopped := true } :=
  Block.ring_setRing b r _

theorem ringStop_msix (b : Block) (r : Nat) (f : Ring → Ring) : (b.ringStop r f).msix = b.msix ++ [(b.ringFn r, b.ringVec r)] := rfl

theorem setProd_within {val : Word32} (h : (val - (b.ring r).cmdCons).toNat ≤ 4096) : b.setProd r val = b.setRing r { b.ring r with cmdProd := val } := by
  unfold Block.setProd Block.modRing
  dsimp only
  rw [Block.ring_setRing]
  exact if_neg (Nat.not_lt.mpr h)

theorem setProd_beyond {val : Word32} (h : 4096 < (val - (b.ring r).cmdCons).toNat) :
    b.setProd r val = (b.setRing r { b.ring r with cmdProd := val }).ringStop r fun g => { g with errIndex := true } := by
  unfold Block.setProd Block.modRing
  dsimp only
  rw [Block.ring_setRing]
  exact if_pos h

/-! ### The fetch of commands (R313, R318) -/

variable {e : Entry}

/-- Nothing is fetched from such a ring. -/
theorem commandFetch_idle {ok : Bool} (h : b.takes = false ∨ (b.ring r).enable = false ∨ (b.ring r).stopped = true
    ∨ (b.ring r).cmdProd = (b.ring r).cmdCons ∨ (b.ring r).room = 0) : b.commandFetch r e ok = b := by
  unfold Block.commandFetch
  refine if_pos ?_
  rcases h with h | h | h | h | h <;> simp [h]

/-- The block once an entry of its ring is read. -/
def fetched (b : Block) (r : Nat) : Block :=
  (b.countPort 64 64).setRing r { b.ring r with cmdCons := (b.ring r).cmdCons + 1, reserved := (b.ring r).reserved + 1 }

/-- The ring has an entry to fetch, and room for its completion. -/
def Fetches (b : Block) (r : Nat) : Prop :=
  b.takes = true ∧ (b.ring r).enable = true ∧ (b.ring r).stopped = false ∧ (b.ring r).cmdProd ≠ (b.ring r).cmdCons ∧ (b.ring r).room ≠ 0

theorem commandFetch_fetches {ok : Bool} (h : Fetches b r) : b.commandFetch r e ok =
    if !ok then b.ringStop r fun g => { g with errFetch := true }
    else if b.notReadyOp (entOpcode e) then (fetched b r).cplOne r (entTag e) (entOpcode e) .notReady 0 (entIrq e) else (fetched b r).matchTag r e := by
  obtain ⟨h1, h2, h3, h4, h5⟩ := h
  have hready (n x : Nat) (g : Ring) : ((b.countPort 64 n).setRing r g).notReadyOp x = b.notReadyOp x := by
    obtain ⟨t, ht⟩ := countPort_cnt b 64 n
    rw [ht]
    rfl
  have hgo : (!b.takes || !(b.ring r).enable || (b.ring r).stopped || (b.ring r).cmdProd == (b.ring r).cmdCons || (b.ring r).room == 0) = false := by
    simp [h1, h2, h3, h4, h5]
  unfold Block.commandFetch fetched
  dsimp only
  rw [hgo, hready]
  rfl

theorem fetched_ring (b : Block) (r : Nat) :
    (fetched b r).ring r = { b.ring r with cmdCons := (b.ring r).cmdCons + 1, reserved := (b.ring r).reserved + 1 } := Block.ring_setRing ..

theorem notReadyOp_ready (h : b.ready = true) (op : Nat) : b.notReadyOp op = false := by
  simp [Block.notReadyOp, h]

theorem commandFetch_ready (h : Fetches b r) (hr : b.ready = true) : b.commandFetch r e true = (fetched b r).matchTag r e := by
  rw [commandFetch_fetches h, notReadyOp_ready hr]
  rfl

theorem matchTag_new (h : (b.ring r).history.find? (fun h => h.tag == entTag e) = none) : ∃ hist, b.matchTag r e =
    b.setRing r { b.ring r with history := hist, taken := (b.ring r).taken ++ [{ entry := e }] } := by
  unfold Block.matchTag
  simp only [h]
  exact ⟨_, rfl⟩

theorem matchTag_other {h : Hist} (hf : (b.ring r).history.find? (fun h => h.tag == entTag e) = some h) (ho : h.opcode ≠ entOpcode e) :
    b.matchTag r e = b.cplOne r (entTag e) (entOpcode e) .invalidField 0 (entIrq e) := by
  unfold Block.matchTag
  simp only [hf, if_pos ho]

theorem matchTag_open {h : Hist} (hf : (b.ring r).history.find? (fun h => h.tag == entTag e) = some h) (ho : h.opcode = entOpcode e) (hd : h.done = none) :
    b.matchTag r e = b.setRing r { b.ring r with
      taken := modFirst (fun x => entTag x.entry == entTag e) (fun x => { x with repeats := x.repeats ++ [entIrq e] }) (b.ring r).taken } := by
  unfold Block.matchTag
  simp only [hf, ho, hd, ne_eq, not_true_eq_false, if_false]

theorem matchTag_done {h : Hist} {d : Nat × Nat} (hf : (b.ring r).history.find? (fun h => h.tag == entTag e) = some h) (ho : h.opcode = entOpcode e)
    (hd : h.done = some d) : b.matchTag r e =
      (let once := (b.setRing r { b.ring r with reserved := (b.ring r).reserved - 1 }).writeCpl r
        (entTag e + fld (entOpcode e) 14 32 + fld d.1 16 48 + fld d.2 64 64)
      if entIrq e then once.raiseRing r else once) := by
  unfold Block.matchTag
  simp only [hf, ho, hd, ne_eq, not_true_eq_false, if_false]
  rfl

end

/-- A write of a ring page acts on the ring that the page shows. -/
theorem exec_doorbell (fn : FnId) (page : RingId) (val : Word32) (s : State) : exec (.doorbell fn page val) s =
    nextOf s ((s.blk.ringOf fn page).elim s.blk fun r => s.blk.doorbell r val) := by
  show execDoorbell fn page val s = _
  unfold execDoorbell
  cases s.blk.ringOf fn page <;> rfl

theorem exec_ringEnable (fn : FnId) (page : RingId) (s : State) : exec (.ringEnable fn page) s =
    nextOf s ((s.blk.ringOf fn page).elim s.blk fun r => (s.blk.hostTouch 8).ringEnable r) := by
  show execRingEnable fn page s = _
  unfold execRingEnable
  cases s.blk.ringOf fn page <;> rfl

theorem exec_ringDisable (fn : FnId) (page : RingId) (s : State) : exec (.ringDisable fn page) s =
    nextOf s ((s.blk.ringOf fn page).elim s.blk fun r => (s.blk.hostTouch 8).ringDisable r) := by
  show execRingDisable fn page s = _
  unfold execRingDisable
  cases s.blk.ringOf fn page <;> rfl

/-- Settles O38: the three writes of a ring page, and each outcome of a fetch. -/
theorem ringPagesAndFetch : Obligations.RingPagesAndFetch := by
  refine ⟨?pages, ?fetch⟩
  case pages =>
    intro fn page val s r b g put
    have htouch (n : Nat) : (b.hostTouch n).ring r = g := touch_ring b n r
    have hpage (f : Nat → Block) (h : b.ringOf fn page = some r) : (b.ringOf fn page).elim b f = f r := congrArg (fun o => Option.elim o b f) h
    refine ⟨fun h => ?_, fun h hv => ?_, fun h hv => ?_, fun h hen => ?_, fun h => ?_⟩
    · have hnone (f : Nat → Block) : (b.ringOf fn page).elim b f = b := congrArg (fun o => Option.elim o b f) h
      exact ⟨gives (exec_doorbell ..) (hnone _), gives (exec_ringEnable ..) (hnone _), gives (exec_ringDisable ..) (hnone _)⟩
    · refine gives (exec_doorbell ..) ((hpage _ h).trans ((setProd_within ?_).trans ?_))
      · rw [htouch]
        exact hv
      · rw [htouch]
    · refine ⟨_, gives (exec_doorbell ..) ((hpage _ h).trans (setProd_beyond ?_)), ?_⟩
      · rw [htouch]
        exact hv
      · obtain ⟨hm, hn⟩ := touch_msix b 4
        rw [ringStop_eq, ringStop_msix, Block.ring_setRing, htouch]
        refine ⟨rfl, rfl, rfl, rfl, ?_⟩
        show (b.hostTouch 4).msix ++ [((b.hostTouch 4).ringFn r, (b.hostTouch 4).ringVec r)] = _
        rw [hm, Block.ringFn, Block.ringVec, hn]
        rfl
    · refine gives (exec_ringEnable ..) ((hpage _ h).trans ?_)
      unfold Block.ringEnable Block.modRing
      rw [htouch, hen]
      rfl
    · refine gives (exec_ringDisable ..) ((hpage _ h).trans ?_)
      unfold Block.ringDisable Block.modRing
      rw [htouch]
  case fetch =>
    intro r e s b g
    refine ⟨fun h ok => gives rfl (commandFetch_idle h), fun h1 h2 h3 h4 h5 => ?_⟩
    intro got
    have hgo : Fetches b r := ⟨h1, h2, h3, h4, h5⟩
    refine ⟨?_, fun hr hnew => ?_, fun hr hre hop => ?_, fun h hr hf => ⟨fun ho => ?_, fun ho hd => ?_, fun ho d hd => ?_⟩⟩
    · exact ⟨_, gives rfl (commandFetch_fetches hgo), ringStop_eq .., ringStop_msix ..⟩
    · obtain ⟨hist, hh⟩ := matchTag_new (b := fetched b r) (r := r) (e := e) (by
        rw [fetched_ring]
        exact List.find?_eq_none.mpr fun x hx => by simpa using hnew x hx)
      obtain ⟨t, ht⟩ := countPort_cnt b 64 64
      refine ⟨_, gives rfl ((commandFetch_ready hgo hr).trans hh), ?_⟩
      rw [fetched_ring, Block.ring_setRing]
      refine ⟨rfl, rfl, rfl, fun k hk => ?_, ?_⟩
      · rw [Block.ring_setRing_ne _ _ hk, fetched, Block.ring_setRing_ne _ _ hk, ht]
        rfl
      · rw [fetched, ht]
        exact ⟨rfl, rfl, rfl, rfl⟩
    · have hop' : b.notReadyOp (entOpcode e) = true := by simp [Block.notReadyOp, hr, hre, hop]
      refine gives rfl ((commandFetch_fetches hgo).trans ?_)
      rw [hop']
      rfl
    · exact gives rfl ((commandFetch_ready hgo hr).trans (matchTag_other (by rw [fetched_ring]; exact hf) ho))
    · obtain ⟨t, ht⟩ := countPort_cnt b 64 64
      refine ⟨_, gives rfl ((commandFetch_ready hgo hr).trans (matchTag_open (by rw [fetched_ring]; exact hf) ho hd)), ?_⟩
      rw [Block.ring_setRing, fetched_ring, fetched, ht]
      exact ⟨rfl, rfl, rfl, rfl⟩
    · intro once
      have hback : (fetched b r).setRing r { (fetched b r).ring r with reserved := ((fetched b r).ring r).reserved - 1 } =
          got.setRing r { got.ring r with reserved := g.reserved } := by
        rw [show got = fetched b r from rfl, fetched_ring]
        rfl
      refine gives rfl ((commandFetch_ready hgo hr).trans ((matchTag_done (by rw [fetched_ring]; exact hf) ho hd).trans ?_))
      rw [hback]

end Sys2Proof.Proofs
end

section
/-!
SUPPORT. The common checks of commands, the queries, and the configuration commands (R310, R314, R320, R322, R336, R345).
-/
namespace Sys2Proof.Proofs
open Sys2Proof.Machine Sys2Proof.Claims

/-! ### Commands that a common check refuses -/

section
variable {r : RingId} {e : Entry} {s : State} {op : Nat} {act : Block → Cmd → CmdRes} {st : Status}

/-- A handler that starts its command completes it with the status of the check that refuses it. -/
theorem gives_refused {i : Instr} (h : exec i s = nextOf s (s.blk.startCmd r e op act)) (hp : s.blk.presents r e op = true)
    (hc : (s.blk.started r).cmdCheck r e = .error st) : Gives i s ((s.blk.started r).finish r e st 0) :=
  gives h (startCmd_error act hp hc)

/-- An administrative command on a context's ring is refused before anything else is looked at. -/
theorem cmdCheck_admin {b : Block} (hr : 0 < r.val) (ha : (catRow (entOpcode e)).any (fun x => x.1 == .a) = true) :
    b.cmdCheck r e = .error .accessDenied := if_pos ⟨hr, ha⟩

theorem presents_opcode {b : Block} (h : b.presents r e op = true) : entOpcode e = op := by
  simp only [Block.presents, Bool.and_eq_true, beq_iff_eq] at h
  exact h.1.1.1.2

theorem cmdCheck_unknown {b : Block} (h : catRow (entOpcode e) = none) (hc : entClean e = true) : b.cmdCheck r e = .error .unknownCommand := by
  unfold Block.cmdCheck
  simp [h, hc]

end

/-- A refused HEADSTOCK_RESTART restarts nothing: the mailbox is as ready as it was. -/
theorem headstockRestart_refused {r : RingId} {e : Entry} {s : State} {st : Status} (hp : s.blk.presents r e 0x19 = true)
    (hc : (s.blk.started r).cmdCheck r e = .error st) : Gives (.headstockRestart r e) s ((s.blk.started r).finish r e st 0) := by
  have hready : ((s.blk.started r).finish r e st 0).ready = s.blk.ready := by
    obtain ⟨_, _, _, _, h⟩ := RingsOnly.finish (s.blk.started r) r e st 0
    rw [h]
    rfl
  show execHeadstockRestart r e s = _
  unfold execHeadstockRestart
  rw [startCmd_error _ hp hc]
  exact congrArg (nextOf s) (if_neg fun ⟨h1, h2⟩ => by rw [hready, h1] at h2; cases h2)

/-- A stream command whose host-window bytes are there is started like any other. -/
theorem streamCmd_refused {i : Instr} {r : RingId} {e : Entry} {s : State} {op : Nat} {act : Sb → Cmd → Nat → CmdRes × Sb} {st : Status}
    {x : Host.Outcome State Fault Refusal} (h : exec i s = x) (hx : x = streamCmd r e op s act) (hp : s.blk.presents r e op = true) (ha : s.blk.hubAsking (272 + r.val) = false)
    (hc : (s.blk.started r).cmdCheck r e = .error st) : Gives i s ((s.blk.started r).finish r e st 0) :=
  gives (h.trans hx) ((if_neg (by simp [ha])).trans (startCmd_error _ hp hc))

/-- Every handler of a ring row starts its command, and does what the common checks say of it first. -/
theorem ringRows_refused {r : RingId} {e : Entry} {s : State} {st : Status} (m : (RingId → Entry → Instr) × Nat) (hm : m ∈ ringRows)
    (hp : s.blk.presents r e m.2 = true) (ha : s.blk.hubAsking (272 + r.val) = false) (hc : (s.blk.started r).cmdCheck r e = .error st) :
    Gives (m.1 r e) s ((s.blk.started r).finish r e st 0) := by
  simp only [ringRows, List.mem_append, List.mem_cons, List.not_mem_nil, or_false, or_assoc] at hm
  rcases hm with rfl | rfl | rfl | rfl | rfl | rfl | rfl | rfl | rfl | rfl | rfl | rfl | rfl | rfl | rfl | rfl | rfl | rfl | rfl | rfl |
    rfl | rfl | rfl | rfl | rfl | rfl | rfl | rfl | rfl | rfl | rfl | rfl | rfl | rfl | rfl | rfl | rfl | rfl | rfl
  iterate 14 exact gives_refused rfl hp hc
  · exact headstockRestart_refused hp hc
  iterate 2 exact gives_refused rfl hp hc
  · exact streamCmd_refused (x := execStreamOpen r e s) rfl rfl hp ha hc
  · exact streamCmd_refused (x := execStreamFork r e s) rfl rfl hp ha hc
  · exact streamCmd_refused (x := execStreamPause r e s) rfl rfl hp ha hc
  · exact streamCmd_refused (x := execStreamResume r e s) rfl rfl hp ha hc
  · exact streamCmd_refused (x := execStreamClose r e s) rfl rfl hp ha hc
  · exact streamCmd_refused (x := execStreamQuery r e s) rfl rfl hp ha hc
  iterate 16 exact gives_refused rfl hp hc

/-- A trigger that meets no other snapshot. -/
theorem snapTrigger_first {b : Block} {src : SnapSource} {tag : Nat} {waiters : List (Nat × Entry)} (ht : b.cnt.trigger = none) (hw : b.cnt.writing = none) :
    b.snapTrigger src tag waiters = (true, { b with cnt := { b.cnt with
      trigger := some { triggers := src.bits, tag, instant := b.time + 2000, waiters } } }) := by
  unfold Block.snapTrigger
  simp only [ht, hw]

/-- Settles O39: the common checks, once for every handler, and the three queries. -/
theorem queriesAndRefusals : Obligations.QueriesAndRefusals := by
  refine ⟨?refusals, ?queries⟩
  case refusals =>
    intro r e s st b ended
    refine ⟨fun m hm hp ha => ⟨fun hc => ringRows_refused m hm hp ha hc, fun hr hadm => ?_⟩, fun data hp hc => gives_refused rfl hp hc, fun hp hc => ⟨fun h1 h2 => ?_, fun h => ?_, fun h => ?_⟩,
      fun hp hc h => ?_, fun hrow hclean hp => ?_⟩
    · exact ringRows_refused m hm hp ha (cmdCheck_admin hr (presents_opcode hp ▸ hadm))
    · exact gives rfl ((if_neg (not_or.mpr ⟨h1, h2⟩)).trans (startCmd_error _ hp hc))
    · exact gives rfl ((if_neg (not_not.mpr h)).trans (startCmd_error _ hp hc))
    · exact gives rfl ((if_neg (not_not.mpr h)).trans (startCmd_error _ hp hc))
    · exact gives rfl ((if_neg h).trans (startCmd_error _ hp hc))
    · exact gives rfl ((if_neg (by simp [hrow])).trans (startCmd_error _ hp (cmdCheck_unknown hrow hclean)))
  case queries =>
    refine ⟨fun r e s c ha hok => ?_, fun r e s c ha hok => ?_, fun r e s c ha hok => ?_, fun r e s c ha hok => ?_⟩
    · have hentry : c.entry = e := (cmdCheck_ok ha.2).2
      subst hentry
      exact gives rfl (startCmd_done ha (if_pos hok))
    · have hentry : c.entry = e := (cmdCheck_ok ha.2).2
      refine gives rfl (startCmd_done ha (if_neg ?_))
      rw [← hentry, hok]
      exact Bool.false_ne_true
    · exact gives rfl (startCmd_done ha rfl)
    · obtain ⟨hring, hentry⟩ := cmdCheck_ok ha.2
      refine gives rfl (startCmd_parked ha ?_)
      subst hentry
      show CmdRes.parked ((s.blk.started r).snapTrigger .command (c.p 0) [(r.val, c.entry)]).2 = _
      rw [snapTrigger_first hok.1 hok.2, ← hring]
      rfl

end Sys2Proof.Proofs
end

section
/-!
SUPPORT. The configuration commands (R181, R247, R282, R310, R326, R362, R384).
-/
namespace Sys2Proof.Proofs
open Sys2Proof.Machine Sys2Proof.Claims

/-! ### The outcome of a handler's checks -/

section
variable {r : RingId} {e : Entry} {s : State} {op : Nat} {c : Cmd} {act : Block → Cmd → CmdRes} {i : Instr}

/-- A handler whose checks pass completes its command. -/
theorem completes {v : Nat} {b' : Block} (h : exec i s = nextOf s (s.blk.startCmd r e op act)) (ha : s.blk.accepts r e op c)
    (hd : act (s.blk.started r) c = .done .success v b') : Gives i s (b'.finish r e .success v) := gives h (startCmd_done ha hd)

/-- A handler that refuses its command does nothing else. -/
theorem refuses {st : Status} (h : exec i s = nextOf s (s.blk.startCmd r e op act)) (ha : s.blk.accepts r e op c)
    (hd : act (s.blk.started r) c = .refuse (s.blk.started r) st) : Gives i s ((s.blk.started r).finish r e st 0) := gives h (startCmd_done ha hd)

/-- A handler that leaves its command parked. -/
theorem parks {b' : Block} (h : exec i s = nextOf s (s.blk.startCmd r e op act)) (ha : s.blk.accepts r e op c)
    (hd : act (s.blk.started r) c = .parked b') : Gives i s b' := gives h (startCmd_parked ha hd)

end

/-! ### TILE_CONFIG and the trace -/

section
variable {b : Block}

/-- A handler of MEM_ADMIN by its parameter op. -/
theorem memAdmin_entry {b : Block} {r : Nat} {e : Entry} {op : Nat} {c : Cmd} (h : b.accepts r e op c) : c.entry = e := (cmdCheck_ok h.2).2

/-- A trace that is switched off keeps its records where it has none to move. -/
theorem traceSet_off {v : Nat} (hv : bit v 0 = false) (hs : b.trace.shadow = []) : b.traceSet v = { b with trace := { b.trace with
    base := bits v 47 20 * 2 ^ 20, sizeLog2 := bits v 7 4, stopMode := bit v 2, enable := false } } := by
  unfold Block.traceSet
  simp only [hv, hs, Bool.false_and, Bool.false_eq_true, if_false, List.foldl_nil, ite_self]

end

/-- Settles O40: the checks of each handler, and what it writes. -/
theorem configurationCommandsSetFields : Obligations.ConfigurationCommandsSetFields := by
  refine ⟨?_, ?_, ?_, ?_, ?_, ?_, ?_, ?_, ?_, ?_, ?_, ?_, ?_, fun b v hv hs => traceSet_off hv hs, ?_, ?_, ?_, ?_, ?_⟩
  · rintro r e s c ha ⟨h1, h2⟩
    exact completes rfl ha (if_neg (by simp [h1, h2]))
  · rintro r e s c ha h
    refine refuses rfl ha (if_pos (h.imp_right fun h => ?_))
    simp [Block.placed, h]
  · rintro r e s c ha ⟨h1, h2⟩
    refine completes rfl ha (if_neg ?_)
    rw [h1]
    rintro (h | ⟨h, h'⟩)
    · cases h
    · rcases h2 with h2 | h2
      · omega
      · rw [h2] at h'
        cases h'
  · rintro r e s c ha ⟨h1, h2, h3, h4, h5, h6, h7⟩
    refine completes rfl ha (if_neg ?_)
    have hjob : (s.blk.started r).ctxs.any (fun x => x.2.krf.jobEn) = false := List.any_eq_false.mpr fun x hx => by simp [h7 x hx]
    rw [hjob]
    simp only [Bool.false_eq_true, or_false]
    omega
  · rintro r e s c ha h
    exact refuses rfl ha (if_pos h)
  · rintro r e s c ha ⟨h0, h1, h2⟩
    rw [memAdmin_entry ha] at h0
    exact gives rfl ((if_neg (by omega)).trans (startCmd_done ha (if_neg (by simp [h1, h2]))))
  · rintro r e s c ha ⟨h0, h1, h2⟩
    rw [memAdmin_entry ha] at h0 h1
    exact gives rfl ((if_neg (by omega)).trans (startCmd_done ha (if_pos (.inl (by omega)))))
  · rintro r e s c ha ⟨h0, h1⟩
    rw [memAdmin_entry ha] at h0
    exact gives rfl ((if_neg (by omega)).trans (startCmd_done ha (if_neg (by omega))))
  · rintro r e s c ha ⟨h0, h1⟩
    rw [memAdmin_entry ha] at h0
    exact gives rfl ((if_neg (by omega)).trans (startCmd_done ha (if_neg (by omega))))
  · rintro r e s c ha ⟨h1, h2, h3, h4⟩
    refine parks rfl ha ((if_neg (by simp [h3]; omega)).trans (if_neg ?_))
    rw [Block.modTile_tile]
    rintro ⟨hw, hb⟩
    rcases h4 with h4 | h4
    · exact h4 hw
    · exact Bool.noConfusion (h4.symm.trans hb)
  · rintro r e s c ha ⟨h1, h2, h3, h4, h5⟩
    refine completes rfl ha ((if_neg (by simp [h3]; omega)).trans (if_pos ?_))
    rw [Block.modTile_tile]
    exact ⟨h4, h5⟩
  · rintro r e s c ha ⟨h1, h2, h3⟩
    exact completes rfl ha (if_neg (by omega))
  · rintro r e s c ha ⟨h1, h2, h3, h4⟩
    exact completes rfl ha (if_neg (by simp [h1]; omega))
  · rintro r e s c ha ⟨h1, h2, h3, h4⟩
    exact completes rfl ha (if_neg (by omega))
  · rintro r e s c ha h
    exact refuses rfl ha (if_pos h)
  · rintro r e s c ha h
    exact completes rfl ha (if_pos h)
  · rintro r e s c ha h
    exact completes rfl ha ((if_neg (by omega)).trans (if_pos h))
  · rintro r e s c ha ⟨h1, h2⟩
    exact refuses rfl ha ((if_neg (by omega)).trans (if_neg (by omega)))

end Sys2Proof.Proofs
end

section
/-!
SUPPORT. The firmware commands, attestation, and the restart of the headstock (R324, R325, R376).
-/
namespace Sys2Proof.Proofs
open Sys2Proof.Machine Sys2Proof.Claims

/-! ### Parameters -/

/-- What a handler sees are the parameters of its entry, in the widths of its row of the catalogue. -/
theorem cmdCheck_par {b : Block} {r : Nat} {e : Entry} {c : Cmd} (h : b.cmdCheck r e = .ok c) :
    ∃ row, catRow (entOpcode e) = some row ∧ entParams e row.2 = some c.par := by
  unfold Block.cmdCheck at h
  dsimp only at h
  split at h
  · cases h
  split at h
  · cases h
  split at h
  · cases h
  next cls ws hrow =>
    split at h
    · cases h
    split at h
    · cases h
    split at h
    · cases h
    split at h
    · cases h
    next par hpar =>
      refine ⟨_, hrow, ?_⟩
      split at h
      · cases h
        exact hpar
      · split at h
        · cases h
        split at h
        · cases h
        · cases h
          exact hpar

/-- The one parameter of a command whose row has a single byte. -/
theorem accepts_byte {b : Block} {r : Nat} {e : Entry} {c : Cmd} {op : Nat} {cls : RingClass} (h : b.accepts r e op c) (hrow : catRow op = some (cls, [1])) :
    c.p 0 = bits e.toNat 199 192 := by
  obtain ⟨hp, hc⟩ := h
  obtain ⟨row, hr, hpar⟩ := cmdCheck_par hc
  have hop : entOpcode e = op := by
    simp only [Block.presents, Bool.and_eq_true, beq_iff_eq] at hp
    exact hp.1.1.1.2
  rw [hop, hrow] at hr
  cases hr
  unfold entParams at hpar
  dsimp only at hpar
  split at hpar
  · have hp := Option.some.inj hpar
    show c.par.getD 0 0 = _
    rw [← hp]
    rfl
  · cases hpar

/-! ### The headstock restart (R376) -/

theorem finish_keeps (b : Block) (r : Nat) (e : Entry) (st : Status) (v : Nat) :
    (b.finish r e st v).runSlot = b.runSlot ∧ (b.finish r e st v).ready = b.ready ∧ (b.finish r e st v).restarts = b.restarts := by
  obtain ⟨_, _, _, _, h⟩ := RingsOnly.finish b r e st v
  rw [h]
  exact ⟨rfl, rfl, rfl⟩

/-- A restart drops the events of every ring. -/
theorem headstockRestart_events (b : Block) (k : Nat) : (b.headstockRestart.ring k).events = [] := by
  have hmap (t : Tab Ring) : (tget ({} : Ring) (t.map fun g => (g.1, { g.2 with events := [], eventsLost := min 255 (g.2.eventsLost + g.2.events.length) })) k).events = [] := by
    induction t with
    | nil => rfl
    | cons x t ih =>
      rw [List.map_cons, tget, tfind_cons]
      split
      · rfl
      · exact ih
  exact hmap b.rings

/-- Hardware keeps running. -/
theorem headstockRestart_keeps {b b' : Block} (h : RingsOnly b b') : b'.headstockRestart.spindles = b.spindles ∧ b'.headstockRestart.cells = b.cells
    ∧ b'.headstockRestart.chans = b.chans ∧ b'.headstockRestart.ctxs = b.ctxs ∧ b'.headstockRestart.conns = b.conns
    ∧ b'.headstockRestart.racks = b.racks := by
  obtain ⟨_, _, _, _, rfl⟩ := h
  exact ⟨rfl, rfl, rfl, rfl, rfl, rfl⟩

theorem drainEvents_none {b : Block} {r : Nat} (h : (b.ring r).events = []) : b.drainEvents r = b := by
  unfold Block.drainEvents iter
  generalize List.range 256 = l
  induction l with
  | nil => rfl
  | cons x l ih =>
    rw [List.foldl_cons]
    simp only [h]
    exact ih

/-- A restart that ends with nothing taken and no event waiting (R376). -/
theorem restartDone_idle {b : Block} (hr : b.restarting = true) (h : ∀ r, r < 17 → (b.ring r).taken = [] ∧ (b.ring r).events = []) :
    b.restartDone = { b with
      ready := true, bootStage := 4, restarting := false, fwVersion := (b.slot b.runSlot).version, fwSvn := (b.slot b.runSlot).svn } := by
  unfold Block.restartDone
  rw [hr]
  dsimp only
  generalize hb : ({ b with ready := true, bootStage := 4, restarting := false, fwVersion := (b.slot b.runSlot).version,
                            fwSvn := (b.slot b.runSlot).svn } : Block) = b'
  have h' : ∀ r ∈ List.range 17, (b'.ring r).taken = [] ∧ (b'.ring r).events = [] := fun r hr => hb ▸ h r (List.mem_range.mp hr)
  refine (if_neg (by simp)).trans ?_
  generalize List.range 17 = l at h'
  induction l with
  | nil => rfl
  | cons r l ih =>
    obtain ⟨ht, he⟩ := h' r List.mem_cons_self
    rw [List.foldl_cons, ht, List.foldl_nil, drainEvents_none he]
    exact ih fun r hr => h' r (List.mem_cons_of_mem _ hr)

/-! ### Flash work (R325) -/

theorem flashDone_work {b : Block} {e : Entry} {data : List Byte} {rest : List (Entry × List Byte)} (h : b.flashWork = (e, data) :: rest) :
    b.flashDone =
      (let b1 : Block := { b with flashWork := rest }
      let x := b.slot b.inactive
      if entOpcode e = 0x80 then (b1.setSlot b.inactive
        { mark := 1, image := iter data.length x.image fun t i => tput 0 t (bits e.toNat 223 192 + i) (data.getD i 0) }).finish 0 e .success 0
      else if entOpcode e = 0x81 then
        if x.verifies = false then b1.finish 0 e .signatureInvalid 0 else if x.svn < b.store.minSvn then b1.finish 0 e .versionRollback 0
        else (b1.setSlot b.inactive { x with mark := 2 }).finish 0 e .success 0
      else (b1.hostWrite (entBuf e) (b.attestBytes (bits e.toNat 511 256))).finish 0 e .success 0) := by
  unfold Block.flashDone
  simp only [h]
  split
  · next hop => exact (if_pos hop).symm
  · next hop =>
    refine Eq.trans ?_ ((if_neg (by omega)).trans (if_pos hop)).symm
    split
    · next hv => exact (if_pos ((Bool.not_eq_true' _).mp hv)).symm
    · next hv => exact (if_neg fun h => hv ((Bool.not_eq_true' _).mpr h)).symm
  · next h1 h2 => exact ((if_neg h1).trans (if_neg h2)).symm

/-- What the restart into the committed slot does once its checks pass (R325). -/
def activateNow (b : Block) : Block :=
  { b with runSlot := b.inactive, runTrial := true, ready := false, measured := b.measured.take 1 ++ [(b.slot b.inactive).measure 1] }

/-- Its handler, before it restarts the headstock. -/
def activateNowAct (b : Block) (_ : Cmd) : CmdRes :=
  if (b.slot b.inactive).mark ≠ 2 ∨ b.ctxs.any (fun x => x.2.state != .free) then .refuse b .invalidField else .good (activateNow b)

/-- The headstock restarts where its handler has changed the slot. -/
theorem fwActivateNow_gives {r : RingId} {e : Entry} {s : State} {b' : Block} (hw : fwWhen e = 1) (h : s.blk.startCmd r e 0x82 activateNowAct = b') :
    Gives (.fwActivateNow r e) s (if b'.runSlot ≠ s.blk.runSlot then b'.headstockRestart else b') := by
  subst h
  exact gives rfl (if_neg (not_not.mpr hw))

/-- Settles O41: each firmware command by its checks, the flash work, and the restart. -/
theorem firmwareCommands : Obligations.FirmwareCommands := by
  refine ⟨fun r e data s c => ?stage, ?_, ?_, ?_, ?_, fun r e s c => ?now, ?_, ?_, ?_, ?_, fun b nonce => rfl, fun r s e data rest => ?flash, ?restart, ?done⟩
  case stage =>
    intro b ha
    refine ⟨fun h1 h2 h3 h4 h5 h6 => parks rfl ha (if_neg (by rw [h6]; simp only [Bool.true_eq_false, or_false]; omega)), fun h => refuses rfl ha (if_pos h)⟩
  case now =>
    intro b ha hw hres hslot
    refine ⟨fun hm hfree => ?_, fun h => ?_⟩
    · have hany : b.ctxs.any (fun x => x.2.state != .free) = false := List.any_eq_false.mpr fun x hx => by simp [hfree x hx]
      intro b1
      have hdone : s.blk.startCmd r e 0x82 activateNowAct = b1.finish r e .success 0 := startCmd_done ha (if_neg (by simp [hm, hany, b]))
      have hslots : (b1.finish r e .success 0).runSlot ≠ s.blk.runSlot := by
        rw [(finish_keeps ..).1]
        show 1 - s.blk.runSlot ≠ s.blk.runSlot
        omega
      have hgives := fwActivateNow_gives hw hdone
      rw [if_pos hslots] at hgives
      exact hgives
    · have hbad : (b.slot b.inactive).mark ≠ 2 ∨ b.ctxs.any (fun x => x.2.state != .free) = true := h.imp_right fun ⟨x, hx, hs⟩ =>
        List.any_eq_true.mpr ⟨x, hx, by simpa using hs⟩
      have hdone : s.blk.startCmd r e 0x82 activateNowAct = b.finish r e .invalidField 0 := startCmd_done ha (if_pos hbad)
      have hgives := fwActivateNow_gives hw hdone
      rw [if_neg (by rw [(finish_keeps ..).1]; exact not_not.mpr rfl)] at hgives
      exact hgives
  case flash =>
    intro b b1 x hr ht hres hwork
    have hgo : exec (.fwFlashWriteDone r) s = nextOf s b.flashDone := congrArg (nextOf s) (if_pos ⟨hr, ht, hres⟩)
    have hdone := flashDone_work hwork
    refine ⟨fun hop => gives hgo (hdone.trans (if_pos hop)), fun hop => gives hgo (hdone.trans ((if_neg (by omega)).trans (if_pos hop))),
      fun hop => gives hgo (hdone.trans ((if_neg (by omega)).trans (if_neg (by omega))))⟩
  case restart =>
    intro r e s c ha hready hres
    have hdone := startCmd_done (act := fun b _ => .good { b with ready := false }) ha rfl
    obtain ⟨h1, h2, h3⟩ := finish_keeps { s.blk.started r with ready := false } r e .success 0
    have hgo : exec (.headstockRestart r e) s = nextOf s (({ s.blk.started r with ready := false } : Block).finish r e .success 0).headstockRestart := by
      show execHeadstockRestart r e s = _
      unfold execHeadstockRestart
      rw [hdone]
      exact congrArg (nextOf s) (if_pos ⟨hready, h2⟩)
    refine ⟨_, hgo, rfl, rfl, ?_, rfl, headstockRestart_events _, ?_⟩
    · show min 255 (Block.restarts _ + 1) = _
      rw [h3]
      rfl
    · have h := headstockRestart_keeps (RingsOnly.finish { s.blk.started r with ready := false } r e .success 0)
      exact h
  case done =>
    intro s b hup hr h
    exact gives rfl ((if_pos hup).trans (restartDone_idle hr h))
  · intro r e s c ha h
    have he := (cmdCheck_ok ha.2).2
    subst he
    exact parks rfl ha (if_neg h)
  · intro r e s c ha h
    exact refuses rfl ha (if_pos h)
  · rintro r e s c ha ⟨h1, h2, h3⟩
    rw [(cmdCheck_ok ha.2).2] at h1
    exact gives rfl ((if_neg (by omega)).trans (startCmd_done ha (if_neg (by simp [h2, h3]))))
  · rintro r e s c ha ⟨h1, h2⟩
    rw [(cmdCheck_ok ha.2).2] at h1 h2
    have hp : c.p 0 = fwWhen e := accepts_byte ha rfl
    refine gives rfl ((if_neg h1).trans (startCmd_done ha (if_pos ?_)))
    rw [hp]
    exact h2.imp_left fun h => by omega
  · intro r e s c ha h
    exact completes rfl ha (if_neg (by simp [h]))
  · intro r e s c ha h
    exact refuses rfl ha (if_pos (by simp [h]))
  · intro r e s c ha h
    have he := (cmdCheck_ok ha.2).2
    subst he
    exact parks rfl ha (if_neg (by rw [h]; exact Bool.noConfusion))
  · intro r e s c ha h
    rw [(cmdCheck_ok ha.2).2] at h
    exact refuses rfl ha (if_pos h)

end Sys2Proof.Proofs
end

section
/-!
SUPPORT. Creation, settings and teardown of contexts (R98, R212, R254, R266, R321, R374).
-/
namespace Sys2Proof.Proofs
open Sys2Proof.Machine Sys2Proof.Claims

/-! ### What host reads that are dropped leave unchanged -/

/-- `b'` is `b` but for reads and writes of the host window, stores of the hub that waited, and traffic. -/
def HubOnly (b b' : Block) : Prop := ∃ h o l ch n, b' = { b with hostReads := h, hostOut := o, hubLater := l, chans := ch, cnt := n }

namespace HubOnly
variable {a b c : Block}

theorem refl (b : Block) : HubOnly b b := ⟨b.hostReads, b.hostOut, b.hubLater, b.chans, b.cnt, rfl⟩

theorem trans (h : HubOnly a b) (k : HubOnly b c) : HubOnly a c := by
  obtain ⟨_, _, _, _, _, rfl⟩ := h
  obtain ⟨_, _, _, _, _, rfl⟩ := k
  exact ⟨_, _, _, _, _, rfl⟩

theorem foldl {β : Type} {g : Block → β → Block} (h : ∀ b x, HubOnly b (g b x)) (l : List β) (b : Block) : HubOnly b (l.foldl g b) := by
  induction l generalizing b with
  | nil => exact refl b
  | cons x l ih => exact (h b x).trans (ih _)

theorem countRoute (b : Block) (s d : Option Nat) (g n : Nat) : HubOnly b (b.countRoute s d g n) := by
  obtain ⟨t, ht⟩ := countRoute_cnt b s d g n
  exact ⟨_, _, _, _, _, ht⟩

theorem hostWrite (b : Block) (a : Nat) (bs : List Byte) : HubOnly b (b.hostWrite a bs) := by
  obtain ⟨t, ht⟩ := countPort_cnt { b with hostOut := b.hostOut ++ [(BitVec.ofNat 64 a, bs)] } 65 bs.length
  exact ⟨_, _, _, _, _, ht⟩

theorem reads (b : Block) (l : List HostRead) : HubOnly b { b with hostReads := l } := ⟨_, _, _, _, _, rfl⟩
theorem later (b : Block) (l : List HubLater) : HubOnly b { b with hubLater := l } := ⟨_, _, _, _, _, rfl⟩
theorem send (b : Block) (q : Req) : HubOnly b (b.send q) := ⟨_, _, _, _, _, rfl⟩
theorem hubWrite (b : Block) (a : Nat) (bs : List Byte) : HubOnly b (b.hubWrite a bs) := foldl (fun b _ => send b _) _ b

theorem windowWrite (b : Block) (t : Option Nat) (h : Nat) (bs : List Byte) : HubOnly b (b.windowWrite t h bs) := by
  have hlink : HubOnly b (b.hubLink t true bs.length) := countRoute ..
  refine hlink.trans (foldl (fun b x => ?_) _ _)
  dsimp only
  split
  · exact reads ..
  · exact hostWrite ..

theorem releaseWrites (b : Block) : HubOnly b b.releaseWrites := by
  refine (reads b []).trans (foldl (fun b x => ?_) _ _)
  split
  · split
    · exact reads ..
    · exact hostWrite ..
  · exact reads ..

theorem hubSettle (b : Block) : HubOnly b b.hubSettle := by
  refine (later b []).trans (foldl (fun b x => ?_) _ _)
  split
  · exact later ..
  · unfold Block.laterWrite
    split
    · exact hubWrite ..
    · exact windowWrite ..

theorem dropReads (b : Block) (f : HostRead → Bool) : HubOnly b (b.dropReads f) :=
  ((reads b _).trans (releaseWrites _)).trans (hubSettle _)

end HubOnly

/-! ### Teardown of a context that has nothing (R374) -/

/-- What the teardown of context `c` keeps where it meets no blank, no lane at work, no chain and no connection. -/
structure TornIdle (c : Nat) (b b' : Block) : Prop where
  others : ∀ k, k ≠ c → b'.ctx k = b.ctx k
  lanes : (b'.ctx c).lanes = (b.ctx c).lanes
  state : (b'.ctx c).state = (b.ctx c).state
  enable : (b'.ctx c).sched.enable = (b.ctx c).sched.enable
  cells : b'.cells = b.cells
  streams : b'.streams = b.streams
  tables : b'.tables = b.tables
  notifies : b'.notifies = b.notifies
  chains : b'.chains = b.chains
  conns : b'.conns = b.conns
  spindles : b'.spindles = b.spindles

namespace TornIdle
variable {c : Nat} {b b' b'' : Block}

theorem trans (h : TornIdle c b b') (k : TornIdle c b' b'') : TornIdle c b b'' where
  others x hx := (k.others x hx).trans (h.others x hx)
  lanes := k.lanes.trans h.lanes
  state := k.state.trans h.state
  enable := k.enable.trans h.enable
  cells := k.cells.trans h.cells
  streams := k.streams.trans h.streams
  tables := k.tables.trans h.tables
  notifies := k.notifies.trans h.notifies
  chains := k.chains.trans h.chains
  conns := k.conns.trans h.conns
  spindles := k.spindles.trans h.spindles

theorem refl (c : Nat) (b : Block) : TornIdle c b b := ⟨fun _ _ => rfl, rfl, rfl, rfl, rfl, rfl, rfl, rfl, rfl, rfl, rfl⟩

theorem of_hub (c : Nat) (h : HubOnly b b') : TornIdle c b b' := by
  obtain ⟨_, _, _, _, _, rfl⟩ := h
  exact ⟨fun _ _ => rfl, rfl, rfl, rfl, rfl, rfl, rfl, rfl, rfl, rfl, rfl⟩

/-- A change of the context's quota alone. -/
theorem subUsed (c : Nat) (b : Block) (n : Nat) : TornIdle c b (b.subUsed c n) := by
  refine ⟨fun k hk => Block.ctx_setCtx_ne _ _ hk, ?_, ?_, ?_, rfl, rfl, rfl, rfl, rfl, rfl, rfl⟩
  all_goals simp only [Block.subUsed, Block.modCtx, Block.ctx_setCtx]

/-- The context's racks hold nothing to discard. -/
theorem emptyRacks (c : Nat) (l : List Nat) (b : Block) (hl : l.Nodup) (h : ∀ p ∈ l, b.rack (rackOf c p) = []) :
    TornIdle c b (l.foldl (fun (b : Block) prio =>
      let l := b.rack (rackOf c prio)
      ((b.dropRegs (l.flatMap fun e => e.blank.regsns)).subUsed c l.length).setRack (rackOf c prio) []) b) := by
  induction l generalizing b with
  | nil => exact refl c b
  | cons p l ih =>
    obtain ⟨hp, hl⟩ := List.nodup_cons.mp hl
    rw [List.foldl_cons]
    refine trans ?_ (ih _ hl fun q hq => ?_)
    · dsimp only
      rw [h p List.mem_cons_self]
      exact (subUsed c b 0).trans ⟨fun _ _ => rfl, rfl, rfl, rfl, rfl, rfl, rfl, rfl, rfl, rfl, rfl⟩
    · have hne : rackOf c q ≠ rackOf c p := fun hr => hp (by
        simp only [rackOf, Nat.add_left_cancel_iff] at hr
        exact hr ▸ hq)
      dsimp only
      rw [h p List.mem_cons_self]
      show tget [] (tput [] b.racks (rackOf c p) []) (rackOf c q) = []
      exact (tget_tput_ne _ _ hne).trans (h q (List.mem_cons_of_mem _ hq))

/-- Its lanes are at rest. -/
theorem idleLanes (c : Nat) (m : Dram) (l : List Nat) (b : Block) (h : ∀ x ∈ l, (b.lane c x).busy = false) :
    TornIdle c b (l.foldl (fun b x => b.laneTeardown m c x) b) := by
  induction l generalizing b with
  | nil => exact refl c b
  | cons x l ih =>
    have hstep : TornIdle c b (b.laneTeardown m c x) := by
      unfold Block.laneTeardown
      simp only [h x List.mem_cons_self, Bool.not_false, if_true]
      exact of_hub c (HubOnly.dropReads b _)
    rw [List.foldl_cons]
    refine hstep.trans (ih _ fun y hy => ?_)
    rw [Block.lane, hstep.lanes]
    exact h y (List.mem_cons_of_mem _ hy)

end TornIdle

/-- The context as its teardown begins: TEARING, its racks emptied, its lanes stopped. -/
def tornLanes (m : Dram) (b : Block) (c : Nat) : Block :=
  let b := b.modCtx c fun x => { x with state := .tearing, sched := { x.sched with enable := false } }
  let b := (List.range 4).foldl (fun (b : Block) prio =>
    let l := b.rack (rackOf c prio)
    ((b.dropRegs (l.flatMap fun e => e.blank.regsns)).subUsed c l.length).setRack (rackOf c prio) []) b
  (List.range 4).foldl (fun b l => b.laneTeardown m c l) b

theorem tornLanes_idle {m : Dram} {b : Block} {c : Nat} (hrack : ∀ p ∈ List.range 4, b.rack (rackOf c p) = [])
    (hlane : ∀ p ∈ List.range 4, (b.lane c p).busy = false) :
    TornIdle c (b.modCtx c fun x => { x with state := .tearing, sched := { x.sched with enable := false } }) (tornLanes m b c) := by
  have hlanes : (((b.modCtx c fun x => { x with state := .tearing, sched := { x.sched with enable := false } }).ctx c).lanes) = (b.ctx c).lanes := by
    rw [Block.modCtx_ctx]
  have hracks := TornIdle.emptyRacks c (List.range 4) (b.modCtx c fun x => { x with state := .tearing, sched := { x.sched with enable := false } })
    List.nodup_range hrack
  refine hracks.trans (TornIdle.idleLanes c m (List.range 4) _ fun p hp => ?_)
  rw [Block.lane, hracks.lanes, hlanes]
  exact hlane p hp

/-- The teardown ends no blank, answers no chain and closes no connection where there is none. -/
theorem teardown_rest {m : Dram} {b : Block} {c : Nat} (hspd : (tornLanes m b c).spindles = []) (hch : (tornLanes m b c).chains = [])
    (hconn : (tornLanes m b c).conns = []) : b.teardown m c =
      (({ tornLanes m b c with
          notifies := (tornLanes m b c).notifies.filter (fun n => n.ring != 1 + c), chains := []
          sweeps := (tornLanes m b c).sweeps.filter fun x => x.ctx != c } : Block).modCtx c
        fun x => { x with krf := { x.krf with jobEn := false } }).followLift := by
  show (let b := tornLanes m b c
    let b : Block := { b with notifies := b.notifies.filter fun n => n.ring != 1 + c }
    let b := (b.spindles.map (·.1)).foldl (fun b p => b.ctxBlanksEnd p c .contextTeardown) b
    let mine := b.chains.filter fun ch => ch.ctx == c
    let b : Block := { b with chains := b.chains.filter (fun ch => ch.ctx != c), sweeps := b.sweeps.filter fun x => x.ctx != c }
    let b := mine.foldl (fun (b : Block) ch =>
      let a := (chainDesc ch.desc.toNat).statusAddr
      if b.inMemory a 8 then b.hubWrite a (leBytes 8 Status.contextTeardown.code) else b) b
    let b := (b.connsOf c).foldl (fun b k => b.closeConn m k .contextTeardown) b
    (b.modCtx c fun x => { x with krf := { x.krf with jobEn := false } }).followLift) = _
  generalize tornLanes m b c = t at hspd hch hconn
  simp only [hspd, hch, Block.connsOf, hconn, List.map_nil, List.filter_nil, List.foldl_nil]

/-- The follow limit is a setting of the calipers. -/
theorem followLift_cal (b : Block) : ∃ k, b.followLift = { b with cal := k } := by
  unfold Block.followLift
  split
  · exact ⟨b.cal, rfl⟩
  · exact ⟨_, rfl⟩

/-- The teardown of a context that has no blank, no step, no chain and no connection. -/
theorem teardown_idle {m : Dram} {b : Block} {c : Nat} (hrack : ∀ p ∈ List.range 4, b.rack (rackOf c p) = []) (hlane : ∀ p ∈ List.range 4, (b.lane c p).busy = false)
    (hspd : b.spindles = []) (hch : b.chains = []) (hconn : b.conns = []) :
    ((b.teardown m c).ctx c).state = .tearing ∧ ((b.teardown m c).ctx c).sched.enable = false ∧ ((b.teardown m c).ctx c).krf.jobEn = false
      ∧ (∀ k, k ≠ c → (b.teardown m c).ctx k = b.ctx k) ∧ (b.teardown m c).cells = b.cells ∧ (b.teardown m c).streams = b.streams
      ∧ (b.teardown m c).tables = b.tables ∧ (b.teardown m c).notifies = b.notifies.filter fun n => n.ring != 1 + c := by
  have ht := tornLanes_idle (m := m) hrack hlane
  have hrest := teardown_rest (m := m) (ht.spindles.trans hspd) (ht.chains.trans hch) (ht.conns.trans hconn)
  rw [hrest]
  generalize tornLanes m b c = t at ht
  obtain ⟨k, hk⟩ := followLift_cal (({ t with
    notifies := t.notifies.filter (fun n => n.ring != 1 + c), chains := [], sweeps := t.sweeps.filter fun x => x.ctx != c } : Block).modCtx c
      fun x => { x with krf := { x.krf with jobEn := false } })
  have hctx (b : Block) (f : Ctx → Ctx) (k : Calipers) : ({ b.modCtx c f with cal := k } : Block).ctx c = f (b.ctx c) := Block.modCtx_ctx b c f
  have hother (b : Block) (f : Ctx → Ctx) (k : Calipers) {x : Nat} (hx : x ≠ c) : ({ b.modCtx c f with cal := k } : Block).ctx x = b.ctx x :=
    Block.modCtx_ctx_ne b f hx
  rw [hk, hctx]
  refine ⟨?_, ?_, rfl, fun x hx => ?_, ht.cells, ht.streams, ht.tables, ?_⟩
  · refine ht.state.trans ?_
    rw [Block.modCtx_ctx]
  · refine ht.enable.trans ?_
    rw [Block.modCtx_ctx]
  · exact (hother _ _ _ hx).trans ((ht.others x hx).trans (Block.modCtx_ctx_ne _ _ hx))
  · exact congrArg (List.filter fun n => n.ring != 1 + c) ht.notifies

/-! ### The end of a teardown (R374) -/

theorem teardownFinish_waits {m : Dram} {b : Block} {c : Nat} (h : b.ctxInFlight c = true) : b.teardownFinish m c = b := if_pos (.inr (.inr h))

theorem teardownFinish_ends {m : Dram} {b : Block} {c : Nat} (ht : (b.ctx c).state = .tearing) (hup : b.hubUp = true) (h : b.ctxInFlight c = false) :
    b.teardownFinish m c = (b.releaseCtx m c).finishParked 0 (fun e => entOpcode e == 0x11 && bits e.toNat 199 192 == c) .success :=
  if_neg (by simp [ht, hup, h])

/-- The cells of the context's partition start over, tile by tile, and its partition goes. -/
def partGone (c : Nat) (b : Block) (t : Nat) : Block :=
  let (base, n) := tget (0, 0) (b.tile t).synPart c
  (b.zeroCells t base n).modTile t fun x => { x with synPart := tdel x.synPart c, synCtx := tdel x.synCtx c }

/-- The registers of a context return to their reset values but for its counters and its identity. -/
def ctxCleared (c : Nat) (b : Block) : Block :=
  let x := b.ctx c
  b.setCtx c { cnt := x.cnt, energyUj := x.energyUj, dstAddr := x.dstAddr, dstEn := x.dstEn }

theorem releaseCtx_bare {m : Dram} {b : Block} {c : Nat} (hp : b.pins = []) (ht : b.tables = []) (hs : b.spindles = []) (hst : b.streams = []) :
    b.releaseCtx m c = ctxCleared c ((List.range 4).foldl (partGone c) b) := by
  have hb : ({ b with pins := [], tables := [], spindles := [], streams := [] } : Block) = b := by rw [← hp, ← ht, ← hs, ← hst]
  unfold Block.releaseCtx
  simp only [hp, ht, hs, hst, List.filter_nil, List.map_nil, List.foldl_nil]
  exact congrArg (fun x => ctxCleared c ((List.range 4).foldl (partGone c) x)) hb

theorem ctxCleared_tile (c : Nat) (b : Block) (t : Nat) : (ctxCleared c b).tile t = b.tile t := rfl

theorem partGone_tile (c : Nat) (b : Block) (t : Nat) : ((partGone c b t).tile t).synPart = tdel (b.tile t).synPart c := by
  unfold partGone
  dsimp only
  rw [Block.modTile_tile]
  rfl

theorem partGone_tile_ne (c : Nat) (b : Block) {t x : Nat} (h : x ≠ t) : (partGone c b t).tile x = b.tile x := Block.modTile_tile_ne _ _ h

theorem partsGone_other (c : Nat) (l : List Nat) (b : Block) {t : Nat} (h : t ∉ l) : (l.foldl (partGone c) b).tile t = b.tile t := by
  induction l generalizing b with
  | nil => rfl
  | cons x l ih =>
    rw [List.mem_cons, not_or] at h
    exact (ih _ h.2).trans (partGone_tile_ne c b h.1)

theorem partsGone_tile (c : Nat) (l : List Nat) (b : Block) (hl : l.Nodup) {t : Nat} (h : t ∈ l) :
    ((l.foldl (partGone c) b).tile t).synPart = tdel (b.tile t).synPart c := by
  induction l generalizing b with
  | nil => cases h
  | cons x l ih =>
    obtain ⟨hx, hl⟩ := List.nodup_cons.mp hl
    rcases List.mem_cons.mp h with rfl | h
    · rw [List.foldl_cons, partsGone_other c l _ hx, partGone_tile]
    · rw [List.foldl_cons, ih _ hl h, partGone_tile_ne c b (ne_of_mem_of_not_mem h hx)]

theorem partsGone_ctxs (c : Nat) (l : List Nat) (b : Block) : (l.foldl (partGone c) b).ctxs = b.ctxs := foldl_keeps (f := Block.ctxs) (g := partGone c) (fun _ _ => rfl) l b
theorem partsGone_rings (c : Nat) (l : List Nat) (b : Block) : (l.foldl (partGone c) b).rings = b.rings := foldl_keeps (f := Block.rings) (g := partGone c) (fun _ _ => rfl) l b

theorem finishParked_none {b : Block} {r : Nat} (h : (b.ring r).taken = []) (f : Entry → Bool) (st : Status) : b.finishParked r f st = b := by
  rw [Block.finishParked, h]
  rfl

/-- The end of a teardown whose context has left nothing behind. -/
theorem teardownFinish_bare {m : Dram} {b : Block} {c : Nat} (ht : (b.ctx c).state = .tearing) (hup : b.hubUp = true) (h : b.ctxInFlight c = false)
    (hr : (b.ring 0).taken = []) (hs : b.spindles = []) (hst : b.streams = []) (htab : b.tables = []) (hp : b.pins = []) :
    b.teardownFinish m c = ctxCleared c ((List.range 4).foldl (partGone c) b) := by
  rw [teardownFinish_ends ht hup h, releaseCtx_bare hp htab hs hst]
  refine finishParked_none ?_ _ _
  show (tget {} ((List.range 4).foldl (partGone c) b).rings 0).taken = []
  rw [partsGone_rings]
  exact hr

/-! ### Settings -/

/-- A part of the partition of context `c` that does not fit its tile, or meets another context's (R266). -/
def partBad (b : Block) (c t base n : Nat) : Bool :=
  decide (32768 < base + n) || decide (32768 ≤ base) || (b.tile t).synPart.any fun x => x.1 != c && overlap base n x.2.1 x.2.2

theorem partsGood {b : Block} {c : Nat} {base n : Nat → Nat} (h : ∀ t : Nat, t < 4 → base t < 32768 ∧ base t + n t ≤ 32768
      ∧ ∀ x ∈ (b.tile t).synPart, x.1 ≠ c → overlap (base t) (n t) x.2.1 x.2.2 = false) :
    (List.range 4).any (fun t => partBad b c t (base t) (n t)) = false := by
  refine List.any_eq_false.mpr fun t ht => ?_
  obtain ⟨h1, h2, h3⟩ := h t (List.mem_range.mp ht)
  have hany : (b.tile t).synPart.any (fun x => x.1 != c && overlap (base t) (n t) x.2.1 x.2.2) = false :=
    List.any_eq_false.mpr fun x hx => by
      by_cases hc : x.1 = c
      · simp [hc]
      · simp [h3 x hx hc]
  simp [partBad, hany, h1, h2]

/-- Settles O42: the checks and the writes of each command, and the two ends of a context that has nothing. -/
theorem contextCommands : Obligations.ContextCommands := by
  refine ⟨?_, ?_, ?_, ?_, ?_, ?_, ?_, ?_, ?_, ?_, ?_, fun r e s c => ?teardown, fun c s => ?finish⟩
  case teardown =>
    intro b ha
    refine ⟨parks rfl ha rfl, fun hl hs hch hk => ⟨_, parks rfl ha rfl, ?_⟩⟩
    have hl' : ∀ p ∈ List.range 4, b.rack (rackOf c.c p) = [] ∧ (b.lane c.c p).busy = false := hl
    exact teardown_idle (fun p hp => (hl' p hp).1) (fun p hp => (hl' p hp).2) hs hch hk
  case finish =>
    intro b ht hup
    refine ⟨fun h => gives rfl (teardownFinish_waits h), fun h => ?_, fun h hr hs hst htab hp => ⟨_, gives rfl (teardownFinish_bare ht hup h hr hs hst htab hp), ?_⟩⟩
    · intro b1
      refine gives rfl ((teardownFinish_ends ht hup h).trans ?_)
      unfold Block.finishParked
      simp only [Bool.and_assoc]
      rfl
    · have hctx (k : Nat) : ((List.range 4).foldl (partGone c) b).ctx k = b.ctx k := by rw [Block.ctx, Block.ctx, partsGone_ctxs]
      refine ⟨?_, fun k hk => (Block.ctx_setCtx_ne _ _ hk).trans (hctx k), fun t ht => ?_⟩
      · rw [ctxCleared, Block.ctx_setCtx, hctx]
      · rw [ctxCleared_tile, partsGone_tile c _ b List.nodup_range (List.mem_range.mpr ht)]
  · rintro r e s c ha ⟨h1, h2, h3⟩
    exact completes rfl ha (if_neg (by simp [h1]; omega))
  · intro r e s c ha h
    refine refuses rfl ha (if_pos (h.imp_left fun h => ?_))
    rw [h]
    decide
  · rintro r e s c ha ⟨h1, h2, h3, h4⟩
    refine completes rfl ha (if_neg ?_)
    rw [h2]
    simp only [Bool.not_true, Bool.false_eq_true, false_or, List.any_eq_true, Bool.and_eq_true, bne_iff_ne]
    rintro (h | h | ⟨p, -, x, hx, hne, hm⟩)
    · omega
    · exact absurd h3 (Nat.not_le.mpr h)
    · exact Bool.false_ne_true ((h4 p x hx hne).symm.trans hm)
  · intro r e s c ha h
    refine refuses rfl ha (if_pos (h.imp_right fun h => ?_))
    rcases h with h | h
    · exact .inl (by rw [h]; rfl)
    · exact .inr (.inl h)
  · rintro r e s c ha ⟨h1, h2, h3, h4, h5, h6, h7⟩
    refine completes rfl ha ((if_neg ?_).trans ?_)
    · rw [h7, h5]
      simp only [Bool.true_eq_false, and_false, or_false]
      omega
    · exact congrArg (CmdRes.done .success 0) (if_neg (Nat.pos_iff_ne_zero.mp h6))
  · rintro r e s c ha ⟨h1, h2, h3, h4, h5⟩
    refine completes rfl ha ((if_neg ?_).trans ?_)
    · rw [h5]
      omega
    · refine congrArg (CmdRes.done .success 0) ((if_pos h2).trans ?_)
      rw [h2]
  · intro r e s c ha h
    refine refuses rfl ha (if_pos ?_)
    tauto
  · rintro r e s c ha ⟨h1, h2, h3, h4, h5, h6⟩
    refine completes rfl ha (if_neg ?_)
    show ¬ (1 < c.p 1 ∨ c.p 2 < 31 ∨ (List.range 4).any (fun t => partBad (s.blk.started r) c.c t (c.p (3 + t)) (c.p (7 + t))) = true
      ∨ c.p 7 + (c.p 8 + (c.p 9 + (c.p 10 + 0))) < 256 ∨ _ ∨ _)
    rw [partsGood fun t ht => h5 t ht, h3, h4]
    simp only [Bool.false_eq_true, or_false, false_or]
    omega
  · intro r e s c ha h
    refine refuses rfl ha (if_pos ?_)
    show 1 < c.p 1 ∨ c.p 2 < 31 ∨ (List.range 4).any (fun t => partBad (s.blk.started r) c.c t (c.p (3 + t)) (c.p (7 + t))) = true
      ∨ c.p 7 + (c.p 8 + (c.p 9 + (c.p 10 + 0))) < 256 ∨ _ ∨ _
    rcases h with h | h | h | h | h | ⟨t, ht, h⟩
    · exact .inl h
    · exact .inr (.inl h)
    · exact .inr (.inr (.inr (.inr (.inl h))))
    · exact .inr (.inr (.inr (.inr (.inr h))))
    · exact .inr (.inr (.inr (.inl (by omega))))
    · refine .inr (.inr (.inl (List.any_eq_true.mpr ⟨t, List.mem_range.mpr ht, ?_⟩)))
      simp [partBad, h]
  · rintro r e s c ha ⟨h1, h2, h3⟩
    exact completes rfl ha (if_neg (by omega))
  · intro r e s c ha h
    exact refuses rfl ha (if_pos h)

end Sys2Proof.Proofs
end

section
/-!
SUPPORT. A push by the host, and the commands of jobs (R254, R285, R293, R303, R317).
-/
namespace Sys2Proof.Proofs
open Sys2Proof.Machine Sys2Proof.Claims

/-! ### Pushes by the host (R254) -/

/-- A BLANK_PUSH of one descriptor at the first address of the deep tier. -/
def pushEntry : Entry := BitVec.ofNat 512 (0x40 + 1 <<< 192 + deepBase <<< 256)

/-- The command as its handler sees it. -/
def pushCmd : Cmd := { ring := 1, entry := pushEntry, ctx := some 0, par := [1, deepBase] }

/-- Context 0 may push ten blanks. Its ring has taken the push, and the descriptor asks for one word of code. -/
def pushState : State :=
  { pending := [], dram := { mem := [(2 ^ 43 + 5, 1), (2 ^ 43 + 8, 1)] }
    blk := { perst := false, ready := true, bootStage := 4
             ctxs := [(0, { state := .live, sched := { enable := true, quota := 10 } })]
             rings := [(1, { enable := true, reserved := 1, taken := [{ entry := pushEntry }], history := [{ tag := 0, opcode := 0x40 }] })] } }

/-- The parameters and the context that the common checks find. -/
def checkedPar : Except Status Cmd → Option (List Nat × Option Nat)
  | .ok c => some (c.par, c.ctx)
  | .error _ => none

theorem checkedPar_ok {x : Except Status Cmd} {par : List Nat} {ctx : Option Nat} (h : checkedPar x = some (par, ctx)) :
    ∃ c, x = .ok c ∧ c.par = par ∧ c.ctx = ctx := by
  cases x with
  | error st => cases h
  | ok c =>
    obtain ⟨hp, hc⟩ := Prod.mk.inj (Option.some.inj h)
    exact ⟨c, rfl, hp, hc⟩

theorem cmd_eq {c : Cmd} {ring : Nat} {entry : Entry} {ctx : Option Nat} {par : List Nat} (h1 : c.ring = ring) (h2 : c.entry = entry)
    (h3 : c.ctx = ctx) (h4 : c.par = par) : c = { ring, entry, ctx, par } := by
  subst h1 h2 h3 h4
  rfl

theorem pushState_checks : checkedPar ((pushState.blk.started 1).cmdCheck 1 pushEntry) = some ([1, deepBase], some 0) := by decide +kernel

theorem pushState_accepts : pushState.blk.accepts 1 pushEntry 0x40 pushCmd := by
  obtain ⟨c, hc, hpar, hctx⟩ := checkedPar_ok pushState_checks
  obtain ⟨hring, hentry⟩ := cmdCheck_ok hc
  exact ⟨by decide +kernel, hc.trans (congrArg Except.ok (cmd_eq hring hentry hctx hpar))⟩

/-- What the device reads as the descriptor, and the block after that read. -/
def pushRead : Status × List Byte × Block := hubRead pushState.dram (pushState.blk.started 1) deepBase (64 * 1)

theorem pushRead_success : pushRead.1 = .success := by decide +kernel

theorem read_parts {x : Status × List Byte × Block} {st : Status} (h : x.1 = st) : x = (st, x.2.1, x.2.2) := Prod.ext h rfl

theorem pushRead_eq : pushRead = (.success, pushRead.2.1, pushRead.2.2) := read_parts pushRead_success

/-- The completions that the tag history of ring 1 holds. -/
def completedOf (b : Block) : List (Option (Nat × Nat)) := (b.ring 1).history.map (·.done)

theorem completedOf_stalled (b : Block) (x : Bool) : completedOf { b with stalled := x } = completedOf b := rfl

/-- The push is answered with the nine entries that it has left. -/
theorem pushState_answers : answered completedOf (.blankPush 1 pushEntry) pushState = some [some (0, 9)] := by decide +kernel

/-- Refutes O43: a push is answered with the quota that is left once its own blanks are counted, and not with the quota before it. -/
theorem not_tablesAndPushes : ¬ Obligations.TablesAndPushes := by
  intro ⟨_, _, _, _, _, hpush, _⟩
  obtain ⟨hready, -⟩ := hpush 1 pushEntry pushState pushCmd pushRead.2.1 pushRead.2.2 pushState_accepts (by decide) (by decide) (by decide) pushRead_eq
  have hclaim := answered_of_gives (f := completedOf) (hready (by decide +kernel) (by decide +kernel)) (completedOf_stalled _ _)
  have hlist := Option.some.inj (hclaim.symm.trans pushState_answers)
  revert hlist
  decide +kernel

/-! ### Jobs -/

/-- Settles O44: each command of a job by its checks. -/
theorem jobCommands : Obligations.JobCommands := by
  refine ⟨fun r e s c bs b' => ?join, ?_, fun r e s c => ?leave, fun r e s c k => ?readmit, ?_, ?_, ?_, fun r e s c ch => ?sweep, ?_⟩
  case join =>
    intro b n ha h1 h2 h3 h4 h5 h6 h7 h8 h9 h10 hread
    refine completes rfl ha ((if_neg ?_).trans ?_)
    · rw [show ((s.blk.started r).ctx c.c).krf.jobEn = false from h8, show (s.blk.started r).region (c.p 5) = .hbm from h9,
        show (s.blk.started r).region (c.p 5 + 64 * c.p 1 - 1) = .hbm from h10]
      have h2' : (s.blk.started r).openConns + c.p 1 ≤ 16384 := h2
      have h1' : c.p 1 ≤ 4096 := h1
      simp only [Bool.false_eq_true, ne_eq, not_true_eq_false, or_false]
      omega
    · rw [show (if c.p 1 = 0 then (Status.success, [], s.blk.started r) else hubRead s.dram (s.blk.started r) (c.p 5) (64 * c.p 1)) = _ from hread]
      exact if_neg (by simp)
  case leave =>
    intro b ha lines left
    refine ⟨fun hl => completes rfl ha (if_pos hl), fun hl => parks rfl ha (if_neg hl)⟩
  case readmit =>
    intro b ha hk
    refine ⟨fun hs => ?_, fun hs => ?_⟩
    · refine completes rfl ha ?_
      simp only [show (s.blk.started r).connOf c.c (c.p 0) = some k from hk]
      exact if_neg (not_not.mpr hs)
    · refine refuses rfl ha ?_
      simp only [show (s.blk.started r).connOf c.c (c.p 0) = some k from hk]
      exact if_pos hs
  case sweep =>
    intro b x b1 ha hf
    have hf' : (s.blk.started r).chains.find? (fun ch => ch.ctx == c.c && ch.descAddr == c.p 2) = some ch := hf
    refine ⟨fun h1 h2 => ?_, fun h1 h2 h3 => ?_, fun h => ?_⟩
    · refine completes rfl ha ?_
      simp only [hf']
      refine (if_neg ?_).trans (congrArg (CmdRes.done .success 0) (if_neg (by omega)))
      rintro (h | h | ⟨h, -⟩)
      · omega
      · exact absurd h2 (Nat.not_lt.mpr h)
      · omega
    · refine completes rfl ha ?_
      simp only [hf']
      refine (if_neg ?_).trans (congrArg (CmdRes.done .success 0) (if_pos h1))
      rintro (h | h | ⟨-, h⟩)
      · omega
      · exact absurd h2 (Nat.not_lt.mpr h)
      · simp [h3] at h
    · refine refuses rfl ha ?_
      simp only [hf']
      refine if_pos (h.imp_right (Or.imp_right (And.imp_right fun h => ?_)))
      simp [h]
  · intro r e s c ha h
    refine refuses rfl ha (if_pos ?_)
    tauto
  · rintro r e s c ha ⟨h1, h2, h3, h4⟩
    refine completes rfl ha ((if_neg ?_).trans ?_)
    · rw [h1]
      simp only [Bool.true_eq_false, false_or]
      omega
    · exact congrArg (CmdRes.done .success 0) (if_pos h3)
  · rintro r e s c ha ⟨h1, h2, h3, h4⟩
    refine completes rfl ha ((if_neg ?_).trans ?_)
    · rw [h1]
      simp only [Bool.true_eq_false, false_or]
      omega
    · exact congrArg (CmdRes.done .success 0) (if_neg (by omega))
  · intro r e s c ha h
    exact refuses rfl ha (if_pos h)
  · intro r e s c ha h
    refine refuses rfl ha ?_
    simp only [h]

end Sys2Proof.Proofs
end

section
/-!
SUPPORT. The stream commands (R207, R210 to R214).
-/
namespace Sys2Proof.Proofs
open Sys2Proof.Machine Sys2Proof.Claims

/-! ### The frame of a stream command -/

/-- A command that asks for host-window bytes waits again. -/
theorem startCmd_again {b : Block} {r : Nat} {e : Entry} {op : Nat} {c : Cmd} {act : Block → Cmd → CmdRes} {b' : Block}
    (h : b.accepts r e op c) (ha : act (b.started r) c = .again b') : b.startCmd r e op act = b'.unstarted r e := by
  rw [startCmd_presents act h.1]
  simp only [h.2, ha]

section
variable {r : RingId} {e : Entry} {s : State} {op : Nat} {c : Cmd} {i : Instr} {out : Host.Outcome State Fault Refusal}
  {act : Sb → Cmd → Nat → CmdRes × Sb} {x x' : Sb} {st : Status} {v : Nat} {b' : Block}

/-- How the work of a command ends: whole, or with nothing but its missing reads issued. -/
def closeAct (b : Block) (res : CmdRes × Sb) : CmdRes :=
  match Sb.close b res.2 with
  | (true, b) =>
    match res.1 with
    | .done st v _ => .done st v b
    | .parked _ => .parked b
    | .again _ => .again b
  | (false, b) => .again b

theorem closeAct_done {b : Block} (hm : x'.miss = []) : closeAct b (.done st v b', x') = .done st v (x'.b.hubDone x'.who) := by
  simp only [closeAct, Sb.close, hm, if_true]
  rfl

theorem closeAct_parked {b : Block} (hm : x'.miss = []) : closeAct b (.parked b', x') = .parked (x'.b.hubDone x'.who) := by
  simp only [closeAct, Sb.close, hm, if_true]
  rfl

theorem closeAct_asks {b : Block} {res : CmdRes} (hm : x'.miss ≠ []) : closeAct b (res, x') = .again (b.windowAsk { spindle := x'.who } x'.miss) := by
  simp only [closeAct, Sb.close, if_neg hm]

/-- The handler of a stream command, behind the check for outstanding reads. -/
def streamAct (m : Dram) (who : Nat) (act : Sb → Cmd → Nat → CmdRes × Sb) (b : Block) (c : Cmd) : CmdRes :=
  let id := c.p 0
  if b.streamTable = none ∨ streamCount ≤ id then .refuse b .invalidField
  else if (b.stream id).any fun x => x.ctx != c.c then .refuse b .accessDenied
  else
    let r := Sb.load m { b, who } id
    closeAct b (if r.1 = .success then act r.2 c id else (.done r.1 0 r.2.b, r.2))

theorem streamCmd_starts (hx : out = streamCmd r e op s act) (ha : s.blk.hubAsking (272 + r.val) = false) :
    out = nextOf s (s.blk.startCmd r e op (streamAct s.dram (272 + r.val) act)) := by
  rw [hx, streamCmd, ha]
  refine congrArg (nextOf s) ((if_neg Bool.false_ne_true).trans (congrArg (s.blk.startCmd r e op) (funext fun b => funext fun c => ?_)))
  rfl

/-- The command names a stream of its context, whose entry is in the cache once `x` has loaded it. -/
structure Loads (s : State) (r : RingId) (c : Cmd) (x : Sb) : Prop where
  asking : s.blk.hubAsking (272 + r.val) = false
  table : (s.blk.started r).streamTable.isSome = true
  id : c.p 0 < 131072
  ctx : ∀ t, (s.blk.started r).stream (c.p 0) = some t → t.ctx = c.c
  load : Sb.load s.dram { b := s.blk.started r, who := 272 + r.val } (c.p 0) = (.success, x)

theorem streamAct_loads (h : Loads s r c x) : streamAct s.dram (272 + r.val) act (s.blk.started r) c = closeAct (s.blk.started r) (act x c (c.p 0)) := by
  have hno : ¬ ((s.blk.started r).streamTable = none ∨ streamCount ≤ c.p 0) := by
    rintro (hn | hn)
    · have := h.table
      rw [hn] at this
      cases this
    · exact absurd h.id (Nat.not_lt.mpr hn)
  have hctx : ((s.blk.started r).stream (c.p 0)).any (fun x => x.ctx != c.c) = false := by
    cases ht : (s.blk.started r).stream (c.p 0) with
    | none => rfl
    | some t => simp [h.ctx t ht]
  unfold streamAct
  simp only [hctx, h.load, if_true, Bool.false_eq_true, if_false]
  exact if_neg hno

/-- The command completes with the block that its work leaves, its host-window bytes used up. -/
theorem stream_done (hi : exec i s = out) (hx : out = streamCmd r e op s act) (h : Loads s r c x) (ha : s.blk.accepts r e op c)
    (hact : act x c (c.p 0) = (.done st v b', x')) (hm : x'.miss = []) (hw : x'.who = 272 + r.val) :
    Gives i s ((x'.b.hubDone (272 + r.val)).finish r e st v) := by
  refine gives (hi.trans (streamCmd_starts hx h.asking)) (startCmd_done ha ?_)
  rw [streamAct_loads h, hact, closeAct_done hm, hw]

/-- The command stays parked at its stream. -/
theorem stream_parked (hi : exec i s = out) (hx : out = streamCmd r e op s act) (h : Loads s r c x) (ha : s.blk.accepts r e op c)
    (hact : act x c (c.p 0) = (.parked b', x')) (hm : x'.miss = []) (hw : x'.who = 272 + r.val) : Gives i s (x'.b.hubDone (272 + r.val)) := by
  refine gives (hi.trans (streamCmd_starts hx h.asking)) (startCmd_parked ha ?_)
  rw [streamAct_loads h, hact, closeAct_parked hm, hw]

/-- The command asks for the host-window bytes that it lacks, and comes again. -/
theorem stream_asks {res : CmdRes} (hi : exec i s = out) (hx : out = streamCmd r e op s act) (h : Loads s r c x) (ha : s.blk.accepts r e op c)
    (hact : act x c (c.p 0) = (res, x')) (hm : x'.miss ≠ []) (hw : x'.who = 272 + r.val) :
    Gives i s (((s.blk.started r).windowAsk { spindle := 272 + r.val } x'.miss).unstarted r e) := by
  refine gives (hi.trans (streamCmd_starts hx h.asking)) (startCmd_again ha ?_)
  rw [streamAct_loads h, hact, closeAct_asks hm, hw]

/-- Without a stream table, or with an identifier that it does not hold, the command is refused. -/
theorem stream_noTable (hi : exec i s = out) (hx : out = streamCmd r e op s act) (hq : s.blk.hubAsking (272 + r.val) = false) (ha : s.blk.accepts r e op c)
    (h : (s.blk.started r).streamTable = none ∨ 131072 ≤ c.p 0) : Gives i s ((s.blk.started r).finish r e .invalidField 0) :=
  gives (hi.trans (streamCmd_starts hx hq)) (startCmd_done ha (if_pos h))

/-- A stream of another context is refused. -/
theorem stream_foreign (hi : exec i s = out) (hx : out = streamCmd r e op s act) (hq : s.blk.hubAsking (272 + r.val) = false) (ha : s.blk.accepts r e op c)
    (ht : (s.blk.started r).streamTable.isSome = true) (hid : c.p 0 < 131072) (h : ∃ t, (s.blk.started r).stream (c.p 0) = some t ∧ t.ctx ≠ c.c) :
    Gives i s ((s.blk.started r).finish r e .accessDenied 0) := by
  obtain ⟨t, hs, hc⟩ := h
  refine gives (hi.trans (streamCmd_starts hx hq)) (startCmd_done ha ((if_neg ?_).trans (if_pos ?_)))
  · rintro (hn | hn)
    · rw [hn] at ht
      cases ht
    · exact absurd hid (Nat.not_lt.mpr hn)
  · rw [hs]
    exact bne_iff_ne.mpr hc

end

/-! ### The six commands -/

section
variable (r : RingId) (e : Entry) (s : State)

/-- The stream commands with their opcodes. -/
def streamRows : List (Instr × Nat) :=
  [(.streamOpen r e, 0x30), (.streamFork r e, 0x31), (.streamPause r e, 0x32), (.streamResume r e, 0x33), (.streamClose r e, 0x34), (.streamQuery r e, 0x35)]

theorem exec_streamOpen : exec (.streamOpen r e) s = execStreamOpen r e s := rfl
theorem exec_streamFork : exec (.streamFork r e) s = execStreamFork r e s := rfl
theorem exec_streamPause : exec (.streamPause r e) s = execStreamPause r e s := rfl
theorem exec_streamResume : exec (.streamResume r e) s = execStreamResume r e s := rfl
theorem exec_streamClose : exec (.streamClose r e) s = execStreamClose r e s := rfl
theorem exec_streamQuery : exec (.streamQuery r e) s = execStreamQuery r e s := rfl

/-- Every stream command has the frame `streamCmd`. -/
theorem streamRows_frame {i : Instr × Nat} (hi : i ∈ streamRows r e) : ∃ act, exec i.1 s = streamCmd r e i.2 s act := by
  simp only [streamRows, List.mem_cons, List.not_mem_nil, or_false] at hi
  rcases hi with rfl | rfl | rfl | rfl | rfl | rfl
  · exact ⟨_, exec_streamOpen r e s⟩
  · exact ⟨_, exec_streamFork r e s⟩
  · exact ⟨_, exec_streamPause r e s⟩
  · exact ⟨_, exec_streamResume r e s⟩
  · exact ⟨_, exec_streamClose r e s⟩
  · exact ⟨_, exec_streamQuery r e s⟩

end

section
variable {r : RingId} {e : Entry} {s : State} {c : Cmd} {x x1 x2 x3 x4 x5 : Sb} {h : Stream} {got : List Nat} {st : Status}

/-- An open that shares nothing takes its pages and makes the entry live. -/
theorem openStream_done {m : Dram} {id : Nat} {hold : Bool}
    (hal : x1.allocList m c.c h.pageList 0 ((h.pos / (x1.b.pool c.c).ppp + 1) * (x1.b.pool c.c).groups) = (.success, got, x2)) :
    x1.openStream m c.c id h hold [] = Sb.done (x2.mod fun b => b.setStream id (h.fresh0 (h.pos / (x1.b.pool c.c).ppp + 1) (if hold then stPaused else stActive))) .success := by
  have hal' : x1.allocList m c.c h.pageList 0 ((h.pos / (x1.b.pool c.c).ppp + 1) * (x1.b.pool c.c).groups - 0) = (.success, got, x2) := hal
  simp only [Sb.openStream, List.length_nil, iter, List.range_zero, List.foldl_nil, hal']
  exact if_neg fun hn => hn rfl

/-- An open for which the pages run out gives back those that it took. -/
theorem openStream_empties {m : Dram} {id : Nat} {hold : Bool} (hst : st ≠ .success)
    (hal : x1.allocList m c.c h.pageList 0 ((h.pos / (x1.b.pool c.c).ppp + 1) * (x1.b.pool c.c).groups) = (st, got, x2)) :
    x1.openStream m c.c id h hold [] = Sb.done (x2.freePages m c.c got).2 st := by
  have hal' : x1.allocList m c.c h.pageList 0 ((h.pos / (x1.b.pool c.c).ppp + 1) * (x1.b.pool c.c).groups - 0) = (st, got, x2) := hal
  simp only [Sb.openStream, List.length_nil, iter, List.range_zero, List.foldl_nil, hal']
  exact if_pos hst

theorem streamOpen_opens (hl : Loads s r c x) (ha : s.blk.accepts r e 0x30 c) (hfree : x.b.stream (c.p 0) = none) (hp : c.p 1 ≤ 1)
    (hh : x.hostEntry s.dram (c.p 0) = (.success, h, x1)) (hok : x1.b.entryBad c.c h = false) {res : CmdRes × Sb}
    (hres : x1.openStream s.dram c.c (c.p 0) h (c.p 1 == 1) [] = res) {v : Nat} {b' : Block} (hd : res = (.done st v b', x5)) (hm : x5.miss = [])
    (hw : x5.who = 272 + r.val) : Gives (.streamOpen r e) s ((x5.b.hubDone (272 + r.val)).finish r e st v) := by
  refine stream_done (exec_streamOpen r e s) rfl hl ha ?_ hm hw (v := v) (b' := b')
  have hno : ¬ ((x.b.stream (c.p 0)).isSome = true ∨ 1 < c.p 1) := by simp [hfree, hp]
  refine (if_neg hno).trans ?_
  simp only [hh, hok]
  exact (if_neg fun hn => hn rfl).trans ((if_neg Bool.false_ne_true).trans (hres.trans hd))

theorem streamOpen_notFree (hl : Loads s r c x) (hm : x.miss = []) (hw : x.who = 272 + r.val) (ha : s.blk.accepts r e 0x30 c)
    (hn : (x.b.stream (c.p 0)).isSome = true ∨ 1 < c.p 1) : Gives (.streamOpen r e) s ((x.b.hubDone (272 + r.val)).finish r e .invalidField 0) :=
  stream_done (exec_streamOpen r e s) rfl hl ha (if_pos hn) hm hw

theorem streamOpen_badEntry (hl : Loads s r c x) (ha : s.blk.accepts r e 0x30 c) (hfree : x.b.stream (c.p 0) = none) (hp : c.p 1 ≤ 1)
    (hh : x.hostEntry s.dram (c.p 0) = (.success, h, x1)) (hbad : x1.b.entryBad c.c h = true) (hm : x1.miss = []) (hw : x1.who = 272 + r.val) :
    Gives (.streamOpen r e) s ((x1.b.hubDone (272 + r.val)).finish r e .invalidField 0) := by
  refine stream_done (exec_streamOpen r e s) rfl hl ha ?_ hm hw (b' := x1.b)
  have hno : ¬ ((x.b.stream (c.p 0)).isSome = true ∨ 1 < c.p 1) := by simp [hfree, hp]
  refine (if_neg hno).trans ?_
  simp only [hh, hbad]
  exact (if_neg fun hn => hn rfl).trans (if_pos trivial)

/-! ### Fork -/

theorem streamFork_noParent (hl : Loads s r c x) (ha : s.blk.accepts r e 0x31 c) (hp : x.load s.dram (c.p 1) = (st, x1)) (hm : x1.miss = [])
    (hw : x1.who = 272 + r.val) (hn : x1.b.stream (c.p 1) = none) :
    Gives (.streamFork r e) s ((x1.b.hubDone (272 + r.val)).finish r e .invalidField 0) := by
  refine stream_done (exec_streamFork r e s) rfl hl ha ?_ hm hw (b' := x1.b)
  simp only [hp, hn]
  rfl

theorem streamFork_refused {par : Stream} (hl : Loads s r c x) (ha : s.blk.accepts r e 0x31 c) (hp : x.load s.dram (c.p 1) = (.success, x1))
    (hm : x1.miss = []) (hw : x1.who = 272 + r.val) (hpar : x1.b.stream (c.p 1) = some par)
    (hno : (x1.b.stream (c.p 0)).isSome = true ∨ par.ctx ≠ c.c ∨ par.state = 6) :
    Gives (.streamFork r e) s ((x1.b.hubDone (272 + r.val)).finish r e .invalidField 0) := by
  refine stream_done (exec_streamFork r e s) rfl hl ha ?_ hm hw (b' := x1.b)
  simp only [hp, hpar]
  exact (if_neg fun hn => hn rfl).trans (if_pos hno)

/-- The pages that a fork shares are live pages of the context, each shared fewer than 65,535 times. -/
theorem sharedWords_ok {ws : List Nat} {k : Nat} (h : ∀ w ∈ ws, w % 65536 ≠ 65535 ∧ w % 65536 ≠ 0 ∧ w / 2 ^ 28 = k) :
    (ws.any fun w => w % 65536 == 65535 || w % 65536 == 0 || w / 2 ^ 28 != k) = false := by
  refine List.any_eq_false.mpr fun w hw => ?_
  obtain ⟨hmax, hlive, hctx⟩ := h w hw
  simp only [Bool.or_eq_true, beq_iff_eq, bne_iff_ne, not_or, ne_eq, not_not]
  exact ⟨⟨hmax, hlive⟩, hctx⟩

theorem streamFork_shares {par : Stream} {l ws : List Nat} {st' : Status} {v : Nat} {b' : Block} (hl : Loads s r c x) (ha : s.blk.accepts r e 0x31 c)
    (hp : x.load s.dram (c.p 1) = (.success, x1)) (hpar : x1.b.stream (c.p 1) = some par)
    (hfree : x1.b.stream (c.p 0) = none) (hctx : par.ctx = c.c) (hstate : par.state ≠ 6)
    (hh : x1.hostEntry s.dram (c.p 0) = (.success, h, x2)) (hok : x2.b.entryBad c.c h = false)
    (hmod : c.p 2 % (x.b.pool c.c).ppp = 0) (hpos : c.p 2 ≤ par.pos) (hpos' : c.p 2 ≤ h.pos) (hblocks : c.p 2 / (x.b.pool c.c).ppp ≤ par.blocks)
    (hlist : x2.pageList s.dram par.pageList 0 (c.p 2 / (x.b.pool c.c).ppp * (x.b.pool c.c).groups) = (.success, l, x3)) (hm3 : x3.miss = [])
    (hin : ∀ k ∈ l, k < (x.b.pool c.c).pages) (hwords : x3.pageWords s.dram (x.b.pool c.c) l = (.success, ws, x4))
    (hws : ∀ w ∈ ws, w % 65536 ≠ 65535 ∧ w % 65536 ≠ 0 ∧ w / 2 ^ 28 = c.c)
    (hopen : x4.openStream s.dram c.c (c.p 0) h false l = (.done st' v b', x5)) (hm : x5.miss = []) (hw : x5.who = 272 + r.val) :
    Gives (.streamFork r e) s ((x5.b.hubDone (272 + r.val)).finish r e st' v) := by
  refine stream_done (exec_streamFork r e s) rfl hl ha ?_ hm hw (v := v) (b' := b')
  have hsound : (x2.b.entryBad c.c h || c.p 2 % (x.b.pool c.c).ppp != 0 || decide (par.pos < c.p 2) || decide (h.pos < c.p 2)
      || decide (par.blocks < c.p 2 / (x.b.pool c.c).ppp)) = false := by
    simp [hok, hmod, hpos, hpos', hblocks]
  have hno : ¬ ((x1.b.stream (c.p 0)).isSome = true ∨ par.ctx ≠ c.c ∨ par.state = stClosing) := by
    rw [hfree]
    rintro (hn | hn | hn)
    · cases hn
    · exact hn hctx
    · exact hstate hn
  have hpages : ¬ ((decide (x3.miss = []) && l.any fun k => decide ((x.b.pool c.c).pages ≤ k)) = true) := by
    simpa [hm3] using hin
  simp only [hp, hpar]
  refine (if_neg fun hn => hn rfl).trans ((if_neg hno).trans ?_)
  simp only [hh, hsound]
  refine (if_neg fun hn => hn rfl).trans ((if_neg Bool.false_ne_true).trans ?_)
  simp only [hlist]
  refine (if_neg fun hn => hn rfl).trans ((if_neg hpages).trans ?_)
  simp only [if_pos hm3, hwords, sharedWords_ok hws]
  exact (if_neg fun hn => hn rfl).trans ((if_neg Bool.false_ne_true).trans hopen)

/-! ### Pause, resume, close and query -/

section
variable {t : Stream}

theorem streamPause_pauses (hl : Loads s r c x) (hm : x.miss = []) (hw : x.who = 272 + r.val) (ht : x.b.stream (c.p 0) = some t)
    (ha : s.blk.accepts r e 0x32 c) (hst : t.state = 2 ∨ t.state = 3) (hin : t.inStep = false) :
    Gives (.streamPause r e) s (((x.b.streamPaused (c.p 0)).hubDone (272 + r.val)).finish r e .success 0) := by
  refine stream_done (x' := x.mod fun b => b.streamPaused (c.p 0)) (b' := x.b.streamPaused (c.p 0)) (exec_streamPause r e s) rfl hl ha ?_ hm hw
  have hno : ¬ (t.state ≠ stActive ∧ t.state ≠ stParked) := fun ⟨h2, h3⟩ => hst.elim h2 h3
  simp only [ht]
  exact (if_neg hno).trans (if_neg (ne_true_of_eq_false hin))

theorem streamPause_waits (hl : Loads s r c x) (hm : x.miss = []) (hw : x.who = 272 + r.val) (ht : x.b.stream (c.p 0) = some t)
    (ha : s.blk.accepts r e 0x32 c) (hst : t.state = 2 ∨ t.state = 3) (hin : t.inStep = true) :
    Gives (.streamPause r e) s ((x.b.setStream (c.p 0) { t with pausePending := true, parked := t.parked ++ [(r.val, e)] }).hubDone (272 + r.val)) := by
  refine stream_parked (x' := x.mod fun b => b.setStream (c.p 0) { t with pausePending := true, parked := t.parked ++ [(r.val, e)] }) (b' := x.b)
    (exec_streamPause r e s) rfl hl ha ?_ hm hw
  have hno : ¬ (t.state ≠ stActive ∧ t.state ≠ stParked) := fun ⟨h2, h3⟩ => hst.elim h2 h3
  simp only [ht]
  exact (if_neg hno).trans (if_pos hin)

theorem streamPause_refused (hl : Loads s r c x) (hm : x.miss = []) (hw : x.who = 272 + r.val) (ht : x.b.stream (c.p 0) = some t)
    (ha : s.blk.accepts r e 0x32 c) (h2 : t.state ≠ 2) (h3 : t.state ≠ 3) :
    Gives (.streamPause r e) s ((x.b.hubDone (272 + r.val)).finish r e .invalidField 0) := by
  refine stream_done (x' := x) (b' := x.b) (exec_streamPause r e s) rfl hl ha ?_ hm hw
  simp only [ht]
  exact if_pos ⟨h2, h3⟩

theorem streamResume_resumes (hl : Loads s r c x) (hm : x.miss = []) (hw : x.who = 272 + r.val) (ht : x.b.stream (c.p 0) = some t)
    (ha : s.blk.accepts r e 0x33 c) (hst : t.state = 1) :
    Gives (.streamResume r e) s (((x.b.setStream (c.p 0) (t.setState 2)).hubDone (272 + r.val)).finish r e .success 0) := by
  refine stream_done (x' := x.mod fun b => b.setStream (c.p 0) (t.setState 2)) (b' := x.b.setStream (c.p 0) (t.setState 2))
    (exec_streamResume r e s) rfl hl ha ?_ hm hw
  simp only [ht]
  exact if_neg fun hn => hn hst

theorem streamResume_refused (hl : Loads s r c x) (hm : x.miss = []) (hw : x.who = 272 + r.val) (ht : x.b.stream (c.p 0) = some t)
    (ha : s.blk.accepts r e 0x33 c) (hst : t.state ≠ 1) :
    Gives (.streamResume r e) s ((x.b.hubDone (272 + r.val)).finish r e .invalidField 0) := by
  refine stream_done (x' := x) (b' := x.b) (exec_streamResume r e s) rfl hl ha ?_ hm hw
  simp only [ht]
  exact if_pos hst

theorem streamClose_waits (hl : Loads s r c x) (hm : x.miss = []) (hw : x.who = 272 + r.val) (ht : x.b.stream (c.p 0) = some t)
    (ha : s.blk.accepts r e 0x34 c) (hin : t.inStep = true) :
    Gives (.streamClose r e) s ((x.b.setStream (c.p 0) { t.setState 6 with parked := t.parked ++ [(r.val, e)] }).hubDone (272 + r.val)) := by
  refine stream_parked (x' := x.mod fun b => b.setStream (c.p 0) { t.setState 6 with parked := t.parked ++ [(r.val, e)] }) (b' := x.b)
    (exec_streamClose r e s) rfl hl ha ?_ hm hw
  simp only [ht]
  exact if_pos hin

theorem streamClose_closes (hl : Loads s r c x) (ht : x.b.stream (c.p 0) = some t) (ha : s.blk.accepts r e 0x34 c) (hin : t.inStep = false)
    (hw : (x.closeStream s.dram (c.p 0)).who = 272 + r.val) (hm : (x.closeStream s.dram (c.p 0)).miss = []) :
    Gives (.streamClose r e) s (((x.closeStream s.dram (c.p 0)).b.hubDone (272 + r.val)).finish r e .success 0) := by
  refine stream_done (x' := x.closeStream s.dram (c.p 0)) (b' := (x.closeStream s.dram (c.p 0)).b) (exec_streamClose r e s) rfl hl ha ?_ hm hw
  simp only [ht]
  exact if_neg (ne_true_of_eq_false hin)

theorem streamClose_asks (hl : Loads s r c x) (ht : x.b.stream (c.p 0) = some t) (ha : s.blk.accepts r e 0x34 c) (hin : t.inStep = false)
    (hw : (x.closeStream s.dram (c.p 0)).who = 272 + r.val) (hm : (x.closeStream s.dram (c.p 0)).miss ≠ []) :
    Gives (.streamClose r e) s (((s.blk.started r).windowAsk { spindle := 272 + r.val } (x.closeStream s.dram (c.p 0)).miss).unstarted r e) := by
  refine stream_asks (x' := x.closeStream s.dram (c.p 0)) (res := .done .success 0 (x.closeStream s.dram (c.p 0)).b) (exec_streamClose r e s) rfl hl ha ?_ hm hw
  simp only [ht]
  exact if_neg (ne_true_of_eq_false hin)

theorem streamQuery_answers (hl : Loads s r c x) (hm : x.miss = []) (hw : x.who = 272 + r.val) (ht : x.b.stream (c.p 0) = some t)
    (ha : s.blk.accepts r e 0x35 c) (hbuf : bufOk e 128 = true) :
    Gives (.streamQuery r e) s ((((x.b.streamTouch (c.p 0)).hostWrite (entBuf e) (leBytes 128 t.entry.toNat)).hubDone (272 + r.val)).finish r e .success 0) := by
  refine stream_done (x' := x.mod fun b => (b.streamTouch (c.p 0)).hostWrite (entBuf e) (leBytes 128 t.entry.toNat))
    (b' := (x.b.streamTouch (c.p 0)).hostWrite (entBuf e) (leBytes 128 t.entry.toNat)) (exec_streamQuery r e s) rfl hl ha ?_ hm hw
  simp only [hbuf, ht]
  exact if_neg Bool.false_ne_true

theorem streamQuery_refused (hl : Loads s r c x) (hm : x.miss = []) (hw : x.who = 272 + r.val)
    (ha : s.blk.accepts r e 0x35 c) (hbuf : bufOk e 128 = false) :
    Gives (.streamQuery r e) s ((x.b.hubDone (272 + r.val)).finish r e .invalidField 0) := by
  refine stream_done (x' := x) (b' := x.b) (exec_streamQuery r e s) rfl hl ha ?_ hm hw
  simp only [hbuf]
  exact if_pos rfl

/-- A pause, resume or close of a FREE stream is refused. -/
theorem stream_free (hl : Loads s r c x) (hm : x.miss = []) (hw : x.who = 272 + r.val) (hfree : x.b.stream (c.p 0) = none) :
    ∀ i ∈ [(Instr.streamPause r e, 0x32), (.streamResume r e, 0x33), (.streamClose r e, 0x34)],
      s.blk.accepts r e i.2 c → Gives i.1 s ((x.b.hubDone (272 + r.val)).finish r e .invalidField 0) := by
  intro i hi ha
  simp only [List.mem_cons, List.not_mem_nil, or_false] at hi
  rcases hi with rfl | rfl | rfl
  · refine stream_done (x' := x) (b' := x.b) (exec_streamPause r e s) rfl hl ha ?_ hm hw
    simp only [hfree]
    rfl
  · refine stream_done (x' := x) (b' := x.b) (exec_streamResume r e s) rfl hl ha ?_ hm hw
    simp only [hfree]
    rfl
  · refine stream_done (x' := x) (b' := x.b) (exec_streamClose r e s) rfl hl ha ?_ hm hw
    simp only [hfree]
    rfl

end

end

/-- Settles O45: the frame of the stream commands, and each command by the state of its stream. -/
theorem streamCommands : Obligations.StreamCommands := by
  intro r e s c b id who ended rows hq
  refine ⟨fun i hi ha => ?_, fun ht hid hctx x hload hm hw => ?_⟩
  · obtain ⟨act, hx⟩ := streamRows_frame r e s hi
    exact ⟨fun h => stream_noTable rfl hx hq ha h, fun ht hid h => stream_foreign rfl hx hq ha ht hid h⟩
  · have hl : Loads s r c x := ⟨hq, ht, hid, hctx, hload⟩
    refine ⟨fun ha hfree hp h x1 got x2 st hh hok hal => ⟨fun hst hm2 hw2 => ?_, ?_⟩, fun ha hn => streamOpen_notFree hl hm hw ha hn,
      fun ha hfree hp h x1 hh hbad hm1 hw1 => streamOpen_badEntry hl ha hfree hp hh hbad hm1 hw1,
      fun ha st x1 hp hm1 hw1 => ⟨fun hn => streamFork_noParent hl ha hp hm1 hw1 hn, ?_, fun par hst hpar hno => ?_⟩,
      fun t ht' => ⟨fun ha hst hin => streamPause_pauses hl hm hw ht' ha hst hin, fun ha hst hin => streamPause_waits hl hm hw ht' ha hst hin,
        fun ha h2 h3 => streamPause_refused hl hm hw ht' ha h2 h3, fun ha hst => streamResume_resumes hl hm hw ht' ha hst,
        fun ha hst => streamResume_refused hl hm hw ht' ha hst,
        fun ha hin hwc => ⟨fun hmc => streamClose_closes hl ht' ha hin hwc hmc, fun hmc => streamClose_asks hl ht' ha hin hwc hmc⟩,
        fun ha hin => streamClose_waits hl hm hw ht' ha hin, fun ha hbuf => streamQuery_answers hl hm hw ht' ha hbuf⟩,
      fun hfree => stream_free hl hm hw hfree, fun ha hbuf => streamQuery_refused hl hm hw ha hbuf⟩
    · subst hst
      have hres := streamOpen_opens hl ha hfree hp hh hok (openStream_done hal) rfl hm2 hw2
      have hstate : (if (c.p 1 == 1) = true then stPaused else stActive) = if c.p 1 = 1 then 1 else 2 := by simp only [beq_iff_eq]; rfl
      rw [hstate] at hres
      exact hres
    · intro hst x3 hm3 hw3
      exact streamOpen_opens hl ha hfree hp hh hok (openStream_empties hst hal) rfl hm3 hw3
    · intro par h x2 l x3 ws x4 x5 st' v b' p hst hpar hfree hpc hps hh hok hmod hpos hpos' hblocks hlist hm3 hin hwords hws hopen hm5 hw5
      subst hst
      exact streamFork_shares hl ha hp hpar hfree hpc hps hh hok hmod hpos hpos' hblocks hlist hm3 hin hwords hws hopen hm5 hw5
    · subst hst
      exact streamFork_refused hl ha hp hm1 hw1 hpar hno

end Sys2Proof.Proofs
end

section
/-!
SUPPORT. The steps of a generation lane (R215 to R219).
-/
namespace Sys2Proof.Proofs
open Sys2Proof.Machine Sys2Proof.Claims

section
variable {r : RingId} {e : Entry} {s : State} {c : Cmd} {bs : List Byte} {b' : Block}

/-! ### Arming -/

/-- A range of device memory at which a descriptor may lie. -/
theorem stepAddrOk_ok {b : Block} {a : Nat} (ha : a % 128 = 0) (hr : (b.memRange a 128).toOption.isSome = true) : stepAddrOk b a = .ok () := by
  unfold stepAddrOk
  refine (if_neg fun hn => hn ha).trans ?_
  cases h : b.memRange a 128 with
  | error st =>
    rw [h] at hr
    cases hr
  | ok x => rfl

theorem stepAddrOk_misaligned {b : Block} {a : Nat} (ha : a % 128 ≠ 0) : stepAddrOk b a = .error .invalidField := if_pos ha

/-- The lane of a sound STEP_ARM is named and idle. -/
theorem armable {b : Block} {k : Nat} (ht : b.streamTable.isSome = true) (hl : c.p 0 ≤ 3) (hb : (b.lane k (c.p 0)).busy = false) :
    ¬ (b.streamTable = none ∨ 3 < c.p 0 ∨ (b.lane k (c.p 0)).busy = true) := by
  rintro (hn | hn | hn)
  · rw [hn] at ht
    cases ht
  · exact absurd hl (Nat.not_le.mpr hn)
  · rw [hb] at hn
    cases hn

theorem stepArm_arms (ha : s.blk.accepts r e 0x36 c) (ht : (s.blk.started r).streamTable.isSome = true) (hl : c.p 0 ≤ 3)
    (hb : ((s.blk.started r).lane c.c (c.p 0)).busy = false) (hal : c.p 1 % 128 = 0) (hr : ((s.blk.started r).memRange (c.p 1) 128).toOption.isSome = true)
    (hread : hubRead s.dram (s.blk.started r) (c.p 1) 128 = (.success, bs, b'))
    (hc : (s.blk.started r).stepCellsBad c.c (BitVec.ofNat 1024 (leNat bs)) = false) :
    Gives (.stepArm r e) s ((b'.setLane c.c (c.p 0) { busy := true, step := c.p 1 }).finish r e .success 0) := by
  refine gives rfl (startCmd_done ha ((if_neg (armable ht hl hb)).trans ?_))
  simp only [stepAddrOk_ok hal hr, hread, hc]
  exact (if_neg fun hn => hn rfl).trans (if_neg Bool.false_ne_true)

theorem stepArm_denied (ha : s.blk.accepts r e 0x36 c) (ht : (s.blk.started r).streamTable.isSome = true) (hl : c.p 0 ≤ 3)
    (hb : ((s.blk.started r).lane c.c (c.p 0)).busy = false) (hal : c.p 1 % 128 = 0) (hr : ((s.blk.started r).memRange (c.p 1) 128).toOption.isSome = true)
    (hread : hubRead s.dram (s.blk.started r) (c.p 1) 128 = (.success, bs, b'))
    (hc : (s.blk.started r).stepCellsBad c.c (BitVec.ofNat 1024 (leNat bs)) = true) :
    Gives (.stepArm r e) s ((s.blk.started r).finish r e .accessDenied 0) := by
  refine gives rfl (startCmd_done ha ((if_neg (armable ht hl hb)).trans ?_))
  simp only [stepAddrOk_ok hal hr, hread, hc]
  exact (if_neg fun hn => hn rfl).trans (if_pos trivial)

theorem stepArm_refused (ha : s.blk.accepts r e 0x36 c)
    (hn : 3 < c.p 0 ∨ ((s.blk.started r).lane c.c (c.p 0)).busy = true ∨ c.p 1 % 128 ≠ 0) :
    Gives (.stepArm r e) s ((s.blk.started r).finish r e .invalidField 0) := by
  refine gives rfl (startCmd_done ha ?_)
  by_cases hg : (s.blk.started r).streamTable = none ∨ 3 < c.p 0 ∨ ((s.blk.started r).lane c.c (c.p 0)).busy = true
  · exact if_pos hg
  · have hal : c.p 1 % 128 ≠ 0 := by
      rcases hn with hn | hn | hn
      · exact absurd (.inr (.inl hn)) hg
      · exact absurd (.inr (.inr hn)) hg
      · exact hn
    refine (if_neg hg).trans ?_
    simp only [stepAddrOk_misaligned hal]
    rfl

end

/-! ### How a lane's work ends -/

theorem close_whole {b : Block} {x : Sb} (hm : x.miss = []) : (Sb.close b x).2 = x.b.hubDone x.who := by
  simp only [Sb.close, hm, if_true]
  rfl

theorem close_works {b : Block} {x : Sb} (hm : x.miss = []) : (Sb.close b x).1 = true := by
  simp only [Sb.close, hm, if_true]

theorem close_asks {b : Block} {x : Sb} (hm : x.miss ≠ []) : (Sb.close b x).2 = b.windowAsk { spindle := x.who } x.miss := by
  simp only [Sb.close, if_neg hm]

/-- R367: ungating a tile changes nothing but the power state, which is A2 after it only if it was before. -/
theorem ungate_power (b : Block) : ∃ p, b.ungate = { b with power := p } ∧ (b.ungate.power ≠ .a2 → b.power ≠ .a2) := by
  unfold Block.ungate
  by_cases h : b.power = .a1
  · exact ⟨.a0, if_pos h, fun _ => by rw [h]; decide⟩
  · exact ⟨b.power, if_neg h, fun hn => (congrArg Block.power (if_neg h)) ▸ hn⟩

/-- A gated tile's hub is up before and after. -/
theorem ungate_hubUp (b : Block) : b.ungate.hubUp = b.hubUp := by
  unfold Block.ungate
  by_cases h : b.power = .a1
  · rw [if_pos h]
    simp [Block.hubUp, h]
  · rw [if_neg h]

/-! ### Preparing -/

/-- The lane of a context that may prepare its next step. -/
structure MayPrepare (b : Block) (c lane : Nat) : Prop where
  busy : (b.lane c lane).busy = true
  waiting : (b.lane c lane).waiting = none
  satisfied : (b.lane c lane).satisfied = false
  ending : (b.lane c lane).ending = none
  hub : b.hubUp = true
  power : b.power ≠ .a2
  live : (b.ctx c).state = .live
  asking : b.hubAsking (289 + 4 * c + lane) = false
  aligned : (b.lane c lane).step % 128 = 0
  range : (b.memRange (b.lane c lane).step 128).toOption.isSome = true

theorem MayPrepare.mayRun {b : Block} {c lane : Nat} (h : MayPrepare b.ungate c lane) :
    (!(b.lane c lane).busy || (b.lane c lane).waiting.isSome || (b.lane c lane).satisfied || (b.lane c lane).ending.isSome || !b.hubUp || b.power == .a2
      || (b.ctx c).state != .live || b.hubAsking (289 + 4 * c + lane)) = false := by
  obtain ⟨p, he, hp⟩ := ungate_power b
  obtain ⟨hbusy, hwait, hsat, hend, hhub, hpow, hlive, hask, -, -⟩ := h
  have hpow' := hp hpow
  have hhub' : b.hubUp = true := (ungate_hubUp b).symm.trans hhub
  rw [he] at hbusy hwait hsat hend hlive hask
  have hbusy' : (b.lane c lane).busy = true := hbusy
  have hwait' : (b.lane c lane).waiting = none := hwait
  have hsat' : (b.lane c lane).satisfied = false := hsat
  have hend' : (b.lane c lane).ending = none := hend
  have hlive' : (b.ctx c).state = .live := hlive
  have hask' : b.hubAsking (289 + 4 * c + lane) = false := hask
  simp [hbusy', hwait', hsat', hend', hhub', hpow', hlive', hask']

section
variable {c : CtxId} {lane : Fin 4} {s : State} {v : Nat} {bs : List Byte} {x1 x2 : Sb} {st : Status}

/-- The lane's record, which ungating leaves. -/
theorem lane_ungate (b : Block) (c l : Nat) : b.ungate.lane c l = b.lane c l := by
  obtain ⟨p, he, -⟩ := ungate_power b
  rw [he]
  rfl

/-- A lane that may prepare reads its descriptor. -/
theorem stepPrepare_reads {b : Block} {c lane : Nat} (h : MayPrepare b.ungate c lane) :
    stepAddrOk b.ungate (b.lane c lane).step = .ok () :=
  stepAddrOk_ok (by rw [← lane_ungate]; exact h.aligned) (by rw [← lane_ungate]; exact h.range)

/-- R217: the lane stops at an unsound descriptor. -/
theorem stepPrepare_stops (h : MayPrepare s.blk.ungate c lane)
    (hnum : Sb.num s.dram { b := s.blk.ungate, who := 289 + 4 * c.val + lane.val } (s.blk.ungate.lane c lane).step 128 = (.success, v, x1))
    (hbad : x1.b.stepBad c (BitVec.ofNat 1024 v) = some st) {x : Sb} (hx : x1.stepPhase (s.blk.ungate.lane c lane).step 3 st = x)
    (hw : x.who = 289 + 4 * c.val + lane.val) (hm : x.miss = []) :
    Gives (.stepPrepare c lane) s ((x.b.setLane c lane {}).hubDone (289 + 4 * c.val + lane.val)) := by
  refine gives rfl ?_
  unfold Block.stepPrepare
  simp only [h.mayRun, stepPrepare_reads h]
  rw [lane_ungate] at hnum hx
  simp only [hnum, hbad]
  refine (if_neg Bool.false_ne_true).trans ((if_neg fun hn => hn rfl).trans ?_)
  simp only [if_true, hx]
  exact (close_whole (x := x.mod fun b => b.setLane c lane {}) hm).trans (congrArg _ hw)

/-- R217: how the prepared step leaves, whole or with its reads issued. -/
theorem stepPrepare_ends (h : MayPrepare s.blk.ungate c lane)
    (hnum : Sb.num s.dram { b := s.blk.ungate, who := 289 + 4 * c.val + lane.val } (s.blk.ungate.lane c lane).step 128 = (.success, v, x1))
    (hok : x1.b.stepBad c (BitVec.ofNat 1024 v) = none)
    (hbatch : x1.get s.dram (stepF (BitVec.ofNat 1024 v) 623 576) (4 * stepRows (BitVec.ofNat 1024 v)) = (.success, bs, x2))
    {a : PrepAcc} (ha : iter (stepRows (BitVec.ofNat 1024 v)) ({ x := x2 } : PrepAcc) (prepRow s.dram c (BitVec.ofNat 1024 v) (words32 bs)) = a)
    {x : Sb} (hx : a.x.stepPhase (s.blk.ungate.lane c lane).step 1 .success = x) {w : Wait}
    (hwait : ({ cell := stepF (BitVec.ofNat 1024 v) 464 448, theta := 1, consume := true, hot := true, watchAll := true, started := s.blk.ungate.time } : Wait) = w) :
    s.blk.stepPrepare s.dram c lane = (Sb.close s.blk.ungate (x.mod fun b =>
      (b.setLane c lane { s.blk.ungate.lane c lane with
        desc := BitVec.ofNat 1024 v, waiting := some { w with peerLostDue := s.blk.ungate.watchedLost c w }, active := a.active, skipped := a.skipped, parked := a.parked }).signal
        (stepF (BitVec.ofNat 1024 v) 432 416) 1 (0x2000 + 4 * c + lane) (lines := x.lines))).2 := by
  unfold Block.stepPrepare
  simp only [h.mayRun, stepPrepare_reads h]
  rw [lane_ungate] at hnum hx
  simp only [hnum, hok, hbatch, ha, hx]
  refine (if_neg Bool.false_ne_true).trans ((if_neg fun hn => hn rfl).trans ((if_neg fun hn => hn rfl).trans ?_))
  subst hwait
  rw [lane_ungate]

/-- R217: the lane waits for its commit, its ready cell signalled behind its writes; or it asks for the bytes that it lacks. -/
theorem stepPrepare_prepares (h : MayPrepare s.blk.ungate c lane)
    (hnum : Sb.num s.dram { b := s.blk.ungate, who := 289 + 4 * c.val + lane.val } (s.blk.ungate.lane c lane).step 128 = (.success, v, x1))
    (hok : x1.b.stepBad c (BitVec.ofNat 1024 v) = none)
    (hbatch : x1.get s.dram (stepF (BitVec.ofNat 1024 v) 623 576) (4 * stepRows (BitVec.ofNat 1024 v)) = (.success, bs, x2))
    {a : PrepAcc} (ha : iter (stepRows (BitVec.ofNat 1024 v)) ({ x := x2 } : PrepAcc) (prepRow s.dram c (BitVec.ofNat 1024 v) (words32 bs)) = a)
    {x : Sb} (hx : a.x.stepPhase (s.blk.ungate.lane c lane).step 1 .success = x) {w : Wait}
    (hwait : ({ cell := stepF (BitVec.ofNat 1024 v) 464 448, theta := 1, consume := true, hot := true, watchAll := true, started := s.blk.ungate.time } : Wait) = w)
    (hw : x.who = 289 + 4 * c.val + lane.val) :
    (x.miss = [] → Gives (.stepPrepare c lane) s (((x.b.setLane c lane { s.blk.ungate.lane c lane with
      desc := BitVec.ofNat 1024 v, waiting := some { w with peerLostDue := s.blk.ungate.watchedLost c w }, active := a.active, skipped := a.skipped,
      parked := a.parked }).signal
        (stepF (BitVec.ofNat 1024 v) 432 416) 1 (0x2000 + 4 * c + lane) (lines := x.lines)).hubDone (289 + 4 * c.val + lane.val))) ∧
    (x.miss ≠ [] → Gives (.stepPrepare c lane) s (s.blk.ungate.windowAsk { spindle := 289 + 4 * c.val + lane.val } x.miss)) := by
  have hend := stepPrepare_ends h hnum hok hbatch ha hx hwait
  refine ⟨fun hm => gives rfl (hend.trans ((close_whole (x := x.mod _) hm).trans (congrArg _ hw))), fun hm => gives rfl (hend.trans ?_)⟩
  refine (close_asks (x := x.mod _) hm).trans ?_
  exact congrArg (fun n => s.blk.ungate.windowAsk { spindle := n } x.miss) hw

end

/-! ### Committing and abandoning -/

section
variable {c : CtxId} {lane : Fin 4} {s : State} {epoch : Nat} {st : Status} {x1 : Sb} {b : Block}

/-- R219: the lane of an abandoned step idles, its done cell signalled behind its writes. -/
theorem stepAbandon_whole (m : Dram) (c l : Nat) (st : Status) {x : Sb}
    (hx : (b.lane c l).active.foldl (fun x r => x.abandonRow m r.2) (Sb.stepPhase { b, who := 289 + 4 * c + l } (b.lane c l).step 3 st) = x)
    (hm : x.miss = []) (hw : x.who = 289 + 4 * c + l) :
    b.stepAbandon m c l st = ((x.b.setLane c l {}).signal (stepF (b.lane c l).desc 496 480) 1 (0x2000 + 4 * c + l) (lines := x.lines)).hubDone (289 + 4 * c + l) := by
  unfold Block.stepAbandon
  simp only [hx]
  exact (if_pos (close_works (x := x.mod _) hm)).trans ((close_whole (x := x.mod _) hm).trans (congrArg _ hw))

/-- Whether the lane has work at its commit. -/
theorem stepCommit_runs (hhub : b.hubUp = true) (hp : b.power ≠ .a2) (hask : b.hubAsking (289 + 4 * c.val + lane.val) = false)
    (hk : (b.lane c lane).satisfied = true ∨ (b.lane c lane).ending.isSome = true) :
    ¬ (((!(b.lane c lane).satisfied && (b.lane c lane).ending.isNone) || !b.hubUp || b.power == .a2 || b.hubAsking (289 + 4 * c + lane)) = true) := by
  rcases hk with hk | hk
  · simp [hhub, hp, hask, hk]
  · cases he : (b.lane c lane).ending with
    | none =>
      rw [he] at hk
      cases hk
    | some st => simp [hhub, hp, hask]

theorem stepCommit_abandons (hhub : s.blk.hubUp = true) (hp : s.blk.power ≠ .a2) (hask : s.blk.hubAsking (289 + 4 * c.val + lane.val) = false)
    (hk : (s.blk.lane c lane).ending = some st) : Gives (.stepCommit c lane) s (s.blk.stepAbandon s.dram c lane st) := by
  refine gives rfl ((if_neg (stepCommit_runs hhub hp hask (.inr (by rw [hk]; rfl)))).trans ?_)
  simp only [hk]

theorem stepCommit_idle (hsat : (s.blk.lane c lane).satisfied = false) (hend : (s.blk.lane c lane).ending = none) :
    Gives (.stepCommit c lane) s s.blk :=
  gives rfl (if_pos (by simp [hsat, hend]))

theorem stepCommit_unread (hhub : s.blk.hubUp = true) (hp : s.blk.power ≠ .a2) (hask : s.blk.hubAsking (289 + 4 * c.val + lane.val) = false)
    (hsat : (s.blk.lane c lane).satisfied = true) (hend : (s.blk.lane c lane).ending = none)
    (hnum : Sb.num s.dram { b := s.blk, who := 289 + 4 * c.val + lane.val } ((s.blk.lane c lane).step + 120) 8 = (st, epoch, x1)) (hst : st ≠ .success) :
    Gives (.stepCommit c lane) s (s.blk.stepAbandon s.dram c lane st) := by
  refine gives rfl ((if_neg (stepCommit_runs hhub hp hask (.inl hsat))).trans ?_)
  simp only [hend, hnum]
  exact if_pos hst

theorem stepCommit_ends (hhub : s.blk.hubUp = true) (hp : s.blk.power ≠ .a2) (hask : s.blk.hubAsking (289 + 4 * c.val + lane.val) = false)
    (hsat : (s.blk.lane c lane).satisfied = true) (hend : (s.blk.lane c lane).ending = none)
    (hnum : Sb.num s.dram { b := s.blk, who := 289 + 4 * c.val + lane.val } ((s.blk.lane c lane).step + 120) 8 = (.success, epoch, x1))
    {a : CommitAcc} (ha : (s.blk.lane c lane).active.foldl (commitRow s.dram (s.blk.lane c lane).desc (epoch % 2 ^ 63)) ({ x := x1 } : CommitAcc) = a)
    {x : Sb} (hx : (a.x.put ((s.blk.lane c lane).step + 108)
      (leBytes 2 a.committed ++ leBytes 2 (s.blk.lane c lane).parked ++ leBytes 2 (s.blk.lane c lane).skipped ++ leBytes 2 a.ended)).stepPhase
        (s.blk.lane c lane).step 2 .success = x) :
    s.blk.stepCommit s.dram c lane = (Sb.close s.blk (x.mod fun b =>
      (b.setLane c lane (if stepF (s.blk.lane c lane).desc 559 512 = 0 then {} else { busy := true, step := stepF (s.blk.lane c lane).desc 559 512 })).signal
        (stepF (s.blk.lane c lane).desc 496 480) 1 (0x2000 + 4 * c + lane) (lines := x.lines))).2 := by
  refine (if_neg (stepCommit_runs hhub hp hask (.inl hsat))).trans ?_
  simp only [hend, hnum]
  refine (if_neg fun hn => hn rfl).trans ?_
  simp only [ha, hx]

end

theorem stepCommit_commits {c : CtxId} {lane : Fin 4} {s : State} {epoch : Nat} {x1 : Sb}
    (hhub : s.blk.hubUp = true) (hp : s.blk.power ≠ .a2) (hask : s.blk.hubAsking (289 + 4 * c.val + lane.val) = false)
    (hsat : (s.blk.lane c lane).satisfied = true) (hend : (s.blk.lane c lane).ending = none)
    (hnum : Sb.num s.dram { b := s.blk, who := 289 + 4 * c.val + lane.val } ((s.blk.lane c lane).step + 120) 8 = (.success, epoch, x1))
    {a : CommitAcc} (ha : (s.blk.lane c lane).active.foldl (commitRow s.dram (s.blk.lane c lane).desc (epoch % 2 ^ 63)) ({ x := x1 } : CommitAcc) = a)
    {x : Sb} (hx : (a.x.put ((s.blk.lane c lane).step + 108)
      (leBytes 2 a.committed ++ leBytes 2 (s.blk.lane c lane).parked ++ leBytes 2 (s.blk.lane c lane).skipped ++ leBytes 2 a.ended)).stepPhase
        (s.blk.lane c lane).step 2 .success = x) (hw : x.who = 289 + 4 * c.val + lane.val) :
    (x.miss = [] → Gives (.stepCommit c lane) s (((x.b.setLane c lane
      (if stepF (s.blk.lane c lane).desc 559 512 = 0 then {} else { busy := true, step := stepF (s.blk.lane c lane).desc 559 512 })).signal
        (stepF (s.blk.lane c lane).desc 496 480) 1 (0x2000 + 4 * c + lane) (lines := x.lines)).hubDone (289 + 4 * c.val + lane.val))) ∧
    (x.miss ≠ [] → Gives (.stepCommit c lane) s (s.blk.windowAsk { spindle := 289 + 4 * c.val + lane.val } x.miss)) := by
  have hends := stepCommit_ends hhub hp hask hsat hend hnum ha hx
  refine ⟨fun hm => gives rfl (hends.trans ((close_whole (x := x.mod _) hm).trans (congrArg _ hw))), fun hm => gives rfl (hends.trans ?_)⟩
  refine (close_asks (x := x.mod _) hm).trans ?_
  exact congrArg (fun n => s.blk.windowAsk { spindle := n } x.miss) hw

/-- Settles O46: a lane is armed, prepares, commits and abandons. -/
theorem generationSteps : Obligations.GenerationSteps := by
  refine ⟨?_, ?_, ?_, ?_⟩
  · intro r e s c bs b' b ha ht
    exact ⟨fun hl hb hal hr hread => ⟨stepArm_arms ha ht hl hb hal hr hread, stepArm_denied ha ht hl hb hal hr hread⟩, stepArm_refused ha⟩
  · intro c lane s v bs x1 x2 b k who d hbusy hwait hsat hend hhub hpow hlive hask hal hr hnum
    have h : MayPrepare s.blk.ungate c lane := ⟨hbusy, hwait, hsat, hend, hhub, hpow, hlive, hask, hal, hr⟩
    refine ⟨fun hok hbatch => ?_, fun st hbad hm hw hmx => stepPrepare_stops h hnum hbad rfl hw hmx⟩
    intro a x w hw
    exact stepPrepare_prepares h hnum hok hbatch rfl rfl rfl hw
  · intro c lane s epoch st x1 b k who hhub hpow hask
    refine ⟨fun hsat hend hnum => ⟨fun hst => ?_, fun hst => stepCommit_unread hhub hpow hask hsat hend hnum hst⟩,
      fun st hend => stepCommit_abandons hhub hpow hask hend, fun hsat hend => stepCommit_idle hsat hend⟩
    subst hst
    intro a counts x next hw
    exact stepCommit_commits hhub hpow hask hsat hend hnum rfl rfl hw
  · intro m b c l st k x hm hw
    exact stepAbandon_whole m c l st rfl hm hw

end Sys2Proof.Proofs
end

section
/-!
SUPPORT. What arrives on a Kerf port (R281 to R287, R371).
-/
namespace Sys2Proof.Proofs
open Sys2Proof.Machine Sys2Proof.Claims

/-! ### Counting a frame -/

section
variable (b : Block) (f : Frame)

/-- Counting a frame leaves everything but the counters. -/
theorem framed_cnt : ∃ t, b.framed f = { b with cnt := t } := countPort_cnt b _ _

theorem framed_port (n : Nat) : (b.framed f).port n = b.port n := by
  obtain ⟨t, ht⟩ := framed_cnt b f
  rw [ht]
  rfl

theorem framed_conn (n : Nat) : (b.framed f).conn n = b.conn n := by
  obtain ⟨t, ht⟩ := framed_cnt b f
  rw [ht]
  rfl

theorem framed_frameOk (n : Nat) : (b.framed f).frameOk f n = b.frameOk f n := by
  obtain ⟨t, ht⟩ := framed_cnt b f
  rw [ht]
  rfl

theorem framed_power : (b.framed f).power = b.power := by
  obtain ⟨t, ht⟩ := framed_cnt b f
  rw [ht]

theorem framed_draining : (b.framed f).draining = b.draining := by
  obtain ⟨t, ht⟩ := framed_cnt b f
  rw [ht]

theorem framed_drained : (b.framed f).drained = b.drained := by
  obtain ⟨t, ht⟩ := framed_cnt b f
  rw [ht]

theorem framed_pfcOut : (b.framed f).pfcOut = b.pfcOut := by
  obtain ⟨t, ht⟩ := framed_cnt b f
  rw [ht]

end

/-! ### A frame reaches Kerf's engine -/

/-- A frame for Kerf's port arrives on a port that is up. -/
structure Arrives (b : Block) (f : Frame) : Prop where
  hub : b.hubLost = false
  link : (b.port f.port.val).linkUp = true
  dst : f.dstPort.toNat = b.krfUdpPort

section
variable {b b' : Block} {f : Frame} {k : Packet} {types : Nat → Bool} {act : Block → Nat → Packet → Block} {i : Instr} {s : State} {n : Nat}

theorem receive_lost (h : b.hubLost = true ∨ (b.port f.port.val).linkUp = false) : b.receive f types act = b := by
  refine if_pos ?_
  rcases h with h | h <;> simp [h]

/-- A frame for another port is counted, and no Kerf frame. -/
theorem receive_elsewhere (hh : b.hubLost = false) (hl : (b.port f.port.val).linkUp = true) (hd : f.dstPort.toNat ≠ b.krfUdpPort) :
    b.receive f types act = b.framed f := by
  have hno : ¬ ((b.hubLost || !(b.port f.port.val).linkUp || (f.dstPort.toNat == b.krfUdpPort && (frameType f).any fun t => !types t)) = true) := by
    simp [hh, hl, hd]
  obtain ⟨t, ht⟩ := framed_cnt b f
  refine (if_neg hno).trans (if_pos ?_)
  show (f.dstPort.toNat != (b.framed f).krfUdpPort) = true
  rw [ht]
  exact bne_iff_ne.mpr hd

/-- A packet of another type than the event's is not this event. -/
theorem receive_other (ha : Arrives b f) (hp : parsePacket f.bytes = some k) (ht : types k.type = false) : b.receive f types act = b :=
  if_pos (by simp [ha.hub, ha.link, ha.dst, frameType, hp, ht])

/-- A Kerf frame of the event's type, or one whose packet does not parse, is counted and handled. -/
theorem receive_kerf (ha : Arrives b f) (ht : (frameType f).any (fun t => !types t) = false) :
    b.receive f types act = (b.framed f).rxFrame f fun b => b.rxCheck f act := by
  have hno : ¬ ((b.hubLost || !(b.port f.port.val).linkUp || (f.dstPort.toNat == b.krfUdpPort && (frameType f).any fun t => !types t)) = true) := by
    simp [ha.hub, ha.link, ht]
  obtain ⟨t, hb⟩ := framed_cnt b f
  refine (if_neg hno).trans (if_neg ?_)
  show ¬ ((f.dstPort.toNat != (b.framed f).krfUdpPort) = true)
  rw [hb]
  simpa using ha.dst

theorem frameType_fits (h : ∀ k, parsePacket f.bytes = some k → types k.type = true) : (frameType f).any (fun t => !types t) = false := by
  unfold frameType
  cases hp : parsePacket f.bytes with
  | none => rfl
  | some k => simp [h k hp]

/-- What the check makes of a frame with nothing before it in its port's buffer. -/
theorem served_frame (hx : exec i s = nextOf s (s.blk.receive f types act)) (ha : Arrives s.blk f)
    (ht : ∀ k, parsePacket f.bytes = some k → types k.type = true) (hrx : (s.blk.port f.port.val).rx = [])
    (hc : (s.blk.framed f).rxCheck f act = b') : Served i s b' := by
  refine served (hx.trans (congrArg (nextOf s) (receive_kerf ha (frameType_fits ht)))) fun hs => ?_
  unfold Block.rxFrame
  rw [framed_port, if_pos hrx]
  subst hc
  exact if_neg (ne_true_of_eq_false hs)

/-! ### The check of a packet -/

theorem rxCheck_unparsed (hp : parsePacket f.bytes = none) : b.rxCheck f act = b.dropFrame f.port.val := by
  simp only [Block.rxCheck, hp]

theorem rxCheck_unsound (hp : parsePacket f.bytes = some k) (h : b.frameOk f k.conn = false ∨ k.version ≠ 1 ∨ k.resvZero = false) :
    b.rxCheck f act = b.dropFrame f.port.val := by
  simp only [Block.rxCheck, hp]
  refine if_pos ?_
  rcases h with h | h | h <;> simp [h]

/-- A packet that is sound names its connection, by the rules of R284. -/
theorem rxCheck_sound (hp : parsePacket f.bytes = some k) (hf : b.frameOk f k.conn = true) (hv : k.version = 1) (hr : k.resvZero = true) (ht : k.type ≠ 11) :
    b.rxCheck f act = (b.packetConn k).elim (b.dropFrame f.port.val) fun i =>
      if (b.conn i).addr + BitVec.ofNat 128 f.port.val = f.src then act b i k else b.dropFrame f.port.val := by
  simp only [Block.rxCheck, hp]
  refine (if_neg (by simp [hf, hv, hr])).trans ((if_neg ht).trans ?_)
  cases b.packetConn k <;> rfl

theorem packetConn_none (h : (b.conn k.conn).isOpen = false ∨ (b.conn k.conn).loop = true ∨ (k.type ≠ 12 ∧ (b.conn k.conn).peerInc ≠ k.inc)) :
    b.packetConn k = none := by
  refine if_neg ?_
  rcases h with h | h | ⟨h, h'⟩
  · simp [h]
  · simp [h]
  · simp [h, h']

theorem packetConn_some (ho : (b.conn k.conn).isOpen = true) (hl : (b.conn k.conn).loop = false) (hi : (b.conn k.conn).peerInc = k.inc ∨ k.type = 12) :
    b.packetConn k = some k.conn := by
  refine if_pos ?_
  rcases hi with hi | hi <;> simp [ho, hl, hi]

/-- A packet that belongs to no open connection of its incarnation, or comes from another device, is dropped. -/
theorem rxCheck_stranger (hp : parsePacket f.bytes = some k) (ht : k.type ≠ 11)
    (h : (b.conn k.conn).isOpen = false ∨ (b.conn k.conn).loop = true ∨ (k.type ≠ 12 ∧ (b.conn k.conn).peerInc ≠ k.inc)
      ∨ (b.conn k.conn).addr + BitVec.ofNat 128 f.port.val ≠ f.src) : b.rxCheck f act = b.dropFrame f.port.val := by
  by_cases hs : b.frameOk f k.conn = true ∧ k.version = 1 ∧ k.resvZero = true
  · obtain ⟨hf, hv, hr⟩ := hs
    rw [rxCheck_sound hp hf hv hr ht]
    by_cases hn : (b.conn k.conn).isOpen = false ∨ (b.conn k.conn).loop = true ∨ (k.type ≠ 12 ∧ (b.conn k.conn).peerInc ≠ k.inc)
    · rw [packetConn_none hn]
      rfl
    · push Not at hn
      obtain ⟨ho, hl, hi⟩ := hn
      have hsrc : (b.conn k.conn).addr + BitVec.ofNat 128 f.port.val ≠ f.src := by tauto
      rw [packetConn_some (by simpa using ho) (by simpa using hl) (by tauto)]
      exact if_neg hsrc
  · refine rxCheck_unsound hp ?_
    cases hf : b.frameOk f k.conn
    · exact .inl rfl
    · cases hr : k.resvZero
      · exact .inr (.inr rfl)
      · exact .inr (.inl fun hv => hs ⟨hf, hv, hr⟩)

/-- A packet of a connection acts. -/
theorem rxCheck_belongs (hh : b.hears f k) (hb : b.belongs f n k) (ht : k.type ≠ 11) : (b.framed f).rxCheck f act = act (b.framed f) n k := by
  obtain ⟨-, -, -, -, hp, hf, hv, hr⟩ := hh
  obtain ⟨rfl, ho, hl, hi, hsrc⟩ := hb
  rw [rxCheck_sound hp (by rw [framed_frameOk]; exact hf) hv hr ht,
    packetConn_some (by rw [framed_conn]; exact ho) (by rw [framed_conn]; exact hl) (by rw [framed_conn]; exact hi)]
  exact if_pos (by rw [framed_conn]; exact hsrc)

theorem hears_arrives (hh : b.hears f k) : Arrives b f := by
  obtain ⟨hub, hlink, -, hdst, -⟩ := hh
  exact ⟨hub, hlink, hdst⟩

theorem hears_first (hh : b.hears f k) : (b.port f.port.val).rx = [] := by
  obtain ⟨-, -, hrx, -⟩ := hh
  exact hrx

theorem hears_parse (hh : b.hears f k) : parsePacket f.bytes = some k := by
  obtain ⟨-, -, -, -, hp, -⟩ := hh
  exact hp

/-- The only packet of a frame that is heard is `k`. -/
theorem hears_types (hh : b.hears f k) (ht : types k.type = true) : ∀ k', parsePacket f.bytes = some k' → types k'.type = true := by
  intro k' hk'
  rw [hears_parse hh] at hk'
  cases hk'
  exact ht

/-- A packet that is heard and belongs to connection `n` acts there. -/
theorem served_packet (hx : exec i s = nextOf s (s.blk.receive f types act)) (hh : s.blk.hears f k) (hb : s.blk.belongs f n k) (ht : types k.type = true)
    (h11 : k.type ≠ 11) (hc : act (s.blk.framed f) n k = b') : Served i s b' := by
  exact served_frame hx (hears_arrives hh) (hears_types hh ht) (hears_first hh) ((rxCheck_belongs hh hb h11).trans hc)

end

/-! ### The events of the frames -/

/-- Every frame event receives the packets of its type; the sequenced ones go through the connection's window. -/
theorem frameRow_receives {m : (Frame → Instr) × Nat} (hm : m ∈ frameRows) (f : Frame) (s : State) (hop : m.2 = 5 → chainFrameOp f ≠ 1 ∧ chainFrameOp f ≠ 2) :
    ∃ act, exec (m.1 f) s = nextOf s (s.blk.receive f (· == m.2) act) ∧
      (m.2 ≤ 6 → act = fun b i k => b.rxSequenced s.dram f.port.val (framePath f) i k) := by
  simp only [frameRows, List.cons_append, List.nil_append, List.mem_cons, List.not_mem_nil, or_false] at hm
  rcases hm with rfl | rfl | rfl | rfl | rfl | rfl | rfl | rfl | rfl | rfl | rfl | rfl
  · exact ⟨_, rfl, fun _ => rfl⟩
  · exact ⟨_, rfl, fun _ => rfl⟩
  · exact ⟨_, rfl, fun _ => rfl⟩
  · exact ⟨_, rfl, fun _ => rfl⟩
  · exact ⟨_, rfl, fun _ => rfl⟩
  · obtain ⟨h1, h2⟩ := hop rfl
    exact ⟨fun b i k => b.rxSequenced s.dram f.port.val (framePath f) i k, congrArg (nextOf s) (if_neg fun h => h.elim h1 h2), fun _ => rfl⟩
  · exact ⟨_, rfl, fun _ => rfl⟩
  all_goals exact ⟨_, rfl, fun h => absurd h (by decide)⟩

/-! ### A frame behind others waits in the receive buffer -/

section
variable {b : Block} {f : Frame} {m : Dram} {i : Nat} {k : Packet}

theorem rxHold_full (h : 0x200000 < ((b.port f.port.val).rx.map fun f => f.bytes.length).sum + f.bytes.length) : b.rxHold f = b.dropFrame f.port.val := if_pos h

theorem rxHold_held (h : ((b.port f.port.val).rx.map fun f => f.bytes.length).sum + f.bytes.length ≤ 0x200000)
    (hp : (b.port f.port.val).pfcEn = false ∨ 0x180000 ≤ ((b.port f.port.val).rx.map fun f => f.bytes.length).sum
      ∨ ((b.port f.port.val).rx.map fun f => f.bytes.length).sum + f.bytes.length < 0x180000) :
    b.rxHold f = b.modPort f.port.val fun p => { p with rx := p.rx ++ [f] } := by
  refine (if_neg (Nat.not_lt.mpr h)).trans (if_neg ?_)
  simp only [Bool.and_eq_true, decide_eq_true_eq]
  rintro ⟨⟨hen, hold⟩, hsize⟩
  rcases hp with hp | hp | hp
  · rw [hp] at hen
    cases hen
  · exact absurd hold (Nat.not_lt.mpr hp)
  · exact absurd hsize (Nat.not_le.mpr hp)

theorem rxHold_pauses (h : ((b.port f.port.val).rx.map fun f => f.bytes.length).sum + f.bytes.length ≤ 0x200000)
    (hen : (b.port f.port.val).pfcEn = true) (hold : ((b.port f.port.val).rx.map fun f => f.bytes.length).sum < 0x180000)
    (hsize : 0x180000 ≤ ((b.port f.port.val).rx.map fun f => f.bytes.length).sum + f.bytes.length) :
    b.rxHold f = { b.modPort f.port.val fun p => { p with rx := p.rx ++ [f] } with pfcOut := b.pfcOut ++ [(f.port.val, (b.port f.port.val).pfcPrio)] } := by
  refine (if_neg (Nat.not_lt.mpr h)).trans (if_pos ?_)
  simp only [Bool.and_eq_true, decide_eq_true_eq]
  exact ⟨⟨hen, hold⟩, hsize⟩

/-! ### The window of a connection (R287, R371) -/

theorem rxSequenced_seen {port path : Nat} (h : serial k.seq (b.conn i).rxBase < 0 ∨ k.seq ∈ (b.conn i).rxSeen) :
    b.rxSequenced m port path i k = if (b.conn i).rxWork.any (fun x => x.1.seq == k.seq) then b.setConn i { b.conn i with ackPath := path }
      else (b.setConn i { b.conn i with ackPath := path }).ackOne i :=
  if_pos (h.imp_right fun h => List.contains_iff_mem.mpr h)

/-- The number is not received yet. -/
theorem notSeen (h0 : 0 ≤ serial k.seq (b.conn i).rxBase) (h : k.seq ∉ (b.conn i).rxSeen) :
    ¬ (serial k.seq (b.conn i).rxBase < 0 ∨ (b.conn i).rxSeen.contains k.seq = true) := by
  rintro (hn | hn)
  · omega
  · exact h (List.contains_iff_mem.mp hn)

theorem rxSequenced_beyond {port path : Nat} (hf : 65535 < serial k.seq (b.conn i).rxBase) (h : k.seq ∉ (b.conn i).rxSeen) :
    b.rxSequenced m port path i k = (b.setConn i { b.conn i with ackPath := path }).dropFrame port :=
  (if_neg (notSeen (by omega) h)).trans (if_pos hf)

theorem rxSequenced_held {port path : Nat} (h0 : 0 ≤ serial k.seq (b.conn i).rxBase) (hf : serial k.seq (b.conn i).rxBase ≤ 65535)
    (h : k.seq ∉ (b.conn i).rxSeen) (hd : b.draining = true) (hn : needsTiles k = true) (hnew : ∀ x ∈ b.drained, x.1 ≠ i ∨ x.2.seq ≠ k.seq) :
    b.rxSequenced m port path i k = { b.setConn i { b.conn i with ackPath := path } with drained := b.drained ++ [(i, k)] } := by
  have hany : (b.drained.any fun x => x.1 == i && x.2.seq == k.seq) = false := by
    refine List.any_eq_false.mpr fun x hx => ?_
    rcases hnew x hx with hne | hne <;> simp [hne]
  refine (if_neg (notSeen h0 h)).trans ((if_neg (by omega)).trans ((if_pos ⟨hd, hn⟩).trans (if_neg ?_)))
  exact ne_true_of_eq_false hany

theorem rxSequenced_new {port path : Nat} (h0 : 0 ≤ serial k.seq (b.conn i).rxBase) (hf : serial k.seq (b.conn i).rxBase ≤ 65535)
    (h : k.seq ∉ (b.conn i).rxSeen) (hd : b.draining = false) :
    b.rxSequenced m port path i k = (b.setConn i { b.conn i with ackPath := path }).rxNew m i path k := by
  refine (if_neg (notSeen h0 h)).trans ((if_neg (by omega)).trans (if_neg ?_))
  rintro ⟨hd', -⟩
  exact absurd (hd.symm.trans hd') Bool.false_ne_true

end

/-- A request that needs the tiles is refused with RETRY_LATER while they are off. -/
theorem rxNew_later {m : Dram} {b : Block} {f : Frame} {i : Nat} {k : Packet} (hn : needsTiles k = true) (hp : b.power = .a2) :
    ((b.framed f).setConn i { b.conn i with ackPath := framePath f }).rxNew m i (framePath f) k = ({ b.taken f i k with wake := true } : Block).nacked f i k 1 := by
  have hpow : ((b.taken f i k).power = .a2) := (framed_power b f).trans hp
  unfold Block.rxNew
  have hif : (if needsTiles k = true ∧ (b.taken f i k).power = .a2 then Verdict.refuse ({ b.taken f i k with wake := true } : Block) 1
      else (b.taken f i k).ungate.rxApply m i k) = .refuse { b.taken f i k with wake := true } 1 := if_pos ⟨hn, hpow⟩
  unfold Block.taken at hif ⊢
  simp only [hif]
  rfl

theorem unknownType_dropped {f : Frame} {s : State} (ha : Arrives s.blk f) (ht : unknownType (bits (beNat (f.bytes.take 1)) 3 0) = true) :
    Gives (.kerfUnknownType f) s ((s.blk.framed f).dropFrame f.port.val) := by
  refine congrArg (nextOf s) (if_neg ?_)
  simp [ha.hub, ha.link, ha.dst, ht]

/-- A frame that finds others before it is held or dropped, whatever it carries. -/
theorem receive_behind {b : Block} {f : Frame} {types : Nat → Bool} {act : Block → Nat → Packet → Block} (ha : Arrives b f)
    (ht : ∀ k, parsePacket f.bytes = some k → types k.type = true) (hrx : (b.port f.port.val).rx ≠ []) :
    b.receive f types act = (b.framed f).rxHold f := by
  rw [receive_kerf ha (frameType_fits ht)]
  unfold Block.rxFrame
  rw [framed_port]
  exact if_neg hrx

/-- A port with one more frame in its receive buffer. -/
theorem modPort_rx (b : Block) (f : Frame) (n : Nat) :
    ((b.framed f).modPort n fun p => { p with rx := p.rx ++ [f] }) = (b.framed f).modPort n fun x => { x with rx := (b.port n).rx ++ [f] } := by
  unfold Block.modPort
  rw [framed_port]

/-- Settles O47: frames that are unsound or misdirected, that wait, that come twice, that lie beyond the window, and that need tiles. -/
theorem unsoundFramesAreDropped : Obligations.UnsoundFramesAreDropped := by
  intro m hm f s b n p t dropped arrives hop
  obtain ⟨act, hx, hact⟩ := frameRow_receives hm f s hop
  have arrives_iff : arrives → Arrives s.blk f := fun ⟨hub, hlink, hdst⟩ => ⟨hub, hlink, hdst⟩
  refine ⟨fun h => gives hx (receive_lost h), fun hh hl hd => gives hx (receive_elsewhere hh hl hd),
    fun k ha hp ht => gives hx (receive_other (arrives_iff ha) hp (beq_false_of_ne ht)), fun ha hrx hp => ?_, fun k ha hrx hp ht => ⟨fun h => ?_, fun h11 h => ?_⟩,
    fun ha hrx ht => ?_, fun ha ht => unknownType_dropped (arrives_iff ha) ht, fun i k hh hb ht h6 => ?_⟩
  · exact served_frame hx (arrives_iff ha) (fun k hk => by rw [hp] at hk; cases hk) hrx (rxCheck_unparsed hp)
  · refine served_frame hx (arrives_iff ha) (fun k' hk => ?_) hrx (rxCheck_unsound hp (by rw [framed_frameOk]; exact h))
    rw [hp] at hk
    cases hk
    exact beq_iff_eq.mpr ht
  · refine served_frame hx (arrives_iff ha) (fun k' hk => ?_) hrx (rxCheck_stranger hp h11 (by rw [framed_conn]; exact h))
    rw [hp] at hk
    cases hk
    exact beq_iff_eq.mpr ht
  · intro old size held
    have hbehind := receive_behind (types := (· == m.2)) (act := act) (arrives_iff ha) (fun k hk => beq_iff_eq.mpr (ht k hk)) hrx
    refine ⟨fun hfull => gives hx (hbehind.trans (rxHold_full (by rw [framed_port]; exact hfull))), fun hfit hp => gives hx (hbehind.trans ?_),
      fun hfit hen hold hsize => gives hx (hbehind.trans ?_)⟩
    · rw [rxHold_held (by rw [framed_port]; exact hfit) (by rw [framed_port]; exact hp)]
      exact modPort_rx s.blk f n
    · rw [rxHold_pauses (by rw [framed_port]; exact hfit) (by rw [framed_port]; exact hen) (by rw [framed_port]; exact hold) (by rw [framed_port]; exact hsize),
        modPort_rx, framed_port, framed_pfcOut]
  · intro at1 far
    have hseq (b' : Block) (h : Block.rxSequenced s.dram (s.blk.framed f) f.port.val (framePath f) i k = b') : Served (m.1 f) s b' := by
      refine served_packet hx hh hb (beq_iff_eq.mpr ht) (by omega) ?_
      rw [hact (ht ▸ h6)]
      exact h
    have hfar : serial k.seq ((s.blk.framed f).conn i).rxBase = far := by rw [framed_conn]
    have hat : (s.blk.framed f).setConn i { (s.blk.framed f).conn i with ackPath := framePath f } = at1 := by rw [framed_conn]
    refine ⟨fun h => ?_, fun h hn => hseq _ ?_, fun h0 h1 hn hneeds => ⟨fun hd hnew => hseq _ ?_, fun hd hp => hseq _ ?_⟩⟩
    · have hseen := rxSequenced_seen (m := s.dram) (b := s.blk.framed f) (i := i) (k := k) (port := f.port.val) (path := framePath f) (by rw [framed_conn]; exact h)
      rw [hat, framed_conn] at hseen
      refine ⟨fun hno => hseq _ (hseen.trans (if_neg ?_)), fun ⟨x, hx, he⟩ => hseq _ (hseen.trans (if_pos ?_))⟩
      · refine ne_true_of_eq_false (List.any_eq_false.mpr fun x hx => ?_)
        simpa using hno x hx
      · exact List.any_eq_true.mpr ⟨x, hx, beq_iff_eq.mpr he⟩
    · rw [rxSequenced_beyond (by rw [hfar]; exact h) (by rw [framed_conn]; exact hn), hat]
    · rw [rxSequenced_held (by rw [hfar]; exact h0) (by rw [hfar]; exact h1) (by rw [framed_conn]; exact hn) ((framed_draining s.blk f).trans hd) hneeds
        (by rw [framed_drained]; exact hnew), hat, framed_drained]
    · rw [rxSequenced_new (by rw [hfar]; exact h0) (by rw [hfar]; exact h1) (by rw [framed_conn]; exact hn) ((framed_draining s.blk f).trans hd), framed_conn]
      exact rxNew_later hneeds hp

end Sys2Proof.Proofs
end

section
/-!
SUPPORT. The sequenced packets of Kerf (R286, R289, R295 to R297, R301 to R303).
-/
namespace Sys2Proof.Proofs
open Sys2Proof.Machine Sys2Proof.Claims

section
variable {f : Frame} {s : State} {i : Nat} {k : Packet} {b b' b1 : Block} {m : Dram} {ins : Instr} {types : Nat → Bool} {st : Status} {r : Nat}

/-! ### What the receiver makes of a verdict -/

theorem taken_power (hp : b.power = .a0) : (b.taken f i k).power = .a0 := (framed_power b f).trans hp

/-- With the tiles on, a new packet acts on the block that has taken its number. -/
theorem rxNew_acts (hp : b.power = .a0) :
    (if needsTiles k = true ∧ (b.taken f i k).power = .a2 then Verdict.refuse ({ b.taken f i k with wake := true } : Block) 1
      else (b.taken f i k).ungate.rxApply m i k) = (b.taken f i k).rxApply m i k := by
  have ht := taken_power (f := f) (i := i) (k := k) hp
  have hun : (b.taken f i k).ungate = b.taken f i k := if_neg (by rw [ht]; decide)
  rw [hun]
  refine if_neg ?_
  rw [ht]
  rintro ⟨-, hn⟩
  cases hn

theorem rxNew_done (hp : b.power = .a0) (hv : (b.taken f i k).rxApply m i k = .done b') :
    ((b.framed f).setConn i { b.conn i with ackPath := framePath f }).rxNew m i (framePath f) k = b'.acted i k := by
  have h := (rxNew_acts (m := m) hp).trans hv
  unfold Block.taken at h
  simp only [Block.rxNew, h]
  rfl

theorem rxNew_refused (hp : b.power = .a0) (hv : (b.taken f i k).rxApply m i k = .refuse b' r) :
    ((b.framed f).setConn i { b.conn i with ackPath := framePath f }).rxNew m i (framePath f) k
      = if r ≤ 2 then b'.nacked f i k r else (b'.nacked f i k r).groupRefuse i k := by
  have h := (rxNew_acts (m := m) hp).trans hv
  unfold Block.taken at h
  simp only [Block.rxNew, h]
  rfl

theorem rxNew_waits (hp : b.power = .a0) (hv : (b.taken f i k).rxApply m i k = .wait b') :
    ((b.framed f).setConn i { b.conn i with ackPath := framePath f }).rxNew m i (framePath f) k
      = if k.type = 4 then b'.groupTry i k.src k.sgrp else if k.payload = [] then b'.storeAccepted i k false else b' := by
  have h := (rxNew_acts (m := m) hp).trans hv
  unfold Block.taken at h
  simp only [Block.rxNew, h]

/-- The event of a sequenced packet that is new. -/
structure NewPacket (ins : Instr) (f : Frame) (s : State) (i : Nat) (k : Packet) (types : Nat → Bool) : Prop where
  exec : exec ins s = nextOf s (s.blk.rxSeq s.dram f types)
  hears : s.blk.hears f k
  belongs : s.blk.belongs f i k
  newHere : s.blk.newHere i k
  types : types k.type = true
  sequenced : k.type ≠ 11

theorem newPacket_served (h : NewPacket ins f s i k types)
    (hc : ((s.blk.framed f).setConn i { s.blk.conn i with ackPath := framePath f }).rxNew s.dram i (framePath f) k = b') : Served ins s b' := by
  obtain ⟨h0, hfar, hseen, hdrain, -⟩ := h.newHere
  refine served_packet h.exec h.hears h.belongs h.types h.sequenced ?_
  rw [rxSequenced_new (by rw [framed_conn]; exact h0) (by rw [framed_conn]; exact hfar) (by rw [framed_conn]; exact hseen)
    ((framed_draining s.blk f).trans hdrain), framed_conn]
  exact hc

theorem newPacket_power (h : NewPacket ins f s i k types) : s.blk.power = .a0 := by
  obtain ⟨-, -, -, -, hp⟩ := h.newHere
  exact hp

theorem newPacket_done (h : NewPacket ins f s i k types) (hv : (s.blk.taken f i k).rxApply s.dram i k = .done b') : Served ins s (b'.acted i k) :=
  newPacket_served h (rxNew_done (newPacket_power h) hv)

/-- A refusal as not armed leaves the packet's group as it is. -/
theorem newPacket_notArmed (h : NewPacket ins f s i k types) (hv : (s.blk.taken f i k).rxApply s.dram i k = .refuse b' 2) : Served ins s (b'.nacked f i k 2) :=
  newPacket_served h ((rxNew_refused (newPacket_power h) hv).trans (if_pos (Nat.le_refl 2)))

theorem newPacket_refused (h : NewPacket ins f s i k types) (hr : 2 < r) (hv : (s.blk.taken f i k).rxApply s.dram i k = .refuse b' r) :
    Served ins s ((b'.nacked f i k r).groupRefuse i k) :=
  newPacket_served h ((rxNew_refused (newPacket_power h) hv).trans (if_neg (Nat.not_le.mpr hr)))

theorem newPacket_waits (h : NewPacket ins f s i k types) (h4 : k.type ≠ 4) (hv : (s.blk.taken f i k).rxApply s.dram i k = .wait b') :
    Served ins s (if k.payload = [] then b'.storeAccepted i k false else b') :=
  newPacket_served h ((rxNew_waits (newPacket_power h) hv).trans (if_neg h4))

theorem newPacket_signal (h : NewPacket ins f s i k types) (h4 : k.type = 4) (hv : (s.blk.taken f i k).rxApply s.dram i k = .wait b') :
    Served ins s (b'.groupTry i k.src k.sgrp) :=
  newPacket_served h ((rxNew_waits (newPacket_power h) hv).trans (if_pos h4))

/-- Every status is refused with a reason of Table 16.6 that lets go the packet's group. -/
theorem nackOf_over (st : Status) : 2 < nackOf st := by cases st <;> decide

/-! ### What each type asks for -/

theorem rxApply_write (ht : k.type = 0) : b.rxApply m i k = b.rxStore m i k := by simp only [Block.rxApply, ht]
theorem rxApply_readReq (ht : k.type = 1) : b.rxApply m i k = b.rxRead m i k := by simp only [Block.rxApply, ht]
theorem rxApply_readResp (ht : k.type = 2) : b.rxApply m i k = b.rxReadResp m i k := by simp only [Block.rxApply, ht]
theorem rxApply_atomic (ht : k.type = 3) : b.rxApply m i k = b.rxStore m i k := by simp only [Block.rxApply, ht]
theorem rxApply_signal (ht : k.type = 4) : b.rxApply m i k = b.rxSignal i k := by simp only [Block.rxApply, ht]
theorem rxApply_chain (ht : k.type = 5) : b.rxApply m i k = b.rxChain m i k := by simp only [Block.rxApply, ht]
theorem rxApply_sweep (ht : k.type = 6) : b.rxApply m i k = b.rxSweep i k := by simp only [Block.rxApply, ht]

/-- The group of the packet holds its signal. -/
def holdSignal (b : Block) (i : Nat) (k : Packet) : Block := b.modConn i fun c => c.setGroup { c.group k.src k.sgrp with held := some k }

theorem rxStore_write (ht : k.type = 0) (hp : b.peerCheck i (b.conn i).ctx k = (none, b1)) :
    b.rxStore m i k = .wait (if k.sig = true then holdSignal (b1.sendBytes .write (.kerf i k.seq) k.addr k.payload) i k
      else b1.sendBytes .write (.kerf i k.seq) k.addr k.payload) := by
  have hat : ¬ (k.type = 3 ∧ (!atomicOk k) = true) := fun h => by omega
  have hfa : ¬ (k.type = 3 ∧ k.op = 4) := fun h => by omega
  have hps (b : Block) : b.peerStore (.kerf i k.seq) k = b.sendBytes .write (.kerf i k.seq) k.addr k.payload :=
    (if_neg (by omega)).trans (if_pos ht)
  refine (if_neg hat).trans ?_
  simp only [hp, if_neg hfa, hps]
  rfl

theorem rxStore_denied (ha : k.type = 3 → atomicOk k = true) (hp : b.peerCheck i (b.conn i).ctx k = (some st, b1)) :
    b.rxStore m i k = .refuse b1 (nackOf st) := by
  have hat : ¬ (k.type = 3 ∧ (!atomicOk k) = true) := by
    rintro ⟨h3, hn⟩
    rw [ha h3] at hn
    cases hn
  refine (if_neg hat).trans ?_
  simp only [hp]

theorem rxStore_badAtomic (ht : k.type = 3) (ha : atomicOk k = false) : b.rxStore m i k = .refuse b 7 :=
  if_pos ⟨ht, by rw [ha]; rfl⟩

/-- What an ATOMIC sends: its operation, and the prior value where it is a fetch-add. -/
def sendAtomic (b : Block) (i : Nat) (k : Packet) (old : List Byte) : Block :=
  let b := b.sendBytes (.memOp (atomicOp k.op) k.fmt) (.kerf i k.seq) k.addr k.payload
  if k.op = 4 then b.queuePkt i { type := 2, addr := k.addr, xfer := k.xfer, payload := old } .none else b

theorem rxStore_atomic {bad : Bool} {old : List Byte} (ht : k.type = 3) (ha : atomicOk k = true) (hp : b.peerCheck i (b.conn i).ctx k = (none, b1))
    (hread : readNow m b1 k.addr 8 = (bad, old)) (hok : k.op ≠ 4 ∨ bad = false) :
    b.rxStore m i k = .wait (if k.sig = true then holdSignal (sendAtomic b1 i k old) i k else sendAtomic b1 i k old) := by
  have hat : ¬ (k.type = 3 ∧ (!atomicOk k) = true) := by
    rintro ⟨-, hn⟩
    rw [ha] at hn
    cases hn
  have hps (b : Block) : b.peerStore (.kerf i k.seq) k = b.sendBytes (.memOp (atomicOp k.op) k.fmt) (.kerf i k.seq) k.addr k.payload := if_pos ht
  refine (if_neg hat).trans ?_
  by_cases h4 : k.op = 4
  · have hbad : bad = false := hok.resolve_left fun hn => hn h4
    subst hbad
    simp only [hp, if_pos (And.intro ht h4), hread, hps, sendAtomic, if_pos h4]
    rfl
  · have hfa : ¬ (k.type = 3 ∧ k.op = 4) := fun h => h4 h.2
    simp only [hp, if_neg hfa, hps, sendAtomic, if_neg h4]
    rfl

theorem rxStore_poisoned {old : List Byte} (ht : k.type = 3) (ha : atomicOk k = true) (hp : b.peerCheck i (b.conn i).ctx k = (none, b1))
    (hread : readNow m b1 k.addr 8 = (true, old)) (h4 : k.op = 4) : b.rxStore m i k = .refuse b1 5 := by
  have hat : ¬ (k.type = 3 ∧ (!atomicOk k) = true) := by
    rintro ⟨-, hn⟩
    rw [ha] at hn
    cases hn
  refine (if_neg hat).trans ?_
  simp only [hp, if_pos (And.intro ht h4), hread]
  rfl

/-- An ATOMIC carries bytes. -/
theorem atomicOk_payload (ha : atomicOk k = true) : k.payload ≠ [] := by
  intro hn
  have hlen : k.payload.length = 0 := by rw [hn]; rfl
  unfold atomicOk at ha
  rw [hlen] at ha
  simp at ha

theorem rxRead_done {bs : List Byte} (hl : k.len ≠ 0) (hr : hubRead m b k.addr k.len = (.success, bs, b1)) :
    b.rxRead m i k = .done (b1.queuePkt i { type := 2, addr := k.addr, xfer := k.xfer, payload := bs } .none) := by
  refine (if_neg hl).trans ?_
  simp only [hr]

theorem rxRead_failed {bs : List Byte} (hl : k.len ≠ 0) (hr : hubRead m b k.addr k.len = (st, bs, b1)) (hst : st ≠ .success) :
    b.rxRead m i k = .refuse b1 (nackOf st) := by
  refine (if_neg hl).trans ?_
  cases st
  case success => exact absurd rfl hst
  all_goals simp only [hr]

theorem rxReadResp_done {o : OutPkt} (ho : (b.conn i).reads.find? (fun o => o.pkt.xfer == k.xfer && o.pkt.addr == k.addr) = some o) :
    b.rxReadResp m i k = .done ((b.setConn i { b.conn i with reads := eraseFirst (· == o) (b.conn i).reads }).readDone m i o k.payload) := by
  simp only [Block.rxReadResp, ho]

theorem rxReadResp_unknown (ho : (b.conn i).reads.find? (fun o => o.pkt.xfer == k.xfer && o.pkt.addr == k.addr) = none) : b.rxReadResp m i k = .done b := by
  simp only [Block.rxReadResp, ho]

theorem rxSignal_held (hp : b.peerCheck i (b.conn i).ctx k = (none, b1)) : b.rxSignal i k = .wait (holdSignal b1 i k) := by
  simp only [Block.rxSignal, hp]
  rfl

theorem rxSignal_denied (hp : b.peerCheck i (b.conn i).ctx k = (some st, b1)) : b.rxSignal i k = .refuse b1 (nackOf st) := by
  simp only [Block.rxSignal, hp]

/-! ### Chains and sweeps -/

/-- The armed chain that a CHAIN packet of peer `c` concerns. -/
def nearChain (c : Conn) (k : Packet) (ch : Chain) : Bool :=
  let d := chainDesc ch.desc.toNat
  let prev := decide (0 < d.pos) && d.prevPeer == c.peer
  let next := !d.last && d.nextPeer == c.peer
  ch.ctx == c.ctx && d.id == k.xfer && (if k.op = 0 then prev else if k.op = 1 then next else prev || next)

/-- A slice that fits its chain. -/
def soundSlice (ch : Chain) (k : Packet) : Prop :=
  k.op ≤ 1 ∧ k.addr % 4096 = 0 ∧ k.addr / 4096 < (chainDesc ch.desc.toNat).slices
    ∧ k.payload.length = 4 * (chainDesc ch.desc.toNat).sliceLen (k.addr / 4096) ∧ (k.op = 1 → (chainDesc ch.desc.toNat).bcast = true)

theorem rxChain_notArmed (h : b.chains.find? (nearChain (b.conn i) k) = none) : b.rxChain m i k = .refuse b 2 := by
  unfold nearChain at h
  simp only [Block.rxChain, h]

theorem rxChain_break {ch : Chain} (h : b.chains.find? (nearChain (b.conn i) k) = some ch) (h2 : k.op = 2) :
    b.rxChain m i k = .done (b.chainBreakAt ch (bits k.addr 12 0) (bits k.addr 31 16) (some (b.conn i).peer)) := by
  unfold nearChain at h
  simp only [Block.rxChain, h]
  exact if_pos h2

/-- What the check of a slice tests is that it is unsound. -/
theorem unsound_iff {ch : Chain} (h2 : k.op ≠ 2) :
    (2 < k.op ∨ k.addr % 4096 ≠ 0 ∨ (chainDesc ch.desc.toNat).slices ≤ k.addr / 4096
      ∨ k.payload.length ≠ 4 * (chainDesc ch.desc.toNat).sliceLen (k.addr / 4096) ∨ (k.op = 1 ∧ (chainDesc ch.desc.toNat).bcast = false)) ↔ ¬ soundSlice ch k := by
  have hop : 2 < k.op ↔ ¬ k.op ≤ 1 := by omega
  have hb : (k.op = 1 ∧ (chainDesc ch.desc.toNat).bcast = false) ↔ ¬ (k.op = 1 → (chainDesc ch.desc.toNat).bcast = true) := by
    cases (chainDesc ch.desc.toNat).bcast <;> simp
  have hj : (chainDesc ch.desc.toNat).slices ≤ k.addr / 4096 ↔ ¬ k.addr / 4096 < (chainDesc ch.desc.toNat).slices := Nat.not_lt.symm
  rw [hop, hb, hj, soundSlice]
  simp only [not_and_or, ne_eq]

theorem rxChain_unsound {ch : Chain} (h : b.chains.find? (nearChain (b.conn i) k) = some ch) (h2 : k.op ≠ 2) (hs : ¬ soundSlice ch k) :
    b.rxChain m i k = .refuse b 7 := by
  unfold nearChain at h
  simp only [Block.rxChain, h]
  exact (if_neg h2).trans (if_pos ((unsound_iff h2).mpr hs))

theorem rxChain_staleEpoch {ch : Chain} (h : b.chains.find? (nearChain (b.conn i) k) = some ch) (hs : soundSlice ch k)
    (he : b.epochTreat i k = (false, b1)) : b.rxChain m i k = .refuse b1 6 := by
  have h2 : k.op ≠ 2 := by have := hs.1; omega
  unfold nearChain at h
  simp only [Block.rxChain, h]
  refine (if_neg h2).trans ((if_neg fun hn => (unsound_iff h2).mp hn hs).trans ?_)
  simp only [he]

theorem rxChain_result {ch : Chain} (h : b.chains.find? (nearChain (b.conn i) k) = some ch) (hs : soundSlice ch k)
    (he : b.epochTreat i k = (true, b1)) (h1 : k.op = 1) :
    b.rxChain m i k = .done ((b1.countCtx (b.conn i).ctx 9 k.payload.length).chainResultAt m ch (k.addr / 4096) k.payload) := by
  have h2 : k.op ≠ 2 := by omega
  unfold nearChain at h
  simp only [Block.rxChain, h]
  refine (if_neg h2).trans ((if_neg fun hn => (unsound_iff h2).mp hn hs).trans ?_)
  simp only [he]
  exact if_pos h1

theorem rxChain_slice {ch : Chain} {g : Region} (h : b.chains.find? (nearChain (b.conn i) k) = some ch) (hs : soundSlice ch k)
    (he : b.epochTreat i k = (true, b1)) (h0 : k.op = 0)
    (hr : (b1.countCtx (b.conn i).ctx 9 k.payload.length).memRange ((chainDesc ch.desc.toNat).recvAddr + k.addr) k.payload.length = .ok g) :
    b.rxChain m i k = .done ((((b1.countCtx (b.conn i).ctx 9 k.payload.length).hubWrite ((chainDesc ch.desc.toNat).recvAddr + k.addr) k.payload).chainSlice m ch
      (k.addr / 4096) (some (f32Of k.payload)))) := by
  have h2 : k.op ≠ 2 := by omega
  unfold nearChain at h
  simp only [Block.rxChain, h]
  refine (if_neg h2).trans ((if_neg fun hn => (unsound_iff h2).mp hn hs).trans ?_)
  simp only [he, hr]
  exact if_neg (by omega)

theorem rxChain_unmapped {ch : Chain} (h : b.chains.find? (nearChain (b.conn i) k) = some ch) (hs : soundSlice ch k)
    (he : b.epochTreat i k = (true, b1)) (h0 : k.op = 0)
    (hr : (b1.countCtx (b.conn i).ctx 9 k.payload.length).memRange ((chainDesc ch.desc.toNat).recvAddr + k.addr) k.payload.length = .error st) :
    b.rxChain m i k = .done ((b1.countCtx (b.conn i).ctx 9 k.payload.length).chainBreakAt ch (chainDesc ch.desc.toNat).pos st.code none) := by
  have h2 : k.op ≠ 2 := by omega
  unfold nearChain at h
  simp only [Block.rxChain, h]
  refine (if_neg h2).trans ((if_neg fun hn => (unsound_iff h2).mp hn hs).trans ?_)
  simp only [he, hr]
  exact if_neg (by omega)

/-- The armed sweep that a SWEEP packet of peer `c` concerns. -/
def ownSweep (c : Conn) (k : Packet) (x : Sweep) : Bool :=
  x.ctx == c.ctx && x.number == k.xfer && (chainDesc x.desc.toNat).prevPeer == c.peer && decide (0 < (chainDesc x.desc.toNat).pos)

theorem rxSweep_notArmed (h : b.sweeps.find? (ownSweep (b.conn i) k) = none) : b.rxSweep i k = .refuse b 2 := by
  unfold ownSweep at h
  simp only [Block.rxSweep, h]

theorem rxSweep_swept {x : Sweep} (h : b.sweeps.find? (ownSweep (b.conn i) k) = some x) (ho : k.op ≤ 1) : b.rxSweep i k = .done (b.sweepAt x (k.op == 1)) := by
  unfold ownSweep at h
  simp only [Block.rxSweep, h]
  exact if_neg (Nat.not_lt.mpr ho)

theorem rxSweep_unsound {x : Sweep} (h : b.sweeps.find? (ownSweep (b.conn i) k) = some x) (ho : 1 < k.op) : b.rxSweep i k = .refuse b 7 := by
  unfold ownSweep at h
  simp only [Block.rxSweep, h]
  exact if_pos ho

end

/-! ### The obligation -/

section
variable {f : Frame} {s : State} {i : Nat} {k : Packet}

/-- What `taken` leaves of the chains and sweeps. -/
theorem taken_chains (b : Block) (f : Frame) (i : Nat) (k : Packet) : (b.taken f i k).chains = b.chains := by
  obtain ⟨t, ht⟩ := framed_cnt b f
  unfold Block.taken
  rw [ht]
  rfl

theorem taken_sweeps (b : Block) (f : Frame) (i : Nat) (k : Packet) : (b.taken f i k).sweeps = b.sweeps := by
  obtain ⟨t, ht⟩ := framed_cnt b f
  unfold Block.taken
  rw [ht]
  rfl

theorem kerfChain_new (hh : s.blk.hears f k) (hb : s.blk.belongs f i k) (hn : s.blk.newHere i k) (ht : k.type = 5) :
    NewPacket (if k.op = 1 then Instr.chainResult f else if k.op = 2 then .chainBreak f else .chainForward f) f s i k (· == 5) := by
  have hop : chainFrameOp f = k.op := by simp only [chainFrameOp, hears_parse hh]
  refine ⟨?_, hh, hb, hn, beq_iff_eq.mpr ht, by omega⟩
  by_cases h1 : k.op = 1
  · rw [if_pos h1]
    exact congrArg (nextOf s) (if_pos (hop.trans h1))
  · rw [if_neg h1]
    by_cases h2 : k.op = 2
    · rw [if_pos h2]
      exact congrArg (nextOf s) (if_pos (hop.trans h2))
    · rw [if_neg h2]
      exact congrArg (nextOf s) (if_neg (by rw [hop]; exact fun h => h.elim h1 h2))

end

/-- Settles O48: each type of a new sequenced packet, by what its receiver makes of it. -/
theorem sequencedPacketsAct : Obligations.SequencedPacketsAct := by
  intro f s i k b t c hold hh hb hn
  have new (ins : Instr) (n : Nat) (hx : exec ins s = nextOf s (s.blk.rxSeq s.dram f (· == n))) (ht : k.type = n) (h11 : n ≠ 11) :
      NewPacket ins f s i k (· == n) := ⟨hx, hh, hb, hn, beq_iff_eq.mpr ht, by rw [ht]; exact h11⟩
  refine ⟨?_, ?_, ?_, ?_, ?_, ?_, ?_, ?_, ?_, ?_, ?_, ?_, ?_⟩
  · intro ht b1 hp b2 b3
    exact newPacket_waits (new (.kerfWrite f) 0 rfl ht (by decide)) (by omega) ((rxApply_write ht).trans (rxStore_write ht hp))
  · intro ht st b1 hp
    exact newPacket_refused (new (.kerfWrite f) 0 rfl ht (by decide)) (nackOf_over st)
      ((rxApply_write ht).trans (rxStore_denied (fun h3 => absurd (ht.symm.trans h3) (by decide)) hp))
  · intro ht ha b1 bad old hp hread b2 b3
    have hnew := new (.kerfAtomic f) 3 rfl ht (by decide)
    refine ⟨fun hok => ?_, fun h4 hbad => ?_⟩
    · have h := newPacket_waits hnew (by omega) ((rxApply_atomic ht).trans (rxStore_atomic ht ha hp hread hok))
      rw [if_neg (atomicOk_payload ha)] at h
      exact h
    · subst hbad
      exact newPacket_refused hnew (by decide) ((rxApply_atomic ht).trans (rxStore_poisoned ht ha hp hread h4))
  · intro ht ha st b1 hp
    exact newPacket_refused (new (.kerfAtomic f) 3 rfl ht (by decide)) (nackOf_over st) ((rxApply_atomic ht).trans (rxStore_denied (fun _ => ha) hp))
  · intro ht ha
    exact newPacket_refused (new (.kerfAtomic f) 3 rfl ht (by decide)) (by decide) ((rxApply_atomic ht).trans (rxStore_badAtomic ht ha))
  · intro ht hl
    exact newPacket_done (new (.kerfReadReq f) 1 rfl ht (by decide)) ((rxApply_readReq ht).trans (if_pos hl))
  · intro ht hl st bs b1 hr
    have hnew := new (.kerfReadReq f) 1 rfl ht (by decide)
    refine ⟨fun hst => ?_, fun hst => newPacket_refused hnew (nackOf_over st) ((rxApply_readReq ht).trans (rxRead_failed hl hr hst))⟩
    subst hst
    exact newPacket_done hnew ((rxApply_readReq ht).trans (rxRead_done hl hr))
  · intro ht o ho
    exact newPacket_done (new (.kerfReadResp f) 2 rfl ht (by decide)) ((rxApply_readResp ht).trans (rxReadResp_done ho))
  · intro ht ho
    exact newPacket_done (new (.kerfReadResp f) 2 rfl ht (by decide)) ((rxApply_readResp ht).trans (rxReadResp_unknown ho))
  · intro ht b1 hp
    exact newPacket_signal (new (.kerfSignal f) 4 rfl ht (by decide)) ht ((rxApply_signal ht).trans (rxSignal_held hp))
  · intro ht st b1 hp
    exact newPacket_refused (new (.kerfSignal f) 4 rfl ht (by decide)) (nackOf_over st) ((rxApply_signal ht).trans (rxSignal_denied hp))
  · intro ht i' near
    have hnew := kerfChain_new hh hb hn ht
    have htaken : (s.blk.taken f i k).chains = b.chains := taken_chains b f i k
    refine ⟨fun h => newPacket_notArmed hnew ((rxApply_chain ht).trans (rxChain_notArmed (by rw [htaken]; exact h))), fun ch h => ?_⟩
    have hch : (s.blk.taken f i k).chains.find? (nearChain ((s.blk.taken f i k).conn i) k) = some ch := by
      rw [htaken]
      exact h
    intro d j sound
    refine ⟨fun h2 => newPacket_done hnew ((rxApply_chain ht).trans (rxChain_break hch h2)),
      fun h2 hs => newPacket_refused hnew (by decide) ((rxApply_chain ht).trans (rxChain_unsound hch h2 hs)),
      fun hs b1 he => newPacket_refused hnew (by decide) ((rxApply_chain ht).trans (rxChain_staleEpoch hch hs he)), ?_⟩
    intro hs b1 he got
    exact ⟨fun h1 => newPacket_done hnew ((rxApply_chain ht).trans (rxChain_result hch hs he h1)),
      fun h0 g hg => newPacket_done hnew ((rxApply_chain ht).trans (rxChain_slice hch hs he h0 hg)),
      fun h0 st hg => newPacket_done hnew ((rxApply_chain ht).trans (rxChain_unmapped hch hs he h0 hg))⟩
  · intro ht mine
    have hnew := new (.sweep f) 6 rfl ht (by decide)
    have htaken : (s.blk.taken f i k).sweeps = b.sweeps := taken_sweeps b f i k
    refine ⟨fun h => newPacket_notArmed hnew ((rxApply_sweep ht).trans (rxSweep_notArmed (by rw [htaken]; exact h))),
      fun x h ho => newPacket_done hnew ((rxApply_sweep ht).trans (rxSweep_swept (by rw [htaken]; exact h) ho)),
      fun x h ho => newPacket_refused hnew (by decide) ((rxApply_sweep ht).trans (rxSweep_unsound (by rw [htaken]; exact h) ho))⟩

end Sys2Proof.Proofs
end

section
/-!
SUPPORT. Kerf's control packets (R286, R289, R291, R294, R304).
-/
namespace Sys2Proof.Proofs
open Sys2Proof.Machine Sys2Proof.Claims

section
variable {f : Frame} {s : State} {i : Nat} {k : Packet} {b b' : Block} {m : Dram} {o : OutPkt}

/-! ### Acknowledgement and refusal -/

theorem framed_time (b : Block) (f : Frame) : (b.framed f).time = b.time := by
  obtain ⟨t, ht⟩ := framed_cnt b f
  rw [ht]

theorem rxNack_unknown (h : (b.conn i).out.find? (fun o => o.pkt.seq == k.seq) = none) : b.rxNack m i k = b := by
  simp only [Block.rxNack, h]

/-- The connection without the refused packet. -/
def withoutRefused (c : Conn) (k : Packet) : Conn := { c with out := c.out.filter fun o => o.pkt.seq != k.seq }

theorem rxNack_later (h : (b.conn i).out.find? (fun o => o.pkt.seq == k.seq) = some o) (h1 : k.op = 1) :
    b.rxNack m i k = (b.setConn i { withoutRefused (b.conn i) k with again := (b.conn i).again ++ [{ o with retryLater := o.retryLater + 1 }] }).pump i := by
  simp only [Block.rxNack, h]
  refine (if_pos (.inl h1)).trans ?_
  rw [if_pos h1]
  rfl

theorem rxNack_notArmed (h : (b.conn i).out.find? (fun o => o.pkt.seq == k.seq) = some o) (h2 : k.op = 2) :
    b.rxNack m i k = (b.setConn i { withoutRefused (b.conn i) k with again := (b.conn i).again ++ [o] }).pump i := by
  simp only [Block.rxNack, h]
  refine (if_pos (.inr h2)).trans ?_
  rw [if_neg (by omega)]
  rfl

theorem rxNack_refused (h : (b.conn i).out.find? (fun o => o.pkt.seq == k.seq) = some o) (h1 : k.op ≠ 1) (h2 : k.op ≠ 2) :
    b.rxNack m i k = ((b.setConn i (((withoutRefused (b.conn i) k).dropRead o).noteRefused o)).xferFail m i o (nackStatus k.op)).pump i := by
  simp only [Block.rxNack, h]
  exact if_neg fun hn => hn.elim h1 h2

/-! ### Connecting -/

/-- The answer to a CONNECT, on the path that it came by. -/
def answerConnect (b : Block) (f : Frame) (x : Nat) (fit : ConnectFit) (inc : Nat) : Block :=
  b.emit (BitVec.ofNat 128 (f.src.toNat - f.src.toNat % 8)) { type := 12, inc, conn := bits x 435 420, payload := b.answerPayload x fit, len := 64 } (framePath f)

theorem rxConnect_accepted {n x : Nat} {fit : ConnectFit} (hx : beNat k.payload = x) (hfit : b.connectFit (f.src.toNat - f.src.toNat % 8) x = fit)
    (hc : fit.conn = some n) (hr : fit.reason = 0) (hl : (b.port (framePath f % 8)).linkUp = true) :
    b.rxConnect f k = answerConnect (b.modConn n fun c => c.learn (bits x 435 420) (bits x 419 412)) f x fit
      ((b.modConn n fun c => c.learn (bits x 435 420) (bits x 419 412)).conn n).inc := by
  unfold Block.rxConnect
  simp only [hx, hfit, hc, if_pos hr]
  exact if_pos hl

theorem rxConnect_answered {n x : Nat} {fit : ConnectFit} (hx : beNat k.payload = x) (hfit : b.connectFit (f.src.toNat - f.src.toNat % 8) x = fit)
    (hc : fit.conn = some n) (hr : fit.reason ≠ 0) (hl : (b.port (framePath f % 8)).linkUp = true) :
    b.rxConnect f k = answerConnect b f x fit (b.conn n).inc := by
  unfold Block.rxConnect
  simp only [hx, hfit, hc, if_neg hr]
  exact if_pos hl

theorem rxConnect_unknown {x : Nat} {fit : ConnectFit} (hx : beNat k.payload = x) (hfit : b.connectFit (f.src.toNat - f.src.toNat % 8) x = fit)
    (hc : fit.conn = none) (hl : (b.port (framePath f % 8)).linkUp = true) : b.rxConnect f k = answerConnect b f x fit 0 := by
  unfold Block.rxConnect
  simp only [hx, hfit, hc]
  exact if_pos hl

/-- A CONNECT that is heard is answered on its path, whose port is up. -/
theorem hears_pathUp (hh : b.hears f k) : ((b.framed f).port (framePath f % 8)).linkUp = true := by
  obtain ⟨-, hl, -, -, -, hf, -, -⟩ := hh
  have hp : f.port.val = framePath f % 8 := by
    simp only [Block.frameOk, Bool.and_eq_true, beq_iff_eq] at hf
    obtain ⟨⟨⟨⟨⟨-, hp⟩, -⟩, -⟩, -⟩, -⟩ := hf
    exact hp
  rw [framed_port, ← hp]
  exact hl

theorem served_connect (hh : s.blk.hears f k) (ht : k.type = 11) (hc : (s.blk.framed f).rxConnect f k = b') : Served (.connect f) s b' := by
  refine served_frame (types := (· == 11)) (act := fun b _ k => b.rxConnect f k) rfl (hears_arrives hh) (hears_types (types := (· == 11)) hh (beq_iff_eq.mpr ht)) (hears_first hh) ?_
  obtain ⟨-, -, -, -, hp, hf, hv, hr⟩ := hh
  simp only [Block.rxCheck, hp]
  refine (if_neg ?_).trans ((if_pos ht).trans hc)
  simp [framed_frameOk, hf, hv, hr]

theorem rxConnectResp_up {x : Nat} (hx : beNat k.payload = x) (hs : (b.conn i).state = .connecting) (hr : bits x 411 408 = 0) :
    b.rxConnectResp m i k = ((b.setConn i { (b.conn i).learn (bits x 435 420) (bits x 419 412) with state := .up, reason := 0 }).publishPeer i).pump i := by
  subst hx
  exact (if_neg fun hn => hn hs).trans (if_pos hr)

theorem rxConnectResp_again {x : Nat} (hx : beNat k.payload = x) (hs : (b.conn i).state = .connecting) (hr : 4 < bits x 411 408) :
    b.rxConnectResp m i k = (b.setConn i { b.conn i with reason := bits x 411 408 }).publishPeer i := by
  subst hx
  exact (if_neg fun hn => hn hs).trans ((if_neg (by omega)).trans (if_neg (by omega)))

theorem rxConnectResp_refused {x : Nat} (hx : beNat k.payload = x) (hs : (b.conn i).state = .connecting) (h0 : 0 < bits x 411 408) (h4 : bits x 411 408 ≤ 4) :
    b.rxConnectResp m i k = ((b.setConn i { b.conn i with state := .refused, reason := bits x 411 408 }).publishPeer i).failAll m i .configMismatch := by
  subst hx
  exact (if_neg fun hn => hn hs).trans ((if_neg (by omega)).trans (if_pos h4))

theorem rxConnectResp_settled (hs : (b.conn i).state ≠ .connecting) : b.rxConnectResp m i k = b := if_pos hs

end

/-- Settles O49: the control packets, each by its case. -/
theorem controlPacketsAct : Obligations.ControlPacketsAct := by
  intro f s i k b t c x hh
  have packet (ins : Instr) (n : Nat) (act : Block → Nat → Packet → Block) (hx : exec ins s = nextOf s (s.blk.receive f (· == n) act)) (hb : b.belongs f i k)
      (ht : k.type = n) (h11 : n ≠ 11) {b' : Block} (hc : act t i k = b') : Served ins s b' :=
    served_packet hx hh hb (beq_iff_eq.mpr ht) (by rw [ht]; exact h11) hc
  have hconn : t.conn i = b.conn i := framed_conn s.blk f i
  refine ⟨fun hb ht => ?_, fun hb ht ho => ?_, fun hb ht o ho => ?_, fun hb ht => ?_, fun ht => ?_, fun hb ht => ?_⟩
  · refine packet (.kerfAck f) 8 _ rfl hb ht (by decide) ?_
    simp only [Block.rxAck, hconn]
    rfl
  · refine packet (.kerfNack f) 9 _ rfl hb ht (by decide) (rxNack_unknown ?_)
    rw [hconn]
    exact ho
  · intro rest
    have ho' : (t.conn i).out.find? (fun o => o.pkt.seq == k.seq) = some o := by
      rw [hconn]
      exact ho
    refine ⟨fun h1 => packet (.kerfNack f) 9 _ rfl hb ht (by decide) ((rxNack_later ho' h1).trans ?_),
      fun h2 => packet (.kerfNack f) 9 _ rfl hb ht (by decide) ((rxNack_notArmed ho' h2).trans ?_),
      fun h1 h2 => packet (.kerfNack f) 9 _ rfl hb ht (by decide) ((rxNack_refused ho' h1 h2).trans ?_)⟩
    · rw [hconn]
      rfl
    · rw [hconn]
      rfl
    · rw [hconn]
      rfl
  · intro echo sample lat met
    refine packet (.heartbeat f) 10 _ rfl hb ht (by decide) ?_
    have htime : t.time = b.time := framed_time s.blk f
    simp only [Block.rxHeartbeat, hconn, htime]
    rfl
  · intro device fit answer
    have hup := hears_pathUp hh
    exact ⟨fun n hc hr => served_connect hh ht (rxConnect_accepted rfl rfl hc hr hup), fun n hc hr => served_connect hh ht (rxConnect_answered rfl rfl hc hr hup),
      fun hc => served_connect hh ht (rxConnect_unknown rfl rfl hc hup)⟩
  · refine ⟨fun hs hr => packet (.connectResp f) 12 _ rfl hb ht (by decide) ?_, fun hs hr => packet (.connectResp f) 12 _ rfl hb ht (by decide) ?_,
      fun hs h0 h4 => packet (.connectResp f) 12 _ rfl hb ht (by decide) ?_, fun hs => packet (.connectResp f) 12 _ rfl hb ht (by decide) ?_⟩
    · refine (rxConnectResp_up rfl (by rw [hconn]; exact hs) hr).trans ?_
      rw [hconn]
    · refine (rxConnectResp_again rfl (by rw [hconn]; exact hs) hr).trans ?_
      rw [hconn]
    · refine (rxConnectResp_refused rfl (by rw [hconn]; exact hs) h0 h4).trans ?_
      rw [hconn]
    · exact rxConnectResp_settled (by rw [hconn]; exact hs)

end Sys2Proof.Proofs
end

section
/-!
SUPPORT. Kerf's timers, and the loss of a peer (R286, R288 to R292, R294, R304).
-/
namespace Sys2Proof.Proofs
open Sys2Proof.Machine Sys2Proof.Claims

/-! ### What a fault record changes -/

/-- `b'` differs from `b` by reports only: rings, host writes, interrupts, traffic, the log and the requests on their way. -/
def Logs (b b' : Block) : Prop :=
  ∃ g o x n t h l ch st, b' = { b with rings := g, hostOut := o, msix := x, cnt := n, trace := t, hostReads := h, hubLater := l, chans := ch, store := st }

namespace Logs
variable {a b c : Block}

theorem refl (b : Block) : Logs b b := ⟨b.rings, b.hostOut, b.msix, b.cnt, b.trace, b.hostReads, b.hubLater, b.chans, b.store, rfl⟩

theorem trans (h : Logs a b) (k : Logs b c) : Logs a c := by
  obtain ⟨g, o, x, n, t, hr, l, ch, st, rfl⟩ := h
  obtain ⟨g', o', x', n', t', hr', l', ch', st', rfl⟩ := k
  exact ⟨g', o', x', n', t', hr', l', ch', st', rfl⟩

theorem of_rings (h : RingsOnly a b) : Logs a b := by
  obtain ⟨g, o, x, n, rfl⟩ := h
  exact ⟨g, o, x, n, a.trace, a.hostReads, a.hubLater, a.chans, a.store, rfl⟩

theorem of_hub (h : HubOnly a b) : Logs a b := by
  obtain ⟨hr, o, l, ch, n, rfl⟩ := h
  exact ⟨a.rings, o, a.msix, n, a.trace, hr, l, ch, a.store, rfl⟩

theorem traced (b : Block) (t : Trace) : Logs b { b with trace := t } := ⟨_, _, _, _, _, _, _, _, _, rfl⟩

theorem stored (b : Block) (st : Store) : Logs b { b with store := st } := ⟨_, _, _, _, _, _, _, _, _, rfl⟩

theorem logWrite (b : Block) (f : FaultRec) : Logs b (b.logWrite f) := by
  unfold Block.logWrite
  split
  · exact of_hub (HubOnly.hubWrite ..)
  · exact refl b

theorem postEvent (b : Block) (r code v : Nat) : Logs b (b.postEvent r code v) := of_rings (RingsOnly.postEvent ..)

theorem enterRecord (b : Block) (f : FaultRec) : Logs b (b.enterRecord f) := by
  unfold Block.enterRecord
  dsimp only
  have hlog (t : Trace) (g : FaultRec) (n : Nat) : Logs b ((({ b with trace := t } : Block).logWrite g).postEvent 0 0x2005 n) :=
    ((traced b t).trans (logWrite _ g)).trans (postEvent _ 0 0x2005 n)
  split
  · exact (hlog ..).trans (postEvent ..)
  · exact hlog ..

theorem recordAt (b : Block) (t : Nat) (f : FaultRec) : Logs b (b.recordAt t f) := by
  unfold Block.recordAt
  dsimp only
  split
  · exact enterRecord ..
  · exact (enterRecord ..).trans (stored ..)

theorem record (b : Block) (f : FaultRec) : Logs b (b.record f) := recordAt ..

theorem publishPeer (b : Block) (k : Nat) : Logs b (b.publishPeer k) := of_hub (HubOnly.hubWrite ..)

theorem conn (h : Logs a b) (k : Nat) : b.conn k = a.conn k := by
  obtain ⟨g, o, x, n, t, hr, l, ch, st, rfl⟩ := h
  rfl

theorem conns (h : Logs a b) : b.conns = a.conns := by
  obtain ⟨g, o, x, n, t, hr, l, ch, st, rfl⟩ := h
  rfl

theorem chains (h : Logs a b) : b.chains = a.chains := by
  obtain ⟨g, o, x, n, t, hr, l, ch, st, rfl⟩ := h
  rfl

theorem txOut (h : Logs a b) : b.txOut = a.txOut := by
  obtain ⟨g, o, x, n, t, hr, l, ch, st, rfl⟩ := h
  rfl

end Logs

/-! ### A packet is sent again on the next live path (R288, R290) -/

section
variable {b : Block} {i seq path : Nat} {o : OutPkt} {k : Packet}

/-- A packet that leaves on a path of a connection to another device. -/
theorem transmit_sends (hl : (b.conn i).loop = false) :
    ∃ sent, (b.transmit i k path).txOut = b.txOut ++ [sent] ∧ sent.bytes = k.bytes ∧ sent.port = path % 8 ∧ sent.dst = (b.conn i).addr + BitVec.ofNat 128 (path % 8)
      ∧ (b.transmit i k path).conns = b.conns := by
  have ht : b.transmit i k path = b.emit (b.conn i).addr k path := if_neg (ne_true_of_eq_false hl)
  rw [ht]
  unfold Block.emit
  dsimp only
  generalize hf : ({ port := path % 8, mac := _, src := _, dst := _, dscp := _, flow := _, srcPort := _, dstPort := _, bytes := k.bytes } : SentFrame) = sent
  obtain ⟨t, hc⟩ := countPort_cnt { b with txOut := b.txOut ++ [sent] } (74 + path % 8) (66 + k.bytes.length)
  refine ⟨sent, ?_, by rw [← hf], by rw [← hf], by rw [← hf], ?_⟩
  · rw [hc]
  · rw [hc]

/-- An expiry that is not the fourth in a row is counted and nothing else. -/
theorem pathExpiry_counted (h : tget 0 (b.conn i).expiries path < 3) :
    b.pathExpiry i path = b.setConn i { b.conn i with expiries := tset (b.conn i).expiries path (tget 0 (b.conn i).expiries path + 1) } :=
  if_pos (.inl (by omega))

theorem resend_sends (ho : (b.conn i).out.find? (fun o => o.pkt.seq == seq) = some o) (hl : (b.conn i).loop = false)
    (hp : b.nextLive (b.conn i) (o.path + 1) = some path) :
    ∃ sent, (b.resend i seq true).txOut = b.txOut ++ [sent] ∧ sent.bytes = o.pkt.bytes ∧ sent.port = path % 8
      ∧ sent.dst = (b.conn i).addr + BitVec.ofNat 128 (path % 8)
      ∧ ((b.resend i seq true).conn i).out = (b.conn i).out.map (fun x => if x.pkt.seq = seq then { x with attempts := o.attempts + 1, path } else x) := by
  generalize hc : ({ b.conn i with
    out := (b.conn i).out.map (fun x => if x.pkt.seq = seq then { x with attempts := o.attempts + 1, path } else x), retxCount := ((b.conn i).retxCount + 1) % 2 ^ 32 } : Conn) = c
  have hr : b.resend i seq true = ((b.setConn i c).publishPeer i).transmit i o.pkt path := by
    simp only [Block.resend, ho, hp, if_true]
    rw [hc]
  have hlog := Logs.publishPeer (b.setConn i c) i
  have hconn : ((b.setConn i c).publishPeer i).conn i = c := (hlog.conn i).trans (Block.conn_setConn b i c)
  obtain ⟨sent, hout, hbytes, hport, hdst, hconns⟩ := transmit_sends (b := (b.setConn i c).publishPeer i) (i := i) (k := o.pkt) (path := path)
    (by rw [hconn, ← hc]; exact hl)
  rw [hr]
  refine ⟨sent, hout.trans (congrArg (· ++ [sent]) hlog.txOut), hbytes, hport, ?_, ?_⟩
  · rw [hdst, hconn, ← hc]
  · have hfin : (((b.setConn i c).publishPeer i).transmit i o.pkt path).conn i = c := by
      refine Eq.trans ?_ hconn
      exact congrArg (fun l => tget {} l i) hconns
    rw [hfin, ← hc]

end

/-! ### The loss of a peer (R292) -/

/-- `b'` has the cells, their signals, the racks, the scalar registers, and every connection but `k` of `b`. -/
structure LeavesRest (k : Nat) (b b' : Block) : Prop where
  cells : b'.cells = b.cells
  sigs : b'.sigs = b.sigs
  racks : b'.racks = b.racks
  sregs : ∀ p, (b'.spd p).sregs = (b.spd p).sregs
  conns : ∀ i, i ≠ k → b'.conn i = b.conn i

namespace LeavesRest
variable {k : Nat} {a b c : Block}

theorem trans (h : LeavesRest k a b) (g : LeavesRest k b c) : LeavesRest k a c :=
  ⟨g.cells.trans h.cells, g.sigs.trans h.sigs, g.racks.trans h.racks, fun p => (g.sregs p).trans (h.sregs p), fun i hi => (g.conns i hi).trans (h.conns i hi)⟩

theorem of_logs (h : Logs a b) : LeavesRest k a b := by
  obtain ⟨g, o, x, n, t, hr, l, ch, st, rfl⟩ := h
  exact ⟨rfl, rfl, rfl, fun _ => rfl, fun _ _ => rfl⟩

theorem setConn (b : Block) (x : Conn) : LeavesRest k b (b.setConn k x) := ⟨rfl, rfl, rfl, fun _ => rfl, fun _ hi => b.conn_setConn_ne x hi⟩

end LeavesRest

/-- A change of each spindle that keeps its number and its scalar registers. -/
theorem sregs_map {g : Nat × Spindle → Nat × Spindle} (hkey : ∀ e, (g e).1 = e.1) (hregs : ∀ e, (g e).2.sregs = e.2.sregs) (l : Tab Spindle) (p : Nat) :
    (tfind (l.map g) p).map (·.sregs) = (tfind l p).map (·.sregs) := by
  induction l with
  | nil => rfl
  | cons e l ih =>
    obtain ⟨n, x⟩ := e
    have hg : g (n, x) = (n, (g (n, x)).2) := Prod.ext (hkey (n, x)) rfl
    rw [List.map_cons, hg]
    by_cases hn : n = p
    · simp [tfind, hn, hregs]
    · simp [tfind, hn, ih]

theorem sregs_mapped (b : Block) {g : Nat × Spindle → Nat × Spindle} (hkey : ∀ e, (g e).1 = e.1) (hregs : ∀ e, (g e).2.sregs = e.2.sregs) (p : Nat) :
    (({ b with spindles := b.spindles.map g } : Block).spd p).sregs = (b.spd p).sregs := by
  have h := sregs_map hkey hregs b.spindles p
  unfold Block.spd
  dsimp only
  cases hl : tfind b.spindles p with
  | none =>
    rw [hl, Option.map_none, Option.map_eq_none_iff] at h
    rw [h]
  | some x =>
    rw [hl, Option.map_some, Option.map_eq_some_iff] at h
    obtain ⟨y, hy, hxy⟩ := h
    rw [hy]
    exact hxy

/-- Marking the waits that watch a lost peer. -/
theorem watchLost_leaves (b : Block) (k ctx peer : Nat) : LeavesRest k b (b.watchLost ctx peer) := by
  refine ⟨rfl, rfl, rfl, fun p => ?_, fun _ _ => rfl⟩
  unfold Block.watchLost
  dsimp only
  refine (congrArg Spindle.sregs (spd_modCtx ..)).trans (sregs_mapped b (fun e => ?_) (fun e => ?_) p)
  · split
    · split <;> rfl
    · rfl
  · split
    · split <;> rfl
    · rfl

/-- Fields that only the removal of registrations and pins changes. -/
def Unpins (b b' : Block) : Prop := ∃ rd tb, b' = { b with readers := rd, tables := tb }

theorem subReader_unpins (b : Block) (id n : Nat) : Unpins b (b.subReader id n) := by
  unfold Block.subReader Block.tableIdle
  split
  · exact ⟨_, _, rfl⟩
  · exact ⟨_, _, rfl⟩

theorem unpins_foldl {β : Type} {g : Block → β → Block} (h : ∀ b x, Unpins b (g b x)) (l : List β) (b : Block) : Unpins b (l.foldl g b) := by
  induction l generalizing b with
  | nil => exact ⟨b.readers, b.tables, rfl⟩
  | cons x l ih =>
    obtain ⟨rd, tb, hx⟩ := h b x
    obtain ⟨rd', tb', hl⟩ := ih (g b x)
    exact ⟨rd', tb', by rw [List.foldl_cons, hl, hx]⟩

theorem dropPeer_drops (b : Block) (k : Nat) : ∃ rd tb, b.dropPeer k =
    { b with peerRegs := b.peerRegs.filter (fun r => r.conn != k), pins := b.pins.filter fun x => x.owner != .peer k, readers := rd, tables := tb } := by
  unfold Block.dropPeer
  dsimp only
  generalize hb : ({ b with peerRegs := b.peerRegs.filter (fun r => r.conn != k), pins := b.pins.filter fun x => x.owner != .peer k } : Block) = b1
  obtain ⟨rd, tb, h1⟩ := unpins_foldl (fun b (r : PeerReg) => subReader_unpins b r.tableId r.er) (b.peerRegs.filter fun r => r.conn == k) b1
  obtain ⟨rd', tb', h2⟩ := unpins_foldl (fun b (x : Pin) => subReader_unpins b x.tableId x.epoch) (b.pins.filter fun x => x.owner == .peer k)
    ((b.peerRegs.filter fun r => r.conn == k).foldl (fun b r => b.subReader r.tableId r.er) b1)
  refine ⟨rd', tb', h2.trans ?_⟩
  rw [h1, ← hb]

theorem dropPeer_leaves (b : Block) (k n : Nat) : LeavesRest n b (b.dropPeer k) := by
  obtain ⟨rd, tb, h⟩ := dropPeer_drops b k
  rw [h]
  exact ⟨rfl, rfl, rfl, fun _ => rfl, fun _ _ => rfl⟩

/-- A connection with nothing to answer for. -/
structure Quiet (c : Conn) : Prop where
  out : c.out = []
  again : c.again = []
  waiting : c.waiting = []
  reads : c.reads = []
  sigDue : c.sigDue = []

/-- Failing what a quiet connection has sent only forgets its refused groups. -/
theorem failAll_quiet (m : Dram) (b : Block) (k : Nat) (st : Status) (h : Quiet (b.conn k)) :
    b.failAll m k st = b.setConn k { b.conn k with out := [], again := [], waiting := [], reads := [], txRefused := [], sigDue := [] } := by
  obtain ⟨ho, ha, hw, hr, hs⟩ := h
  unfold Block.failAll
  simp only [ho, ha, hw, hr, hs]
  rfl

/-- The connection of a lost peer. -/
def lostConn (c : Conn) : Conn := { c with state := .lost, rxGroups := c.rxGroups.map fun g => { g with held := none } }

/-- The record of a lost peer. -/
def lostRecord (c : Conn) (cause : Nat) : FaultRec :=
  { context := some c.ctx, severity := 1, cls := 0x09, status := Status.peerLost.code, peer := c.peer, info := cause }

/-- The loss is recorded and published, and the waits that watch the peer are marked. -/
def lossMarked (b : Block) (k cause : Nat) : Block :=
  (((b.record (lostRecord (b.conn k) cause)).setConn k (lostConn (b.conn k))).publishPeer k).watchLost (b.conn k).ctx (b.conn k).peer

theorem declareLost_noChains (m : Dram) {b : Block} {k cause : Nat} (ho : (b.conn k).isOpen = true) (hl : (b.conn k).loop = false) (hs : (b.conn k).state ≠ .lost)
    (hc : ((lossMarked b k cause).failAll m k .peerLost).chains = []) :
    b.declareLost m k cause = ((lossMarked b k cause).failAll m k .peerLost).dropPeer k := by
  have hgo : ¬ ((!(b.conn k).isOpen || (b.conn k).loop || (b.conn k).state == .lost) = true) := by simp [ho, hl, hs]
  refine (if_neg hgo).trans (congrArg (fun b : Block => b.dropPeer k) ?_)
  unfold lossMarked lostConn lostRecord at hc ⊢
  rw [hc]
  rfl

theorem lossMarked_conn (b : Block) (k cause : Nat) : (lossMarked b k cause).conn k = lostConn (b.conn k) :=
  ((Logs.publishPeer _ k).conn k).trans (Block.conn_setConn ..)

theorem watchLost_chains (b : Block) (c p : Nat) : (b.watchLost c p).chains = b.chains := rfl
theorem setConn_chains (b : Block) (k : Nat) (c : Conn) : (b.setConn k c).chains = b.chains := rfl

theorem lossMarked_chains (b : Block) (k cause : Nat) : (lossMarked b k cause).chains = b.chains := by
  unfold lossMarked
  rw [watchLost_chains, (Logs.publishPeer _ k).chains, setConn_chains, (Logs.record b _).chains]

theorem lossMarked_leaves (b : Block) (k cause : Nat) : LeavesRest k b (lossMarked b k cause) :=
  ((LeavesRest.of_logs (Logs.record b _)).trans (LeavesRest.setConn _ _)).trans ((LeavesRest.of_logs (Logs.publishPeer _ k)).trans (watchLost_leaves _ k _ _))

/-- R292: what the loss of a peer with nothing outstanding leaves of the device. -/
theorem declareLost_quiet (m : Dram) {b : Block} {k cause : Nat} (ho : (b.conn k).isOpen = true) (hl : (b.conn k).loop = false) (hs : (b.conn k).state ≠ .lost)
    (hq : Quiet (b.conn k)) (hc : b.chains = []) :
    ∃ b1, LeavesRest k b b1 ∧ (b1.conn k).state = .lost ∧ (b1.conn k).txRefused = [] ∧ b.declareLost m k cause = b1.dropPeer k := by
  have hconn := lossMarked_conn b k cause
  have hquiet : Quiet ((lossMarked b k cause).conn k) := by
    obtain ⟨h1, h2, h3, h4, h5⟩ := hq
    rw [hconn]
    exact ⟨h1, h2, h3, h4, h5⟩
  have hfail := failAll_quiet m (lossMarked b k cause) k .peerLost hquiet
  refine ⟨(lossMarked b k cause).failAll m k .peerLost, ?_, ?_, ?_, declareLost_noChains m ho hl hs ?_⟩
  · rw [hfail]
    exact (lossMarked_leaves b k cause).trans (LeavesRest.setConn ..)
  · rw [hfail, Block.conn_setConn, hconn]
    rfl
  · rw [hfail, Block.conn_setConn]
  · rw [hfail, setConn_chains, lossMarked_chains, hc]

/-! ### The timers -/

section
variable {b : Block} {i seq path : Nat} {o : OutPkt} {m : Dram} {st : Status} {give : OutPkt → Bool}

theorem sendAck_nothing (h : (b.conn i).ackPending = 0) : b.sendAck i = b := if_pos h

theorem sendAck_sends (h : 0 < (b.conn i).ackPending) : b.sendAck i = (b.setConn i { b.conn i with ackPending := 0 }).sendCtrl i (b.conn i).ackPath
    { type := 8, seq := (b.conn i).ackFields.1, payload := beBytes 32 (b.conn i).ackFields.2 } := by
  have hno : ¬ (b.conn i).ackPending = 0 := by omega
  simp only [Block.sendAck, if_neg hno]

theorem retransmit_of (ho : (b.conn i).out.find? (fun o => o.pkt.seq == seq) = some o) (hh : b.hubLost = false) (hs : (b.conn i).state = .up)
    (hl : (b.conn i).loop = false) :
    b.retransmit m i seq = if 64 ≤ o.attempts then b.declareLost m i 2 else (b.pathExpiry i o.path).resend i seq true := by
  simp only [Block.retransmit, ho]
  exact if_neg (by simp [hh, hs, hl])

theorem sendAgain_sends (ho : (b.conn i).again.find? (fun o => o.pkt.seq == seq) = some o) (hh : b.hubLost = false) (hg : give o = false) :
    b.sendAgain m i seq give st = (b.setConn i { b.conn i with
      again := eraseFirst (· == o) (b.conn i).again, waiting := { o with attempts := 1 } :: (b.conn i).waiting }).pump i := by
  simp only [Block.sendAgain, ho]
  exact (if_neg (ne_true_of_eq_false hh)).trans (if_neg (ne_true_of_eq_false hg))

theorem sendAgain_gives (ho : (b.conn i).again.find? (fun o => o.pkt.seq == seq) = some o) (hh : b.hubLost = false) (hg : give o = true) :
    b.sendAgain m i seq give st = (b.setConn i ((({ b.conn i with again := eraseFirst (· == o) (b.conn i).again } : Conn).dropRead o).noteRefused o)).xferFail m i o st := by
  simp only [Block.sendAgain, ho]
  exact (if_neg (ne_true_of_eq_false hh)).trans (if_pos hg)

theorem sendAgain_unknown (ho : (b.conn i).again.find? (fun o => o.pkt.seq == seq) = none) : b.sendAgain m i seq give st = b := by
  simp only [Block.sendAgain, ho]

theorem retransmit_unknown (ho : (b.conn i).out.find? (fun o => o.pkt.seq == seq) = none) : b.retransmit m i seq = b := by
  simp only [Block.retransmit, ho]

theorem connectRetry_of {expired : Bool} (ho : (b.conn i).isOpen = true) (hl : (b.conn i).loop = false) (hs : (b.conn i).state = .connecting)
    (hh : b.hubLost = false) : b.connectRetry m i expired = if expired = true then b.declareLost m i 1 else b.sendConnect i :=
  if_neg (by simp [ho, hl, hs, hh])

theorem probePath_up (h : path ∉ (b.conn i).downPaths) : b.probePath i path = b :=
  if_neg fun ⟨_, hd, _⟩ => h (List.contains_iff_mem.mp hd)

theorem probePath_probes (hs : (b.conn i).state = .up) (hd : path ∈ (b.conn i).downPaths) (hl : (b.port (path % 8)).linkUp = true) (ho : (b.conn i).out = []) :
    b.probePath i path = (b.setConn i { b.conn i with
      out := [{ pkt := { type := 1, seq := (b.conn i).nextSeq, inc := (b.conn i).inc, conn := (b.conn i).peerConn, src := 0x112 }, path
                owner := .probe path, firstSent := b.time }]
      nextSeq := ((b.conn i).nextSeq + 1) % 2 ^ 32 }).transmit i
        { type := 1, seq := (b.conn i).nextSeq, inc := (b.conn i).inc, conn := (b.conn i).peerConn, src := 0x112 } path := by
  have hroom : (b.conn i).room = true := by
    unfold Conn.room
    rw [ho]
    rfl
  refine (if_pos ⟨hs, List.contains_iff_mem.mpr hd, hl, hroom⟩).trans ?_
  simp only [ho]
  rfl

end

/-- Settles O50: each timer, and what the loss of a peer leaves. -/
theorem kerfTimersAct : Obligations.KerfTimersAct := by
  refine ⟨?_, ?_⟩
  · intro i seq s b c hh
    refine ⟨fun ho h0 => ?_, fun ho h0 => ?_, fun o ho hs hl => ⟨fun h64 => ?_, fun h64 => ?_, fun h64 hx path hp => ?_⟩, fun ho => gives rfl (retransmit_unknown ho),
      fun o ho => ?_, fun hs => ?_, fun ho hl hs => ⟨?_, fun hp => ?_, fun hp => ?_⟩, fun ho => ⟨gives rfl (sendAgain_unknown ho), fun _ => gives rfl (sendAgain_unknown ho)⟩,
      ?_, fun c hc hk => ?_, ?_, ⟨fun path _ h => probePath_up h, fun path hs hd hl ho => probePath_probes hs hd hl ho⟩, fun hn => ?_, fun hn => ?_⟩
    · exact gives rfl ((if_neg (by simpa using ⟨hh, ho⟩)).trans (sendAck_nothing h0))
    · exact gives rfl ((if_neg (by simpa using ⟨hh, ho⟩)).trans (sendAck_sends h0))
    · exact gives rfl ((retransmit_of ho hh hs hl).trans (if_pos h64))
    · exact gives rfl ((retransmit_of ho hh hs hl).trans (if_neg (Nat.not_le.mpr h64)))
    · have hgo : s.blk.retransmit s.dram i seq.toNat = (s.blk.pathExpiry i o.path).resend i seq.toNat true := (retransmit_of ho hh hs hl).trans (if_neg (Nat.not_le.mpr h64))
      rw [pathExpiry_counted hx] at hgo
      generalize hc : ({ s.blk.conn i with expiries := tset (s.blk.conn i).expiries o.path (tget 0 (s.blk.conn i).expiries o.path + 1) } : Conn) = c2 at hgo
      have hconn : (s.blk.setConn i c2).conn i = c2 := Block.conn_setConn ..
      obtain ⟨sent, hout, hbytes, hport, hdst, hmap⟩ := resend_sends (b := s.blk.setConn i c2) (i := i) (seq := seq.toNat) (o := o) (path := path)
        (by rw [hconn, ← hc]; exact ho) (by rw [hconn, ← hc]; exact hl) (by rw [hconn, ← hc]; exact hp)
      refine ⟨_, sent, gives rfl hgo, hout, hbytes, hport, ?_, ?_⟩
      · rw [hdst, hconn, ← hc]
      · rw [hmap, hconn, ← hc]
    · intro rest sent ended
      exact ⟨fun h => gives rfl (sendAgain_sends ho hh (decide_eq_false (Nat.not_le.mpr h))), fun h => gives rfl (sendAgain_gives ho hh (decide_eq_true h)),
        gives rfl (sendAgain_sends ho hh rfl), gives rfl (sendAgain_gives ho hh rfl)⟩
    · exact gives rfl (if_neg (by simpa using ⟨hh, hs⟩))
    · exact gives rfl ((connectRetry_of ho hl hs hh).trans (if_pos rfl))
    · exact gives rfl ((connectRetry_of ho hl hs hh).trans ((if_neg Bool.false_ne_true).trans (if_pos hp)))
    · exact gives rfl ((connectRetry_of ho hl hs hh).trans ((if_neg Bool.false_ne_true).trans (if_neg (ne_true_of_eq_false hp))))
    · exact gives rfl (if_neg (ne_true_of_eq_false hh))
    · have hconn : s.blk.conn 0 = c := by
        unfold Block.conn
        rw [hc]
        rfl
      refine gives rfl ((if_neg (ne_true_of_eq_false hh)).trans ?_)
      rw [hc]
      refine (if_pos ?_).trans ?_
      · rw [hconn]
        exact hk
      · rw [hconn]
    · exact gives rfl (if_neg (ne_true_of_eq_false hh))
    · exact gives rfl (if_neg (by rw [hn]; exact Bool.false_ne_true))
    · exact gives rfl (if_pos hn)
  · intro m b k cause c ho hl hs h1 h2 h3 h4 h5 hc b'
    obtain ⟨b1, hleaves, hstate, hrefused, hb⟩ := declareLost_quiet m (cause := cause) ho hl hs ⟨h1, h2, h3, h4, h5⟩ hc
    obtain ⟨rd, tb, hd⟩ := dropPeer_drops b1 k
    have hall : LeavesRest k b b' := by
      rw [show b' = b1.dropPeer k from hb]
      exact hleaves.trans (dropPeer_leaves b1 k k)
    have hb' : b' = _ := hb.trans hd
    refine ⟨?_, ?_, ?_, ?_, hall.conns, hall.cells, hall.sigs, hall.racks, hall.sregs⟩
    · rw [hb']
      exact hstate
    · rw [hb']
      intro x hx hown
      simp [hown] at hx
    · rw [hb']
      intro x hx hown
      simp [hown] at hx
    · rw [hb']
      exact hrefused

end Sys2Proof.Proofs
end

section
/-!
SUPPORT. Ports, chain and sweep timeouts, and device time (R281, R290, R298, R299, R302, R303, R347, R385).
-/
namespace Sys2Proof.Proofs
open Sys2Proof.Machine Sys2Proof.Claims

/-! ### Events leave a trigger that is due -/

section
variable (b : Block)

theorem trigger_countPort (p n : Nat) : (b.countPort p n).cnt.trigger = b.cnt.trigger := by
  unfold Block.countPort
  split <;> rfl

theorem trigger_setRing (r : Nat) (g : Ring) : (b.setRing r g).cnt.trigger = b.cnt.trigger := rfl

theorem trigger_raiseRing (r : Nat) : (b.raiseRing r).cnt.trigger = b.cnt.trigger := rfl

theorem trigger_writeCpl (r e : Nat) : (b.writeCpl r e).cnt.trigger = b.cnt.trigger := by
  unfold Block.writeCpl
  dsimp only
  split
  · rfl
  · exact trigger_countPort _ 65 _

theorem trigger_drainEvents (r : Nat) : (b.drainEvents r).cnt.trigger = b.cnt.trigger := by
  unfold Block.drainEvents iter
  refine foldl_keeps (f := fun b : Block => b.cnt.trigger) (g := _) ?_ (List.range 256) b
  intro b _
  dsimp only
  split
  · rfl
  · split
    · rw [trigger_raiseRing, trigger_writeCpl, trigger_setRing]
    · rfl

theorem postEvent_ptp (r code v : Nat) : (b.postEvent r code v).ptp = b.ptp := by
  obtain ⟨g, o, x, n, h⟩ := RingsOnly.postEvent b r code v
  rw [h]

theorem trigger_postEvent (r code v : Nat) : (b.postEvent r code v).cnt.trigger = b.cnt.trigger := by
  unfold Block.postEvent
  dsimp only
  split
  · rw [trigger_drainEvents, trigger_setRing]
  · rw [trigger_setRing]

end

/-! ### Ports -/

section
variable {b : Block} {port : Nat} {lane : Bool}

/-- The block once a port that went down is recorded. -/
def portLost (b : Block) (port : Nat) (lane : Bool) : Block :=
  (b.modPort port fun p => { p with linkUp := false, paused := false }).record { severity := 0, cls := 0x0A, unitKind := 4, unit := port, info := if lane then 1 else 2 }

/-- What a port that goes down does to one connection. -/
def dropPaths (port : Nat) (b : Block) (e : Nat × Conn) : Block :=
  let c := b.conn e.1
  if c.isOpen = true ∧ c.loop = false then
    (c.out.filter fun o => o.path % 8 == port).foldl (fun b o => b.resend e.1 o.pkt.seq false)
      ((b.setConn e.1 { c with downPaths := dedup (c.downPaths ++ (List.range 32).filter fun p => p % 8 == port) }).publishPeer e.1)
  else b

theorem portDown_drops (hh : b.hubLost = false) (hl : (b.port port).linkUp = true) :
    b.portDown port lane = (portLost b port lane).conns.foldl (dropPaths port) (portLost b port lane) := by
  have hgo : ¬ ((b.hubLost || !(b.port port).linkUp) = true) := by simp [hh, hl]
  refine (if_neg hgo).trans ?_
  refine congrArg (fun g => (portLost b port lane).conns.foldl g (portLost b port lane)) (funext fun b => funext fun e => ?_)
  unfold dropPaths
  dsimp only
  by_cases hc : (b.conn e.1).isOpen = true ∧ (b.conn e.1).loop = false
  · refine (if_neg ?_).trans (if_pos hc).symm
    obtain ⟨ho, hlp⟩ := hc
    simp [ho, hlp]
  · refine (if_pos ?_).trans (if_neg hc).symm
    cases ho : (b.conn e.1).isOpen
    · rfl
    · cases hlp : (b.conn e.1).loop
      · exact absurd (And.intro ho hlp) hc
      · rfl

theorem portLost_conns (b : Block) (port : Nat) (lane : Bool) : (portLost b port lane).conns = b.conns := (Logs.record _ _).conns

variable {prio : Nat} {pause other : Bool}

theorem pfcFrame_counted (hh : b.hubLost = false) (hl : (b.port port).linkUp = true) (h : other = true ∨ (b.port port).pfcEn = false ∨ (b.port port).pfcPrio ≠ prio) :
    b.pfcFrame port prio pause other = b.countPort (66 + port) 64 := by
  have hcnt : ¬ ((!(b.port port).linkUp || b.hubLost) = true) := by simp [hh, hl]
  have hno : (other || !(b.port port).pfcEn || (b.port port).pfcPrio != prio || !(b.port port).linkUp || b.hubLost) = true ↔ True := by
    rcases h with h | h | h <;> simp [h]
  obtain ⟨t, ht⟩ := countPort_cnt b (66 + port) 64
  unfold Block.pfcFrame
  simp only [if_neg hcnt, ht]
  exact if_pos (hno.mpr trivial)

theorem pfcFrame_acts (hh : b.hubLost = false) (hl : (b.port port).linkUp = true) (he : (b.port port).pfcEn = true) (hp : (b.port port).pfcPrio = prio) :
    b.pfcFrame port prio pause false = (fun b : Block => if pause = true then b else b.conns.foldl (fun b e => b.pump e.1) b)
      ((b.countPort (66 + port) 64).modPort port fun p => { p with paused := pause }) := by
  have hcnt : ¬ ((!(b.port port).linkUp || b.hubLost) = true) := by simp [hh, hl]
  obtain ⟨t, ht⟩ := countPort_cnt b (66 + port) 64
  unfold Block.pfcFrame
  simp only [if_neg hcnt, ht]
  exact if_neg (by simp [hh, hl, he, hp])

theorem pfcFrame_down (hl : (b.port port).linkUp = false) : b.pfcFrame port prio pause other = b := by
  unfold Block.pfcFrame
  simp [hl]

end

/-! ### Timeouts and time -/

section
variable {b : Block}

theorem sweepAt_last {x : Sweep} (hl : (chainDesc x.desc.toNat).last = true) (ht : b.cnt.trigger = none) (hw : b.cnt.writing = none) :
    b.sweepAt x true = (({ b with
      cnt := { b.cnt with trigger := some { triggers := 12, tag := x.number, instant := b.time + 2000, waiters := [] } }
      sweeps := eraseFirst (· == x) b.sweeps } : Block).sweepEvent x.ctx x.number true) := by
  unfold Block.sweepAt
  simp only [snapTrigger_first ht hw]
  exact if_pos hl

/-- The servo's own fields after an update: the flag rises at an unlocked or large offset, and falls after eight small ones. -/
theorem servo_flag (p : Ptp) (locked : Bool) (mag : Nat) :
    (if (!locked || decide (1000 < mag)) = true then true
      else if 8 ≤ (if (locked && decide (mag ≤ 500)) = true then p.good + 1 else 0) then false else p.timeFlag) = true ↔
      locked = false ∨ 1000 < mag ∨ (p.timeFlag = true ∧ ¬(mag ≤ 500 ∧ 8 ≤ p.good + 1)) := by
  cases locked
  · simp
  · by_cases hbig : 1000 < mag
    · simp [hbig]
    · by_cases hsmall : mag ≤ 500
      · simp only [hsmall, decide_true, Bool.and_true, if_true, hbig, decide_false, Bool.not_true, Bool.or_false, Bool.false_eq_true, if_false, true_and,
          false_or, reduceCtorEq]
        by_cases h8 : 8 ≤ p.good + 1
        · simp [h8]
        · simp [h8]
      · simp [hbig, hsmall]

end

/-! ### Servo updates and edges -/

section
variable {b : Block} {offset : Int} {locked : Bool}

/-- The servo's own fields after an update (R298, R299). -/
def servoFields (p : Ptp) (offset : Int) (locked : Bool) : Ptp :=
  let o := clampI (-(2 ^ 31)) (2 ^ 31 - 1) offset
  let good := if locked && decide (o.natAbs ≤ 500) then p.good + 1 else 0
  { p with offsetNs := o, locked, good
           timeFlag := if !locked || decide (1000 < o.natAbs) then true else if 8 ≤ good then false else p.timeFlag
           offsetWarn := p.offsetWarn || decide (100 < o.natAbs) }

/-- The block once the servo has set its fields and moved time. -/
def servoSet (b : Block) (offset : Int) (locked : Bool) : Block :=
  let b : Block := { b with
    ptp := servoFields b.ptp offset locked
    cnt := { b.cnt with windowFlag := b.cnt.windowFlag || (servoFields b.ptp offset locked).timeFlag } }
  let step := Config.servoStep b.freeCtr
  { b.bumpFree with time := trunc 64 ((b.time : Int) + step) }

theorem servoUpdate_eq (b : Block) (offset : Int) (locked : Bool) : b.servoUpdate offset locked =
    if decide (100 < (servoFields b.ptp offset locked).offsetNs.natAbs) && !b.ptp.offsetWarn then
      (servoSet b offset locked).postEvent 0 0x2002 (trunc 64 (servoFields b.ptp offset locked).offsetNs) else servoSet b offset locked := rfl

theorem servoSet_ptp (b : Block) (offset : Int) (locked : Bool) : (servoSet b offset locked).ptp = servoFields b.ptp offset locked := rfl
theorem servoSet_trigger (b : Block) (offset : Int) (locked : Bool) : (servoSet b offset locked).cnt.trigger = b.cnt.trigger := rfl

/-- An update leaves its fields, and everything else but time, the window's flag, the free counter and the event of a first warning. -/
theorem servoUpdate_leaves (b : Block) (offset : Int) (locked : Bool) :
    (b.servoUpdate offset locked).ptp = servoFields b.ptp offset locked ∧ (b.ptp.offsetWarn = true → (b.servoUpdate offset locked).rings = b.rings ∧ (b.servoUpdate offset locked).msix = b.msix) ∧
      (b.servoUpdate offset locked).cnt.trigger = b.cnt.trigger := by
  rw [servoUpdate_eq]
  split
  · rename_i hwarn
    refine ⟨(postEvent_ptp ..).trans (servoSet_ptp ..), fun hw => ?_, (trigger_postEvent ..).trans (servoSet_trigger ..)⟩
    rw [hw] at hwarn
    simp at hwarn
  · exact ⟨servoSet_ptp .., fun _ => ⟨rfl, rfl⟩, servoSet_trigger ..⟩

variable {t now : Nat}

theorem ppsEdge_early (ht : b.ptp.lastEdge = some t) (h : b.time < t + 500000000) : b.ppsEdge = b := by
  unfold Block.ppsEdge
  simp [ht, h]

/-- An edge that is not early is accepted. -/
theorem ppsEdge_accepted (hh : b.hubLost = false) (ht : ∀ t, b.ptp.lastEdge = some t → t + 500000000 ≤ b.time)
    (hnow : (if b.ptp.source = 8 then (b.time + 500000000) / 1000000000 * 1000000000 % 2 ^ 64 else b.time) = now) :
    b.ppsEdge = if b.cnt.ppsEn = true then (({ b with time := now, ptp := { b.ptp with lastEdge := some now } } : Block).snapTrigger .pps 0 []).2
      else { b with time := now, ptp := { b.ptp with lastEdge := some now } } := by
  subst hnow
  unfold Block.ppsEdge
  cases hl : b.ptp.lastEdge with
  | none => exact if_neg (by simp [hh])
  | some t =>
    have hlate : ¬ b.time < t + 500000000 := Nat.not_lt.mpr (ht t hl)
    exact if_neg (by simp [hh, hlate])

end

/-- Settles O51: ports, pauses, timeouts and device time. -/
theorem portsTimeoutsAndTime : Obligations.PortsTimeoutsAndTime := by
  intro port s b p hh
  refine ⟨fun lane hl hc => ?_, fun lane hl => ?_, fun lane hl => ?_, fun hp => ?_, fun h3 h4 => ?_, fun prio pause => ?_, fun addr mac => ?_, fun k ch hk => ?_,
    fun k x hk => ?_, fun x hl ht hw => sweepAt_last hl ht hw, fun offset locked => ?_, fun hs hl hp => ?_, fun hp => ?_, fun t ht hlt => ?_, fun ht => ?_⟩
  · refine gives rfl ((portDown_drops hh hl).trans ?_)
    rw [portLost_conns, hc]
    rfl
  · exact gives rfl (portDown_drops hh hl)
  · exact gives rfl (if_pos (by simpa using .inr hl))
  · exact gives rfl (if_pos (.inr hp))
  · exact gives rfl (if_neg (by rintro (h | h | h); exacts [absurd (hh.symm.trans h) Bool.false_ne_true, h3 h, h4 h]))
  · intro t
    refine ⟨fun hl other => gives rfl (pfcFrame_down hl), fun hl => gives rfl (pfcFrame_counted hh hl (.inl rfl)),
      fun hl hn => gives rfl (pfcFrame_counted hh hl (.inr hn)), fun he hp hl => ⟨gives rfl ((pfcFrame_acts hh hl he hp).trans (if_pos rfl)), ?_⟩⟩
    intro freed
    exact gives rfl ((pfcFrame_acts hh hl he hp).trans (if_neg Bool.false_ne_true))
  · exact gives rfl (if_neg (ne_true_of_eq_false hh))
  · refine ⟨fun hsil => gives rfl ?_, fun hsil => gives rfl ?_⟩
    · simp only [show s.blk.chains[k]? = some ch from hk]
      exact if_pos (by simpa using ⟨hsil, hh⟩)
    · simp only [show s.blk.chains[k]? = some ch from hk]
      exact if_neg (by simp [hsil])
  · refine gives rfl ?_
    simp only [show s.blk.sweeps[k]? = some x from hk]
    exact if_neg (ne_true_of_eq_false hh)
  · intro o t
    obtain ⟨hptp, hquiet, htrig⟩ := servoUpdate_leaves s.blk offset locked
    refine ⟨_, gives rfl (if_neg (ne_true_of_eq_false hh)), ?_, ?_, ?_, ?_, hquiet, htrig⟩
    · rw [hptp]
      rfl
    · rw [hptp]
      rfl
    · rw [hptp]
      exact servo_flag s.blk.ptp locked o.natAbs
    · rw [hptp]
      simp only [servoFields, Bool.or_eq_true, decide_eq_true_eq]
      exact Iff.rfl
  · refine gives rfl (if_neg ?_)
    rintro (h | h | h | h)
    · exact absurd (hh.symm.trans h) Bool.false_ne_true
    · exact absurd hs (Nat.not_lt.mpr h)
    · exact absurd (hl.symm.trans h) Bool.false_ne_true
    · exact absurd (h.symm.trans hp) Bool.false_ne_true
  · exact gives rfl (if_pos (.inr (.inr (.inr hp))))
  · exact gives rfl (ppsEdge_early ht hlt)
  · intro now
    refine ⟨fun he => gives rfl ((ppsEdge_accepted hh ht rfl).trans (if_neg (ne_true_of_eq_false he))), fun he htr hw => gives rfl ((ppsEdge_accepted hh ht rfl).trans ((if_pos he).trans ?_))⟩
    exact congrArg Prod.snd (snapTrigger_first (b := { s.blk with time := now, ptp := { s.blk.ptp with lastEdge := some now } }) htr hw)

end Sys2Proof.Proofs
end

section
/-!
SUPPORT. The gouge engine's events: batches and rows, replica sets, table epochs and tag stores (R114 to R116, R127, R128, R158 to R163).
-/
namespace Sys2Proof.Proofs
open Sys2Proof.Machine Sys2Proof.Claims

section
variable {s : State} {b b0 b1 b' : Block} {m : Dram} {p k : Nat} {q : QCmd} {g : GatherRun} {r r' : RowReq} {bs : List Byte} {st : Status}

/-! ### Rows that return -/

/-- A row whose request stands as it was is expanded with the gather as it was. -/
theorem keepReqs (g : GatherRun) (r : RowReq) :
    ({ g with observed := max g.observed 0, reqs := [] ++ g.reqs.map fun y => if y = r then r else y } : GatherRun) = g := by
  have hid : (g.reqs.map fun y => if y = r then r else y) = g.reqs := by
    refine (List.map_congr_left fun y _ => ?_).trans (List.map_id _)
    by_cases hy : y = r
    · rw [if_pos hy, hy]
      rfl
    · rw [if_neg hy]
      rfl
  rw [Nat.max_zero, List.nil_append, hid]

/-- The policy under which a row of device memory, of a replica set or of the host is read (R116). -/
def ReadsWith (g : GatherRun) (r : RowReq) (pol : Alloc) : Prop :=
  (r.kind = .home ∧ pol = (if (tableDesc g.desc.toNat).stream then Alloc.none else .reuse)) ∨ (r.kind = .burl ∧ pol = .burl) ∨ (r.kind = .host ∧ pol = .none)

theorem rowReturn_read {pol : Alloc} (hg : (b.spd p).gather = some (q, g)) (hk : (g.reqs.take 1024)[k]? = some r) (hp : ReadsWith g r pol)
    (hr : readDev m b p q r.addr r.len pol = .ok (bs, b1)) : b.rowReturn m p k = b1.expandRow m p q g r bs := by
  refine Eq.trans ?_ (congrArg (fun g => b1.expandRow m p q g r bs) (keepReqs g r))
  unfold Block.rowReturn
  rcases hp with ⟨hkind, rfl⟩ | ⟨hkind, rfl⟩ | ⟨hkind, rfl⟩ <;> simp only [hg, hk, hkind, hr] <;> rfl

theorem rowReturn_readFault {pol : Alloc} (hg : (b.spd p).gather = some (q, g)) (hk : (g.reqs.take 1024)[k]? = some r) (hp : ReadsWith g r pol)
    (hr : readDev m b p q r.addr r.len pol = .error (.fault b1 st)) : b.rowReturn m p k = b1.gatherFault p q st := by
  unfold Block.rowReturn
  rcases hp with ⟨hkind, rfl⟩ | ⟨hkind, rfl⟩ | ⟨hkind, rfl⟩ <;> simp only [hg, hk, hkind, hr] <;> rfl

theorem rowReturn_versioned {seen : Nat} {more : List RowReq} (hg : (b.spd p).gather = some (q, g)) (hk : (g.reqs.take 1024)[k]? = some r)
    (hkind : r.kind = .versioned) (hr : versionedRow m b p q g (tableDesc g.desc.toNat) r = .ok (bs, seen, r', more, b1)) :
    b.rowReturn m p k = b1.expandRow m p q { g with observed := max g.observed seen, reqs := more ++ g.reqs.map fun y => if y = r then r' else y } r' bs := by
  unfold Block.rowReturn
  simp only [hg, hk, hkind, hr]

theorem rowReturn_versionedFault (hg : (b.spd p).gather = some (q, g)) (hk : (g.reqs.take 1024)[k]? = some r)
    (hkind : r.kind = .versioned) (hr : versionedRow m b p q g (tableDesc g.desc.toNat) r = .error (.fault b1 st)) :
    b.rowReturn m p k = b1.gatherFault p q st := by
  unfold Block.rowReturn
  simp only [hg, hk, hkind, hr]

theorem rowReturn_slot (hg : (b.spd p).gather = some (q, g)) (hk : (g.reqs.take 1024)[k]? = some r)
    (hkind : r.kind = .slot) (hr : slotPiece m b p q r.addr r.len = .ok (bs, b1)) : b.rowReturn m p k = b1.expandRow m p q g r bs := by
  refine Eq.trans ?_ (congrArg (fun g => b1.expandRow m p q g r bs) (keepReqs g r))
  unfold Block.rowReturn
  simp only [hg, hk, hkind, hr]
  rfl

theorem rowReturn_slotFault (hg : (b.spd p).gather = some (q, g)) (hk : (g.reqs.take 1024)[k]? = some r)
    (hkind : r.kind = .slot) (hr : slotPiece m b p q r.addr r.len = .error (.fault b1 st)) : b.rowReturn m p k = b1.gatherFault p q st := by
  unfold Block.rowReturn
  simp only [hg, hk, hkind, hr]
  rfl

theorem rowReturn_copy {a : Nat} (hg : (b.spd p).gather = some (q, g)) (hk : (g.reqs.take 1024)[k]? = some r)
    (hkind : r.kind = .burlCopy) (ha : copyAddr m b p (tileOf p) q (tableDesc g.desc.toNat) (g.burlSel.getD 0) r.addr = .ok (a, b0))
    (hr : readDev m b0 p q a r.len .none = .ok (bs, b1)) : b.rowReturn m p k = b1.expandRow m p q g r bs := by
  refine Eq.trans ?_ (congrArg (fun g => b1.expandRow m p q g r bs) (keepReqs g r))
  unfold Block.rowReturn
  simp only [hg, hk, hkind, ha, hr, bind, Except.bind]
  rfl

theorem rowReturn_peer (hg : (b.spd p).gather = some (q, g)) (hk : (g.reqs.take 1024)[k]? = some r) (hkind : r.kind = .peer ∨ r.kind = .peerTag) :
    b.rowReturn m p k = b := by
  unfold Block.rowReturn
  rcases hkind with hkind | hkind <;> simp only [hg, hk, hkind]

theorem rowReturn_unknown (hg : (b.spd p).gather = some (q, g)) (hk : (g.reqs.take 1024)[k]? = none) : b.rowReturn m p k = b := by
  unfold Block.rowReturn
  simp only [hg, hk]

theorem rowReturn_idle (hg : (b.spd p).gather = none) : b.rowReturn m p k = b := by
  unfold Block.rowReturn
  simp only [hg]

/-! ### Replica sets -/

/-- The rows of a table's replica set with their home addresses. -/
def burlRows (d : TableDesc) : List (Nat × Nat) := (List.range d.burlCount).map fun i => (i, d.homeLocal + i * d.stride)

/-- The host-window bytes that the copy of a replica set still needs. -/
def burlNeeds (b : Block) (q : QCmd) (d : TableDesc) : List (Nat × Nat) := if d.remote then [] else b.hostNeeds q ((burlRows d).map fun r => (r.2, d.rowBytes))

/-- The set's old lines leave the burl partitions, where the set is one copy in memory. -/
def burlCleared (b : Block) (d : TableDesc) (set : Nat) : Block :=
  if d.burlMode = 1 then [0, 1, 2, 3].foldl (fun b t => b.burlInvalidate t (d.repBase + set * d.repSetBytes) (d.burlCount * d.stride)) b else b

/-- The requests for the rows of a set whose home is a peer. -/
def burlReqs (d : TableDesc) : List RowReq := (burlRows d).flatMap fun r => (granulePieces r.2 d.rowBytes).map fun x =>
  { row := r.1, kind := .peer, addr := r.2 + x.1, off := x.1, len := x.2 }

section
variable {idx da set x : Nat} {reqs : List RowReq} {b2 : Block} (hg : (b.spd p).gouge = some (.burl idx da set false reqs))
  (hq : (b.spd p).gougeQ.find? (fun q => q.idx == idx) = some q) (hd : readDesc m b p q da = .ok (x, b0))
include hg hq hd

theorem burlRefresh_waits (h : q.hostWait = true ∨ b.burlCount (tableDesc x).tableId set ≠ 0) : b.burlRefresh m p = b := by
  unfold Block.burlRefresh
  simp only [hg, hq, hd]
  exact if_pos h

theorem burlRefresh_asks (hw : q.hostWait = false) (hc : b.burlCount (tableDesc x).tableId set = 0) (hn : burlNeeds b q (tableDesc x) ≠ []) :
    b.burlRefresh m p = b.askHost p .gouge q (burlNeeds b q (tableDesc x)) := by
  have hno : ¬ (q.hostWait = true ∨ b.burlCount (tableDesc x).tableId set ≠ 0) := by simp [hw, hc]
  unfold Block.burlRefresh
  simp only [hg, hq, hd]
  exact (if_neg hno).trans (if_pos hn)

theorem burlRefresh_copies (hw : q.hostWait = false) (hc : b.burlCount (tableDesc x).tableId set = 0) (hn : burlNeeds b q (tableDesc x) = [])
    (hr : (tableDesc x).remote = false)
    (hf : (burlRows (tableDesc x)).foldlM (fun b r => do
        let (bs, b) ← readDev m b p q r.2 (tableDesc x).rowBytes (if (tableDesc x).stream then .none else .reuse)
        burlCopy m b p q (tableDesc x) set r.1 0 bs) (burlCleared b0 (tableDesc x) set) = (.ok b2 : Eff Block)) :
    b.burlRefresh m p = b2.burlFinish m p q da set := by
  have hno : ¬ (q.hostWait = true ∨ b.burlCount (tableDesc x).tableId set ≠ 0) := by simp [hw, hc]
  unfold Block.burlRefresh
  simp only [hg, hq, hd]
  refine (if_neg hno).trans ((if_neg fun h => h hn).trans ((if_neg (ne_true_of_eq_false hr)).trans ?_))
  unfold burlRows burlCleared at hf
  simp only [hf]

theorem burlRefresh_sends {sent : List RowReq} (hw : q.hostWait = false) (hc : b.burlCount (tableDesc x).tableId set = 0) (hr : (tableDesc x).remote = true)
    (hl : (burlCleared b0 (tableDesc x) set).launchRows p idx (tableDesc x).peer (burlReqs (tableDesc x)) = (none, sent, b2)) (hs : sent ≠ []) :
    b.burlRefresh m p = b2.modSpd p fun x => { x with gouge := some (.burl idx da set true sent) } := by
  have hno : ¬ (q.hostWait = true ∨ b.burlCount (tableDesc x).tableId set ≠ 0) := by simp [hw, hc]
  unfold Block.burlRefresh
  simp only [hg, hq, hd]
  refine (if_neg hno).trans ((if_neg fun h => h (if_pos hr)).trans ((if_pos hr).trans ?_))
  unfold burlReqs burlRows burlCleared at hl
  simp only [hl]
  exact if_neg hs

end

/-! ### Table epochs (R163) -/

/-- The advance ends. -/
def advanceEnded (b : Block) (p idx : Nat) : Block := (b.modSpd p fun s => { s with gouge := none }).markDone p .gouge idx

/-- The table epoch is stored, a forced advance clears the lost mark, and the descriptor's lines leave the die caches. -/
def epochStored (m : Dram) (b : Block) (p da t : Nat) (force : Bool) (d : TableDesc) : Block :=
  let src := b.memSrc p
  let b := b.tileMemSide m (tileOf p) .store 0xD src (da + 104) (leBytes 8 t)
  let b := if force then b.tileMemSide m (tileOf p) .store 0 src (da + 80) (slice (leBytes 128 (setBits d.raw 669 669 0)) 80 4) else b
  [0, 1, 2, 3].foldl (fun b k => b.dcRange m k 1 da 128) b

section
variable {idx da t : Nat} {force : Bool} {d : TableDesc} {b2 : Block} (hg : (b.spd p).gouge = some (.advance idx da t force))
  (hq : (b.spd p).gougeQ.find? (fun q => q.idx == idx) = some q) (hd : descNow m b p da = .ok (d, b0))
include hg hq hd

theorem vadvance_old (ht : t ≤ d.epoch) : b.vadvancePublish m p = advanceEnded b0 p idx := by
  unfold Block.vadvancePublish
  simp only [hg, hq, hd]
  exact if_pos ht

theorem vadvance_waits (ht : d.epoch < t) (hr : b0.readerCount d.tableId (d.epoch + 1) ≠ 0) : b.vadvancePublish m p = b0 := by
  unfold Block.vadvancePublish
  simp only [hg, hq, hd]
  exact (if_neg (Nat.not_le.mpr ht)).trans (if_pos hr)

theorem vadvance_flips (ht : d.epoch < t) (hr : b0.readerCount d.tableId (d.epoch + 1) = 0)
    (hw : walkHold m (epochStored m b0 p da t force d) p (b0.memSrc p) d t = .ok b2) : b.vadvancePublish m p = advanceEnded b2 p idx := by
  unfold Block.vadvancePublish
  simp only [hg, hq, hd]
  refine (if_neg (Nat.not_le.mpr ht)).trans ((if_neg fun h => h hr).trans ?_)
  unfold epochStored at hw
  simp only [hw]
  rfl

theorem vadvance_faults (ht : d.epoch < t) (hr : b0.readerCount d.tableId (d.epoch + 1) = 0)
    (hw : walkHold m (epochStored m b0 p da t force d) p (b0.memSrc p) d t = .error (.fault b2 st)) :
    b.vadvancePublish m p = (b2.modSpd p fun s => { s with gouge := none }).cmdFault p .gouge q st := by
  unfold Block.vadvancePublish
  simp only [hg, hq, hd]
  refine (if_neg (Nat.not_le.mpr ht)).trans ((if_neg fun h => h hr).trans ?_)
  unfold epochStored at hw
  simp only [hw]

end

/-! ### Tag stores (R162) -/

theorem rowTagStore_waits {t : TagStore} (ht : b.tagStores[k]? = some t)
    (h : b.unaccepted t.slotAddr t.slotLen = true ∨ ∃ u ∈ b.tagStores.take k, u.tagAddr = t.tagAddr) : b.rowTagStore m k = b := by
  unfold Block.rowTagStore
  simp only [ht]
  refine if_pos (h.imp_right fun ⟨u, hu, he⟩ => ?_)
  exact List.any_eq_true.mpr ⟨u, hu, beq_iff_eq.mpr he⟩

theorem rowTagStore_stores {t : TagStore} (ht : b.tagStores[k]? = some t) (ha : b.unaccepted t.slotAddr t.slotLen = false)
    (hn : ∀ u ∈ b.tagStores.take k, u.tagAddr ≠ t.tagAddr) :
    b.rowTagStore m k = ({ b with tagStores := b.tagStores.eraseIdx k } : Block).tileMemSide m (tileOf t.spindle) .store 0xD t.src t.tagAddr (leBytes 8 t.tag.toNat) := by
  have hno : ¬ (b.unaccepted t.slotAddr t.slotLen = true ∨ (b.tagStores.take k).any (fun u => u.tagAddr == t.tagAddr) = true) := by
    rintro (h | h)
    · exact absurd (ha.symm.trans h) Bool.false_ne_true
    · obtain ⟨u, hu, he⟩ := List.any_eq_true.mp h
      exact hn u hu (beq_iff_eq.mp he)
  unfold Block.rowTagStore
  simp only [ht]
  exact if_neg hno

/-! ### The events -/

/-- An event of the gouge engine acts under `orWait` where the clocks run. -/
theorem clocked_acts {i : Instr} {f : Block → Block} (hx : exec i s = nextOf s (if s.blk.clocked = true then s.blk.orWait f else s.blk))
    (hc : s.blk.clocked = true) (hf : f s.blk = b') : Served i s b' :=
  served (hx.trans (congrArg (nextOf s) (if_pos hc))) (orWait_eq hf)

theorem clocked_same {i : Instr} {f : Block → Block} (hx : exec i s = nextOf s (if s.blk.clocked = true then s.blk.orWait f else s.blk))
    (hc : s.blk.clocked = true) (hf : f s.blk = s.blk) : Gives i s s.blk :=
  gives hx ((if_pos hc).trans (orWait_same hf))

end

section
variable {s : State} {p : Spd} {q : QCmd} {g : GatherRun}

/-- The sizer works on the gather in progress. -/
theorem sizer_runs (hc : s.blk.clocked = true) (hg : (s.blk.spd p).gather = some (q, g)) :
    exec (.sizerBatchSorted p) s = nextOf s (s.blk.orWait fun b => b.sizerBatch s.dram p q g) := by
  refine congrArg (nextOf s) ((if_neg (by simp [hc])).trans ?_)
  simp only [hg]

theorem sizer_idle (hc : s.blk.clocked = true) (hg : (s.blk.spd p).gather = none) : Gives (.sizerBatchSorted p) s s.blk := by
  refine gives rfl ((if_neg (by simp [hc])).trans ?_)
  simp only [hg]

end

/-- Settles O52: batches, rows, replica sets, table epochs and tag stores, each by the state that its event meets. -/
theorem gougeEvents : Obligations.GougeEvents := by
  intro p s b spd hc
  have row (k : Nat) {b' : Block} (h : s.blk.rowReturn s.dram p k = b') : Served (.rowRequestReturn p k) s b' := clocked_acts rfl hc h
  refine ⟨?_, fun hg => ⟨sizer_idle hc hg, fun k => clocked_same rfl hc (rowReturn_idle hg)⟩, ?_, ?_, fun k t ht => ⟨fun h => ?_, fun ha hn => ?_⟩⟩
  · intro q g hg d
    refine ⟨served (sizer_runs hc hg) (orWait_eq rfl), fun hn => gives (sizer_runs hc hg) (orWait_same (if_pos hn)), fun k r hk => ?_,
      fun k hk => clocked_same rfl hc (rowReturn_unknown hg hk)⟩
    exact ⟨fun pol hp => ⟨fun bs b1 h => row k (rowReturn_read hg hk hp h), fun st b1 h => row k (rowReturn_readFault hg hk hp h)⟩,
      fun hkind => ⟨fun bs seen r' more b1 h => row k (rowReturn_versioned hg hk hkind h), fun st b1 h => row k (rowReturn_versionedFault hg hk hkind h)⟩,
      fun hkind => ⟨fun bs b1 h => row k (rowReturn_slot hg hk hkind h), fun st b1 h => row k (rowReturn_slotFault hg hk hkind h)⟩,
      fun hkind a b0 bs b1 ha h => row k (rowReturn_copy hg hk hkind ha h), fun hkind => clocked_same rfl hc (rowReturn_peer hg hk hkind)⟩
  · intro q idx da set reqs x b0 hg hq hd d rows needs b1
    refine ⟨fun h => clocked_same rfl hc (burlRefresh_waits hg hq hd h), fun hw hcount => ⟨fun hn => clocked_acts rfl hc (burlRefresh_asks hg hq hd hw hcount hn),
      fun hn hr b2 hf => clocked_acts rfl hc (burlRefresh_copies hg hq hd hw hcount hn hr hf),
      fun hr sent b2 hl hs => clocked_acts rfl hc (burlRefresh_sends hg hq hd hw hcount hr hl hs)⟩⟩
  · intro q idx da t force d b0 hg hq hd ended src told freed fresh
    exact ⟨fun ht => clocked_acts rfl hc (vadvance_old hg hq hd ht), fun ht hr => clocked_acts rfl hc (vadvance_waits hg hq hd ht hr),
      fun ht hr => ⟨fun b2 hw => clocked_acts rfl hc (vadvance_flips hg hq hd ht hr hw), fun b2 st hw => clocked_acts rfl hc (vadvance_faults hg hq hd ht hr hw)⟩⟩
  · exact gives rfl (orWait_same (rowTagStore_waits ht h))
  · exact served rfl (orWait_eq (rowTagStore_stores ht ha hn))

end Sys2Proof.Proofs
end

section
/-!
SUPPORT. BAR2, functions, link changes and the host window (R22, R23, R238, R239, R308, R310, R366).
-/
namespace Sys2Proof.Proofs
open Sys2Proof.Machine Sys2Proof.Claims

section
variable {b b1 : Block} {m : Dram} {fn off len a : Nat} {bs : List Byte} {st : Status} {ep : Bool}

/-! ### BAR2 -/

theorem bar2Read_dead (hf : b.fnLive fn = false) : b.bar2Read m fn off len = b := if_pos (by simp [hf])

theorem bar2Read_ur (hf : b.fnLive fn = true) (ha : b.bar2Addr fn off len = none) : b.bar2Read m fn off len = { b with resp := { ur := true } } := by
  refine (if_neg (by simp [hf])).trans ?_
  simp only [ha]

theorem bar2Read_data (hf : b.fnLive fn = true) (ha : b.bar2Addr fn off len = some a) (hr : hubRead m b.ungate a len = (.success, bs, b1)) :
    b.bar2Read m fn off len = { b1.countPort 65 len with resp := { data := bs } } := by
  refine (if_neg (by simp [hf])).trans ?_
  simp only [ha, hr]
  exact if_pos trivial

/-- A failed read answers unspecified bytes, with EP set. -/
theorem bar2Read_poisoned (hf : b.fnLive fn = true) (ha : b.bar2Addr fn off len = some a) (hr : hubRead m b.ungate a len = (st, bs, b1)) (hst : st ≠ .success) :
    b.bar2Read m fn off len = { (b1.countPort 65 len).bumpFree with resp := { status := st, ep := true, data := (List.range len).map fun i => Config.freeBar2Byte (b1.countPort 65 len).freeCtr i } } := by
  refine (if_neg (by simp [hf])).trans ?_
  simp only [ha, hr]
  exact if_neg hst

theorem bar2Write_dead (hf : b.fnLive fn = false) : b.bar2Write fn off bs ep = b := if_pos (by simp [hf])

theorem bar2Write_empty : b.bar2Write fn off [] ep = b := if_pos (by simp)

/-- Counting a write leaves where it goes. -/
theorem bar2Addr_countPort (n k : Nat) : (b.countPort k n).bar2Addr fn off len = b.bar2Addr fn off len := by
  obtain ⟨t, ht⟩ := countPort_cnt b k n
  rw [ht]
  rfl

theorem bar2Write_missed (hf : b.fnLive fn = true) (hd : bs ≠ []) (ha : b.bar2Addr fn off bs.length = none) :
    b.bar2Write fn off bs ep = { b.countPort 64 bs.length with bar2Err := true } := by
  refine (if_neg (by simp [hf, hd])).trans ?_
  simp only [bar2Addr_countPort, ha]

theorem bar2Write_sends (hf : b.fnLive fn = true) (hd : bs ≠ []) (ha : b.bar2Addr fn off bs.length = some a) :
    b.bar2Write fn off bs ep = (b.countPort 64 bs.length).ungate.sendBytes (if ep then .poison else .write) (.host fn) a bs := by
  refine (if_neg (by simp [hf, hd])).trans ?_
  simp only [bar2Addr_countPort, ha]

/-! ### Functions -/

theorem func_modFunc (b : Block) (n : Nat) (f : Func → Func) : (b.modFunc n f).func n = f (b.func n) := tget_tset_self ..
theorem func_modFunc_ne (b : Block) {n k : Nat} (f : Func → Func) (h : k ≠ n) : (b.modFunc n f).func k = b.func k := tget_tset_ne _ _ _ h

theorem func_enterD0 (b : Block) (n : Nat) : (b.enterD0 n).func n = { b.func n with d3hot := false } :=
  func_modFunc b n fun x => { x with d3hot := false }
theorem func_enterD0_ne (b : Block) {n k : Nat} (h : k ≠ n) : (b.enterD0 n).func k = b.func k :=
  func_modFunc_ne b (fun x => { x with d3hot := false }) h

/-- What the entry of functions into D0 leaves. -/
structure EntersD0 (n : Nat) (b b' : Block) : Prop where
  d0 : ∀ k, 1 ≤ k → k ≤ n → (b'.func k).d3hot = false
  vfs : b'.numVfs = b.numVfs
  wake : 0 < n → b'.wake = false
  ctxs : b'.ctxs = b.ctxs
  rings : b'.rings = b.rings

theorem enterD0_all (b : Block) (n : Nat) : EntersD0 n b ((List.range n).foldl (fun (b : Block) i => b.enterD0 (1 + i)) b) := by
  induction n with
  | zero => exact ⟨fun k h1 h0 => by omega, rfl, fun h => absurd h (Nat.lt_irrefl 0), rfl, rfl⟩
  | succ n ih =>
    obtain ⟨hd0, hvfs, -, hctxs, hrings⟩ := ih
    rw [List.range_succ, List.foldl_append, List.foldl_cons, List.foldl_nil]
    refine ⟨fun k h1 hk => ?_, hvfs, fun _ => rfl, hctxs, hrings⟩
    by_cases hkn : k = 1 + n
    · subst hkn
      rw [func_enterD0]
    · rw [func_enterD0_ne _ hkn]
      exact hd0 k h1 (by omega)

/-! ### The host window -/

variable {k : Nat} {h : HostRead} {data : List Byte}

theorem hostAnswer_ignored (hk : b.hostReads[k]? = some h)
    (hn : h.wr ≠ none ∨ data.length ≠ h.len ∨ (b.hostReads.take k).any (fun x => x.meets h) = true) : b.hostAnswer m k data = b := by
  unfold Block.hostAnswer
  simp only [hk]
  refine if_pos ?_
  rcases hn with hn | hn | hn
  · simp [Option.isSome_iff_ne_none.mpr hn]
  · simp [hn]
  · rw [hn]
    simp

/-- The block that has an answer: the read is no longer outstanding, its bytes are counted, and the writes behind it leave. -/
def hostAnswered (b : Block) (k : Nat) (data : List Byte) : Block :=
  (({ b with hostReads := b.hostReads.eraseIdx k } : Block).countPort 64 data.length).releaseWrites.hubSettle

theorem hostAnswer_answers (hk : b.hostReads[k]? = some h) (hh : b.hubUp = true) (hw : h.wr = none) (hl : data.length = h.len)
    (hm : (b.hostReads.take k).any (fun x => x.meets h) = false) :
    b.hostAnswer m k data = if h.spindle < 272 then ((hostAnswered b k data).hubLink (some (tileOf h.spindle)) false data.length).hostReadDone m h data
      else if h.spindle = jtagReader then (hostAnswered b k data).jtagAnswer h data
      else { hostAnswered b k data with hubBuf := tset (hostAnswered b k data).hubBuf h.spindle (storeBytes (tget [] (hostAnswered b k data).hubBuf h.spindle) h.haddr data) } := by
  unfold Block.hostAnswer
  simp only [hk]
  exact if_neg (by rw [hm]; simp [hh, hw, hl])

end

/-- Settles O53: BAR2, functions, link changes and the host window, each by its cases. -/
theorem hostFunctionsAndWindows : Obligations.HostFunctionsAndWindows := by
  intro fn off len data s b
  refine ⟨fun hf ep => ⟨gives rfl (bar2Read_dead hf), gives rfl (bar2Write_dead hf)⟩, fun hf ha => gives rfl (bar2Read_ur hf ha), fun hf a st bs b1 ha hr => ⟨fun hst => ?_, fun hst => ?_⟩,
    fun hd ep => ?_, fun hf hd ep => ⟨fun ha => gives rfl (bar2Write_missed hf hd ha), fun a ha => gives rfl (bar2Write_sends hf hd ha)⟩,
    fun hh he => ⟨gives rfl (if_pos ?_), fun hd => gives rfl (if_neg ?_), fun hd => gives rfl (if_pos ?_)⟩, fun n hh hn hv => ?_, fun n hn => gives rfl (if_neg ?_),
    fun gib hh => ⟨fun hg => gives rfl (if_pos ?_), fun hg => gives rfl (if_neg ?_)⟩, fun width speed hh => ⟨fun hn => gives rfl (if_neg ?_), fun hw hs => gives rfl (if_pos ?_)⟩,
    fun k h hk hh => ?_⟩
  · subst hst
    exact gives rfl (bar2Read_data hf ha hr)
  · exact ⟨_, _, gives rfl (bar2Read_poisoned hf ha hr hst), rfl, by rw [List.length_map, List.length_range]⟩
  · subst hd
    exact gives rfl bar2Write_empty
  · simpa using And.intro hh he
  · simp only [Bool.and_eq_true, not_and]
    exact fun _ hn => absurd (hd.symm.trans hn) Bool.false_ne_true
  · simp only [Bool.and_eq_true]
    exact ⟨⟨hh, he⟩, hd⟩
  · obtain ⟨hd0, hvfs, hwake, hctxs, hrings⟩ := enterD0_all ({ s.blk with numVfs := n.val } : Block) n.val
    refine ⟨_, gives rfl (if_pos ?_), hvfs, hd0, hwake hn, hctxs, hrings⟩
    simp only [Bool.and_eq_true, decide_eq_true_eq, beq_iff_eq]
    exact ⟨⟨hh, hn⟩, hv⟩
  · simp only [Bool.and_eq_true, decide_eq_true_eq, beq_iff_eq, not_and]
    rintro ⟨-, hpos⟩ hzero
    exact hn.elim (fun h => by omega) (fun h => h hzero)
  · simp only [Bool.and_eq_true]
    exact ⟨hh, List.contains_iff_mem.mpr hg⟩
  · simp only [Bool.and_eq_true, not_and]
    exact fun _ hc => hg (List.contains_iff_mem.mp hc)
  · have hh' : s.blk.hubUp = true := hh
    have hn' : (decide (width < s.blk.pcieWidth) || decide (speed < s.blk.pcieSpeed)) = true := by simpa using hn
    rw [hn', hh']
    exact Bool.false_ne_true
  · have hw' : ¬ width < s.blk.pcieWidth := Nat.not_lt.mpr hw
    have hs' : ¬ speed < s.blk.pcieSpeed := Nat.not_lt.mpr hs
    simp [hw', hs']
  · intro got
    refine ⟨fun hn => gives rfl (hostAnswer_ignored hk hn), fun hw hl hm => ⟨fun hlt => ?_, fun hj => ?_, fun hge hj => ?_⟩⟩
    · exact gives rfl ((hostAnswer_answers hk hh hw hl hm).trans (if_pos hlt))
    · exact gives rfl ((hostAnswer_answers hk hh hw hl hm).trans ((if_neg (by omega)).trans (if_pos hj)))
    · exact gives rfl ((hostAnswer_answers hk hh hw hl hm).trans ((if_neg (by omega)).trans (if_neg hj)))

end Sys2Proof.Proofs
end

section
/-!
SUPPORT. Supplies, resets and the boot (R247, R308, R324, R325, R370, R374 to R378, R390, R393, R403, R404).
-/
namespace Sys2Proof.Proofs
open Sys2Proof.Machine Sys2Proof.Claims

/-! ### Tables that list every number below a bound -/

theorem tfind_range {α : Type} (f : Nat → α) {n c : Nat} (h : c < n) : tfind ((List.range n).map fun c => (c, f c)) c = some (f c) := by
  have hall : ∀ l : List Nat, c ∈ l → tfind (l.map fun c => (c, f c)) c = some (f c) := by
    intro l hl
    induction l with
    | nil => cases hl
    | cons x l ih =>
      rw [List.map_cons, tfind_cons]
      by_cases hx : x = c
      · rw [if_pos hx, hx]
      · rw [if_neg hx]
        exact ih ((List.mem_cons.mp hl).resolve_left fun hn => hx hn.symm)
  exact hall _ (List.mem_range.mpr h)

theorem tget_range {α : Type} (d : α) (f : Nat → α) {n c : Nat} (h : c < n) : tget d ((List.range n).map fun c => (c, f c)) c = f c := by
  unfold tget
  rw [tfind_range f h]
  rfl

/-! ### Supplies and resets -/

section
variable {s : State}

theorem coldReset_resets (hm : s.blk.mainOn = true) (ha : s.blk.auxGood = true) (hp : s.blk.pwrGood = false) :
    exec .coldReset s = nextOf { s with dram := {} } s.blk.coldReset := by
  show execColdReset s = _
  unfold execColdReset
  dsimp only
  rw [hm, ha, hp]
  exact if_pos rfl

theorem coldReset_ignored (h : s.blk.pwrGood = true ∨ s.blk.mainOn = false ∨ s.blk.auxGood = false) : Gives .coldReset s s.blk := by
  show execColdReset s = _
  unfold execColdReset
  refine if_neg ?_
  rcases h with h | h | h <;> simp [h]

theorem perstAssert_resets (hg : s.blk.pwrGood = true) (hp : s.blk.perst = false) :
    exec .perstAssert s = nextOf { s with dram := s.blk.settleChans s.dram } s.blk.moduleReset := by
  show execPerstAssert s = _
  unfold execPerstAssert
  dsimp only
  rw [hg, hp]
  exact if_pos rfl

theorem perstAssert_ignored (h : s.blk.pwrGood = false ∨ s.blk.perst = true) : Gives .perstAssert s s.blk := by
  refine if_neg ?_
  rcases h with h | h <;> simp [h]

/-- A channel at rest keeps its zeroing position. -/
def restChan (b : Block) (c : Nat) : Channel := { selfRefresh := true, zeroPos := (b.chan c).zeroPos }

/-- After a module reset every channel is in self-refresh at its zeroing position. -/
theorem moduleReset_chan (b : Block) {c : Nat} (h : c < 384) : b.moduleReset.chan c = { selfRefresh := true, zeroPos := (b.chan c).zeroPos }  := by
  have hchans : b.moduleReset.chans = b.restChans := by
    unfold Block.moduleReset
    rfl
  have hrest : b.restChans = (List.range 384).map fun c => (c, restChan b c) := by
    unfold Block.restChans
    rfl
  unfold Block.chan
  rw [hchans, hrest]
  exact tget_range {} (restChan b) h

theorem settleChans_none (m : Dram) {b : Block} (h : b.chans = []) : b.settleChans m = m := by
  unfold Block.settleChans
  rw [h]
  rfl

end

/-! ### The boot -/

section
variable {b : Block} {x : BootInputs}

theorem bootStep_first (hh : b.hubUp = true) (h0 : b.bootStage = 0) : b.bootStep = b.chooseSlot := by
  unfold Block.bootStep
  rw [hh, h0]
  exact if_neg Bool.false_ne_true

theorem bootStep_firmware (hh : b.hubUp = true) (h1 : b.bootStage = 1) : b.bootStep = b.runFirmware := by
  unfold Block.bootStep
  rw [hh, h1]
  exact if_neg Bool.false_ne_true

theorem bootStep_trains (hh : b.hubUp = true) (h2 : b.bootStage = 2) (hx : b.boot = some x) : b.bootStep = { b.trainAll x with bootStage := 3 } := by
  unfold Block.bootStep
  rw [hh, h2, hx]
  exact if_neg Bool.false_ne_true

theorem bootStep_later (hh : b.hubUp = true) (h3 : 3 ≤ b.bootStage) : b.bootStep = b := by
  unfold Block.bootStep
  rw [hh]
  refine (if_neg Bool.false_ne_true).trans ?_
  split
  · omega
  · omega
  · omega
  · rfl

/-- Fields of the spindles alone differ: their table, their numbers, and the numbers left over. -/
def Spares (b b' : Block) : Prop := ∃ sp mp rm, b' = { b with spindles := sp, spdMap := mp, removed := rm }

theorem Spares.trans {a b c : Block} (h : Spares a b) (g : Spares b c) : Spares a c := by
  obtain ⟨sp, mp, rm, rfl⟩ := h
  obtain ⟨sp', mp', rm', rfl⟩ := g
  exact ⟨sp', mp', rm', rfl⟩

theorem Spares.foldl {β : Type} {g : Block → β → Block} (h : ∀ b x, Spares b (g b x)) (l : List β) (b : Block) : Spares b (l.foldl g b) := by
  induction l generalizing b with
  | nil => exact ⟨b.spindles, b.spdMap, b.removed, rfl⟩
  | cons x l ih => exact (h b x).trans (ih _)

theorem fillNumbers_spares (b : Block) (t : Nat) : Spares b (b.fillNumbers t) := by
  unfold Block.fillNumbers
  dsimp only
  exact (Spares.foldl (fun b (x : Nat × Nat) => ⟨_, _, _, rfl⟩) _ b).trans ⟨_, _, _, rfl⟩

/-- With no spindle recorded and no spare that fails, the test of the spindles touches only them. -/
theorem testSpindles_spares (h : b.store.failedSpindles = []) : Spares b (b.testSpindles []) := by
  unfold Block.testSpindles
  rw [h]
  exact Spares.foldl fillNumbers_spares _ b

theorem carryRecords_none (hc : b.store.carried = []) (hl : b.store.hubLoss = []) : b.carryRecords = b := by
  unfold Block.carryRecords
  rw [hc]
  dsimp only [List.foldl_nil]
  rw [hl]
  rfl

/-- The channels of HBM that train. -/
def goodChans (x : BootInputs) : List Nat := (List.range 256).filter fun c => !(x.failTraining.map (·.val)).contains c

/-- A channel as training leaves it, with no channel mapped out before. -/
def trained (b : Block) (x : BootInputs) (c : Nat) : Channel :=
  let fresh : Channel := { zeroPos := (b.chan c).zeroPos
                           state := if (x.failTraining.map (·.val)).contains c then (if c < 256 then .mappedOut else .failed) else .inService }
  if (goodChans x).length < 128 ∧ fresh.state = .inService then { fresh with state := .mappedOut } else fresh

theorem trainChans_trained (h : b.store.mapOut = []) : b.trainChans (x.failTraining.map (·.val)) = { b with
    chans := (List.range 384).map fun c => (c, trained b x c)
    memoryDegraded := decide ((goodChans x).length < 128), inservice := if (goodChans x).length < 128 then [] else goodChans x } := by
  have hout (c : Nat) : ((x.failTraining.map (·.val)).contains c || b.store.mapOut.contains c) = (x.failTraining.map (·.val)).contains c := by
    rw [h]
    simp
  unfold Block.trainChans
  simp only [hout]
  rfl

theorem trained_selfRefresh (b : Block) (x : BootInputs) (c : Nat) : (trained b x c).selfRefresh = false := by
  unfold trained
  generalize (if (x.failTraining.map (·.val)).contains c = true then _ else _) = st
  dsimp only
  split
  · rfl
  · rfl

theorem trained_inService (b : Block) (x : BootInputs) (c : Nat) : (trained b x c).state = .inService ↔
    decide ((goodChans x).length < 128) = false ∧ (x.failTraining.map (·.val)).contains c = false := by
  unfold trained
  cases hf : (x.failTraining.map (·.val)).contains c
  · by_cases hd : (goodChans x).length < 128
    · simp [hd]
    · simp [hd]
  · by_cases hc : c < 256
    · simp [hc]
    · simp [hc]

/-- The boot's third stage, with nothing carried and nothing recorded as failed. -/
theorem trainAll_clean (hc : b.store.carried = []) (hl : b.store.hubLoss = []) (hf : b.store.failedSpindles = []) (hm : b.store.mapOut = [])
    (hs : x.failSpares = []) : ∃ sp mp rm, b.trainAll x = { b with
      pcieWidth := x.width, pcieSpeed := x.speed, linkDegraded := linkPoor x.width x.speed, boot := none, cal := { b.cal with weights := b.store.weights }
      chans := (List.range 384).map fun c => (c, trained b x c)
      memoryDegraded := decide ((goodChans x).length < 128), inservice := if (goodChans x).length < 128 then [] else goodChans x
      spindles := sp, spdMap := mp, removed := rm } := by
  unfold Block.trainAll
  rw [hs, List.map_nil]
  dsimp only
  generalize hb : ({ b with pcieWidth := x.width, pcieSpeed := x.speed, linkDegraded := linkPoor x.width x.speed, boot := none, cal := { b.cal with weights := b.store.weights } } : Block) = b1
  have hcarry : b1.carryRecords = b1 := carryRecords_none (by rw [← hb]; exact hc) (by rw [← hb]; exact hl)
  have htrain := trainChans_trained (b := b1) (x := x) (by rw [← hb]; exact hm)
  have hch : trained b1 x = trained b x := by
    rw [← hb]
    rfl
  rw [hcarry, htrain, hch]
  generalize hb2 : ({ b1 with chans := _, memoryDegraded := _, inservice := _ } : Block) = b2
  obtain ⟨sp, mp, rm, h⟩ := testSpindles_spares (b := b2) (by rw [← hb2, ← hb]; exact hf)
  exact ⟨sp, mp, rm, by rw [h, ← hb2, ← hb]⟩

end

/-! ### A trial that does not come up -/

section
variable {b : Block}

/-- The boot chain starts again. -/
def bootAgain (b : Block) : Block := { b with bootStage := 0, runTrial := false, fwVersion := 0, fwSvn := 0, secure := false, measured := [] }

theorem trialTimeout_runs (hh : b.hubUp = true) (hs : b.bootStage ≤ 3) (hr : b.ready = false) (ht : b.runTrial = true) :
    b.trialTimeout = if b.store.trialFails + 1 < 3 then { bootAgain b with store := { b.store with trialFails := b.store.trialFails + 1 } }
      else ({ bootAgain b with store := { b.store with trial := none, trialFails := 0 }, fallback := true } : Block).postEvent 0 0x2006 b.store.bootSlot := by
  have hno : ¬ ((!b.hubUp || !b.runTrial || b.ready || decide (3 < b.bootStage)) = true) := by simp [hh, hs, hr, ht]
  exact if_neg hno

theorem trialTimeout_ignored (h : b.hubUp = false ∨ b.runTrial = false ∨ b.ready = true) : b.trialTimeout = b := by
  refine if_pos ?_
  rcases h with h | h | h <;> simp [h]

/-! ### Function resets -/

/-- The fields that a function's reset sets. -/
theorem resetFn_fields (b : Block) (n : Nat) : b.resetFn n = { b with
    rings := tset b.rings n {}, funcs := tset (tset b.funcs n { b.func n with d3hot := false }) n {}, wake := false
    a2Exiting := b.a2Exiting || b.power == .a2, notifies := b.notifies.filter fun k => k.fn != n } := by
  unfold Block.resetFn Block.enterD0 Block.modFunc Block.setRing
  rfl

theorem resetFn_ring (b : Block) (n : Nat) : (b.resetFn n).ring n = {} := by
  rw [resetFn_fields]
  exact tget_tset_self ..

theorem resetFn_ring_ne (b : Block) {n k : Nat} (h : k ≠ n) : (b.resetFn n).ring k = b.ring k := by
  rw [resetFn_fields]
  exact tget_tset_ne _ _ _ h

theorem resetFn_func (b : Block) (n : Nat) : (b.resetFn n).func n = {} := by
  rw [resetFn_fields]
  exact tget_tset_self ..

theorem resetFn_func_ne (b : Block) {n k : Nat} (h : k ≠ n) : (b.resetFn n).func k = b.func k := by
  rw [resetFn_fields]
  exact (tget_tset_ne _ _ _ h).trans (tget_tset_ne _ _ _ h)

/-- What the reset of functions leaves of the rest. -/
structure KeepsRest (b b' : Block) : Prop where
  numVfs : b'.numVfs = b.numVfs
  cells : b'.cells = b.cells
  ctxs : b'.ctxs = b.ctxs
  spindles : b'.spindles = b.spindles
  conns : b'.conns = b.conns

theorem KeepsRest.trans {a b c : Block} (h : KeepsRest a b) (g : KeepsRest b c) : KeepsRest a c :=
  ⟨g.numVfs.trans h.numVfs, g.cells.trans h.cells, g.ctxs.trans h.ctxs, g.spindles.trans h.spindles, g.conns.trans h.conns⟩

theorem resetFn_keeps (b : Block) (n : Nat) : KeepsRest b (b.resetFn n) := by
  rw [resetFn_fields]
  exact ⟨rfl, rfl, rfl, rfl, rfl⟩

/-- Functions 0 to n − 1 are at their defaults. -/
structure FnsReset (n : Nat) (b b' : Block) : Prop where
  reset : ∀ r, r < n → b'.ring r = {} ∧ b'.func r = {}
  rest : KeepsRest b b'

theorem resetFns (b : Block) (n : Nat) : FnsReset n b ((List.range n).foldl Block.resetFn b) := by
  induction n with
  | zero => exact ⟨fun r hr => absurd hr (Nat.not_lt_zero r), ⟨rfl, rfl, rfl, rfl, rfl⟩⟩
  | succ n ih =>
    obtain ⟨hreset, hrest⟩ := ih
    rw [List.range_succ, List.foldl_append, List.foldl_cons, List.foldl_nil]
    refine ⟨fun r hr => ?_, hrest.trans (resetFn_keeps ..)⟩
    by_cases hn : r = n
    · subst hn
      exact ⟨resetFn_ring .., resetFn_func ..⟩
    · rw [resetFn_ring_ne _ hn, resetFn_func_ne _ hn]
      exact hreset r (by omega)

/-- With no context LIVE, the hot reset tears nothing down. -/
theorem hotReset_noneLive (m : Dram) (h : ∀ c, (b.ctx c).state ≠ .live) :
    b.hotReset m = { (List.range 17).foldl Block.resetFn b with numVfs := 0, hostReads := [], hubBuf := [] } := by
  have hctxs := (resetFns b 17).rest.ctxs
  unfold Block.hotReset
  dsimp only
  generalize hr : (List.range 17).foldl Block.resetFn b = b1 at hctxs
  refine List.foldl_fixed' (fun c => if_neg ?_) _
  show (tget {} b1.ctxs c).state ≠ .live
  rw [hctxs]
  exact h c

end

theorem chan_stalled (b : Block) (c : Nat) : ({ b with stalled := false } : Block).chan c = b.chan c := rfl

/-- What a module reset leaves. -/
theorem perstAssert_leaves {s : State} (hg : s.blk.pwrGood = true) (hp : s.blk.perst = false) :
    ∃ t, exec .perstAssert s = .next t ∧ t.blk.perst = true ∧ t.blk.power = .a0 ∧ t.blk.ready = false ∧ t.blk.spindles = [] ∧ t.blk.cells = []
      ∧ t.blk.ctxs = [] ∧ t.blk.rings = [] ∧ t.blk.store = s.blk.store ∧ t.blk.cal.maxSeen = s.blk.cal.maxSeen ∧ t.blk.hubLost = s.blk.thermtripPin
      ∧ (∀ c : Nat, c < 384 → (t.blk.chan c).selfRefresh = true ∧ (t.blk.chan c).zeroPos = (s.blk.chan c).zeroPos) ∧ (s.blk.chans = [] → t.dram = s.dram) := by
  refine ⟨_, perstAssert_resets hg hp, rfl, rfl, rfl, rfl, rfl, rfl, rfl, rfl, rfl, rfl, fun c hc => ?_, fun h => settleChans_none s.dram h⟩
  have hch : ({ s.blk.moduleReset with stalled := false } : Block).chan c = restChan s.blk c :=
    (chan_stalled s.blk.moduleReset c).trans (moduleReset_chan s.blk hc)
  rw [hch]
  exact ⟨rfl, rfl⟩

/-- The third stage of the boot, with nothing carried and nothing recorded as failed. -/
theorem bootStep_trained {b : Block} {x : BootInputs} (hh : b.hubUp = true) (h2 : b.bootStage = 2) (hx : b.boot = some x) (hc : b.store.carried = [])
    (hl : b.store.hubLoss = []) (hf : b.store.failedSpindles = []) (hm : b.store.mapOut = []) (hs : x.failSpares = []) :
    let b' := b.bootStep
    b'.bootStage = 3 ∧ b'.boot = none ∧ b'.pcieWidth = x.width ∧ b'.pcieSpeed = x.speed
      ∧ b'.linkDegraded = (decide (x.width < 8) || decide (x.speed < 32)) ∧ b'.memoryDegraded = decide ((goodChans x).length < 128)
      ∧ b'.inservice = (if decide ((goodChans x).length < 128) then [] else goodChans x)
      ∧ (∀ c, c < 384 → (b'.chan c).selfRefresh = false
        ∧ ((b'.chan c).state = .inService ↔ decide ((goodChans x).length < 128) = false ∧ (x.failTraining.map (·.val)).contains c = false))
      ∧ b'.cal.weights = b.store.weights ∧ b'.ready = b.ready := by
  intro b'
  obtain ⟨sp, mp, rm, ht⟩ := trainAll_clean hc hl hf hm hs
  have hb' : b' = _ := (bootStep_trains hh h2 hx).trans (congrArg (fun b : Block => { b with bootStage := 3 }) ht)
  have hchan (c : Nat) (h : c < 384) : b'.chan c = trained b x c := by
    have hchans : b'.chans = (List.range 384).map fun c => (c, trained b x c) := by rw [hb']
    unfold Block.chan
    rw [hchans]
    exact tget_range {} (trained b x) h
  refine ⟨by rw [hb'], by rw [hb'], by rw [hb'], by rw [hb'], by rw [hb']; rfl, by rw [hb'], ?_, fun c h => ?_, by rw [hb'], by rw [hb']⟩
  · rw [hb']
    by_cases hd : (goodChans x).length < 128
    · simp [hd]
    · simp [hd]
  · rw [hchan c h]
    exact ⟨trained_selfRefresh b x c, trained_inService b x c⟩

/-- A hot reset with no context LIVE returns every function to its defaults and leaves the rest. -/
theorem hotReset_leaves {b : Block} (m : Dram) (h : ∀ c, (b.ctx c).state ≠ .live) :
    (b.hotReset m).numVfs = 0 ∧ (∀ r, r < 17 → (b.hotReset m).ring r = {} ∧ (b.hotReset m).func r = {}) ∧ (b.hotReset m).hostReads = []
      ∧ (b.hotReset m).cells = b.cells ∧ (b.hotReset m).ctxs = b.ctxs ∧ (b.hotReset m).spindles = b.spindles ∧ (b.hotReset m).conns = b.conns := by
  have hfns := resetFns b 17
  rw [hotReset_noneLive m h]
  generalize (List.range 17).foldl Block.resetFn b = b1 at hfns
  obtain ⟨hreset, -, hcells, hctxs, hspd, hconns⟩ := hfns
  exact ⟨rfl, hreset, rfl, hcells, hctxs, hspd, hconns⟩

/-- The reset of function 0 is the hot reset (Table 21.3). -/
theorem flr_zero {s : State} (hh : s.blk.hubUp = true) : Gives (.functionLevelReset 0) s (s.blk.hotReset s.dram) := by
  refine gives rfl ((if_neg ?_).trans (if_pos rfl))
  simp [hh, Block.fnEnabled]

theorem flr_virtual {s : State} {fn : FnId} (hh : s.blk.hubUp = true) (hfn : 0 < fn.val) (he : s.blk.fnEnabled fn = true) :
    exec (.functionLevelReset fn) s = nextOf s ((s.blk.resetFn fn).tearIfLive s.dram (fn.val - 1)) := by
  refine congrArg (nextOf s) ((if_neg ?_).trans (if_neg (by omega)))
  simp [hh, he]

theorem resetFn_ctx (b : Block) (n c : Nat) : (b.resetFn n).ctx c = b.ctx c := by
  unfold Block.ctx
  rw [(resetFn_keeps b n).ctxs]

/-- Settles O54: supplies, resets, the boot's stages, and function resets. -/
theorem suppliesResetsAndBoot : Obligations.SuppliesResetsAndBoot := by
  intro s b
  refine ⟨fun hm => ⟨_, gives rfl (if_pos hm), rfl, rfl, rfl, rfl, rfl, rfl, rfl, rfl⟩, fun hm => gives rfl (if_neg (ne_true_of_eq_false hm)),
    ⟨_, rfl, rfl, rfl, rfl, rfl, rfl, rfl⟩, fun straps ha => gives rfl (if_neg (ne_true_of_eq_false ha)), rfl, fun hm ha hp => ?_, coldReset_ignored, perstAssert_ignored,
    fun straps ha => gives rfl (if_pos ha), perstAssert_leaves, fun x => ⟨fun hg hp => gives rfl (if_pos ?_), fun hn => gives rfl (if_neg ?_)⟩, fun hh => ?_,
    fun x hh h2 hx _ hc hl hf hm hs => bootStep_trained hh h2 hx hc hl hf hm hs, fun hh h3 hr => gives rfl (if_pos ?_), fun hn => gives rfl (if_neg ?_),
    fun hh hs hr ht => ?_, fun hn => gives rfl (trialTimeout_ignored hn), fun hh => ?_, fun hh hl => ⟨?_, fun fn hfn he => ?_⟩⟩
  · exact ⟨_, coldReset_resets hm ha hp, rfl, rfl, rfl, rfl, rfl, rfl, rfl, rfl, rfl⟩
  · simp only [Bool.and_eq_true]
    exact ⟨hg, hp⟩
  · simp only [Bool.and_eq_true, not_and]
    exact fun hg hp => hn.elim (fun h => absurd (h.symm.trans hg) Bool.false_ne_true) (fun h => absurd (h.symm.trans hp) Bool.false_ne_true)
  · intro first ran untried
    refine ⟨fun h0 hp => ?_, fun h0 hp hp' => ?_, fun h0 hp hp' => ?_, fun h1 => bootStep_firmware hh h1, fun h3 => bootStep_later hh h3⟩
    · exact (bootStep_first hh h0).trans (if_pos hp)
    · exact (bootStep_first hh h0).trans ((if_neg (ne_true_of_eq_false hp)).trans (if_pos hp'))
    · exact (bootStep_first hh h0).trans ((if_neg (ne_true_of_eq_false hp)).trans (if_neg (ne_true_of_eq_false hp')))
  · simp only [Bool.and_eq_true, beq_iff_eq, Bool.not_eq_true']
    exact ⟨⟨hh, h3⟩, hr⟩
  · simp only [Bool.and_eq_true, beq_iff_eq, Bool.not_eq_true', not_and]
    rintro ⟨hh, h3⟩ hr
    rcases hn with hn | hn | hn
    · exact absurd (hn.symm.trans hh) Bool.false_ne_true
    · exact hn h3
    · exact absurd (hr.symm.trans hn) Bool.false_ne_true
  · intro again
    exact ⟨fun h2 => gives rfl ((trialTimeout_runs hh hs hr ht).trans (if_pos (by omega))), fun h2 => gives rfl ((trialTimeout_runs hh hs hr ht).trans (if_neg (by omega)))⟩
  · intro reset torn
    exact ⟨gives rfl (if_pos hh), flr_zero hh, fun fn hfn => ⟨fun he hl => (flr_virtual hh hfn he).trans (congrArg (nextOf s) (if_pos (by rw [resetFn_ctx]; exact hl))),
      fun he => gives rfl (if_pos (by simp [show s.blk.fnEnabled fn = false from he]))⟩⟩
  · exact ⟨_, gives rfl (if_pos hh), flr_zero hh, hotReset_leaves s.dram hl⟩
  · refine ⟨_, (flr_virtual hh hfn he).trans (congrArg (nextOf s) (if_neg (by rw [resetFn_ctx]; exact hl _))), resetFn_ring .., resetFn_func ..,
      fun r hr => ⟨resetFn_ring_ne _ hr, resetFn_func_ne _ hr⟩, ?_⟩
    have hkeeps := resetFn_keeps s.blk fn
    exact ⟨hkeeps.numVfs, hkeeps.ctxs, hkeeps.cells⟩

end Sys2Proof.Proofs
end

section
/-!
SUPPORT. The power states A1 and A2 (R243, R248, R335, R366 to R371, R378).
-/
namespace Sys2Proof.Proofs
open Sys2Proof.Machine Sys2Proof.Claims

/-! ### A change of every tile, and of every channel -/

section
variable {b : Block}

/-- A change of the first `n` tiles. -/
theorem modTiles (b : Block) (g : Tile → Tile) (n : Nat) : ∃ T, (List.range n).foldl (fun (b : Block) t => b.modTile t g) b = { b with tiles := T } ∧
    ∀ t, tget {} T t = if t < n then g (b.tile t) else b.tile t := by
  induction n with
  | zero => exact ⟨b.tiles, rfl, fun t => rfl⟩
  | succ n ih =>
    obtain ⟨T, hT, hget⟩ := ih
    rw [List.range_succ, List.foldl_append, List.foldl_cons, List.foldl_nil, hT]
    refine ⟨tset T n (g (tget {} T n)), rfl, fun t => ?_⟩
    by_cases ht : t = n
    · subst ht
      rw [tget_tset_self, hget, if_neg (Nat.lt_irrefl t), if_pos (Nat.lt_succ_self t)]
    · rw [tget_tset_ne _ _ _ ht, hget]
      by_cases hn : t < n
      · rw [if_pos hn, if_pos (by omega)]
      · rw [if_neg hn, if_neg (by omega)]

/-- A change of the first `n` channels. -/
theorem modChans (b : Block) (g : Channel → Channel) (n : Nat) : ∃ C, (List.range n).foldl (fun (b : Block) c => b.modChan c g) b = { b with chans := C } ∧
    ∀ c, tget {} C c = if c < n then g (b.chan c) else b.chan c := by
  induction n with
  | zero => exact ⟨b.chans, rfl, fun c => rfl⟩
  | succ n ih =>
    obtain ⟨C, hC, hget⟩ := ih
    rw [List.range_succ, List.foldl_append, List.foldl_cons, List.foldl_nil, hC]
    refine ⟨tset C n (g (tget {} C n)), rfl, fun c => ?_⟩
    by_cases hc : c = n
    · subst hc
      rw [tget_tset_self, hget, if_neg (Nat.lt_irrefl c), if_pos (Nat.lt_succ_self c)]
    · rw [tget_tset_ne _ _ _ hc, hget]
      by_cases hn : c < n
      · rw [if_pos hn, if_pos (by omega)]
      · rw [if_neg hn, if_neg (by omega)]

/-! ### Clean caches -/

/-- Tiles without entries or lines are flushed and cleaned to tiles without them. -/
theorem flushAll_empty (m : Dram) (h : b.tiles = []) : b.flushAll m = b := by
  have hone (t : Nat) : b.flushWhere m t (fun _ => true) = b := by
    have hwc : (b.tile t).wc = [] := by
      unfold Block.tile
      rw [h]
      rfl
    unfold Block.flushWhere
    rw [hwc]
    rfl
  exact List.foldl_fixed' hone _

theorem cleanCaches_empty (h : b.tiles = []) : ∃ T, b.cleanCaches = { b with tiles := T } := by
  have hall : ∀ n, ∃ T, (List.range n).foldl (fun (b : Block) t =>
      (((b.tile t).dc.flatMap fun x => x.2.ways.map (·.2)).foldl (fun b l => b.writeBack t l) b).modTile t fun x =>
        { x with dc := x.dc.map fun k => (k.1, { k.2 with ways := k.2.ways.map fun w => (w.1, { w.2 with dirty := 0 }) }) }) b = { b with tiles := T }
      ∧ ∀ t, (tget {} T t).dc = [] := by
    intro n
    induction n with
    | zero => exact ⟨b.tiles, rfl, fun t => by rw [h]; rfl⟩
    | succ n ih =>
      obtain ⟨T, hT, hdc⟩ := ih
      rw [List.range_succ, List.foldl_append, List.foldl_cons, List.foldl_nil, hT]
      have hlines : ((({ b with tiles := T } : Block).tile n).dc.flatMap fun x => x.2.ways.map (·.2)) = [] := by
        rw [show (({ b with tiles := T } : Block).tile n).dc = [] from hdc n]
        rfl
      rw [hlines]
      refine ⟨_, rfl, fun t => ?_⟩
      by_cases ht : t = n
      · subst ht
        rw [tget_tset_self]
        show ((tget {} T t).dc.map _) = []
        rw [hdc t]
        rfl
      · rw [tget_tset_ne _ _ _ ht]
        exact hdc t
  obtain ⟨T, hT, -⟩ := hall 4
  exact ⟨T, hT⟩

/-! ### A2 -/

theorem tfind_mapped {α : Type} (f : Nat → α → α) (l : Tab α) (p : Nat) : tfind (l.map fun e => (e.1, f e.1 e.2)) p = (tfind l p).map (f p) := by
  induction l with
  | nil => rfl
  | cons e l ih =>
    obtain ⟨n, x⟩ := e
    rw [List.map_cons, tfind_cons, tfind_cons]
    by_cases hn : n = p
    · rw [if_pos hn, if_pos hn, hn]
      rfl
    · rw [if_neg hn, if_neg hn]
      exact ih

/-- A spindle that has lost its scratchpad and bowl. -/
def unpowered (tag p : Nat) (x : Spindle) : Spindle :=
  { x with spad := (Spindle.init tag p).spad, bowl := (Spindle.init tag p).bowl, bowlCtx := 16, gbuf := [], ibuf := [], preCode := [] }

theorem loseSpads_eq (b : Block) : b.loseSpads = { b with
    freeCtr := b.freeCtr + 544, bootTag := b.freshTag, spindles := b.spindles.map fun e => (e.1, unpowered b.freshTag e.1 e.2) } := by
  unfold Block.loseSpads unpowered
  rfl

/-- Spindles keep their handles and lose their scratchpads. -/
theorem loseSpads_spd (b : Block) (p : Nat) : (b.loseSpads.spd p).handles = (b.spd p).handles ∧ (b.loseSpads.spd p).spad = (Spindle.init b.freshTag p).spad := by
  rw [loseSpads_eq]
  unfold Block.spd
  dsimp only
  rw [tfind_mapped]
  cases tfind b.spindles p with
  | none => exact ⟨rfl, rfl⟩
  | some x => exact ⟨rfl, rfl⟩

/-- The counts of carried handles, one for each context. -/
theorem carriedTable (f : Nat → Nat) (n : Nat) :
    tabWf 0 ((List.range n).foldl (fun (t : Tab Nat) c => tput 0 t c (f c)) []) = true ∧
      ∀ c, c < n → tget 0 ((List.range n).foldl (fun (t : Tab Nat) c => tput 0 t c (f c)) []) c = f c := by
  induction n with
  | zero => exact ⟨rfl, fun c hc => absurd hc (Nat.not_lt_zero c)⟩
  | succ n ih =>
    obtain ⟨hwf, hget⟩ := ih
    rw [List.range_succ, List.foldl_append, List.foldl_cons, List.foldl_nil]
    refine ⟨tput_wf 0 hwf, fun c hc => ?_⟩
    rw [tget_tput 0 hwf]
    by_cases hn : c = n
    · rw [if_pos hn, hn]
    · rw [if_neg hn]
      exact hget c (by omega)

/-- What the power-down leaves (R248). -/
theorem powerDown_leaves (b : Block) :
    b.powerDown.power = .a2 ∧ b.powerDown.draining = true ∧ b.powerDown.drained = []
      ∧ (∀ t, t < 4 → (b.powerDown.tile t).powered = false ∧ (b.powerDown.tile t).dc = [] ∧ (b.powerDown.tile t).wc = [])
      ∧ (∀ c, c < 384 → (b.powerDown.chan c).selfRefresh = true ∧ (b.powerDown.chan c).state = (b.chan c).state)
      ∧ (∀ p, (b.powerDown.spd p).handles = (b.spd p).handles) ∧ (∀ c, c < 16 → tget 0 b.powerDown.handlesLost c = b.carriedOn c)
      ∧ b.powerDown.store.weights = b.cal.wList ∧ b.powerDown.cells = b.cells ∧ b.powerDown.ctxs = b.ctxs
      ∧ ∀ p, (b.powerDown.spd p).spad = (Spindle.init b.freshTag p).spad := by
  obtain ⟨T, hT, htile⟩ := modTiles b (fun x => { x with powered := false, dc := [], fills := [], wc := [] }) 4
  obtain ⟨C, hC, hchan⟩ := modChans { b with tiles := T } (fun x => { x with selfRefresh := true }) 384
  have hspd := loseSpads_spd ({ b with tiles := T, chans := C } : Block)
  have heq : b.powerDown = { (({ b with tiles := T, chans := C } : Block).loseSpads) with
      power := .a2, draining := true, drained := [], a2Exiting := false
      handlesLost := (List.range 16).foldl (fun (t : Tab Nat) c => tput 0 t c (b.carriedOn c)) [], store := b.cal.save b.store } := by
    unfold Block.powerDown
    dsimp only
    rw [hT, hC]
  rw [heq]
  refine ⟨rfl, rfl, rfl, fun t ht => ?_, fun c hc => ?_, fun p => (hspd p).1, (carriedTable b.carriedOn 16).2, rfl, rfl, rfl, fun p => (hspd p).2⟩
  · show (tget {} T t).powered = false ∧ (tget {} T t).dc = [] ∧ (tget {} T t).wc = []
    rw [htile, if_pos ht]
    exact ⟨rfl, rfl, rfl⟩
  · show (tget {} C c).selfRefresh = true ∧ (tget {} C c).state = _
    rw [hchan, if_pos hc]
    exact ⟨rfl, rfl⟩

/-! ### The states that enter and leave -/

variable {m : Dram}

theorem all_idle_iff (l : Tab Channel) :
    (l.all fun c => c.2.transit.isEmpty && c.2.queue.isEmpty) = true ↔ ∀ c ∈ l, c.2.transit = [] ∧ c.2.queue = [] := by
  simp [List.all_eq_true]

/-- What asks for A2 is left waiting while the module cannot enter it. -/
theorem enterA2_waits (h : b.ready = false ∨ b.quiet = false ∨ b.chains ≠ [] ∨ b.sweeps ≠ []) : b.enterA2 m = b := by
  unfold Block.enterA2
  refine if_pos ?_
  obtain h | h | h | h := h
  · simp [h]
  · simp [h]
  · simp [h]
  · simp [h]

/-- A module that may enter A2 writes its caches back. -/
theorem enterA2_cleans (hu : b.hubUp = true) (hr : b.ready = true) (hp : b.power = .a0 ∨ b.power = .a1)
    (hf : ∀ f, f ≤ b.numVfs → (b.func f).d3hot = true) (hq : b.quiet = true) (hc : b.chains = []) (hs : b.sweeps = [])
    {clean : Block} (h : ((((b.streams.filter fun x => x.2.dirty).map (·.1)).foldl Block.streamBack b).flushAll m).cleanCaches = clean) :
    b.enterA2 m = if clean.chans.all fun c => c.2.transit.isEmpty && c.2.queue.isEmpty then clean.powerDown else clean := by
  have hdown : ((List.range (b.numVfs + 1)).all fun f => (b.func f).d3hot) = true :=
    List.all_eq_true.mpr fun f hm => hf f (Nat.lt_succ_iff.mp (List.mem_range.mp hm))
  have hpow : (b.power == .a0 || b.power == .a1) = true := by
    obtain h | h := hp
    · simp [h]
    · simp [h]
  unfold Block.enterA2
  subst h
  refine if_neg ?_
  simp only [hu, hr, hpow, hdown, hq, hc, hs]
  decide

/-- With no stream cached and no tile in use, nothing is written back. -/
theorem enterA2_idle (hu : b.hubUp = true) (hr : b.ready = true) (hp : b.power = .a0)
    (hf : ∀ f, f ≤ b.numVfs → (b.func f).d3hot = true) (hq : b.quiet = true) (hc : b.chains = []) (hs : b.sweeps = [])
    (hst : b.streams = []) (ht : b.tiles = []) (hch : ∀ c ∈ b.chans, c.2.transit = [] ∧ c.2.queue = []) :
    ∃ T, b.enterA2 m = ({ b with tiles := T } : Block).powerDown := by
  obtain ⟨T, hT⟩ := cleanCaches_empty ht
  refine ⟨T, (enterA2_cleans hu hr (.inl hp) hf hq hc hs (clean := { b with tiles := T }) ?_).trans ?_⟩
  · have hback : ((b.streams.filter fun x => x.2.dirty).map (·.1)).foldl Block.streamBack b = b := by
      rw [hst]
      rfl
    exact (congrArg Block.cleanCaches ((congrArg (Block.flushAll m) hback).trans (flushAll_empty m ht))).trans hT
  · exact if_pos ((all_idle_iff b.chans).mpr hch)

theorem deliverDrained_none (h : b.drained = []) : b.deliverDrained m = { b with draining := false } := by
  unfold Block.deliverDrained
  rw [h, List.foldl_nil]

/-- Events of a disabled ring stay queued. -/
theorem drainEvents_disabled {r : Nat} (h : (b.ring r).enable = false) : b.drainEvents r = b := by
  unfold Block.drainEvents iter
  generalize List.range 256 = l
  refine List.foldl_fixed' (fun _ => ?_) l
  dsimp only
  split
  · rfl
  · exact if_neg (by simp [h])

theorem postEvent_disabled {r : Nat} (code v : Nat) (he : (b.ring r).enable = false) (hn : (b.ring r).events = []) :
    b.postEvent r code v = b.setRing r { b.ring r with events := [(code, v)] } := by
  unfold Block.postEvent
  rw [if_pos (by rw [hn]; decide), hn, List.nil_append]
  exact drainEvents_disabled (by rw [Block.ring_setRing]; exact he)

/-- Tiles and channels are back, contexts are told, and no packet was held. -/
theorem leaveA2_tells (hu : b.hubUp = true) (hp : b.power = .a2) (hx : b.a2Exiting = true) {on told : Block}
    (hon : (List.range 384).foldl (fun (b : Block) c => b.modChan c fun x => { x with selfRefresh := false })
      ((List.range 4).foldl (fun (b : Block) t => b.modTile t fun x => { x with powered := true }) b) = on)
    (htold : on.handlesLost.foldl (fun (b : Block) e => b.postEvent (1 + e.1) 0x2008 e.2) on = told) (hd : told.drained = []) :
    b.leaveA2 m = { told with handlesLost := [], a2Exiting := false, power := .a0, draining := false } := by
  have hlast : b.leaveA2 m = ({ told with handlesLost := [], a2Exiting := false, power := .a0 } : Block).deliverDrained m := by
    subst hon htold
    unfold Block.leaveA2
    exact if_neg (by simp [hu, hp, hx])
  exact hlast.trans (deliverDrained_none hd)

/-- A2 is left with the handles of one context lost (R369). -/
theorem leaveA2_leaves (hu : b.hubUp = true) (hp : b.power = .a2) (hx : b.a2Exiting = true) (hd : b.drained = []) {c n : Nat}
    (hl : b.handlesLost = [(c, n)]) (he : (b.ring (1 + c)).enable = false) (hn : (b.ring (1 + c)).events = []) :
    (b.leaveA2 m).power = .a0 ∧ (b.leaveA2 m).a2Exiting = false ∧ (b.leaveA2 m).draining = false ∧ (b.leaveA2 m).handlesLost = []
      ∧ ((b.leaveA2 m).ring (1 + c)).events = [(0x2008, n)] ∧ (∀ t, t < 4 → ((b.leaveA2 m).tile t).powered = true)
      ∧ ∀ c, c < 384 → ((b.leaveA2 m).chan c).selfRefresh = false := by
  obtain ⟨T, hT, htile⟩ := modTiles b (fun x => { x with powered := true }) 4
  obtain ⟨C, hC, hchan⟩ := modChans { b with tiles := T } (fun x => { x with selfRefresh := false }) 384
  have hpost := postEvent_disabled (b := { b with tiles := T, chans := C }) 0x2008 n he hn
  have heq : b.leaveA2 m = { (({ b with tiles := T, chans := C } : Block).setRing (1 + c) { b.ring (1 + c) with events := [(0x2008, n)] }) with
      handlesLost := [], a2Exiting := false, power := .a0, draining := false } := by
    exact leaveA2_tells hu hp hx (on := { b with tiles := T, chans := C }) (by rw [hT, hC]) ((congrArg (List.foldl _ _) hl).trans hpost) hd
  rw [heq]
  refine ⟨rfl, rfl, rfl, rfl, ?_, fun t ht => ?_, fun c hc => ?_⟩
  · exact congrArg Ring.events (Block.ring_setRing { b with tiles := T, chans := C } ..)
  · show (tget {} T t).powered = true
    rw [htile, if_pos ht]
  · show (tget {} C c).selfRefresh = false
    rw [hchan, if_pos hc]

end

/-- Settles O55: A2 is entered through the caches' write-backs and left through the drained packets. -/
theorem powerStates : Obligations.PowerStates := by
  unfold Obligations.PowerStates
  intro s b hu
  have hu' : s.blk.hubUp = true := hu
  refine ⟨fun hp hq => gives (b := b.enterA1 s.dram) rfl ?_, fun hq => gives (b := b.enterA1 s.dram) rfl ?_,
    fun hp => gives (b := if b.hubUp then b.ungate else b) rfl ?_, fun hp => gives (b := if b.hubUp then b.ungate else b) rfl ?_,
    fun h => gives (b := b.enterA2 s.dram) rfl (enterA2_waits h), fun hr hp hf hq hc hs => ?_,
    fun hr hp hf hq hc hs hst ht hch => ?_, fun hd hp => ?_, fun hd hp hn => ?_, fun hp => ⟨?_, ?_⟩, fun hp hx hd c n hl he hn => ?_⟩
  · exact if_pos (by simp [hu, hp, hq])
  · exact if_neg (by simp [hq])
  · exact (if_pos hu).trans (if_pos hp)
  · exact (if_pos hu).trans (if_neg (by rw [hp]; decide))
  · intro clean
    refine ⟨fun h => gives (b := b.enterA2 s.dram) rfl ?_, fun ⟨c, hm, h⟩ => gives (b := b.enterA2 s.dram) rfl ?_⟩
    · exact (enterA2_cleans hu hr hp hf hq hc hs rfl).trans (if_pos ((all_idle_iff clean.chans).mpr h))
    · refine (enterA2_cleans hu hr hp hf hq hc hs rfl).trans (if_neg fun ha => ?_)
      obtain ⟨ht, hq⟩ := (all_idle_iff clean.chans).mp ha c hm
      obtain h | h := h
      · exact h ht
      · exact h hq
  · obtain ⟨T, hT⟩ := enterA2_idle (m := s.dram) hu hr hp hf hq hc hs hst ht hch
    obtain ⟨hpow, hdr, hdn, htile, hchan, hh, hl, hw, hcells, hctx, hspad⟩ := powerDown_leaves ({ b with tiles := T } : Block)
    exact ⟨_, gives (b := b.enterA2 s.dram) rfl hT, hpow, hdr, hdn, htile, hchan, hh, hl, hw, hcells, hctx, fun p _ => hspad p⟩
  · exact gives (b := if b.hubUp && b.draining && b.power == .a2 then b.deliverDrained s.dram else b) rfl (if_pos (by simp [hu, hd, hp]))
  · exact gives (b := if b.hubUp && b.draining && b.power == .a2 then b.deliverDrained s.dram else b) rfl
      ((if_pos (by simp [hu, hd, hp])).trans (deliverDrained_none hn))
  · exact gives (b := if b.hubUp && b.draining && b.power == .a2 then b.deliverDrained s.dram else b) rfl (if_neg (by simp [hp]))
  · exact gives (b := b.leaveA2 s.dram) rfl (if_pos (by simp [hp]))
  · exact ⟨_, gives (b := b.leaveA2 s.dram) rfl rfl, leaveA2_leaves hu hp hx hd hl he hn⟩

end Sys2Proof.Proofs
end


section
/-!
SUPPORT. The calipers: rail, estimate, calibration, limits and the controller (R327 to R336, R376, R395).
-/
namespace Sys2Proof.Proofs
open Sys2Proof.Machine Sys2Proof.Claims

/-! ### Any command of the calipers -/

section
variable {b : Block} {f : Block → Block}

theorem calipers_off (h : b.hubUp = false) (f : Block → Block) : b.calipers f = b := if_neg (by rw [h]; decide)

/-- Beside what the command does, the calipers change ALERT# at most. -/
theorem calipers_runs {b' : Block} (hu : b.hubUp = true) (hf : f b = b') : ∃ a, b.calipers f = { b' with alert := a } := by
  subst hf
  refine Exists.imp (fun a h => (if_pos hu).trans h) ?_
  by_cases h : (f b).alarms ≠ b.alarms ∧ (f b).alarms.any (·) = true
  · exact ⟨true, if_pos h⟩
  · exact ⟨(f b).alert, if_neg h⟩

theorem calipers_calm {b' : Block} (hu : b.hubUp = true) (hf : f b = b') (h : b'.alarms = b.alarms) : b.calipers f = b' := by
  subst hf
  exact (if_pos hu).trans (if_neg fun hn => hn.1 h)

theorem calipers_alarm {b' : Block} (hu : b.hubUp = true) (hf : f b = b') :
    b.calipers f = if b'.alarms ≠ b.alarms ∧ b'.alarms.any (·) = true then { b' with alert := true } else b' := by
  subst hf
  exact if_pos hu

/-- ALERT#'s conditions rest on the temperatures, the ceiling, the backstop and the sensor. -/
theorem alarms_congr {b b' : Block} (hh : b'.cal.hubTemp = b.cal.hubTemp) (ht : b'.cal.tileTemp = b.cal.tileTemp)
    (hc : b'.cal.ceiling = b.cal.ceiling) (hb : b'.cal.backstop = b.cal.backstop) (hs : b'.cal.sensorLost = b.cal.sensorLost) :
    b'.alarms = b.alarms := by
  unfold Block.alarms Block.hottest
  rw [hh, ht, hc, hb, hs]

/-! ### Sensors -/

theorem readSensors_eq (tiles : List Nat) (hub : Nat) :
    let t := (List.range 4).map fun k => min 255 (tiles.getD k 0)
    let h := min 255 hub
    let hot := (h :: t).foldl max 0
    b.readSensors tiles hub = { b with cal := { b.cal with
      tileTemp := t, hubTemp := h, tempRead := some (max hot (b.cal.tempRead.getD 0)), maxSeen := max b.cal.maxSeen hot
      ceiling := if 105 ≤ hot then b.cal.ceiling - 1 else b.cal.ceiling } } := by
  intro t h hot
  by_cases hot105 : 105 ≤ hot
  · rw [if_pos hot105]
    exact congrArg (fun c => ({ b with cal := c } : Block)) (if_pos hot105)
  · rw [if_neg hot105]
    exact congrArg (fun c => ({ b with cal := c } : Block)) (if_neg hot105)

/-! ### Calibration -/

/-- What a calibration step leaves: the weights, or new ones with none negative (R329). -/
def Calibrated (c c' : Calipers) : Prop := ∃ w cov count stale staleOk,
  c' = { c with cov, measured := none, rejectCount := count, weights := w, stale, staleOk } ∧ (w = c.weights ∨ ∀ v ∈ w.drop 3, 0 ≤ v)

/-- The end of a calibration step, for every outcome of the least squares. -/
theorem calibrated_end (c : Calipers) (cov : List (List Rat)) (stale : Bool) (w : List Rat) (n : Nat) :
    Calibrated c
      (let c : Calipers := { c with cov, measured := none }
      let c := if stale then c else if ((w.drop 3).any fun v => decide (v < 0)) then { c with rejectCount := min 65535 (c.rejectCount + 1) } else { c with weights := w }
      if 64 ≤ n then { c with stale := false, staleOk := 0 } else { c with stale, staleOk := n }) := by
  have hmid : ∃ w' count, (w' = c.weights ∨ ∀ v ∈ w'.drop 3, 0 ≤ v) ∧
      (if stale then ({ c with cov, measured := none } : Calipers)
        else if ((w.drop 3).any fun v => decide (v < 0)) then { c with cov, measured := none, rejectCount := min 65535 (c.rejectCount + 1) }
        else { c with cov, measured := none, weights := w }) = { c with cov, measured := none, weights := w', rejectCount := count } := by
    by_cases hs : stale = true
    · exact ⟨c.weights, c.rejectCount, .inl rfl, if_pos hs⟩
    by_cases hr : ((w.drop 3).any fun v => decide (v < 0)) = true
    · exact ⟨c.weights, _, .inl rfl, (if_neg hs).trans (if_pos hr)⟩
    · refine ⟨w, c.rejectCount, .inr fun v hv => ?_, (if_neg hs).trans (if_neg hr)⟩
      by_contra hn
      exact hr (List.any_eq_true.mpr ⟨v, hv, decide_eq_true (not_le.mp hn)⟩)
  obtain ⟨w', count, hw, hmid⟩ := hmid
  by_cases hn : 64 ≤ n
  · exact ⟨w', cov, count, false, 0, (if_pos hn).trans (congrArg (fun c : Calipers => { c with stale := false, staleOk := 0 }) hmid), hw⟩
  · exact ⟨w', cov, count, stale, n, (if_neg hn).trans (congrArg (fun c : Calipers => { c with stale, staleOk := n }) hmid), hw⟩

theorem calibrate_calibrated {c : Calipers} {y : Rat} (h : c.measured = some y) : Calibrated c c.calibrate := by
  unfold Calipers.calibrate
  rw [h]
  exact calibrated_end ..

theorem calibrate_none {c : Calipers} (h : c.measured = none) : c.calibrate = c := by
  unfold Calipers.calibrate
  rw [h]

/-- A calibration step changes neither what ALERT# rests on nor the operating point, and takes weights only without a
negative one (R329). -/
theorem calibrate_leaves (c : Calipers) :
    c.calibrate.hubTemp = c.hubTemp ∧ c.calibrate.tileTemp = c.tileTemp ∧ c.calibrate.ceiling = c.ceiling ∧ c.calibrate.backstop = c.backstop
      ∧ c.calibrate.sensorLost = c.sensorLost ∧ c.calibrate.target = c.target ∧ c.calibrate.railMv = c.railMv
      ∧ (c.calibrate.weights = c.weights ∨ ∀ v ∈ c.calibrate.weights.drop 3, 0 ≤ v) := by
  cases h : c.measured with
  | none =>
    rw [calibrate_none h]
    exact ⟨rfl, rfl, rfl, rfl, rfl, rfl, rfl, .inl rfl⟩
  | some y =>
    obtain ⟨w, cov, count, stale, staleOk, hc, hw⟩ := calibrate_calibrated h
    rw [hc]
    exact ⟨rfl, rfl, rfl, rfl, rfl, rfl, rfl, hw⟩

/-! ### Milliseconds -/

/-- A millisecond that enters reaches the accounts and the history. -/
theorem enterMs_eq (b : Block) (k : Ms) (e : Rat) : ∃ X uj, b.enterMs k e =
    { b with ctxs := X, cal := { b.cal with history := (e * 1000 :: b.cal.history).take 8000, energyDevUj := uj } } := by
  have hall (part : Nat → Rat) (l : List Nat) : ∀ b : Block, ∃ X, l.foldl (fun (b : Block) i =>
      if part i = 0 then b else b.modCtx i fun x => { x with energyUj := x.energyUj + part i * 1000000 }) b = { b with ctxs := X } := by
    induction l with
    | nil => exact fun b => ⟨b.ctxs, rfl⟩
    | cons i l ih =>
      intro b
      rw [List.foldl_cons]
      by_cases hp : part i = 0
      · rw [if_pos hp]
        exact ih b
      · rw [if_neg hp]
        obtain ⟨X, hX⟩ := ih (b.modCtx i fun x => { x with energyUj := x.energyUj + part i * 1000000 })
        exact ⟨X, hX.trans rfl⟩
  unfold Block.enterMs
  dsimp only
  obtain ⟨X, hX⟩ := hall _ (List.range 16) b
  rw [hX]
  exact ⟨X, _, rfl⟩

theorem closeMs_first (h : b.cal.held = none) : b.closeMs = { b with cal := { b.cal with held := some b.cal.ms, ms := {}, msCount := 0 } } := by
  unfold Block.closeMs
  rw [h]

/-- A millisecond that still waits when the next one is complete enters at its estimate. -/
theorem closeMs_late {k : Ms} (h : b.cal.held = some k) :
    b.closeMs = { b.enterMs k k.est with cal := { (b.enterMs k k.est).cal with held := some b.cal.ms, ms := {}, msCount := 0 } } := by
  unfold Block.closeMs
  rw [h]

/-- The calipers after an estimate, with charges `ch` (R328). -/
def estimated (b : Block) (a : Activity) (ch : Tab Rat) : Calipers :=
  let x := scaled a.volts (addVec (leakage a.volts (b.cal.tempRead.getD b.hottest))
    (a.work.foldl (fun acc k => addVec acc ([0, 0, 0] ++ k.x)) ([0, 0, 0] ++ a.device)))
  let e := dot b.cal.wList x
  { b.cal with ms := { x := addVec b.cal.ms.x x, est := b.cal.ms.est + e, charges := ch }, msCount := b.cal.msCount + 1
               estSum := b.cal.estSum + e * 250000, estCount := b.cal.estCount + 1, tempRead := none }

theorem estimate_eq (b : Block) (a : Activity) : ∃ ch, b.estimate a =
    if 250 ≤ b.cal.msCount + 1 then ({ b with cal := estimated b a ch } : Block).closeMs else { b with cal := estimated b a ch } := by
  unfold Block.estimate
  exact ⟨_, rfl⟩

/-- The calipers when a millisecond of measured energy `y` has entered with regressors `x`: above 4.0 kW the backstop forces
index 0 (R330). -/
def sampled (y : Rat) (x : List Rat) (c : Calipers) : Calipers :=
  let c := { c with held := none, sensorLost := false, measured := some y, calX := x }
  if 4 < y then ({ c with backstop := true } : Calipers).setTarget 0 else c

theorem energySample_held {b : Block} {k : Ms} (n : Nat) (h : b.cal.held = some k) :
    b.energySample n = (let b' := b.enterMs k (max ((n : Rat) / 1000000) k.est); { b' with cal := sampled ((n : Rat) / 1000000) k.x b'.cal }) := by
  unfold Block.energySample
  rw [h]
  exact congrArg (fun k : Ms => (let b' := b.enterMs k (max ((n : Rat) / 1000000) k.est); ({ b' with cal := sampled ((n : Rat) / 1000000) k.x b'.cal } : Block)))
    (congrArg (fun o : Option Ms => o.getD {}) h)

theorem energySample_first {b : Block} (n : Nat) (h : b.cal.held = none) : b.energySample n = b.closeMs.energySample n := by
  have hc : b.closeMs.cal.held = some b.cal.ms := by rw [closeMs_first h]
  unfold Block.energySample
  rw [h, hc]
  rfl

/-- A sample's millisecond: the one that waits for it, or the one in progress. -/
theorem energySample_eq (b : Block) (n : Nat) :
    let y : Rat := (n : Rat) / 1000000
    let k := b.cal.held.getD b.cal.ms
    ∃ X uj, b.energySample n = { b with ctxs := X, cal := sampled y k.x { b.cal with
      history := (max y k.est * 1000 :: b.cal.history).take 8000, energyDevUj := uj
      ms := if b.cal.held.isNone then {} else b.cal.ms, msCount := if b.cal.held.isNone then 0 else b.cal.msCount
      held := some k } } := by
  intro y k
  cases h : b.cal.held with
  | none =>
    have hc : b.closeMs.cal.held = some b.cal.ms := by rw [closeMs_first h]
    obtain ⟨X, uj, he⟩ := enterMs_eq b.closeMs b.cal.ms (max y b.cal.ms.est)
    rw [energySample_first n h, energySample_held n hc]
    dsimp only
    rw [he, closeMs_first h]
    have hk : k = b.cal.ms := congrArg (fun o : Option Ms => o.getD b.cal.ms) h
    rw [hk]
    exact ⟨X, uj, rfl⟩
  | some k' =>
    obtain ⟨X, uj, he⟩ := enterMs_eq b k' (max y k'.est)
    rw [energySample_held n h]
    dsimp only
    rw [he]
    have hk : k = k' := congrArg (fun o : Option Ms => o.getD b.cal.ms) h
    rw [hk]
    exact ⟨X, uj, congrArg (fun o => ({ b with ctxs := X, cal := sampled y k'.x { b.cal with
      history := (max y k'.est * 1000 :: b.cal.history).take 8000, energyDevUj := uj, held := o } } : Block)) h⟩

/-! ### The controller -/

theorem highest_le (top : Nat) (f : Nat → Bool) : highest top f ≤ top := by
  unfold highest
  cases h : ((List.range (top + 1)).filter f).getLast? with
  | none => exact Nat.zero_le top
  | some i => exact Nat.lt_succ_iff.mp (List.mem_range.mp (List.mem_filter.mp (List.mem_of_getLast? h)).1)

theorem efficient_le (l : List Learnt) (ceiling : Nat) : efficient l ceiling ≤ ceiling := by
  have hall (cost : Nat → Rat) (is : List Nat) (hi : ∀ i ∈ is, i ≤ ceiling) : ∀ acc : Option Nat, (∀ i ∈ acc, i ≤ ceiling) →
      (is.foldl (fun (acc : Option Nat) i =>
        match acc with
        | none => some i
        | some j => if cost i ≤ cost j then some i else acc) acc).getD ceiling ≤ ceiling := by
    induction is with
    | nil =>
      intro acc ha
      cases acc with
      | none => exact le_rfl
      | some i => exact ha i rfl
    | cons i is ih =>
      intro acc ha
      rw [List.foldl_cons]
      refine ih (fun j hj => hi j (List.mem_cons_of_mem _ hj)) _ fun j hj => ?_
      have hhead := hi i List.mem_cons_self
      cases acc with
      | none => exact Option.some.inj hj ▸ hhead
      | some k =>
        dsimp only at hj
        by_cases hc : cost i ≤ cost k
        · rw [if_pos hc] at hj
          exact Option.some.inj hj ▸ hhead
        · rw [if_neg hc] at hj
          exact ha j hj
  exact hall _ _ (fun i hi => Nat.lt_succ_iff.mp (List.mem_range.mp (List.mem_filter.mp hi).1)) none (by simp)

theorem wish_le (x : Ctx) (phase ceiling : Nat) (budget : Rat) : wish x phase ceiling budget ≤ ceiling := by
  unfold wish
  dsimp only
  split
  · exact le_rfl
  · cases h : ((List.range (ceiling + 1)).filter _).getLast? with
    | none => exact efficient_le ..
    | some i => exact Nat.lt_succ_iff.mp (List.mem_range.mp (List.mem_filter.mp (List.mem_of_getLast? h)).1)
  · exact Nat.min_le_right ..

/-- What the last interval teaches is of contexts alone. -/
theorem learn_ctxs (b : Block) (busy : List BusyShare) (ctx phase : Nat) : ∃ X, (b.learn busy ctx phase).tryIndex ctx phase = { b with ctxs := X } := by
  have hlearn : ∃ X, b.learn busy ctx phase = { b with ctxs := X } := by
    unfold Block.learn
    dsimp only
    split
    · exact ⟨b.ctxs, rfl⟩
    · exact ⟨_, rfl⟩
  obtain ⟨X, hX⟩ := hlearn
  rw [hX]
  unfold Block.tryIndex
  dsimp only
  split
  · exact ⟨X, rfl⟩
  · exact ⟨_, rfl⟩

/-- The controller's choice stays within the limits of R332, and leaves cells and racks alone. -/
theorem choosePoint_eq (b : Block) (busy : List BusyShare) : ∃ X S target phase ctx rp th, target ≤ b.cal.limit true ∧ b.choosePoint busy =
    { b with ctxs := X, spindles := S, cal := { (({ b.cal with slewed := false } : Calipers).setTarget target) with
        phase, phaseCtx := ctx, rPower := rp, throttled := th, estSum := 0, estCount := 0 } } := by
  obtain ⟨X, hX⟩ := learn_ctxs b busy (b.dominant busy).1 (b.dominant busy).2
  unfold Block.choosePoint
  dsimp only
  rw [hX]
  exact ⟨X, _, _, _, _, _, _, (highest_le ..).trans (wish_le ..), rfl⟩

/-- What a decision makes of the state (R376 during a headstock restart, R332 otherwise). -/
def decided (busy : List BusyShare) (b : Block) : Block :=
  if b.restarting then { b with cal := ({ b.cal with estSum := 0, estCount := 0, slewed := false } : Calipers).setTarget b.cal.target }
  else b.choosePoint busy

theorem limit_ceiling (c : Calipers) : c.limit true ≤ c.ceiling := by
  unfold Calipers.limit
  omega

theorem limit_backstop {c : Calipers} (h : c.backstop = true) : c.limit true ≤ 0 := by
  unfold Calipers.limit
  rw [if_pos h]
  omega

theorem limit_sensor {c : Calipers} (h : c.sensorLost = true) : c.limit true ≤ 10 := by
  unfold Calipers.limit
  rw [if_pos h]
  omega

/-- A sample of at most 4.0 kW leaves backstop and target; a larger one forces index 0 (R330). -/
theorem sampled_leaves (y : Rat) (x : List Rat) (c : Calipers) :
    (sampled y x c).sensorLost = false ∧ (sampled y x c).measured = some y ∧ (sampled y x c).calX = x ∧ (sampled y x c).history = c.history
      ∧ (sampled y x c).held = none ∧ (sampled y x c).ms = c.ms ∧ (sampled y x c).msCount = c.msCount ∧ (sampled y x c).weights = c.weights
      ∧ (y ≤ 4 → (sampled y x c).backstop = c.backstop ∧ (sampled y x c).target = c.target)
      ∧ (4 < y → (sampled y x c).backstop = true ∧ (sampled y x c).target = 0 ∧ (sampled y x c).opNow = 0) := by
  unfold sampled
  by_cases hy : 4 < y
  · dsimp only
    rw [if_pos hy]
    exact ⟨rfl, rfl, rfl, rfl, rfl, rfl, rfl, rfl, fun h => absurd hy (not_lt.mpr h), fun _ => ⟨rfl, rfl, Nat.le_zero.mp (highest_le 0 _)⟩⟩
  · dsimp only
    rw [if_neg hy]
    exact ⟨rfl, rfl, rfl, rfl, rfl, rfl, rfl, rfl, fun _ => ⟨rfl, rfl⟩, fun h => absurd h hy⟩

end

/-- Settles O56: every command of the calipers writes `cal`, and ALERT# follows its four conditions. -/
theorem calipersFollowTheirRules : Obligations.CalipersFollowTheirRules := by
  unfold Obligations.CalipersFollowTheirRules
  intro s b c ok
  obtain ⟨hch, hct, hcc, hcb, hcs, htarget, hrail, hweights⟩ := calibrate_leaves c
  refine ⟨fun h => ⟨fun mv => gives rfl (calipers_off h _), gives rfl (calipers_off h _), fun n => gives rfl (calipers_off h _),
    fun x => gives rfl (calipers_off h _)⟩, fun hu => ⟨fun mv => ?_, ?_, fun tiles hub => ?_, fun h => ?_, fun h => ?_, fun h => ⟨?_, ?_⟩, fun h => ⟨?_, ?_⟩,
    fun h => calibrate_none h, hweights, htarget, hrail, fun a => ?_, fun n => ?_, fun h => ?_, fun h => ?_, fun busy => ⟨fun h => ?_, fun h => ?_⟩⟩⟩
  · exact gives (b := b.calipers fun b => { b with cal := b.cal.railTo mv }) rfl (if_pos hu)
  · exact gives (b := b.calipers fun b => { b with cal := { b.cal with backstop := false } }) rfl (if_pos hu)
  · intro t h hot
    exact gives (b := b.calipers fun b => b.readSensors tiles hub) rfl (calipers_alarm hu (readSensors_eq tiles hub))
  · exact gives (b := b.calipers fun b => if b.hottest ≤ 102 then { b with cal := { b.cal with ceiling := min 15 (b.cal.ceiling + 1) } } else b) rfl
      (calipers_alarm hu (if_pos h))
  · exact gives (b := b.calipers fun b => if b.hottest ≤ 102 then { b with cal := { b.cal with ceiling := min 15 (b.cal.ceiling + 1) } } else b) rfl
      (calipers_calm hu (if_neg (by omega)) rfl)
  · exact gives (b := b.calipers fun b => if b.restarting then b else { b with cal := b.cal.calibrate }) rfl (calipers_calm hu (if_pos h) rfl)
  · exact gives (b := b.calipers fun b => if b.restarting then b else { b with store := b.cal.save b.store }) rfl (calipers_calm hu (if_pos h) rfl)
  · exact gives (b := b.calipers fun b => if b.restarting then b else { b with cal := b.cal.calibrate }) rfl
      (calipers_calm hu (if_neg (by simp [h])) (alarms_congr hch hct hcc hcb hcs))
  · exact gives (b := b.calipers fun b => if b.restarting then b else { b with store := b.cal.save b.store }) rfl
      (calipers_calm hu (if_neg (by simp [h])) (alarms_congr rfl rfl rfl rfl rfl))
  · intro leak acts x e next
    obtain ⟨ch, he⟩ := estimate_eq b a
    refine ⟨fun hms => ⟨ch, ?_⟩, fun hms hheld => ⟨ch, ?_⟩, fun k hms hheld => ?_⟩
    · exact gives (b := b.calipers fun b => b.estimate a) rfl
        (calipers_calm hu (he.trans (if_neg (Nat.not_le_of_lt hms))) (alarms_congr rfl rfl rfl rfl rfl))
    · exact gives (b := b.calipers fun b => b.estimate a) rfl
        (calipers_calm hu (he.trans ((if_pos hms).trans (closeMs_first hheld))) (alarms_congr rfl rfl rfl rfl rfl))
    · obtain ⟨X, uj, hk⟩ := enterMs_eq ({ b with cal := estimated b a ch } : Block) k k.est
      have hclose := closeMs_late (b := { b with cal := estimated b a ch }) hheld
      rw [hk] at hclose
      exact ⟨ch, _, gives (b := b.calipers fun b => b.estimate a) rfl
        (calipers_calm hu (he.trans ((if_pos hms).trans hclose)) (alarms_congr rfl rfl rfl rfl rfl)), rfl, rfl, rfl, rfl, rfl, rfl⟩
  · intro y k
    obtain ⟨X, uj, he⟩ := energySample_eq b n
    obtain ⟨al, hal⟩ := calipers_runs (f := fun b => b.energySample n) hu he
    obtain ⟨hlost, hm, hx, hh, hheld, hms, hcount, hw, hlow, hhigh⟩ := sampled_leaves y k.x { b.cal with
      history := (max y k.est * 1000 :: b.cal.history).take 8000, energyDevUj := uj
      ms := if b.cal.held.isNone then {} else b.cal.ms, msCount := if b.cal.held.isNone then 0 else b.cal.msCount, held := some k }
    refine ⟨_, gives rfl hal, hlost, hm, hx, hh, hheld, fun hn => ⟨hms.trans (if_pos ?_), hcount.trans (if_pos ?_)⟩,
      fun hn => ⟨hms.trans (if_neg ?_), hcount.trans (if_neg ?_)⟩, hw, rfl, rfl, hlow, hhigh⟩
    · exact Option.isNone_iff_eq_none.mpr hn
    · exact Option.isNone_iff_eq_none.mpr hn
    · exact fun hi => hn (Option.isNone_iff_eq_none.mp hi)
    · exact fun hi => hn (Option.isNone_iff_eq_none.mp hi)
  · exact gives (b := b.calipers Block.sensorLost) rfl
      (calipers_calm hu (congrArg (fun l => ({ b with cal := { b.cal with sensorLost := l } } : Block)) h.symm) rfl)
  · refine ⟨{ b.sensorLost with alert := true }, gives (b := b.calipers Block.sensorLost) rfl ((if_pos hu).trans (if_pos ⟨fun ha => ?_, ?_⟩)), rfl, rfl, rfl, rfl, rfl⟩
    · have hl : true = b.cal.sensorLost := (List.cons.inj (List.cons.inj (List.cons.inj (List.cons.inj ha).2).2).2).1
      rw [show b.cal.sensorLost = false from h] at hl
      exact Bool.noConfusion hl
    · simp [Block.alarms, Block.sensorLost]
  · obtain ⟨al, hal⟩ := calipers_runs (f := decided busy) hu (if_pos h)
    exact ⟨_, gives rfl hal, rfl, rfl⟩
  · obtain ⟨X, S, target, phase, ctx, rp, th, hle, hb⟩ := choosePoint_eq b busy
    obtain ⟨al, hal⟩ := calipers_runs (f := decided busy) hu ((if_neg (by simp [h])).trans hb)
    refine ⟨_, gives rfl hal, hle, highest_le .., fun hback => ?_, fun hlost => ?_, ?_, rfl, rfl, rfl, rfl, rfl⟩
    · exact Nat.le_zero.mp (hle.trans (limit_backstop hback))
    · exact hle.trans (limit_sensor hlost)
    · exact hle.trans (limit_ceiling c)

end Sys2Proof.Proofs
end


section
/-!
SUPPORT. Snapshots, port windows and counter controls (R343 to R349).
-/
namespace Sys2Proof.Proofs
open Sys2Proof.Machine Sys2Proof.Claims

/-! ### Tables written entry by entry -/

/-- A sweep over the first `n` entries, each changed by its own step. -/
theorem tget_sweep {α : Type} [DecidableEq α] {d : α} {step : Tab α → Nat → Tab α} {g : α → Nat → α}
    (hstep : ∀ t k, tabWf d t = true → tabWf d (step t k) = true ∧ tget d (step t k) k = g (tget d t k) k ∧ ∀ j, j ≠ k → tget d (step t k) j = tget d t j)
    {t : Tab α} (ht : tabWf d t = true) (n : Nat) :
    tabWf d ((List.range n).foldl step t) = true ∧
      ∀ k, tget d ((List.range n).foldl step t) k = if k < n then g (tget d t k) k else tget d t k := by
  induction n with
  | zero => exact ⟨ht, fun k => rfl⟩
  | succ n ih =>
    obtain ⟨hwf, hget⟩ := ih
    rw [List.range_succ, List.foldl_append, List.foldl_cons, List.foldl_nil]
    obtain ⟨hwf', hself, hother⟩ := hstep _ n hwf
    refine ⟨hwf', fun k => ?_⟩
    by_cases hk : k = n
    · subst hk
      rw [hself, hget, if_neg (Nat.lt_irrefl k), if_pos (Nat.lt_succ_self k)]
    · rw [hother k hk, hget]
      by_cases hn : k < n
      · rw [if_pos hn, if_pos (by omega)]
      · rw [if_neg hn, if_neg (by omega)]

section
variable {b : Block}

/-! ### Windows -/

/-- A boundary of a counted window (R343): LAST becomes its bytes, PEAK the larger. -/
theorem windowBoundary_counts (hlen : b.cnt.lenUs ≠ 0) (hr : b.cnt.restart = false) (hf : b.cnt.freeze = false)
    (hl : tabWf {} b.cnt.last = true) (hp : tabWf {} b.cnt.peak = true) :
    ∃ last peak, b.windowBoundary = { b with cnt := { b.cnt with window := [], windowFlag := b.ptp.timeFlag, restart := false, last, peak } } ∧
      ∀ p, p < 82 → (tget {} last p).count = tget 0 b.cnt.window p % 2 ^ 48
        ∧ (tget {} peak p).count = max (tget {} b.cnt.peak p).count (tget 0 b.cnt.window p % 2 ^ 48)
        ∧ (tget {} last p).tflag = (b.cnt.windowFlag || b.ptp.timeFlag) := by
  obtain ⟨-, hlast⟩ := tget_sweep (d := ({} : Counter))
    (step := fun t p => tput {} t p { count := tget 0 b.cnt.window p % 2 ^ 48, ovf := (tget {} t p).ovf || decide (2 ^ 48 ≤ tget 0 b.cnt.window p), tflag := b.cnt.windowFlag || b.ptp.timeFlag })
    (g := fun c p => { count := tget 0 b.cnt.window p % 2 ^ 48, ovf := c.ovf || decide (2 ^ 48 ≤ tget 0 b.cnt.window p), tflag := b.cnt.windowFlag || b.ptp.timeFlag })
    (fun t k ht => ⟨tput_wf _ ht, tget_tput_self ht .., fun j hj => tget_tput_ne _ t hj⟩) hl 82
  unfold Block.windowBoundary
  dsimp only
  rw [if_neg hlen, if_neg (by simp [hr, hf])]
  generalize (List.range 82).foldl _ b.cnt.last = last at hlast ⊢
  obtain ⟨-, hpeak⟩ := tget_sweep (d := ({} : Counter))
    (step := fun t p => if (tget {} t p).count < (tget {} last p).count
      then tput {} t p { tget {} t p with count := (tget {} last p).count, ovf := (tget {} t p).ovf || (tget {} last p).ovf } else t)
    (g := fun c p => if c.count < (tget {} last p).count then { c with count := (tget {} last p).count, ovf := c.ovf || (tget {} last p).ovf } else c)
    (fun t k ht => by
      by_cases hc : (tget {} t k).count < (tget {} last k).count
      · simp only [if_pos hc]
        exact ⟨tput_wf _ ht, tget_tput_self ht .., fun j hj => tget_tput_ne _ t hj⟩
      · simp only [if_neg hc]
        exact ⟨ht, trivial, fun j hj => trivial⟩) hp 82
  refine ⟨last, _, rfl, fun p hp82 => ?_⟩
  rw [hpeak, if_pos hp82, hlast, if_pos hp82]
  refine ⟨rfl, ?_, rfl⟩
  dsimp only
  by_cases hc : (tget {} b.cnt.peak p).count < tget 0 b.cnt.window p % 2 ^ 48
  · rw [if_pos hc]
    exact (Nat.max_eq_right hc.le).symm
  · rw [if_neg hc]
    exact (Nat.max_eq_left (not_lt.mp hc)).symm

/-! ### Freezing -/

/-- Slots that waited are posted, and neither cells nor the freeze move. -/
theorem addSlots_leaves (b : Block) (x : Slots) : (b.addSlots x).cnt.freeze = b.cnt.freeze ∧ (b.addSlots x).cells = b.cells := by
  unfold Block.addSlots
  dsimp only
  cases x.ctx with
  | none => exact ⟨rfl, rfl⟩
  | some c => exact ⟨rfl, rfl⟩

theorem setFreeze_leaves (b : Block) : (b.setFreeze false).cnt.freeze = false ∧ (b.setFreeze false).cells = b.cells :=
  ⟨foldl_keeps (f := fun b : Block => b.cnt.freeze) (fun s x => (addSlots_leaves s x).1) b.cnt.owed _,
    foldl_keeps (f := fun b : Block => b.cells) (fun s x => (addSlots_leaves s x).2) b.cnt.owed _⟩

theorem setFreeze_none (h : b.cnt.owed = []) : b.setFreeze false = { b with cnt := { b.cnt with freeze := false } } := by
  unfold Block.setFreeze
  dsimp only
  rw [h]
  rfl

/-! ### Images -/

theorem ctxCopies_none (i : Image) (h : ∀ c, (b.ctx c).dstEn = false) : b.ctxCopies i = b := by
  unfold Block.ctxCopies
  refine List.foldl_fixed' (fun n => if_neg ?_) _
  simp [h n]

/-- An image whose contexts want no copies is in its slot, and its commands complete. -/
theorem imageWritten_eq {i : Image} (hw : b.cnt.writing = some i) (hq : b.cnt.queued = []) (hc : ∀ c, (b.ctx c).dstEn = false) :
    b.imageWritten = i.snap.waiters.foldl (fun b w => b.finish w.1 w.2 .success i.seq)
      { b with cnt := ({ b.cnt with writing := none, seq := i.seq, queued := [], trigger := none } : Counters).setSlot i.seq (some i) } := by
  unfold Block.imageWritten
  simp only [hw, hq, List.map_nil]
  exact congrArg (List.foldl _ · i.snap.waiters) (ctxCopies_none i hc)

end

/-! ### Controls -/

/-- The counter controls act for the headstock, JTAG and the page of PF0; others are refused, or have no such page (R349). -/
theorem counterControl {s : State} {i : Initiator → Instr} {f : Block → Block}
    (hi : ∀ who, exec (i who) s = nextOf s (s.blk.asCounterAdmin who f)) (who : Initiator) :
    (s.blk.hubUp = true → who = .headstock ∨ (who = .host 0 ∧ (s.blk.func 0).d3hot = false) → Gives (i who) s ((f s.blk).answer .success)) ∧
      (s.blk.hubUp = true → who = .jtag → (s.blk.jtagOff = false → Gives (i who) s ((f s.blk).answer .success)) ∧ (s.blk.jtagOff = true → Gives (i who) s s.blk)) ∧
      (s.blk.hubUp = true → who = .engine ∨ who = .kerf → Gives (i who) s (s.blk.answer .accessDenied)) ∧
      (∀ fn : FnId, fn ≠ 0 → who = .host fn → Gives (i who) s s.blk) := by
  refine ⟨fun hu hw => ?_, fun hu hw => ⟨fun hj => ?_, fun hj => ?_⟩, fun hu hw => ?_, fun fn hn hw => ?_⟩
  · obtain rfl | ⟨rfl, hd⟩ := hw
    · exact gives (hi _) (if_neg (by simp [hu]))
    · exact gives (hi _) (if_pos ⟨rfl, hu, hd⟩)
  · subst hw
    exact gives (hi _) ((if_neg (by simp [hu])).trans (if_neg (by simp [hj])))
  · subst hw
    exact gives (hi _) ((if_neg (by simp [hu])).trans (if_pos hj))
  · obtain rfl | rfl := hw
    · exact gives (hi _) (if_neg (by simp [hu]))
    · exact gives (hi _) (if_neg (by simp [hu]))
  · subst hw
    exact gives (hi _) (if_neg fun h => hn h.1)

/-- Settles O57: the counters are written where their events and controls say. -/
theorem snapshotsWindowsAndControls : Obligations.SnapshotsWindowsAndControls := by
  unfold Obligations.SnapshotsWindowsAndControls
  intro s b n
  refine ⟨fun h => gives (b := b.snapLatch) rfl ?_, fun t h => gives (b := b.snapLatch) rfl ?_, fun h => gives (b := b.imageWritten) rfl ?_,
    fun i hw hq hc => gives (b := b.imageWritten) rfl (imageWritten_eq hw hq hc), fun h => gives (b := b.windowBoundary) rfl (if_pos h),
    fun h hr => gives (b := b.windowBoundary) rfl ((if_neg h).trans (if_pos hr)), fun h hr hf hl hp => ?_, rfl, (setFreeze_leaves b).1, (setFreeze_leaves b).2,
    setFreeze_none, fun who on len k val => ?_⟩
  · unfold Block.snapLatch
    rw [show b.cnt.trigger = none from h]
  · unfold Block.snapLatch
    rw [show b.cnt.trigger = some t from h]
  · unfold Block.imageWritten
    rw [show b.cnt.writing = none from h]
  · obtain ⟨last, peak, hb, hall⟩ := windowBoundary_counts h hr hf hl hp
    exact ⟨_, gives (b := b.windowBoundary) rfl hb, rfl, rfl, rfl, rfl, hall⟩
  · intro may
    exact ⟨counterControl (i := fun w => .cntFreeze w on) (fun _ => rfl) who, counterControl (i := fun w => .cntWinCfg w len) (fun _ => rfl) who,
      counterControl (i := fun w => .cntSelBcast w k val) (fun _ => rfl) who, counterControl (i := fun w => .cntClrCtx w) (fun _ => rfl) who,
      counterControl (i := fun w => .cntClrPort w) (fun _ => rfl) who, counterControl (i := fun w => .cntClrSpindle w) (fun _ => rfl) who,
      counterControl (i := fun w => .cntClrOvf w) (fun _ => rfl) who⟩

end Sys2Proof.Proofs
end


section
/-!
SUPPORT. Spindle faults, spares, on-chip storage, tiles, regulators and the hub (R335, R350 to R359, R373, R404).
-/
namespace Sys2Proof.Proofs
open Sys2Proof.Machine Sys2Proof.Claims

theorem mem_dedup {α : Type} [DecidableEq α] {x : α} {l : List α} : x ∈ dedup l ↔ x ∈ l := by
  induction l with
  | nil => exact Iff.rfl
  | cons y l ih =>
    rw [dedup, List.mem_cons, List.mem_cons, List.mem_filter, ih]
    by_cases hx : x = y
    · simp [hx]
    · simp [hx]

/-! ### What a fault record keeps -/

/-- A fault record leaves the commands that rings have taken, and the list of failed spindles. -/
structure Recorded (a b : Block) : Prop where
  logs : Logs a b
  taken : ∀ q, (b.ring q).taken = (a.ring q).taken
  failed : b.store.failedSpindles = a.store.failedSpindles

namespace Recorded
variable {a b c : Block}

theorem refl (b : Block) : Recorded b b := ⟨.refl b, fun _ => rfl, rfl⟩

theorem trans (h : Recorded a b) (k : Recorded b c) : Recorded a c :=
  ⟨h.logs.trans k.logs, fun q => (k.taken q).trans (h.taken q), k.failed.trans h.failed⟩

theorem foldl {β : Type} {g : Block → β → Block} (h : ∀ b x, Recorded b (g b x)) (l : List β) (b : Block) : Recorded b (l.foldl g b) := by
  induction l generalizing b with
  | nil => exact refl b
  | cons x l ih => exact (h b x).trans (ih _)

theorem of_hub (h : HubOnly a b) : Recorded a b := by
  refine ⟨.of_hub h, fun q => ?_, ?_⟩
  · obtain ⟨hr, o, l, ch, n, rfl⟩ := h
    rfl
  · obtain ⟨hr, o, l, ch, n, rfl⟩ := h
    rfl

theorem setRing (b : Block) (r : Nat) {g : Ring} (hg : g.taken = (b.ring r).taken) : Recorded b (b.setRing r g) := by
  refine ⟨.of_rings (RingsOnly.setRing ..), fun q => ?_, rfl⟩
  by_cases hq : q = r
  · rw [hq, Block.ring_setRing, hg]
  · rw [Block.ring_setRing_ne _ _ hq]

theorem raiseRing (b : Block) (r : Nat) : Recorded b (b.raiseRing r) := ⟨.of_rings (RingsOnly.raiseRing ..), fun _ => rfl, rfl⟩

theorem hostWrite (b : Block) (a : Nat) (bs : List Byte) : Recorded b (b.hostWrite a bs) := by
  obtain ⟨t, ht⟩ := countPort_cnt { b with hostOut := b.hostOut ++ [(BitVec.ofNat 64 a, bs)] } 65 bs.length
  refine ⟨.of_rings (RingsOnly.hostWrite ..), fun q => ?_, ?_⟩
  · rw [Block.hostWrite, ht]
    rfl
  · rw [Block.hostWrite, ht]

theorem writeCpl (b : Block) (r e : Nat) : Recorded b (b.writeCpl r e) := by
  unfold Block.writeCpl
  dsimp only
  split
  · exact (setRing b r (by rfl)).trans (raiseRing ..)
  · have hw := hostWrite b ((b.ring r).cplBase.toNat + 16 * ((b.ring r).cplProd.toNat % 4096)) (leBytes 16 (e + (if (b.ring r).phase then 2 ^ 46 else 0)))
    exact hw.trans (setRing _ r (hw.taken r).symm)

theorem drainEvents (b : Block) (r : Nat) : Recorded b (b.drainEvents r) := by
  refine foldl (fun b _ => ?_) _ b
  dsimp only
  split
  · exact refl b
  · split
    · exact ((setRing b r (by rfl)).trans (writeCpl ..)).trans (raiseRing ..)
    · exact refl b

theorem postEvent (b : Block) (r code v : Nat) : Recorded b (b.postEvent r code v) := by
  unfold Block.postEvent
  dsimp only
  split
  · exact (setRing b r (by rfl)).trans (drainEvents ..)
  · exact setRing b r (by rfl)

theorem logWrite (b : Block) (f : FaultRec) : Recorded b (b.logWrite f) := by
  unfold Block.logWrite
  split
  · exact of_hub (HubOnly.hubWrite ..)
  · exact refl b

theorem enterRecord (b : Block) (f : FaultRec) : Recorded b (b.enterRecord f) := by
  unfold Block.enterRecord
  dsimp only
  have hlog (t : Trace) (g : FaultRec) (n : Nat) : Recorded b ((({ b with trace := t } : Block).logWrite g).postEvent 0 0x2005 n) :=
    ((⟨.traced b t, fun _ => rfl, rfl⟩ : Recorded b { b with trace := t }).trans (logWrite _ g)).trans (postEvent _ 0 0x2005 n)
  split
  · exact (hlog ..).trans (postEvent ..)
  · exact hlog ..

theorem recordAt (b : Block) (t : Nat) (f : FaultRec) : Recorded b (b.recordAt t f) := by
  unfold Block.recordAt
  dsimp only
  split
  · exact enterRecord ..
  · exact (enterRecord ..).trans ⟨.stored .., fun _ => rfl, rfl⟩

theorem spindles (h : Recorded a b) : b.spindles = a.spindles := by
  obtain ⟨g, o, x, n, t, hr, l, ch, st, rfl⟩ := h.logs
  rfl

end Recorded

/-! ### Removal -/

section
variable {b : Block} {p : Nat}

theorem retireSpindle_leaves (b : Block) (p : Nat) : ((b.retireSpindle p).spd p).inService = false ∧ ((b.retireSpindle p).spd p).handles = []
    ∧ p ∈ (b.retireSpindle p).store.failedSpindles ∧ p ∉ (b.retireSpindle p).faultQueue := by
  have hspd := Block.modSpd_spd b p fun s => { s with
    inService := false, faulted := false, resetDue := false, overflow := false, cur := none, pre := none, arriving := none, handles := [], windows := [] }
  refine ⟨congrArg Spindle.inService hspd, congrArg Spindle.handles hspd, mem_dedup.mpr (List.mem_append_right _ (List.mem_singleton_self p)), fun h => ?_⟩
  simp [Block.retireSpindle] at h

theorem retireSpindle_spd_ne (b : Block) {p q : Nat} (h : q ≠ p) : (b.retireSpindle p).spd q = b.spd q :=
  Block.modSpd_spd_ne b (fun s => { s with
    inService := false, faulted := false, resetDue := false, overflow := false, cur := none, pre := none, arriving := none, handles := [], windows := [] }) h

theorem ctxsWith_none {s : Spindle} {f : Handle → Bool} (h : ∀ x ∈ s.handles, f x.2 = false) : s.ctxsWith f = [] := by
  refine List.filter_eq_nil_iff.mpr fun c _ ha => ?_
  obtain ⟨x, hx, hf⟩ := List.any_eq_true.mp ha
  simp [h x hx] at hf

/-- The removal of a spindle with no blank and no handle is recorded, and parked resets fail. -/
theorem removeSpindle_bare (hc : (b.spd p).cur = none) (hp : (b.spd p).pre = none) (ha : (b.spd p).arriving = none) (hh : (b.spd p).handles = []) :
    b.removeSpindle p = ((({ b with removed := dedup (b.removed ++ [b.logicalOf p]) } : Block).retireSpindle p).lostRecord (b.spd p).faultAt p none 1 0).finishParked 0
      (resetOf (b.logicalOf p)) .spindleFault := by
  have hlive : (b.spd p).ctxsWith Handle.isLive = [] := ctxsWith_none (by rw [hh]; exact fun x hx => absurd hx List.not_mem_nil)
  unfold Block.removeSpindle
  simp only [hc, hp, ha, hlive]
  rfl

theorem finishParked_rings (b : Block) (r : Nat) (f : Entry → Bool) (st : Status) : RingsOnly b (b.finishParked r f st) :=
  RingsOnly.foldl (fun b _ => RingsOnly.finish b ..) _ b

theorem removeSpindle_leaves (hc : (b.spd p).cur = none) (hp : (b.spd p).pre = none) (ha : (b.spd p).arriving = none) (hh : (b.spd p).handles = []) :
    b.logicalOf p ∈ (b.removeSpindle p).removed ∧ ((b.removeSpindle p).spd p).inService = false ∧ p ∈ (b.removeSpindle p).store.failedSpindles
      ∧ p ∉ (b.removeSpindle p).faultQueue ∧ (b.removeSpindle p).cells = b.cells ∧ (b.removeSpindle p).racks = b.racks := by
  rw [removeSpindle_bare hc hp ha hh]
  obtain ⟨hserve, -, hfailed, hqueue⟩ := retireSpindle_leaves { b with removed := dedup (b.removed ++ [b.logicalOf p]) } p
  have hrem : b.logicalOf p ∈ (({ b with removed := dedup (b.removed ++ [b.logicalOf p]) } : Block).retireSpindle p).removed :=
    mem_dedup.mpr (List.mem_append_right _ (List.mem_singleton_self _))
  have hcells : (({ b with removed := dedup (b.removed ++ [b.logicalOf p]) } : Block).retireSpindle p).cells = b.cells := rfl
  have hracks : (({ b with removed := dedup (b.removed ++ [b.logicalOf p]) } : Block).retireSpindle p).racks = b.racks := rfl
  generalize ({ b with removed := dedup (b.removed ++ [b.logicalOf p]) } : Block).retireSpindle p = x at *
  have hrec : Recorded x (x.lostRecord (b.spd p).faultAt p none 1 0) := .recordAt ..
  rw [← hrec.failed] at hfailed
  obtain ⟨g, o, y, n, t, hr, l, ch, st, hx⟩ := hrec.logs
  rw [hx] at hfailed ⊢
  obtain ⟨g', o', y', n', hfin⟩ := finishParked_rings { x with rings := g, hostOut := o, msix := y, cnt := n, trace := t, hostReads := hr, hubLater := l, chans := ch, store := st } 0
    (resetOf (b.logicalOf p)) .spindleFault
  rw [hfin]
  exact ⟨hrem, hserve, hfailed, hqueue, hcells, hracks⟩

/-! ### A spare -/

/-- Spare `p` stands for failed spindle `f`, which had no blank: its windows, handles and number. -/
def spareStands (b : Block) (f p : Nat) : Block :=
  ({ (b.setSpd p { b.spd p with
      inService := true, spare := false, bowl := {}, windows := (b.spd f).windows, handles := (b.spd f).handles, pagesHeld := (b.spd f).pagesHeld
      cur := none, started := false, pre := none, arriving := none }) with
    spdMap := tset b.spdMap (b.logicalOf f) p } : Block).retireSpindle f

theorem spareStands_spd (b : Block) {f p : Nat} (h : p ≠ f) : (spareStands b f p).spd p = { b.spd p with
      inService := true, spare := false, bowl := {}, windows := (b.spd f).windows, handles := (b.spd f).handles, pagesHeld := (b.spd f).pagesHeld
      cur := none, started := false, pre := none, arriving := none } :=
  (retireSpindle_spd_ne _ h).trans (Block.spd_setSpd ..)

theorem spareTakes_bare {m : Dram} {f : Nat} (hfp : p ≠ f) (hc : (b.spd f).cur = none) (hp : (b.spd f).pre = none) (ha : (b.spd f).arriving = none)
    (hd : (b.spd f).resetDue = false) (ht : (b.ring 0).taken = []) (hh : ∀ h ∈ (b.spd f).handles, h.2.carried = false) :
    b.spareTakes m f p = (spareStands b f p).recordAt (b.spd f).faultAt { severity := 0, cls := 0x01, unitKind := 1, unit := f, info := p } := by
  have hlost : (b.spd f).ctxsWith (fun h => h.isLive && h.carried) = [] := ctxsWith_none fun h hm => by simp [hh h hm]
  have hspd := spareStands_spd b hfp
  have hpre : ((spareStands b f p).spd p).pre = none := congrArg Spindle.pre hspd
  have harr : ((spareStands b f p).spd p).arriving = none := congrArg Spindle.arriving hspd
  unfold Block.spareTakes
  simp only [hlost, hc, hp, ha, Option.bind_none, Option.isNone_none, List.foldl_nil, Option.toList_none, List.append_nil, List.filter_nil, Option.filter_none,
    if_true, List.nil_append]
  generalize hx : Block.retireSpindle _ f = x
  have hx' : spareStands b f p = x := hx
  have hrings : (spareStands b f p).ring 0 = b.ring 0 := rfl
  rw [hx'] at hpre harr hrings ⊢
  simp only [hpre, harr, Option.toList_none, List.append_nil, List.foldl_nil]
  refine if_neg ?_
  rw [(Recorded.recordAt x ..).taken 0, hrings, ht, hd]
  simp

theorem spareTakes_leaves {m : Dram} {f : Nat} (hfp : p ≠ f) (hc : (b.spd f).cur = none) (hp : (b.spd f).pre = none) (ha : (b.spd f).arriving = none)
    (hd : (b.spd f).resetDue = false) (ht : (b.ring 0).taken = []) (hh : ∀ h ∈ (b.spd f).handles, h.2.carried = false) :
    ((b.spareTakes m f p).spd p).inService = true ∧ ((b.spareTakes m f p).spd p).spare = false ∧ ((b.spareTakes m f p).spd p).windows = (b.spd f).windows
      ∧ ((b.spareTakes m f p).spd p).handles = (b.spd f).handles ∧ ((b.spareTakes m f p).spd f).inService = false
      ∧ ((b.spareTakes m f p).spd f).handles = [] ∧ tfind (b.spareTakes m f p).spdMap (b.logicalOf f) = some p ∧ f ∉ (b.spareTakes m f p).faultQueue := by
  rw [spareTakes_bare hfp hc hp ha hd ht hh]
  have hspd := spareStands_spd b hfp
  have hmap : tfind (spareStands b f p).spdMap (b.logicalOf f) = some p := tfind_tset_self ..
  obtain ⟨hserve, hhand, -, hqueue⟩ : _ ∧ _ ∧ _ ∧ f ∉ (spareStands b f p).faultQueue := retireSpindle_leaves _ f
  obtain ⟨g, o, y, n, t, hr, l, ch, st, hx⟩ := Logs.recordAt (spareStands b f p) (b.spd f).faultAt { severity := 0, cls := 0x01, unitKind := 1, unit := f, info := p }
  rw [hx]
  exact ⟨congrArg Spindle.inService hspd, congrArg Spindle.spare hspd, (congrArg Spindle.windows hspd).trans rfl, (congrArg Spindle.handles hspd).trans rfl, hserve, hhand, hmap, hqueue⟩

end

/-! ### Faults and their units -/

section
variable {b : Block} {m : Dram} {p : Nat}

/-- A sound spindle in a powered tile stops, and leaves service where no spare is left. -/
theorem spindleFault_stops (hu : b.hubUp = true) (ht : (b.tile (tileOf p)).powered = true) (hs : (b.spd p).inService = true) (hf : (b.spd p).faulted = false) :
    b.spindleFault m p =
      (let x := ((b.modSpd p fun s => { s with faulted := true, faultAt := b.time, resetting := false, resetDue := s.resetDue || s.resetting }).settleSpindle m p).abandonRun p
      let y : Block := { x with faultQueue := x.faultQueue ++ [p] }
      if (y.spareOf (tileOf p)).isNone then y.removeSpindle p else y) := if_neg (by simp [hu, ht, hs, hf])

theorem spindleFault_again (h : (b.spd p).faulted = true ∨ (b.spd p).inService = false) : b.spindleFault m p = b := by
  refine if_pos ?_
  obtain h | h := h
  · simp [h]
  · simp [h]

/-- Table 20.1: arrays of a spindle, of a tile and of the hub. -/
theorem sramError_spindle (hu : b.hubUp = true) {a : SramArray} (unit addr : Nat)
    (ha : a ∈ [SramArray.scratchpad, .bowl, .handleTable, .instructionBuffer, .engineQueues, .sequencerState, .localFlags, .stagingBuffer]) :
    b.sramError m a unit addr = b.spindleFault m unit := by
  refine (if_neg (by simp [hu])).trans ?_
  simp only [List.mem_cons, List.not_mem_nil, or_false] at ha
  obtain rfl | rfl | rfl | rfl | rfl | rfl | rfl | rfl := ha <;> rfl

theorem sramError_tile (hu : b.hubUp = true) {a : SramArray} (unit addr : Nat) (ha : a ∈ [SramArray.cellStore, .tileRouter, .tileWcBuffer]) :
    b.sramError m a unit addr = b.tileFault (unit % 4) .sram := by
  refine (if_neg (by simp [hu])).trans ?_
  simp only [List.mem_cons, List.not_mem_nil, or_false] at ha
  obtain rfl | rfl | rfl := ha <;> rfl

theorem sramError_hub (hu : b.hubUp = true) {a : SramArray} (unit addr : Nat) (ha : a ∈ [SramArray.rackEntries, .streamCache, .headstockMemory, .hubOther]) :
    b.sramError m a unit addr = b.loseHub .hubSram := by
  refine (if_neg (by simp [hu])).trans ?_
  simp only [List.mem_cons, List.not_mem_nil, or_false] at ha
  obtain rfl | rfl | rfl | rfl := ha <;> rfl

theorem sramError_dieCache (hu : b.hubUp = true) (unit addr : Nat) : b.sramError m .dieCache unit addr = b.cacheError (unit % 4) (addr / 128) := if_neg (by simp [hu])

theorem tileFault_recorded (hu : b.hubUp = true) (t : Nat) (cause : TileFaultCause) : b.tileFault t cause =
    b.record { severity := 2, cls := 0x0D, unitKind := 8, unit := t, info := match cause with
      | .sram => 1
      | .tileLink => 2
      | .hubLink => 3 } := by
  refine (if_pos hu).trans ?_
  cases cause <;> rfl

theorem cacheError_miss {t line : Nat} (h : ((b.tile t).dcSet line).find line = none) : b.cacheError t line = b := by
  unfold Block.cacheError
  rw [h]

theorem cacheError_hit {t line w : Nat} {l : DcLine} (h : ((b.tile t).dcSet line).find line = some (w, l)) :
    b.cacheError t line =
      (let x := b.modTile t fun tl => tl.modSet line fun y => { y with ways := tdel y.ways w }
      if l.dirty = 0 then x else (x.unlog t line).record { severity := 2, cls := 0x08, unitKind := 8, unit := t, addr := 128 * line }) := by
  unfold Block.cacheError
  rw [h]

end

/-- Settles O58: each fault acts on its own unit, through the state that a stopped spindle leaves. -/
theorem faultsGoWhereTheyBelong : Obligations.FaultsGoWhereTheyBelong := by
  unfold Obligations.FaultsGoWhereTheyBelong
  intro p s b spd t
  have hp : p.val % 272 = p.val := Nat.mod_eq_of_lt p.isLt
  refine ⟨fun hu ht hs hf => ?_, fun h => gives (b := b.spindleFault s.dram p) rfl (spindleFault_again h), fun hc hpre ha hh _ => removeSpindle_leaves hc hpre ha hh,
    fun f good hq hu ht => ?_, fun tile cause hu => ?_, fun cause => ⟨fun hu => ?_, fun hu => ?_⟩, fun hu a ha unit addr => ?_, fun hu a ha tile addr => ?_,
    fun hu tile addr w l => ?_, fun rail phase hu => ⟨fun h => ?_, fun h => ?_⟩, fun hg hn => ?_, fun h => ?_, fun r e c h => ?_⟩
  · intro b1 b2
    have hstop := spindleFault_stops (m := s.dram) hu ht hs hf
    refine ⟨gives (b := b.spindleFault s.dram p) rfl hstop, fun a ha addr => gives (b := b.sramError s.dram a (p % 272) addr.toNat) rfl ?_⟩
    exact (sramError_spindle hu _ _ ha).trans ((congrArg (b.spindleFault s.dram) hp).trans hstop)
  · have hfind : (b.faultQueue.find? fun f => tileOf f == tileOf p) = some f.val := hq
    have hin : b.spareIn s.dram p good = if !b.hubUp || !(b.tile t).powered || b.spareOf t != some p.val then b
        else
          let x := if good then b.spareTakes s.dram f p else b.spareFails p 2
          if (x.spareOf t).isSome then x else (x.faultQueue.filter fun f => tileOf f == t).foldl (fun b f => b.removeSpindle f) x := by
      unfold Block.spareIn
      simp only [hfind]
      rfl
    refine ⟨fun hs => gives (b := b.spareIn s.dram p good) rfl (hin.trans (if_pos (by simp [hs]))),
      fun hs => gives (b := b.spareIn s.dram p good) rfl (hin.trans (if_neg (by simp [hu, ht, hs]))), fun hfp hc hpre ha hd htk hh => ?_⟩
    exact spareTakes_leaves (fun h => hfp (Fin.ext h.symm)) hc hpre ha hd htk hh
  · exact gives (b := b.tileFault tile cause) rfl (tileFault_recorded hu tile cause)
  · exact gives (b := b.loseHub cause) rfl (if_pos hu)
  · exact gives (b := b.loseHub cause) rfl (if_neg (by simp [hu]))
  · exact gives (b := b.sramError s.dram a (unit % 272) addr.toNat) rfl ((sramError_hub hu _ _ ha).trans (if_pos hu))
  · have htile : tile.val % 272 % 4 = tile.val := by omega
    refine gives (b := b.sramError s.dram a (tile.val % 272) addr.toNat) rfl ((sramError_tile hu _ _ ha).trans ?_)
    rw [htile]
    exact tileFault_recorded hu tile .sram
  · intro line b1
    have htile : tile.val % 272 % 4 = tile.val := by omega
    have herr : b.sramError s.dram .dieCache (tile.val % 272) addr.toNat = b.cacheError tile line :=
      (sramError_dieCache hu _ _).trans (congrArg (fun t => b.cacheError t line) htile)
    refine ⟨fun h => gives (b := b.sramError s.dram .dieCache (tile.val % 272) addr.toNat) rfl (herr.trans (cacheError_miss h)), fun h hd => ?_, fun h hd => ?_⟩
    · exact gives (b := b.sramError s.dram .dieCache (tile.val % 272) addr.toNat) rfl (herr.trans ((cacheError_hit h).trans (if_pos hd)))
    · exact gives (b := b.sramError s.dram .dieCache (tile.val % 272) addr.toNat) rfl (herr.trans ((cacheError_hit h).trans (if_neg hd)))
  · exact gives (b := b.phaseFails rail phase) rfl (if_pos (by simp [h]))
  · exact gives (b := b.phaseFails rail phase) rfl (if_neg (by simp [hu, h]))
  · exact gives rfl (if_neg (by simp [show s.blk.pwrGood = true from hg, show s.blk.thermtripPin = false from hn]))
  · exact gives rfl (if_pos (.inr h))
  · intro b1
    refine ⟨fun hl => ?_, fun hl hi => ?_, fun hl hi => ?_⟩
    · exact gives rfl (startCmd_done h (if_pos hl))
    · exact gives rfl (startCmd_done h ((if_neg (Nat.not_lt.mpr hl)).trans (if_pos hi)))
    · exact gives rfl (startCmd_parked h ((if_neg (Nat.not_lt.mpr hl)).trans (if_neg (by rw [hi]; decide))))

end Sys2Proof.Proofs
end
